-- ==== Sys2Proof/Word.lean ====
section
/-!
DEFINITION. The word types of the module and their plainest arithmetic.
Rules: R10, R12 (bit ranges, little-endian multi-byte fields), R532 (64-bit register words).
-/
namespace Sys2Proof

/-- One byte of memory. -/
abbrev Byte := BitVec 8
/-- One 64-bit word of the set-up window (R532) or register of a strand (R266). -/
abbrev Word := BitVec 64
/-- A 32-bit tally, FP32 bit pattern or record field. -/
abbrev W32 := BitVec 32
/-- A descriptor (R83) or a 64-byte record of a stage program (R181, R243). -/
abbrev Rec := BitVec 512

end Sys2Proof
end

