-- ==== Sys2Proof/Syntax.lean ====
section
/-!
DEFINITION. The commands of the block: one constructor of `Instr` for every row of spec/opcode_table.json.

A command is a write of the host, a returned read, a descriptor that takes its effect, a message that arrives on a
link, a step of an engine, a timeout that expires or an event on a pin.  What comes from outside the module stands in
the operands; what the module itself knows is read from the state.
-/
namespace Sys2Proof

/-- What a host read returned: bytes, or Unsupported Request, Completer Abort or poisoned data (R98) after the bytes
`good`. -/
inductive HostData where
  | bytes (l : List Byte)
  | error (good : List Byte)
  deriving DecidableEq, Repr

/-- A descriptor as the module fetched it (R82): the command ring, its ring index, the 64 bytes, and what the fetch of
the image, table or claim that its body names returned (R132; empty when the opcode has none). -/
structure DescIn where
  ring  : Nat
  index : W32
  raw   : Rec
  image : HostData
  deriving DecidableEq, Repr

/-- A doorbell record (Table 3.3). -/
structure DoorbellRec where
  epoch : BitVec 16
  cons  : W32
  prod  : W32
  deriving DecidableEq, Repr

/-- A write of the host through BAR0 (R533): endpoint, byte offset, 4 or 8 bytes, value; `both` is a write that the other
endpoint brings in the same axis-die cycle (R73): offset, size, value. -/
structure BusWrite where
  ep     : Nat
  offset : Nat
  size   : Nat
  value  : Word
  both   : Option (Nat × Nat × Word) := none
  deriving DecidableEq, Repr

/-- The fields of a tick symbol (Table 14.7). -/
structure TickSym where
  grace     : Nat
  update    : Nat
  fold      : Nat
  drain     : Nat
  steady    : Nat
  fill      : Nat
  sweepLen  : Nat
  period    : Nat
  sweep     : Nat
  tick      : Nat
  /-- ps from the scheduled send instant to this flit's departure -/
  delay     : Nat
  phase     : Nat
  holdover  : Bool
  stop      : Bool
  sweepEdge : Bool
  deriving DecidableEq, Repr

/-- The fields of a heartbeat (Table 14.9). -/
structure HeartbeatMsg where
  commits : List Nat
  leader  : BitVec 16
  modNum  : Nat
  tick    : Nat
  detach  : Bool
  frozen  : Bool
  lease   : Bool
  deriving DecidableEq, Repr

/-- The header and payload of a remote-operation request (Table 14.6, REQ) as it stands at a target: the lattice
address, the strand opcode, MOD, SIZE, the write data or operand and the compare value of CAS. `bytes` is the number of
bytes the operation moves. -/
structure RemoteReq where
  laddr   : Word
  op      : BitVec 8
  mod     : Nat
  bytes   : Nat
  data    : List Byte
  compare : Word
  deriving DecidableEq, Repr

/-- What a CHORD_WRITE that a link delivers says beside the bytes (Tables 14.5 and 14.6): the issuing module, its operation number,
the lattice space and the chord whose entry the write belongs to. -/
structure ChordFar where
  src   : Nat
  opid  : Nat
  space : Nat
  chord : Nat
  deriving DecidableEq, Repr

/-- A received frame: its number, whether it is an alignment frame, which has none, whether both codewords were correctable, corrected
codewords and corrected symbols per lane, the control field of Table 14.3, and the first 256 bits of each slot's flit, which are a
message's header where one begins there (R424, R425, R431). -/
structure FrameIn where
  seqNum    : Nat
  align     : Bool
  good      : Bool
  corrected : Nat
  symbols   : List Nat
  ctrl      : BitVec 40
  heads     : List (BitVec 256)
  deriving DecidableEq, Repr

/-- A fold segment on arrival: elements are bit patterns of the channel's format; for BLK8 the per-block scale bytes
and WIDE bits of R340. -/
structure FoldSegIn where
  /-- which fold of the layer (0 the pre-pass of R237 or the factor P of R354, 1 the data or the factor Q) and which leg:
  0 reduce over the ring, X ring or tree, 1 carry to the X reducer, 2 reduce over the Y ring, 3 share over the Y ring,
  4 share over the ring, X ring or tree; the receiver knows them from the order on the hop (R324, R332) -/
  sub    : Nat
  leg    : Nat
  chunk  : Nat
  /-- segment index within its chunk -/
  index  : Nat
  elems  : List W32
  scales : List Byte
  wide   : List Bool
  /-- scalars of R343 and R344 that the first chunk carries: micro-batches, tokens, and (module, value) pairs -/
  mb     : Nat
  tokens : Nat
  locals : List (Nat × Word)
  losses : List (Nat × Word)
  deriving DecidableEq, Repr

/-- The settings that neighbours compare in FOLD_CHECK (Table 14.12). -/
structure FoldSettings where
  topo   : Nat
  mode   : Nat
  fmt    : Nat
  torusX : Nat
  lossEn : Bool
  crc    : W32
  deriving DecidableEq, Repr

/-- The per-step scalars of UPD_VALUES (Table 14.12). -/
structure UpdValues where
  verdict : Nat
  sweep   : Nat
  t       : Word
  g       : W32
  gs      : W32
  c       : W32
  k       : W32
  groups  : List (List W32)
  deriving DecidableEq, Repr

/-- Where a manifest says that a shard lies (Table 12.4): TARGET, SLOT, MSLOT and HTAG of its entry. -/
structure ShardPlace where
  target : Nat
  slot   : Nat
  mslot  : Nat
  tag    : Nat
  deriving DecidableEq, Repr

/-- What a manifest says that a restore uses (Table 12.4): generation, COMMIT, whether COMMITTED, MZERO, K, M, number of
data shards, shard CRCs, section offsets and the recorded losses; where its shards lie; and, of a copy that a snapshot ring entry
holds, that entry's ADDR and TAG. -/
structure ManifestInfo where
  modNum    : Nat
  gen       : Nat
  commit    : Nat
  committed : Bool
  mzero     : Bool
  k         : Nat
  m         : Nat
  nData     : Nat
  crcs      : List W32
  sections  : List Nat
  losses    : List Word
  places    : List ShardPlace
  home      : Option (Nat × Nat)
  deriving DecidableEq, Repr

/-- A copy of a shard that a restore has read: the module whose cut it belongs to, its index in the manifest
and its bytes (R386). -/
structure ShardRead where
  owner  : Nat
  idx    : Nat
  data   : List Byte
  deriving DecidableEq, Repr

/-- A reading of the thermal sensors (R502): the hottest sensor of each logical facet, of each stack, of the axis die,
and the coolant inlet, in sixteenths of a degree. -/
structure ThermalReading where
  facets : List (Nat × Nat)
  stackDegs : List (Nat × Nat)
  axis   : Nat
  inlet  : Nat
  deriving DecidableEq, Repr

/-- Energy figures of the meters over the ticks of a record (Table 17.4), µJ. -/
structure EnergyReading where
  input    : Nat
  facets   : Nat
  hbm      : Nat
  axis     : Nat
  facetMaxE : Nat
  facetMax : Nat
  deriving DecidableEq, Repr

/-- What the power meters measured over the sweep that ends (R498): power of each facet, power of HBM and axis die, in
mW, and the conversion efficiency in thousandths. -/
structure PowerMeter where
  facets : List (Nat × Nat)
  rest   : Nat
  eff    : Nat
  deriving DecidableEq, Repr

/-- A snapshot ring entry as the host wrote it (Table 3.12). -/
structure SnapEntryIn where
  addr  : Nat
  slots : Nat
  tag   : Nat
  deriving DecidableEq, Repr

/-- The cause of a wake (R508). -/
inductive WakeCause where
  | resetRelease
  | line (l : Nat)
  deriving DecidableEq, Repr

/-- What resets an endpoint (R509). -/
inductive EndpointCause where
  | perst
  | hotReset
  | linkLoss
  deriving DecidableEq, Repr

/-- A TAP instruction by the names R517 gives; every other instruction is `test` with its code. -/
inductive TapInstr where
  | bypass
  | idcode
  | samplePreload
  | test (code : Nat)
  deriving DecidableEq, Repr

/-- The commands: one constructor per row of spec/opcode_table.json, in the table's order. -/
inductive Instr where
  -- set-up registers (R531–R542)
  | registerWrite (w : BusWrite)
  | setupBadAccess (isWrite : Bool) (offset size : Nat)
  /-- event register `r` in the order of Table 19.7; `same` are the bits an event sets in the same cycle -/
  | w1cClear (r : Nat) (value same : Word)
  | jobKey (job : Nat) (byteOfs size : Nat) (value : Word)
  | idModuleNum (size : Nat) (value : Word)
  | tickRole (value : Word)
  | tickUplink (value : Word)
  | start (withStop : Bool)
  | stop
  | latClr
  -- rings (R76–R102); ring 0–31 command, 32 event, 33 statistics, 34 snapshot
  | ringEnable (ring : Nat) (ctl : Word)
  | ringDisable (ring : Nat) (ctl : Word)
  | ringPort (ring : Nat) (port : Nat)
  | dbPoll
  | doorbellReadDone (ep : Nat) (r : Option (List DoorbellRec))
  | descriptorFetch (ring : Nat) (r : Option (List (Rec × HostData)))
  | heldCompletionWrite (ring : Nat)
  | coalesceTimeout (ring : Nat)
  | msixUnmask (ep vector : Nat)
  | portDown (ep : Nat)
  | endpointReset (ep : Nat) (cause : EndpointCause)
  -- descriptors taking their effect (Table 3.5)
  | nop (d : DescIn)
  | setField (d : DescIn)
  | copy (d : DescIn)
  | copyDone (ring : Nat) (index : W32) (r : HostData)
  | mapLoad (d : DescIn)
  | schedLoad (d : DescIn)
  | mbAdmit (d : DescIn)
  | verBuildAlloc (d : DescIn)
  | verBuildSeal (d : DescIn)
  | verBuildFree (d : DescIn)
  | crcReadDone (facet sc entry : Nat)
  | verPublish (d : DescIn)
  | modelLoad (d : DescIn)
  | modelLoadDone (ring : Nat) (index : W32)
  | progLoad (d : DescIn)
  | progLoadFree (d : DescIn)
  | foldSetup (d : DescIn)
  | updateSetup (d : DescIn)
  | actPolicy (d : DescIn)
  | snapTakeCut (d : DescIn)
  | snapTakeArm (d : DescIn)
  | snapTakeDisarm (d : DescIn)
  | snapRestore (d : DescIn)
  | jobAdmit (d : DescIn)
  | jobRelease (d : DescIn)
  | switchIn (d : DescIn)
  | yieldJob (d : DescIn)
  | rolloutCfg (d : DescIn)
  -- ticks (chapter 2, R434–R438); `missed`: facets whose sequencer missed its edge acknowledgement (R503)
  | tickEdge (missed : List Nat) (meter : PowerMeter)
  | tickSymbolSend
  | tickSymbol (link : Nat) (sym : TickSym)
  | tickHoldover
  /-- phase error of the pulse in ps, positive when the pulse comes after the edge -/
  | tickRefPulse (phaseErr : Int)
  | tickRefLost
  | sweepStateReport (link : Nat) (done : Bool) (sweep : Nat)
  -- stages, arc queues and chords
  | slotComplete (facet sc : Nat)
  /-- `far`: what the message of a write that a link delivers says; none for a header write on the panel -/
  | chordWrite (facet offset : Nat) (data : List Byte) (far : Option ChordFar)
  | waveDeadline (facet sc : Nat) (dir : Nat)
  | credit (chord count : Nat)
  | creditTimeout (chord : Nat)
  | chordCheck (chord depth kind mode : Nat) (keep : Bool)
  | chordLoss (chord firstLost lostCount dropped : Nat)
  | mbLost (job pipe : Nat) (ids : List Nat)
  | rebalCopyDone (job pipe : Nat)
  -- versions and loading
  | verQuery (src job pipe vtag sweep : Nat)
  | verReply (src job pipe vtag : Nat) (ready : Bool) (answering : Nat)
  | verSwitch (job pipe newTag oldTag : Nat) (keepOld : Bool) (edgeTick : Nat)
  | verLastUnit (job pipe vtag mbId : Nat)
  | verRetire (job pipe vtag tick : Nat)
  /-- a message of a load stream; `link` 36 stands for the host as the source -/
  | load (link : Nat) (streamOfs : Nat) (data : List Byte)
  | loadOrphan (link : Nat)
  -- prisms and ray
  | prismCommand (facet sc : Nat)
  | prismComplete (facet prism : Nat)
  | rayCommand (facet sc : Nat)
  | rayComplete (facet : Nat)
  -- strands
  | strandLaunch (facet sc : Nat)
  | strandStart (facet group : Nat)
  | groupEnd (facet group : Nat)
  | strandNop (facet strand : Nat)
  | halt (facet strand : Nat)
  | strandIntegerOp (facet strand : Nat)
  | strandFloatOp (facet strand : Nat)
  | fcvt (facet strand : Nat)
  | fcmp (facet strand : Nat)
  | strandBranch (facet strand : Nat)
  | ldl (facet strand : Nat)
  | stl (facet strand : Nat)
  | get (facet strand : Nat)
  | put (facet strand : Nat)
  | getb (facet strand : Nat)
  | putb (facet strand : Nat)
  | atom (facet strand : Nat)
  | red (facet strand : Nat)
  | tadd (facet strand : Nat)
  | tread (facet strand : Nat)
  | twait (facet strand : Nat)
  | bar (facet strand : Nat)
  | fence (facet strand : Nat)
  -- sequencer records and remote operations
  | tallyWait (facet sc : Nat)
  | tallyAdd (facet sc : Nat)
  | remoteCopy (facet sc : Nat)
  | barrierArrive (facet sc : Nat)
  | fenceRecord (facet sc : Nat)
  | tallyTimeout (facet : Nat) (isStrand : Bool) (issuer : Nat)
  /-- a request reaches its target die: one in flight on the panel (`src` none), or one that a link delivers -/
  | req (opid : Nat) (src : Option (Nat × RemoteReq))
  | resp (opid : Nat) (far : Option (Nat × List Byte))
  /-- `operand` none: a TREAD -/
  | tally (src : Nat) (opid : Nat) (laddr : Word) (mod : Nat) (operand : Option W32)
  | remoteTimeout (opid : Nat)
  -- training sweep
  | gradAcc (facet sc : Nat)
  | gradAccComplete (facet : Nat)
  | foldSeg (link chan layerEntry pass seqNum : Nat) (src : Nat) (segs : List FoldSegIn)
  | foldLayerDone (chan : Nat)
  | foldStall (chan : Nat)
  | foldCheck (link chan : Nat) (settings : FoldSettings)
  | foldTotals (src job pipe sweep mb : Nat) (tokens : Nat) (loss : Word)
  | updReport (src job pipe layer : Nat) (nonfinite : Nat) (globalSq : Word)
  | stepVerdict (job pipe : Nat)
  | updValues (job pipe : Nat) (v : UpdValues)
  | updateStart (facet sc : Nat)
  | updateComplete (facet sc : Nat)
  | steer (job pipe m : Nat) (edgeSweep : Nat)
  | actPrefetchDone (facet sc unit : Nat) (r : HostData)
  | actWriteoutDone (facet sc unit : Nat) (ok : Bool)
  -- snapshots
  | snapCheck (src job : Nat) (crc : W32)
  | snapPolicyDecision (job : Nat)
  | snapCut (job sweep : Nat)
  | shard (src job gen shardIdx ofs : Nat) (mirror : Bool) (data : List Byte)
  | shardAck (src job gen shardIdx : Nat) (refused : Bool)
  | snapDone (src job gen : Nat)
  | snapCommit (src job gen : Nat) (ack : Bool) (commit : Nat) (losses : List Word)
  | snapRingTimeout (job : Nat)
  | snapGens (src job : Nat) (gens : List Nat)
  | snapChoice (job gen : Nat) (none_ : Bool)
  /-- `none` stands for a snapshot ring entry whose slot 0 could not be read -/
  | snapManifests (src job : Nat) (request : Bool) (ms : List (Option ManifestInfo))
  /-- the reads of a restore end: the copies of shards that were read (R386) -/
  | snapRestored (job gen : Nat) (polygon mirrors : List ShardRead)
  -- facet failure and twins
  | facetFail (facet : Nat)
  | shiftCopyDone (row : Nat)
  | heartbeatSend
  | heartbeat (link : Nat) (h : HeartbeatMsg)
  | twinFailSensed
  | twinLost
  | detach
  | unfreeze
  | twinLeaseExp (value : Word)
  | twinLinks (value : Word)
  -- links
  | linkFrame (link : Nat) (f : FrameIn)
  | linkReplayTimeout (link : Nat)
  | linkDown (link : Nat)
  | linkFlush (link : Nat)
  | linkTrainRetry (link : Nat) (failStep : Option Nat) (goodLanes : BitVec 8)
  | linkUp (link : Nat) (rtt lat : Nat) (resumed : Option Nat)
  | linkHello (link farModule farLink width lastFrame : Nat) (serial twinSerial : Word)
  | retrainAll (link : Nat)
  | retrainLane (link lane : Nat)
  | clrCnt (link : Nat)
  | clrRetired (link : Nat)
  | laneFecThreshold (link lane : Nat) (symbols : Nat)
  | laneRetrainDone (link lane : Nat) (ok : Bool)
  | laneLockLoss (link lane : Nat)
  | opticsRemoved (link : Nat)
  | opticsInserted (link : Nat)
  -- memory
  | retire (facet channel : Nat)
  | memRetired (facet : Nat) (badWords : List Nat)
  | memRekeyed (facet : Nat)
  | imbalance (facet channel region : Nat) (imbalanced : Bool)
  /-- what a scrub of the facet met: space and offset of the corrected and of the uncorrectable words and bursts -/
  | scrubPass (facet : Nat) (corrected uncorrectable : List (Nat × Nat))
  | periodicRetrain (facet channel : Nat) (ok : Bool)
  -- focus
  | focusRelease
  | holdoffExpiry (group : Nat)
  | focRaise (core : Nat) (source : Nat) (code : BitVec 16) (detail : Word)
  | focClaim (core : Nat)
  | focComplete (core source : Nat)
  | focStackRst (core : Nat)
  | lineAsserted (line : Nat)
  | lineDeasserted (line : Nat)
  | standbyLineLatch (line : Nat) (assertedEdge : Bool)
  -- centroid and power
  | ctrCoreReset (core : Nat)
  | idFwCtl (value : Word)
  | dvfsRampEnd (facet : Nat)
  | pwrCapEmerg (meanWatts : Nat)
  | pwrCap (size : Nat) (value : Word)
  | thermalSample (r : ThermalReading)
  | energyRecord (e : EnergyReading)
  | droopEpisode (die : Nat)
  | pwrPhaseFail (rail phase : Nat)
  | coolLow
  | coolLeak
  | leakGrace
  | failFacet (facet : Nat)
  -- PMBus and SMBus targets
  | clearFaults
  | statusWord
  | statusInput
  | statusTemperature
  | readVin
  | readIin (milliAmps : Nat)
  | readPin
  | readTemperature1
  | readTemperature2
  | readTemperature3
  | pmbusRevision
  | mfrId
  | pmbusOtherCommand (code : BitVec 8)
  | smbReadIdCode
  | smbReadIdSerial
  | smbReadBootStatus
  | smbReadTwinStatus
  | smbReadLineStatus
  | smbOtherCommand (code : BitVec 8)
  -- power states, boot and test
  | inputOutOfRange
  | inputInRange (milliVolts : Nat) (addr : BitVec 2)
  | wake (cause : WakeCause) (confirmed : List (Nat × Nat))
  | bootStepEnd (ok : Bool) (failedSites : List Nat)
  | resetN
  | moduleReset
  | jtagInstruction (i : TapInstr)
  | jtagRun (value : Word)
  | wireTest (site : Nat)
  | testDone (failing : List (Nat × Nat × Nat)) (loopbackFails : List (Nat × Nat × Nat)) (time : Nat)
  | ucode (site : Nat)
  | ucodeLoadDone (ok : Bool)
  | flashProg (bank : Nat)
  | flashDone (valid : Bool) (version : W32) (accepts : List Nat) (ucodeVer : Nat)
  | fwCommit (bank : Nat)
  | pair
  | phaseUpdate
  | phaseUpdated (failedPhases : List (Nat × Nat))
  | hbmRetrain (facet channel : Nat)
  -- pre-emption and rollout
  | spillFillDone (facet : Nat)
  | rotationHandover (group : Nat)
  | debtHoldEnd (job : Nat)
  | waveMiss (job pipe user stage : Nat)
  | decodeStepComplete (job pipe user : Nat)
  | failingWire (site edge group wire : Nat) (nearLoopbackFails farLoopbackFails : Bool)
  /-- the next block of the job's stream is read; `entry` is what the snapshot ring held when a host slot was needed -/
  | snapStreamRead (job : Nat) (entry : Option SnapEntryIn)
  | decodePosition (job pipe user stage : Nat)
  deriving DecidableEq, Repr

end Sys2Proof
end

