-- ==== Sys2Proof/Decode.lean ====
section
/-!
DEFINITION. The command that a word of the opcode table spells.  spec/opcode_table.json gives no row any bits, so no
word spells a command.
-/
namespace Sys2Proof

/-- The command of a table word: none, since the table gives bits to no row. -/
def decodeTableWord (_nbits _w : Nat) : Option Instr := none

end Sys2Proof
end

