-- ==== Sys2Proof/Config.lean ====
section
/-!
DEFINITION. What the model leaves free: opaque families of values, and the constants of the module that the spec
fixes.  Nothing can evaluate or prove a value of `Config.free`; the module applies it to its own counter `Mach.free`,
or, for a function the spec leaves open at some operands, to those operands.  Log entry 3.
-/
namespace Sys2Proof.Config

/-- Element `i` of the free value of width `w` with seed `seed`.  No body: a value the spec does not state. -/
opaque free (w : Nat) (seed : Nat) (i : Nat := 0) : BitVec w

/-- Bytes of a facet-map copy that no table gives: width, SEQ of the copy, word.  Log entry 3. -/
opaque fmapBits (w seq i : Nat) : BitVec w

/-- Value of an elementary function at an argument where the correctly rounded result cannot be decided within the
model's precision: function code and argument bits.  Log entry 3. -/
opaque elementary (fn : Nat) (x : Word) : W32

/-- Modules of a pipeline that no chord of this module's map joins to it: job, pipeline, MAP_ID.  A map shows the chords
that end here and no others, and the spec names no other place that lists a pipeline's modules.  Log entry 71. -/
opaque furtherModules (job pipe mapId : Nat) : List Nat

/-- Home of a pipeline, as a module that holds neither stage 0 nor stage 1 knows it.  Log entry 71. -/
opaque pipelineHome (job pipe mapId : Nat) : Nat

/-- Map layers of a pipeline that its other modules hold.  Log entry 71. -/
opaque otherLayers (job pipe mapId : Nat) : List Nat

/-- Stages of a pipeline beyond the one to which the last stage of this module passes its micro-batches: job, pipeline, MAP_ID.
An image lists the stages of its own module and no message carries the number of the others'.  Log entry 73. -/
opaque stagesBeyond (job pipe mapId : Nat) : Nat

/-- Does a chord from a module's highest stage to another module end at the pipeline's stage 0, which lies there (R142)?  Its
entry names a stage context, not a stage: job, MAP_ID, chord.  Log entry 73. -/
opaque endsAtFirst (job mapId chord : Nat) : Bool

/-- Latency of the chord from a stage on another module to the next, in 10 ns steps, which R415 takes into a rollout schedule: no image
and no message gives it.  Job, pipeline, MAP_ID, stage.  Log entry 86. -/
opaque hopBeyond (job pipe mapId stage : Nat) : Nat

/-- Whether a pipeline whose last stage lies on another module has a LOSS_EN channel there (R344), for a map of a job and pipeline: no
message tells it.  Log entry 82. -/
opaque totalsBeyond (job pipe mapId : Nat) : Bool

/-- Facets, active facets, stage contexts per facet (Tables 1.1, 0.3, 1.9; R40). -/
def facets : Nat := 104
def active : Nat := 96
/-- Facet code of the axis die (Table 1.6). -/
def axis : Nat := 127
/-- Size of a scratchpad and of the staging SRAM, and of a facet's HBM (Tables 1.7, 1.9; R40). -/
def spadSize : Nat := 0x4000000
def stagingSize : Nat := 0x2000000
def hbmSize : Nat := 0x300000000

end Sys2Proof.Config
end

