-- ==== Sys2Proof/Machine/State.lean ====
section
/-!
DEFINITION. The state of the module as plain data, the reasons a step can stop, and the state right after reset.

`State` is the module `Mach` with the queue of commands that wait, so that no meaning can touch the queue.
`Mach` is grouped by unit; every group cites the rules that give it.  Indexed units are lists; sparse data is a sorted
list of key and value pairs.  Times are counted in 10 ns tick-clock steps (R43, R46).
-/
namespace Sys2Proof.Machine

/-- Why a step stops: the spec stops the module on no command, so there is no reason. -/
inductive Fault where
  deriving DecidableEq, Repr

/-- Why a command has no meaning. -/
inductive Refusal where
  /-- Raised by the dispatch arm of a row that the model gives no meaning.  Safe: the model stops. -/
  | notModelled (mnemonic : String)
  deriving DecidableEq, Repr

/-! ### Records that leave the module -/

/-- A completion record (Table 3.8) before PHASE is set. -/
structure CplRec where
  ring      : Nat
  index     : W32
  tag       : Nat
  status    : Nat
  opcode    : Nat
  job       : Nat
  detail    : Nat
  flags     : Nat
  stampTick : Nat
  stampOfs  : Nat
  deriving DecidableEq, Repr

/-- An event record (Table 3.10) before PHASE is set.  DETAIL is kept as the list of the values that the event's table
names, in its order: the spec gives no packing of the 64 bits. -/
structure EvRec where
  code      : Nat
  source    : Nat
  prio      : Nat
  job       : Option Nat
  detail    : List Nat
  stampTick : Nat
  stampOfs  : Nat
  /-- the instant of the raise, which orders records in focus (R473) -/
  born      : Nat
  deriving DecidableEq, Repr

/-- A statistics record (Table 3.11): TYPE and the 48 bytes of PAYLOAD. -/
structure StatRec where
  type      : Nat
  payload   : BitVec 384
  stampTick : Nat
  stampOfs  : Nat
  deriving DecidableEq, Repr

/-- Pins that the module drives (Tables 16.4, 20.6). -/
inductive Pin where
  | twinFail
  | pmbAlert
  | pwrGood
  | cageInt
  deriving DecidableEq, Repr

/-- A flit that is sent: its virtual channel, and what it begins with: the header of a message that begins in it, or the whole flit of a
TICK message (R427, R431); none in the other flits of a message. -/
structure SlotOut where
  vc   : Nat
  head : Option (BitVec 2048)
  deriving DecidableEq, Repr

/-- What the module sends: host accesses, records, MSI-X messages, link traffic, completion words, pin levels and
answers of the management targets, oldest first in `Mach.out`. -/
inductive Output where
  | doorbellRead (ep : Nat) (addr : Word) (records : Nat)
  | descRead (ep : Nat) (ring : Nat) (addr : Nat) (count : Nat)
  /-- one read request of at most 4,096 bytes; `relaxed` is its Relaxed Ordering attribute (R74), which the requests without
  it never carry; No Snoop is never set and no address is translated -/
  | hostRead (ep : Nat) (addr : Nat) (len : Nat) (relaxed : Bool)
  | hostWrite (ep : Nat) (addr : Nat) (data : List Byte) (relaxed : Bool)
  /-- one of the two posted writes of a record (R89): every byte but 0–7, or with `head` bytes 0–7, which hold PHASE -/
  | cplWrite (ep : Nat) (addr : Nat) (head phase : Bool) (r : CplRec)
  | evtWrite (ep : Nat) (addr : Nat) (head phase : Bool) (r : EvRec)
  | statWrite (ep : Nat) (addr : Nat) (head phase : Bool) (r : StatRec)
  /-- the write back into the snapshot entry at `addr` (R94, Table 3.12) -/
  | snapEntryWrite (ep : Nat) (addr : Nat) (used : Nat) (gen : Nat) (done failed : Bool)
  | msix (ep : Nat) (vector : Nat)
  /-- a message to module `dst` over link `link`, as the command it is at its destination -/
  | message (link dst : Nat) (c : Instr)
  /-- a transiting message sent on, with its header, whose HOPS is one lower (R432) -/
  | forward (link : Nat) (head : BitVec 256)
  | tickSym (link : Nat) (sym : TickSym)
  | sweepReport (link : Nat) (done : Bool) (sweep modNum : Nat)
  | heartbeat (link : Nat) (h : HeartbeatMsg)
  /-- a frame: the lanes over which its symbols are spread round robin from the lowest, its number, its control field and its five slots
  (R424–R426) -/
  | frame (link : Nat) (lanes : List Nat) (seqNum : Nat) (ctrl : BitVec 40) (slots : List (Option SlotOut))
  | alignFrame (link : Nat) (lanes : List Nat)
  | linkHello (link modNum : Nat) (serial : Word) (width lastFrame : Nat)
  /-- completion word of a command or record (Table 6.7) -/
  | word (facet sc : Nat) (w : Word)
  | pin (p : Pin) (asserted : Bool)
  | coreInterrupt (core : Nat) (asserted : Bool)
  | mgmtReply (data : List Byte)
  | mgmtNack
  | tapId (idcode : W32)
  deriving DecidableEq, Repr

/-! ### Ticks (chapter 2) -/

/-- The timing set of R49. -/
structure Timing where
  period   : Nat
  sweepLen : Nat
  fill     : Nat
  steady   : Nat
  drain    : Nat
  fold     : Nat
  update   : Nat
  grace    : Nat
  deriving DecidableEq, Repr

/-- The tick generator and its view of the domain (R43–R72, R434–R438). -/
structure Tick where
  running    : Bool
  locked     : Bool
  holdover   : Bool
  /-- in holdover a new uplink was named and its symbols are still to be judged (R66) -/
  relock     : Bool
  refOk      : Bool
  /-- START was accepted and the first edge is still to come (R63) -/
  armed      : Bool
  /-- role, uplink, reference, base numbers as START sampled them (R16) -/
  master     : Bool
  uplink     : Nat
  refEn      : Bool
  refDiv     : Nat
  baseTick   : Nat
  baseSweep  : Nat
  tickNo     : Nat
  sweepNo    : Nat
  phase      : Nat
  /-- overtime ticks of the current sweep, and whether SWEEP_OVERRUN was raised for it -/
  overtime   : Nat
  overrun    : Bool
  inOvertime : Bool
  sweepFirst : Nat
  /-- instants of the last edge and of the next one -/
  edgeAt     : Nat
  nextEdge   : Nat
  /-- sweep edges until the domain stops: 0 no stop, 1 the next, 2 the one after (R64) -/
  stopIn     : Nat
  /-- consecutive expected tick symbols that did not come (R65) -/
  missed     : Nat
  /-- the symbol received for the next edge, and the edge R437 derives from it -/
  sym        : Option TickSym
  symEdge    : Nat
  /-- correction of the next tick in steps (R62): −1, 0 or 1 -/
  slew       : Int
  /-- edge count of the edge that the last reference pulse accompanied (R67) -/
  refEdge    : Nat
  /-- the master's values that a follower applies (R47) -/
  follow     : Option Timing
  /-- the values sampled at edge minus 2 µs (R435) -/
  sampled    : Option TickSym
  /-- sweep-state reports of the downlinks: link, sweep, DONE, instant of arrival (R71, R438) -/
  reports    : List (Nat × Nat × Bool × Nat)
  /-- our own last report: sweep, DONE -/
  reported   : Option (Nat × Bool)
  deriving DecidableEq, Repr

/-! ### Host interface (chapter 3) -/

/-- A command ring with its completion ring (Tables 3.1, 3.2; R77–R92). -/
structure Ring where
  cons       : W32
  prod       : W32
  idle       : Bool
  halted     : Bool
  cause      : Nat
  cplProd    : W32
  cplCons    : W32
  held       : List CplRec
  unsig      : Nat
  firstUnsig : Option Nat
  /-- the ring was enabled at least once since reset -/
  used       : Bool
  /-- tick in which EN was written 0 (R100), while IDLE is not set -/
  disabledAt : Option Nat
  /-- indices of the descriptors fetched and not completed (R82, R85), oldest first -/
  live      : List W32
  /-- descriptor reads issued and not returned: descriptors and the instant of issue -/
  reads     : List (Nat × Nat)
  deriving DecidableEq, Repr

/-- The event or statistics ring (R92, R93). -/
structure OutRing where
  prod       : W32
  cons       : W32
  unsig      : Nat
  firstUnsig : Option Nat
  /-- records dropped since the last EVENT_LOST (event ring), and in all (HOST_EVT_DROPPED, HOST_STAT_DROPPED) -/
  lost       : Nat
  dropped    : Nat
  deriving DecidableEq, Repr

/-- A PCIe endpoint: link, doorbell reads outstanding, run of failed doorbell reads (R98), MSI-X masks and Pending Bit
Array (R476). -/
structure Endpoint where
  up      : Bool
  /-- doorbell reads outstanding, oldest first: instant of issue and poll -/
  reading : List (Nat × Nat)
  /-- largest read latency seen (HOST_RD_LAT_MAX) -/
  latMax  : Nat
  fails   : Nat
  mask    : Word
  pba     : Word
  deriving DecidableEq, Repr

/-- What a fetched descriptor waits for. -/
inductive DescWait where
  /-- immediate, its turn in ring order or FENCE has not come (R86) -/
  | turn
  /-- immediate or COPY, its work runs -/
  | work
  /-- edge-bound, FENCE still waits for earlier descriptors (R85) -/
  | fenced
  /-- bound to its named edge -/
  | edge
  /-- bound to its named edge, fetched while the generator did not run: the lead rule is met (R560) -/
  | sure
  /-- late and FLOAT: takes effect at the first edge of its kind not before tick `t` (R56) -/
  | float (t : Nat)
  /-- fetched while the generator did not run (R560) -/
  | held
  deriving DecidableEq, Repr

/-- A descriptor fetched and not yet completed, in fetch order (R82, R86). -/
structure Desc where
  d         : DescIn
  job       : Nat
  admin     : Bool
  fetchTick : Nat
  wait      : DescWait
  /-- admitted only through a JOB_ADMIT that waits for its edge (R84 step 3) -/
  viaAdmit  : Bool
  deriving DecidableEq, Repr

/-- A COPY transfer that runs (R87). -/
structure CopyRun where
  ring    : Nat
  index   : W32
  tag     : Nat
  job     : Nat
  quiet   : Bool
  floated : Bool
  toHost  : Bool
  len     : Nat
  /-- status with which the accesses after a sweep edge that took away a window fail (R97) -/
  lost    : Option Nat
  lattice : Word
  host    : Nat
  ep      : Nat
  deriving DecidableEq, Repr

/-- A poll some of whose doorbell reads are outstanding (R82): its number, the descriptors that it may still fetch, the last
ring it fetched from. -/
structure Poll where
  num  : Nat
  left : Nat
  last : Option Nat
  deriving DecidableEq, Repr

/-- The host interface as a whole. -/
structure HostIf where
  rings    : List Ring
  evt      : OutRing
  stat     : OutRing
  /-- snapshot ring: PROD announced, entries consumed -/
  snapProd : W32
  snapCons : W32
  eps      : List Endpoint
  /-- ring with which the next poll's fetching starts (R82) -/
  rotation : Nat
  /-- instant of the last poll (R80), polls so far, and those with reads outstanding -/
  polledAt : Option Nat
  pollNum  : Nat
  polls    : List Poll
  deriving DecidableEq, Repr

/-! ### Maps, chords and pipelines (chapter 4) -/

/-- Stage-context entry of a placement map (Table 4.10; Table 10.2 in the UPDATE map). -/
structure MapSc where
  slotWcet  : Nat
  areaSize  : Nat
  area      : Nat
  prog      : Nat
  lastLayer : Nat
  firstLayer : Nat
  stage     : Nat
  pipe      : Nat
  rebalEn   : Bool
  sc        : Nat
  facet     : Nat
  deriving DecidableEq, Repr

/-- Chord entry of a placement map (Table 4.11). -/
structure MapChord where
  payloadSize  : Nat
  payloadSpace : Nat
  payloadBase  : Nat
  readyTally   : Nat
  creditTally  : Nat
  hdrBase      : Nat
  depth        : Nat
  mode         : Nat
  linkAuto     : Bool
  link         : Nat
  kind         : Nat
  dstSc        : Nat
  dstFacet     : Nat
  dstModule    : Nat
  srcSc        : Nat
  srcFacet     : Nat
  srcModule    : Nat
  ends         : Nat
  chord        : Nat
  deriving DecidableEq, Repr

/-- Expert entry of a placement map (Table 4.12). -/
structure MapExpert where
  chord    : Nat
  capacity : Nat
  sc       : Nat
  facet    : Nat
  replica  : Nat
  expert   : Nat
  deriving DecidableEq, Repr

/-- A placement map in effect for one phase (R140). -/
structure PlaceMap where
  mapId   : Nat
  scs     : List MapSc
  chords  : List MapChord
  experts : List MapExpert
  /-- chords that the load put on the axis path (R106) -/
  axis    : List Nat
  deriving DecidableEq, Repr

/-- The fields of a micro-batch header that travel with a unit (Table 4.3). -/
structure MbInfo where
  mbId      : Nat
  vtag      : Nat
  len       : Nat
  cost      : Nat
  slice     : Nat
  /-- number of slices (the header's NSLICE plus 1) -/
  nslice    : Nat
  job       : Nat
  pipe      : Nat
  admitTick : Nat
  /-- DIR of the header -/
  back      : Bool
  deriving DecidableEq, Repr

/-- A committed arc-queue entry; `visible` under R118. -/
structure ArcEntry where
  mb      : MbInfo
  seqNum  : Nat
  visible : Bool
  deriving DecidableEq, Repr

/-- A chord in effect for a job (R110–R123): the producer's and the consumer's ends that lie on this module. -/
structure Chord where
  job      : Nat
  e        : MapChord
  /-- producer: SEQ of the next entry, MB_IDs sent whose credit has not returned (R112) -/
  txSeq    : Nat
  sent     : List (Nat × Nat)
  /-- producer: entries waiting for credit, with the edge count at which the wait began (R117, R122) -/
  waiting  : List MbInfo
  waitFrom : Option Nat
  waitRaised : Bool
  /-- instant at which the wait began, for STALL of Table 4.14 -/
  waitAt   : Nat
  /-- producer: the credit of the next entry is taken, and bytes written into its payload slot (R117, Table 4.3) -/
  reserved : Bool
  paid     : Nat
  /-- consumer: expected SEQ and the committed entries (R111, R121) -/
  rxSeq    : Nat
  queue    : List ArcEntry
  /-- entries taken by units that still run (they hold a slot until release, R120) -/
  taken    : Nat
  /-- closed by CHORD_MISMATCH (R113) -/
  closed   : Bool
  checked  : Bool
  /-- keep field of the far end's CHORD_CHECK for the coming map change (R113, R123) -/
  farKeep  : Option Bool
  /-- our own CHORD_CHECK for the coming map change was sent -/
  asked    : Bool
  deriving DecidableEq, Repr

/-- A micro-batch in an admission queue (R125) with the descriptor its completion answers. -/
structure Admit where
  mbId      : Nat
  len       : Nat
  cost      : Nat
  input     : Nat
  inputLen  : Nat
  target    : Nat
  targetLen : Nat
  cursor    : Word
  ring      : Nat
  index     : W32
  tag       : Nat
  quiet     : Bool
  floated   : Bool
  deriving DecidableEq, Repr

/-- A schedule (Table 4.5). -/
structure Sched where
  fwdOnly : Bool
  reserve : Nat
  m       : Nat
  budget  : Nat
  cost    : List (Nat × Nat)
  /-- T0 of the sweep the schedule runs in (R133) -/
  t0      : Nat
  deriving DecidableEq, Repr

/-- A micro-batch whose slices are being admitted (R126). -/
structure Slicing where
  mb   : MbInfo
  next : Nat
  deriving DecidableEq, Repr

/-- A readiness check of a VER_PUBLISH at its home (R157): tag, sweep, the stage contexts here that hold the tag ready, and the
modules that have answered ready. -/
structure PubCheck where
  tag   : Nat
  sweep : Nat
  scs   : List (Nat × Nat)
  ready : List Nat
  deriving DecidableEq, Repr

/-- A home row of a version tag (Table 5.14, VER_ROW): STATE as Table 5.4 codes it, LIVE 24 bits. -/
structure VerRow where
  vtag  : Nat
  state : Nat
  hold  : Bool
  live  : Nat
  deriving DecidableEq, Repr

/-- The statistics of a pipeline over the sweep (Table 4.14). -/
structure PipeStats where
  maxSlot  : Nat
  maxFacet : Nat
  maxSc    : Nat
  maxStage : Nat
  sumSlot  : Nat
  nSlot    : Nat
  slips    : Nat
  planned  : Nat
  slipBub  : Nat
  stall    : Nat
  overflow : Nat
  deriving DecidableEq, Repr

/-- A user slot of a rollout schedule (R416–R420). -/
structure RollUser where
  mb      : MbInfo
  target  : Nat
  targetLen : Nat
  /-- prefill chunks still to return to stage 0 -/
  chunks  : Nat
  /-- first tick of decode at stage 0, once prefill is done -/
  decodeFrom : Option Nat
  tokens  : Nat
  /-- sampled tokens of the group not yet written (R419) -/
  buf     : List W32
  /-- endpoint of the ring that admitted the sequence -/
  ep      : Nat
  /-- ticks that misses have moved this user's steps (R416) -/
  late    : Nat
  /-- stages whose step of the current token has begun -/
  begun   : List Nat
  deriving DecidableEq, Repr

/-- A rollout schedule (Table 13.6, R415). -/
structure Rollout where
  tokenOfs    : Nat
  stop        : W32
  stopEn      : Bool
  prefillProg : Nat
  decodeProg  : Nat
  prefillBudget : Nat
  chunk       : Nat
  ctxMax      : Nat
  users       : Nat
  pos         : Nat
  tau         : Nat
  d           : Nat
  e           : List Nat
  slots       : List (Option RollUser)
  deriving DecidableEq, Repr

/-- Parameters of one layer group (Table 10.5). -/
structure UpdGroup where
  decay : W32
  eps   : W32
  beta2 : W32
  beta1 : W32
  sched : List (Nat × W32)
  deriving DecidableEq, Repr

/-- UPDATE_SETUP of a pipeline and its table (Tables 10.3–10.5). -/
structure UpdSetup where
  en       : Bool
  biasCorr : Bool
  tokensMode : Bool
  policy   : Nat
  rule     : Nat
  clip     : W32
  gscale   : W32
  groups   : List UpdGroup
  layerGroup : List Nat
  /-- VALID gradient areas: facet, stage context, base in 4 KiB units -/
  areas    : List (Nat × Nat × Nat)
  deriving DecidableEq, Repr

/-- What the home has gathered for the sweep's verdict (R305, R344): per layer NONFINITE and GLOBAL_SQ, and the fold
group's token total, micro-batch count, loss and summed LOCAL_SQ. -/
structure UpdGather where
  layers   : List (Nat × Nat × Word)
  locals   : List (Nat × Word)
  /-- token totals of the layers that have folded on this module (R343) -/
  ownTokens : List Nat
  /-- non-finite elements of those layers (R310) -/
  ownNonf  : Nat
  tokens   : Nat
  mb       : Nat
  totalsIn : Bool
  loss     : Word
  deriving DecidableEq, Repr

/-- ACT_POLICY of a stage range (Table 10.9). -/
structure ActPolicy where
  hostSlots : Nat
  recompProg : Nat
  first     : Nat
  last      : Nat
  policy    : Nat
  lead      : Nat
  slots     : Nat
  base      : Nat
  bytes     : Nat
  hostBase  : Nat
  /-- endpoint of the ring that carried the policy -/
  ep        : Nat
  deriving DecidableEq, Repr

/-- A boundary move under way (R145): the layer, its stage and the stage it goes to, and the tick in which the copy ended. -/
structure Rebal where
  layer  : Nat
  from_  : Nat
  toStage : Nat
  copied : Option Nat
  /-- tags of the versions that were copied -/
  tags   : List Nat
  deriving DecidableEq, Repr

/-- One pipeline of a job. -/
structure Pipe where
  sched    : Option Sched
  /-- M′ steered for a coming sweep edge: sweep, M (R321) -/
  steerAt  : Option (Nat × Nat)
  queue    : List Admit
  slicing  : Option Slicing
  /-- SLICE_RESERVE ticks used in the sweep (R130) -/
  reserveUsed : Nat
  /-- the queue's head waits for the next sweep (R130) -/
  sweepClosed : Bool
  /-- publish pointer, none while it is not valid (R126, R155) -/
  pub      : Option Nat
  rows     : List (Option VerRow)
  /-- readiness checks in progress (R157) -/
  checks   : List PubCheck
  /-- queries sent and not yet answered, in order: module, tag, sweep of the check, none once the check has begun anew -/
  asked    : List (Nat × Nat × Option Nat)
  /-- moves of the publish pointer that the home has announced for a coming edge: its tick, new tag, old tag, KEEP_OLD (R160) -/
  switches : List (Nat × Nat × Nat × Bool)
  /-- moves of the pointer that the other modules have been told of: edge tick, new tag, old tag, KEEP_OLD (R160) -/
  told     : List (Nat × Nat × Nat × Bool)
  /-- abandoned micro-batches (R164) -/
  abandoned : List Nat
  /-- tick in which each of those was noted: an entry of a later admission is not of that micro-batch (R126, R164) -/
  lostAt   : List (Nat × Nat)
  /-- micro-batches counted in LIVE: MB_ID and tag, oldest first (R162) -/
  liveMbs   : List (Nat × Nat)
  /-- micro-batches admitted in the sweep, in order, with token counts: MB_ID, LENGTH, slices (R298, R299, R135) -/
  admitted : List (Nat × Nat × Nat)
  /-- tokens and micro-batches whose final unit completed in the sweep (R299) -/
  tokensDone : Nat
  mbDone   : Nat
  /-- last micro-batch whose slice 0 was admitted: CURSOR and MB_ID (Table 12.1) -/
  lastCursor : Option (Word × Nat)
  stats    : PipeStats
  rebal    : Option Rebal
  rollout  : Option Rollout
  setup    : Option UpdSetup
  gather   : UpdGather
  values   : Option UpdValues
  /-- verdict of the sweep computed: 0 update, 1 skip, 2 zero elements, 3 propagate -/
  verdict  : Option Nat
  acts     : List ActPolicy
  step     : Nat
  skipped  : Nat
  poisoned : Nat
  zeroed   : Nat
  flags    : Nat
  bnoiseEma : W32
  foldLoss : Word
  /-- losses of the sweep's micro-batches that the last stage here has run, FP32P, in admission order (R229) -/
  mbLoss   : List (Nat × Word)
  deriving DecidableEq, Repr

/-! ### Versions (chapter 5) -/

/-- A version entry (Table 5.4). -/
structure VerEntry where
  crc      : W32
  sealTick : Nat
  size     : Nat
  base     : Nat
  space    : Nat
  source   : Nat
  srcSc    : Nat
  srcTag   : Nat
  refs     : Nat
  vtag     : Nat
  pipe     : Nat
  job      : Nat
  hold     : Bool
  pend     : Bool
  /-- sweep that the pending VER_PUBLISH names (R159) -/
  pendTill : Nat
  bad      : Bool
  state    : Nat
  /-- copies and CRC reads in progress (R152), oldest first: ring and index of the descriptor, ring 32 for a load segment that
  seals -/
  busy     : List (Nat × W32)
  /-- the retire notice of R165 has come -/
  retired  : Bool
  /-- held for a read of the snapshot engine (R166, R373) -/
  snapHeld : Bool
  deriving DecidableEq, Repr

/-- A CRC read that runs on after FREE of its entry (R150, R152): index of the entry, descriptor, region. -/
structure FreedRead where
  entry : Nat
  ring  : Nat
  index : W32
  space : Nat
  base  : Nat
  size  : Nat
  deriving DecidableEq, Repr

/-- A layer entry (Table 5.5). -/
structure LocusLayer where
  gathered : Bool
  size     : Nat
  offset   : Nat
  kept     : Bool
  deriving DecidableEq, Repr

/-- The locus of a stage context (Tables 5.1–5.5). -/
structure Locus where
  installed  : Bool
  autoSpace  : Nat
  autoBase1  : Nat
  autoBase0  : Nat
  xferSize   : Nat
  keepBase   : Nat
  keepBudget : Nat
  keepTag    : Nat
  nLayers    : Nat
  gather     : List (Nat × Nat × Nat)
  layers     : List LocusLayer
  entries    : List VerEntry
  /-- CRC reads whose entry is FREE again -/
  freed      : List FreedRead
  /-- kept layers whose contents the keep area holds (R179) -/
  keptValid  : List Nat
  deriving DecidableEq, Repr

/-- A load stream in progress (R169–R175). -/
structure LoadRun where
  ring     : Nat
  index    : W32
  tag      : Nat
  quiet    : Bool
  job      : Nat
  fromLink : Bool
  len      : Nat
  received : Nat
  /-- bytes of the stream not yet parsed into segments -/
  buf      : List Byte
  segs     : Nat
  bad      : Nat
  err      : Bool
  ended    : Bool
  /-- edge count at which the last byte came (R175) -/
  lastEdge : Nat
  /-- entries that kept segments named: facet, stage context, tag -/
  targets  : List (Nat × Nat × Nat)
  /-- a stream whose LOAD messages are discarded up to its END (R174); no MODEL_LOAD -/
  discard  : Bool
  /-- bytes of such a stream that came before those they follow, by offset -/
  ahead    : List (Nat × List Byte)
  deriving DecidableEq, Repr

/-! ### Facet engines (chapters 6, 8, 9, 10) -/

/-- A prism command in its queue. -/
structure PrismJob where
  sc   : Nat
  job  : Nat
  cmd  : Rec
  deriving DecidableEq, Repr

/-- Tiles kept in accumulator slots (R195): owner, slots, shape, ACC, M, N and the values in raster order. -/
structure Kept where
  sc    : Nat
  base  : Nat
  need  : Nat
  shape : Nat
  acc   : Nat
  m     : Nat
  n     : Nat
  vals  : List Word
  /-- a command that reads them and releases the slots has been issued -/
  releasing : Bool
  deriving DecidableEq, Repr

/-- A prism: queue of 8 commands and accumulator store (R194–R196). -/
structure Prism where
  queue : List PrismJob
  kept  : List Kept
  deriving DecidableEq, Repr

/-- A unit of a slot (R104). -/
structure WorkUnit where
  /-- 0 forward, 1 backward, 2 rollout prefill chunk, 3 rollout decode step, 4 expert unit -/
  dir   : Nat
  mb    : MbInfo
  /-- chord whose entry the unit took -/
  chord : Option Nat
  deriving DecidableEq, Repr

/-- What a stage program waits for. -/
inductive ScWait where
  | none
  | tally (t : Nat) (target : W32) (eq : Bool) (deadline : Option Nat) (tag : Nat)
  deriving DecidableEq, Repr

/-- A slot that runs (R104, R105). -/
structure SlotRun where
  tick     : Nat
  startAt  : Nat
  units    : List WorkUnit
  /-- index of the unit that runs and of its next record -/
  unitIdx  : Nat
  recIdx   : Nat
  /-- record at which a prefill unit that a decode step set aside goes on (R417) -/
  resume   : Nat
  /-- records of RECOMP_PROG still to run before a backward unit's program (R313) -/
  recomp   : Bool
  /-- commands issued and not completed -/
  inFlight : Nat
  /-- entry sends not yet acknowledged: chord numbers (R105, R117) -/
  sends    : List Nat
  /-- units of the slot that have completed (R120), and expert results still to return (R139) -/
  finished : Nat
  away     : Nat
  /-- tokens of the current unit by dispatch chord (R138) -/
  tokens   : List (Nat × Nat)
  wait     : ScWait
  /-- WAVE sides that still wait for an entry: direction and deadline (R119) -/
  waves    : List (Nat × Nat)
  /-- backward unit that waits for its prefetch, and a forward unit that waits for an HBM slot (R314) -/
  actWait  : Bool
  slipped  : Bool
  /-- gathered layers were fetched within the slot (R180) -/
  fetched  : Bool
  /-- unit key and direction of the unit whose gathered layers have been fetched, and reads of it not answered (R177, R179) -/
  fetchFor : Option (Nat × Nat)
  fetching : Nat
  deriving DecidableEq, Repr

/-- An activation slot of a stage context (R312–R314): slot index, unit key (MB_ID·8 + slice), state 0 filling,
1 filled, 2 writing out, 3 written out, 4 prefetching, 5 ready. -/
structure ActSlot where
  slot  : Nat
  unit  : Nat
  /-- ordinal of the unit in the sweep (u of R313) -/
  u     : Nat
  nslice : Nat
  state : Nat
  deriving DecidableEq, Repr

/-- An update of an entry of the UPDATE map that runs (R301–R309). -/
structure UpdateRun where
  pipe    : Nat
  job     : Nat
  entry   : MapSc
  started : Bool
  /-- a layer that no entry covers: its published weights are copied (R301) -/
  copy    : Bool
  deriving DecidableEq, Repr

/-- Turns of an engine of a facet among jobs (R406): the job that took the last turn, the edge count of that turn, and the turns that
jobs have had in the round. -/
structure Turns where
  last : Option Nat
  edge : Nat
  used : List (Nat × Nat)
  deriving DecidableEq, Repr

/-- A stage context of a facet: what it runs, its slot, its locus and its training state. -/
structure StageCtx where
  /-- job and stage-context entry of the map in effect -/
  owner    : Option (Nat × MapSc)
  /-- program that the slot runs (R262) -/
  prog     : List Rec
  /-- programs of it that failed the check again: job and handle (R408) -/
  stale    : List (Nat × Nat)
  /-- handles for which PROG_MISSING was raised this sweep -/
  missing  : List Nat
  run      : Option SlotRun
  slips    : Nat
  chronic  : Bool
  /-- prefill time used in the tick, 10 ns steps (R417) -/
  prefill  : Nat
  /-- ticks by which slips have moved the rest of the sweep's schedule (R69) -/
  shift    : Nat
  /-- backward units the last stage still has to run, in order: forward pass done in tick (R135) -/
  backlog  : List (MbInfo × Nat)
  /-- what each side of the slot held in the last tick: 0 nothing, 1 a unit, 2 a planned bubble, 3 a slip bubble -/
  fwd      : Nat
  bwd      : Nat
  /-- token losses of micro-batches in progress: MB_ID·8 + slice and FP32 patterns in token order (R229) -/
  tokLoss  : List (Nat × List Nat)
  /-- largest slot time of the sweep, and of the sweep before -/
  maxSlot  : Nat
  lastMax  : Nat
  flags    : Nat
  locus    : Locus
  gradBase : Option Nat
  /-- 4 KiB blocks of the gradient area written since the first edge of FILL (R295) -/
  written  : List Nat
  handed   : List Nat
  /-- micro-batches and tokens of the replica as each layer was handed off with them: layer, count, total (R299) -/
  handCnt  : List (Nat × Nat × Nat)
  /-- micro-batches whose slice-0 backward unit has completed in the sweep: MB_ID, LENGTH (R299) -/
  backMbs  : List (Nat × Nat)
  /-- micro-batches that have begun to run forward here in the sweep, in order: MB_ID, slices (R298) -/
  fwdMbs   : List (Nat × Nat)
  acts     : List ActSlot
  update   : List UpdateRun
  deriving DecidableEq, Repr

/-- A remote operation's issuer. -/
inductive Issuer where
  | strand (facet idx : Nat)
  | sc (facet sc : Nat)
  /-- a shard delivery of a fold channel (R346) -/
  | fold (chan : Nat)
  /-- a read of a gathered fetch for a unit of a stage context (R177) -/
  | gather (facet sc : Nat)
  deriving DecidableEq, Repr

/-- Where an operation in flight stands. -/
inductive FlightState where
  | requested
  | replied (status : Nat) (data : List Byte)
  /-- waits for a route change to drain (R433) or for a link that is down (R289) -/
  | waiting
  deriving DecidableEq, Repr

/-- A remote operation that has been issued and not settled (R276–R290). -/
structure Flight where
  opid    : Nat
  issuer  : Issuer
  job     : Nat
  req     : RemoteReq
  /-- destination register of a strand's GET, ATOM or TREAD, chord of a header write of a stage context, layer entry of a shard
  delivery or a gathered read; local offset of a block that is read -/
  dest    : Option Nat
  localOfs : Nat
  /-- a write (needs an acknowledgement) rather than a read -/
  isWrite : Bool
  sentAt  : Nat
  state   : FlightState
  /-- completion word the reply produces for a sequencer record: opcode and TAG; gather member and tag of a gathered read -/
  word    : Option (Nat × Nat)
  /-- link it left on -/
  via     : Option Nat
  /-- chord whose entry it writes: payload or header (R114, R117) -/
  chord   : Option Nat
  /-- program counter of the strand instruction that issued it; facet of a shard delivery; 1 for a gathered read into a buffer whose
  contents change while its unit runs (R179) -/
  pc      : Nat
  /-- timed out at its issuer and still to take effect (R290) -/
  orphan  : Bool
  /-- the local side of a put met an uncorrectable word (R461) -/
  ue      : Bool
  /-- its chord was removed or restarted meanwhile (R123) -/
  stale   : Bool
  deriving DecidableEq, Repr

/-- A chord's header write on its way on the panel (R117): consumer's facet and window offset, the header, its producer,
and whether a map change removed the chord meanwhile (R123). -/
structure HeaderMsg where
  facet    : Nat
  ofs      : Nat
  header   : BitVec 512
  srcFacet : Nat
  srcSc    : Nat
  stale    : Bool
  /-- operation number of its issue (R111) -/
  op       : Nat
  deriving DecidableEq, Repr

/-- What a strand waits for. -/
inductive StrandWait where
  | run
  /-- a ninth operation, a destination register in flight, or FENCE and REL conditions: the instruction is retried -/
  | blocked
  | tally (t : Nat) (target : W32) (eq : Bool) (deadline : Option Nat) (rd : Nat)
  | halting
  | done
  deriving DecidableEq, Repr

/-- A strand that runs (R266, R268). -/
structure Strand where
  idx    : Nat
  group  : Nat
  member : Nat
  regs   : List Word
  pc     : Nat
  flags  : Nat
  steps  : Nat
  waits  : Nat
  bytes  : Nat
  wait   : StrandWait
  deriving DecidableEq, Repr

/-- A launch group (R267–R269). -/
structure Group where
  gid     : Nat
  sc      : Nat
  job     : Nat
  cmd     : Rec
  prog    : List Word
  started : Nat
  ended   : Nat
  flags   : Nat
  /-- first fault: status, strand, program counter; and how many strands faulted -/
  fault   : Option (Nat × Nat × Nat)
  nFault  : Nat
  /-- ASYNC record already completed -/
  asyncDone : Bool
  /-- expert dispatch chords into whose payload ring the group wrote (R138) -/
  touched : List Nat
  deriving DecidableEq, Repr

/-- A ray command in the ray queue. -/
structure RayJob where
  sc  : Nat
  job : Nat
  cmd : Rec
  deriving DecidableEq, Repr

/-- A move of memory contents on a facet (R454–R456, R463). -/
inductive MoveKind where
  | rekey (region : Nat) (oldKey newKey : BitVec 28)
  | channel (ch reserveCh : Nat)
  deriving DecidableEq, Repr

/-- A logical facet. -/
structure Facet where
  failed    : Bool
  /-- operations to it are held while its site is refilled or under test (R289, R519, R526) -/
  holding   : Bool
  /-- lattice facet served by another facet's die (R393): host facet -/
  hostedBy  : Option Nat
  scs       : List StageCtx
  prisms    : List Prism
  ray       : List RayJob
  strands   : List Strand
  groups    : List Group
  nextGroup : Nat
  /-- strand program memory: handles and images installed at the last map change (R272) -/
  strandProgs : List (Nat × List Rec)
  /-- GRAD_ACC records of the update unit in issue order: stage context and record (R295) -/
  grads     : List (Nat × Nat × Rec)
  /-- UPD_WAIT was raised in the sweep (R309) -/
  updWaited : Bool
  point     : Nat
  /-- voltage ramp towards a point (R495) -/
  ramp      : Option Nat
  temp      : Nat
  /-- instant since which the facet is at least 105 °C at the floor (R502) -/
  hotSince  : Option Nat
  /-- held at the floor until the next sweep edge (R502) -/
  floored   : Bool
  missedAck : Nat
  cntCe     : Nat
  cntUe     : Nat
  ueSweep   : Nat
  imbRun    : Nat
  imbRaised : Bool
  /-- moves in their order, and whether the move runs -/
  moves     : List (MoveKind × Bool)
  /-- channels decided for retirement: channel, first edge at which it may start (R463) -/
  retireDue : List (Nat × Nat)
  /-- channel corrected-error counts of the sweep (R463) -/
  ceSweep   : List (Nat × Nat)
  /-- next channel of the periodic retraining, none when no round runs (R466) -/
  retrain   : Option Nat
  /-- edge of the tick in which a channel was last retrained (R466) -/
  retrainAt : Option Nat
  retrainReq : List Nat
  /-- turns of its engines: prisms 0 to 3, ray, strand launches, update unit (R406) -/
  turns     : List Turns
  /-- switch in progress: outgoing and incoming jobs, edge instant (R410) -/
  switching : Option (List Nat × List Nat × Nat)
  deriving DecidableEq, Repr

/-! ### Fold (chapter 11) -/

/-- A layer entry of a channel table (Table 11.4). -/
structure FoldLayer where
  layer     : Nat
  tensor    : Nat
  rank      : Nat
  rows      : Nat
  cols      : Nat
  projBase  : Nat
  shardBase : Nat
  deriving DecidableEq, Repr

/-- A segment that waits on this member (R332–R334): layer entry, the sending position, and the segment. -/
structure FoldPart where
  entry  : Nat
  src    : Nat
  seg    : FoldSegIn
  /-- link it came over, flits of the link's receive buffer that still hold it, none once a window does, and its bytes -/
  link   : Nat
  flits  : Nat
  bytes  : Nat
  deriving DecidableEq, Repr

/-- A partial sum held on this member: the element at which its segment starts, the sum so far, and the positions that
have joined (a tree node's joins; the X sum that the Y pass takes up). -/
structure FoldAcc where
  start  : Nat
  seg    : FoldSegIn
  joined : List Nat
  deriving DecidableEq, Repr

/-- A layer whose shares are all written and whose completion is still to be reported (R345). -/
structure FoldDone where
  entry  : Nat
  mb     : Nat
  tokens : Nat
  locals : List (Nat × Word)
  losses : List (Nat × Word)
  flags  : Nat
  failed : Bool
  deriving DecidableEq, Repr

/-- Segments that wait for a link (R347, R348): destination position, layer entry, pass, first SEQ. -/
structure FoldOut where
  dst   : Nat
  entry : Nat
  pass  : Nat
  seq   : Nat
  segs  : List FoldSegIn
  deriving DecidableEq, Repr

/-- A fold channel (R323–R353). -/
structure Channel where
  en      : Bool
  job     : Nat
  pipe    : Nat
  topo    : Nat
  ordered : Bool
  fmt     : Nat
  lossEn  : Bool
  linkAuto : Bool
  torusX  : Nat
  self    : Nat
  /-- member entries: module, link, parent -/
  members : List (Nat × Nat × Nat)
  layers  : List FoldLayer
  crc     : W32
  /-- the settings differ from a neighbour's (R328): every layer of the sweep fails -/
  closed  : Bool
  /-- settings of neighbours that came before our own setup took effect -/
  early   : List (Nat × FoldSettings)
  /-- layer entry in flight, its fold (FoldSegIn.sub), and whether our contribution to it has begun -/
  cur     : Nat
  sub     : Nat
  began   : Bool
  /-- codes per block that the pre-pass agreed (R237) -/
  codes   : List Nat
  accs    : List FoldAcc
  /-- elements of the fold in progress whose share has been written -/
  written : Nat
  /-- layer entries that an ABORT ended (R351) -/
  aborted : List Nat
  /-- SEQ of the next segment to and from each neighbour, by position (R325) -/
  txSeq   : List (Nat × Nat)
  rxSeq   : List (Nat × Nat)
  parts   : List FoldPart
  outq    : List FoldOut
  /-- R343, R344 scalars of the layer in flight: this member's own, then the folded ones -/
  mb      : Nat
  tokens  : Nat
  locals  : List (Nat × Word)
  losses  : List (Nat × Word)
  /-- folded counts, totals and losses of the last layer of the sweep that did not fail (R344) -/
  totals  : Option (Nat × Nat × List (Nat × Word))
  flags   : Nat
  done    : List FoldDone
  widened : Nat
  /-- edge count of the last segment moved while a layer was in flight, and whether FOLD_STALL was raised -/
  lastMove : Nat
  stalled : Bool
  /-- a layer is in flight since this instant; fold time of the layers that have ended in the sweep (R348) -/
  foldFrom : Option Nat
  foldTime : Nat
  deriving DecidableEq, Repr

/-! ### Snapshots and twins (chapter 12) -/

/-- A committed generation of the member (R375–R377): sweep, COMMIT, and the tags of the host ring entries it uses. -/
structure Gen where
  gen    : Nat
  commit : Nat
  tags   : List Nat
  /-- K, M and data shards of its polygons -/
  k      : Nat
  m      : Nat
  nData  : Nat
  deriving DecidableEq, Repr

/-- A block of a cut's stream: a place in memory, or bytes copied at the cut edge (R361, R373). -/
structure SnapPiece where
  facet : Nat
  space : Nat
  off   : Nat
  len   : Nat
  data  : Option (List Byte)
  deriving DecidableEq, Repr

/-- A snapshot ring entry that a cut uses (Table 3.12): its own address, the buffer, the slots filled (slot 0 is the
manifest's), and whether a host access failed. -/
structure SnapUse where
  place  : Nat
  addr   : Nat
  tag    : Nat
  slots  : Nat
  used   : Nat
  failed : Bool
  deriving DecidableEq, Repr

/-- A cut in progress (R373–R376).  Shards are numbered as the manifest lists them; targets by index in the domain
table; target 64 stands for the twin. -/
structure Cut where
  gen      : Nat
  mzero    : Bool
  /-- blocks still to be read, and bytes of the whole stream -/
  pieces   : List SnapPiece
  total    : Nat
  /-- bytes read by the engine -/
  stream   : List Byte
  /-- bytes of a shard sent so far to a target: shard, target, bytes -/
  prog     : List (Nat × Nat × Nat)
  /-- holds: moment blocks (facet, 4 KiB block) still to be read -/
  holds    : List (Nat × Nat)
  sections : List Nat
  /-- shard and target: placed, acknowledged, refused or timed out -/
  placed   : List (Nat × Nat)
  acked    : List (Nat × Nat)
  tried    : List (Nat × Nat)
  /-- shard writes on their way: operation, shard, target, instant -/
  sent     : List (Nat × Nat × Nat × Nat)
  /-- shard, host entry, slot -/
  hostSlots : List (Nat × Nat × Nat)
  /-- snapshot ring entries the cut uses -/
  entries  : List SnapUse
  /-- the entries were written back with DONE -/
  entriesDone : Bool
  /-- targets that hold the manifest -/
  manifested : List Nat
  done     : Bool
  /-- leader: members done, members that acknowledged the commit -/
  membersDone : List Nat
  membersAck  : List Nat
  committing  : Option Nat
  losses   : List (Option Word)
  /-- edge count since which the engine finds the snapshot ring empty -/
  ringEmpty : Option Nat
  overtime : Nat
  deriving DecidableEq, Repr

/-- A restore in progress (R383–R388). -/
structure Restore where
  ring    : Nat
  index   : W32
  tag     : Nat
  want    : Nat
  exclHist : Bool
  exclProj : Bool
  verify  : Bool
  quiet   : Bool
  /-- addresses of the ring entries consumed as sources -/
  places  : List Nat
  /-- modules still to answer with their manifests; this module stands for its host entries -/
  awaited : List Nat
  answered : List Nat
  manifests : List ManifestInfo
  /-- generations this member cannot restore after all (R385, R387) -/
  refused : List Nat
  /-- leader: generations each member can restore -/
  reports : List (Nat × List Nat)
  chosen  : Option Nat
  /-- copies that were read while a shift copy ran in a row of the job (R396) -/
  held    : Option (List ShardRead)
  deriving DecidableEq, Repr

/-- A rebuilt shard on its way to a target (R379): its polygon, the target and the targets after it, its bytes and CRC, its mirror
slot, the host copies of its manifest (ADDR, TAG), the operation and the instant of the write. -/
structure MovedShard where
  gen    : Nat
  shard  : Nat
  poly   : Nat
  target : Nat
  left   : List Nat
  data   : List Byte
  crc    : W32
  place  : ShardPlace
  homes  : List (Nat × Nat)
  op     : Nat
  sentAt : Nat
  deriving DecidableEq, Repr

/-- The snapshot domain of a job (R363–R390). -/
structure SnapDom where
  armed   : Bool
  mirror  : Bool
  m       : Nat
  k       : Nat
  leader  : Nat
  self    : Nat
  /-- member entries: module, writer position -/
  members : List (Nat × Nat)
  /-- targets: KIND (1 PEER), module -/
  targets : List (Nat × Nat)
  crc     : W32
  cut     : Option Cut
  gens    : List Gen
  commitCtr : Nat
  sRun    : Nat
  nFail   : Nat
  lastCut : Nat
  next    : Nat
  cost    : Nat
  /-- sweep in which the last cut committed; its later overtime ticks count too (R381) -/
  doneIn  : Option Nat
  /-- sweep at whose edge a decided cut is taken -/
  cutAt   : Option Nat
  deferred : Bool
  score   : Nat
  prevScore : Nat
  lastRisk : Nat
  /-- the cut that was decided is a RISK cut (R382) -/
  riskDue : Bool
  bad     : List Nat
  restore : Option Restore
  /-- sweep to verify and its recorded losses (R389) -/
  verify  : Option (Nat × List Word)
  cursors : List (Option (Word × Nat))
  roomless : Option Nat
  /-- tags whose segments MODEL_LOAD brings while TAP is set (R378): facet, stage context, tag, layer and offset of the
  last segment -/
  taps    : List (Nat × Nat × Nat × Nat × Nat)
  tapOff  : Bool
  /-- leader, once its own restore has ended: what every member reported, and the generation that was asked for (R384, R387) -/
  lastReports : List (Nat × List Nat)
  lastWant : Nat
  /-- rebuilt shards that await their acknowledgement (R379) -/
  moving  : List MovedShard
  deriving DecidableEq, Repr

/-- A shard or manifest held in this module's store (R367): slot, owner module, job, generation, shard index, bytes. -/
structure StoreItem where
  slot  : Nat
  owner : Nat
  job   : Nat
  gen   : Nat
  shard : Nat
  mirror : Bool
  len   : Nat
  commit : Nat
  committed : Bool
  deriving DecidableEq, Repr

/-- The twin (R397–R401, R444–R446). -/
structure Twin where
  paired     : Bool
  lost       : Bool
  lostTick   : Nat
  takenOver  : Bool
  frozen     : Bool
  freezeDue  : Bool
  detached   : Bool
  detaching  : Bool
  /-- ticks without a heartbeat in a row, heartbeat seen for the current tick -/
  missed     : Nat
  beat       : Bool
  last       : Option HeartbeatMsg
  failSensed : Bool
  /-- generations mirrored from the twin: job, generation (R399) -/
  mirrors    : List (Nat × Nat)
  modNum     : Nat
  deriving DecidableEq, Repr

/-! ### Jobs (chapter 13) -/

/-- A claim entry (Table 13.3). -/
structure Claim where
  facet     : Nat
  spBase    : Nat
  spSize    : Nat
  liveBase  : Nat
  liveSize  : Nat
  spillEn   : Bool
  spillBase : Nat
  deriving DecidableEq, Repr

/-- A barrier's round (R285): facets that have arrived, rounds completed. -/
structure Barrier where
  arrived : List Nat
  deriving DecidableEq, Repr

/-- An amax history (R234–R237). -/
structure Amax where
  tensor  : Nat
  entries : List W32
  deriving DecidableEq, Repr

/-- A layer that a projection folded in the last sweep: its rank and the residual's place (R356–R358). -/
structure ProjRec where
  pipe  : Nat
  layer : Nat
  rank  : Nat
  facet : Nat
  base  : Nat
  rows  : Nat
  cols  : Nat
  deriving DecidableEq, Repr

/-- A job context. -/
structure Job where
  admitted   : Bool
  suspended  : Bool
  guaranteed : Bool
  releasing  : Bool
  releaseTick : Nat
  halted     : Bool
  key        : BitVec 128
  srKey      : BitVec 128
  claims     : List Claim
  debt       : Nat
  /-- JOB_DEBT when the switch that suspended the job began, to which the overrun is added (R412) -/
  debtBase   : Nat
  suspTicks  : Nat
  /-- ticks of suspension in the sweep, by which the schedule has moved (R413) -/
  suspShift  : Nat
  /-- facets where its live region stands in its spill area (R410) -/
  spilled    : List Nat
  /-- issue hold after a resume (R412), end instant -/
  holdUntil  : Option Nat
  /-- tick at which its rotation turn ends (R414), and whether a SWITCH_IN from outside suspended it -/
  turnEnd    : Option Nat
  missesTurns : Bool
  /-- suspended by YIELD (R409) -/
  yielded    : Bool
  maps       : List (Option PlaceMap)
  /-- maps installed whose phase has not yet begun: phase and map (R140) -/
  coming     : List (Nat × PlaceMap)
  pipes      : List Pipe
  bars       : List Barrier
  amax       : List Amax
  /-- entries of this sweep's folds, which join the histories unless the sweep is poisoned (R236): pipeline, tensor, value -/
  amaxPend  : List (Nat × Nat × W32)
  /-- layers folded by projection in the last sweep (R356, R357) -/
  proj      : List ProjRec
  snap       : SnapDom
  /-- guest stage contexts: (failed facet, sc, host facet, host sc) (R393) -/
  guests     : List (Nat × Nat × Nat × Nat)
  deriving DecidableEq, Repr

/-- A handle of the program store (R261). -/
structure Prog where
  handle : Nat
  job    : Nat
  strand : Bool
  image  : List Rec
  deriving DecidableEq, Repr

/-! ### Links (chapter 14) -/

/-- A message, or a TICK flit, that waits for slots of a link (R429): virtual channel, chord or fold channel, flits left, whether
its first flit has gone, and what leaves with its last flit. -/
structure TxMsg where
  vc    : Nat
  key   : Nat
  flits : Nat
  begun : Bool
  /-- what its first flit begins with -/
  head  : BitVec 2048
  /-- what leaves with its last flit: nothing before the last message of an operation that takes several -/
  out   : Option Output
  deriving DecidableEq, Repr

/-- A frame that the sender keeps until an ACK covers it (R426): its number, slots, and the credits it returns. -/
structure TxFrame where
  seqNum  : Nat
  slots   : List (Option SlotOut)
  crVc    : Nat
  crCount : Nat
  deriving DecidableEq, Repr

/-- A Lemir link port (R421–R447). -/
structure Link where
  /-- 0 DOWN, 1 TRAINING, 2 UP -/
  state     : Nat
  width     : Nat
  retraining : Option Nat
  /-- when the retraining began, and a lane whose success still waits for an instant at which the width may rise (R441) -/
  retrainAt : Nat
  riseDue   : Option Nat
  retrainQ  : List Nat
  /-- CLR_RETIRED was written; RETRAIN_ALL has since offered the retired lanes (R442) -/
  clrAsked  : Bool
  offerRetired : Bool
  good      : BitVec 8
  farModule : Nat
  farLink   : Nat
  farSerial : Word
  farTwin   : Word
  /-- width the far end offers in the exchange of R439 -/
  farWidth  : Nat
  /-- when the last attempt to train began, and, once its exchange has come, the last frame that the far end received (R439, R443) -/
  tryAt     : Option Nat
  farLast   : Option Nat
  /-- at link-up the far end was the twin matched at manufacture (R444) -/
  twinOk    : Bool
  rtt       : Nat
  lat       : Nat
  /-- sender: next number, held frames (oldest first), frames since the last alignment frame, credits per channel -/
  txNext    : Nat
  held      : List TxFrame
  txCount   : Nat
  /-- instants since which ACK has not advanced, and since which it counts for the next resend (R426, R443) -/
  ackAt     : Nat
  replayAt  : Nat
  /-- messages that wait for slots or have begun, in order; class whose turn it is with the flits left of it, and flits counted
  against each chord and fold channel that waits: channel, key, flits (R429) -/
  txQ       : List TxMsg
  turn      : Nat × Nat
  shares    : List (Nat × Nat × Nat)
  /-- fold channels that waited for credit of the link in the sweep: channel, since when it waits, time waited before (R348) -/
  foldWaits : List (Nat × Option Nat × Nat)
  naks      : Nat
  credits   : List Nat
  /-- receiver: last good number, discarding until a replay, whether a frame is due that says so, buffer occupancy per channel -/
  rxLast    : Nat
  rxNak     : Bool
  ackDue    : Bool
  rxBuf     : List Nat
  /-- credits to return per channel, and the channel of the last return (R428) -/
  rxOwed    : List Nat
  rxTurn    : Nat
  /-- flits still to come per channel: of the message in progress, and of one that is dropped or transits (R431, R432) -/
  rxLeft    : List Nat
  rxSkip    : List Nat
  downAt    : Nat
  optics    : Bool
  /-- module the link led to before it went down, for LINK_HOLD (R443) -/
  prevFar   : Option Nat
  cntCorr   : Nat
  cntUncorr : Nat
  cntSym    : List Nat
  cntReplay : Nat
  cntDown   : Nat
  cntVc     : Nat
  /-- LOAD bytes held while no MODEL_LOAD takes them: stream offset and bytes, edge count of the first (R174) -/
  loadHeld  : List (Nat × List Byte)
  loadSince : Option Nat
  deriving DecidableEq, Repr

/-! ### Focus (chapter 16) -/

/-- A core's delivery state (R477–R481). -/
structure CoreFocus where
  stack   : List (Nat × Nat)
  frozen  : Bool
  pending : List EvRec
  claimed : Option EvRec
  lastRec : Option EvRec
  dropped : Nat
  stackDrop : Nat
  deriving DecidableEq, Repr

/-- An external line (R482–R485). -/
structure LineState where
  asserted : Bool
  /-- latch recorded an edge to this level -/
  latch    : Option Bool
  deriving DecidableEq, Repr

/-- The focus event controller. -/
structure Focus where
  queue    : List EvRec
  /-- the FOC_QUEUE_FULL record that waits for room (R471) -/
  fullRaise : Option EvRec
  overflow : Bool
  dropped  : Nat
  hostOff  : Nat
  /-- expiry instants of the group hold-off timers, 0 for a timer at 0 (R472) -/
  timers   : List Nat
  cores    : List CoreFocus
  lines    : List LineState
  /-- filters run (R484) -/
  sampling : Bool
  /-- records dropped in the focus queue since the last EVENT_LOST (R474) -/
  lostFocus : Nat
  /-- first instant at which the next release may come: one record per 10 ns (R473) -/
  relAt    : Nat
  deriving DecidableEq, Repr

/-! ### Centroid, power, boot and test (chapters 17, 18, 20) -/

/-- The centroid (R488–R492). -/
structure Centroid where
  halted      : Bool
  /-- halted: slots stop from the next sweep edge -/
  stopped     : Bool
  /-- core that holds each role group, by role core number (Table 17.1) -/
  roles       : List Nat
  resetsSweep : Nat
  bank        : Nat
  noImage     : Bool
  /-- requested bank whose copy and check run (R492) -/
  switching   : Option Nat
  deriving DecidableEq, Repr

/-- Power management (chapter 17). -/
structure Power where
  emergRaised : Bool
  emergWins   : Nat
  peak        : Nat
  tmax        : Nat
  inputW      : Nat
  inputMv     : Nat
  /-- first tick of the energy record in progress -/
  statFirst   : Nat
  statTicks   : Nat
  flowLow     : Bool
  leak        : Bool
  leakAt      : Option Nat
  inlet       : Nat
  axisTemp    : Nat
  stackTemps  : List (Nat × Nat)
  hotStacks   : List Nat
  /-- temperature of a stack when its channels were last trained (R466) -/
  trainTemps  : List (Nat × Nat)
  tmaxSweep   : Nat
  /-- rails whose redundancy is spent, and phases out of service -/
  spentRails  : List Nat
  failedPhases : List (Nat × Nat)
  /-- PMBus STATUS bits (R506): names as numbers, see Ops -/
  statusBits  : List Nat
  droops      : List (Nat × Nat)
  /-- address straps, sampled when the module leaves OFF (R556) -/
  addr        : BitVec 2
  /-- the last plan: its instant, the powers that it used, and each facet's point before it (R497, R500) -/
  lastPlan    : Option (Nat × PowerMeter × List (Nat × Nat))
  /-- inputs of R382 at the last sweep edge: corrected errors, FEC codewords, droops -/
  prevCe      : Nat
  prevFec     : Nat
  prevDroop   : Nat
  score       : Nat
  terms       : List Nat
  deriving DecidableEq, Repr

/-- A SITE record (Table 18.5). -/
structure Site where
  /-- 0 GOOD, 1 FAILED, 2 RESERVE, 3 VACATED -/
  state   : Nat
  logical : Nat
  ucode   : Nat
  /-- known-good-die bin -/
  bin     : Nat
  /-- minimum voltage at 1.6 GHz in mV -/
  minMv   : Nat
  /-- leakage at 0.72 V and 85 °C in mA -/
  leakMa  : Nat
  deriving DecidableEq, Repr

/-- A failing wire (Table 18.5). -/
structure WireRec where
  site  : Nat
  edge  : Nat
  group : Nat
  wire  : Nat
  field : Bool
  deriving DecidableEq, Repr

/-- A firmware bank (R491, R524). -/
structure Bank where
  valid   : Bool
  version : W32
  accepts : List Nat
  ucode   : Nat
  deriving DecidableEq, Repr

/-- Flash: banks and the facet map (R514–R516). -/
structure Flash where
  banks      : List Bank
  committed  : Nat
  /-- validity and SEQ of the two record-area copies -/
  copies     : List (Bool × Nat)
  serial     : Word
  twinSerial : Word
  code       : Nat
  sites      : List Site
  wires      : List WireRec
  /-- REMAP records: facet, channel, row, reserve channel -/
  remaps     : List (Nat × Nat × Nat × Nat)
  lanes      : List (Nat × Nat)
  tests      : List (Nat × List Nat × Nat)
  /-- PPR records: stack, channel, pseudo-channel, bank, row -/
  pprs       : List (Nat × Nat × Nat × Nat × Nat)
  sfdp       : Bool
  deriving DecidableEq, Repr

/-- A microcode update in progress (R525): site, step 1–4, facet order. -/
structure UcodeRun where
  site     : Nat
  step     : Nat
  readyAt  : Nat
  deriving DecidableEq, Repr

/-- A row shift in progress (R392, R525): row, first site, last site, direction back to the origin, lossless. -/
structure Shift where
  row      : Nat
  fromSite : Nat
  toSite   : Nat
  lossless : Bool
  copied   : Bool
  ucode    : Bool
  deriving DecidableEq, Repr

/-- Test access (R516–R530). -/
structure Test where
  busy    : Bool
  op      : Nat
  result  : Nat
  site    : Nat
  started : Bool
  ucode   : Option UcodeRun
  bank    : Nat
  tap     : TapInstr
  deriving DecidableEq, Repr

/-- Power states (R507–R511): 0 OFF, 1 STANDBY, 2 BOOT, 3 READY. -/
structure Boot where
  state     : Nat
  step      : Nat
  cause     : Nat
  resetN    : Bool
  wakeCause : Bool
  /-- sites that failed a boot step, taken over once READY (R511) -/
  failed    : List Nat
  fellBack  : Bool
  fmapFell  : Bool
  deriving DecidableEq, Repr

/-- Memory whose contents the spec leaves undefined until it is written: keys `lo`..`hi` − 1, all of them (contents lost
with a site, R392; scratchpad given up at a switch, R410) or those whose place differs between two keys (R451).  They
read as free values of `seed`. -/
structure Scrambled where
  lo     : Nat
  hi     : Nat
  keys   : Option (BitVec 28 × BitVec 28)
  seed   : Nat
  deriving DecidableEq, Repr

/-- The module: everything the spec gives it. -/
structure Mach where
  /-- the instant, in 10 ns steps of the tick clock -/
  now     : Nat
  /-- tick edges since reset, for timeouts counted in ticks (R562) -/
  edges   : Nat
  boot    : Boot
  flash   : Flash
  tick    : Tick
  /-- set-up registers in effect: words that differ from their reset value, by BAR0 offset (R532) -/
  regs    : List (Nat × Word)
  /-- pending words of RWT and RWS registers (R534), and those that wait one sweep edge more (R15) -/
  pend    : List (Nat × Word)
  pendLate : List (Nat × Word)
  host    : HostIf
  descs   : List Desc
  copies  : List CopyRun
  jobs    : List Job
  chords  : List Chord
  loads   : List LoadRun
  progs   : List Prog
  facets  : List Facet
  flights : List Flight
  nextOp  : Nat
  chordNet : List HeaderMsg
  /-- latest CHORD_CHECK of a chord that is not in effect here: chord, DEPTH, kind (R113) -/
  earlyChecks : List (Nat × Nat × Nat)
  /-- requests of other modules that their target holds (R289): sender, operation, request -/
  heldReqs : List (Nat × Nat × RemoteReq)
  mem     : List Host.Cell
  tallies : List (Nat × W32)
  /-- uncorrectable scratchpad words and HBM bursts, by memory key (R461) -/
  ue      : List Nat
  scrambled : List Scrambled
  chans   : List Channel
  store   : List StoreItem
  twin    : Twin
  links   : List Link
  focus   : Focus
  ctr     : Centroid
  power   : Power
  test    : Test
  shifts  : List Shift
  /-- failed facets whose takeover waits for a copy in their row (R396, R527) -/
  failWait : List Nat
  out     : List Output
  /-- the model's own counter of free values -/
  free    : Nat
  deriving DecidableEq, Repr

/-- The state: the module and the commands that wait, first in, first out. -/
structure State where
  m       : Mach
  pending : List Instr
  deriving DecidableEq, Repr

/-! ### The state after reset

Right after a COLD reset (R509): STANDBY, every setting at its reset value (R510), flash as manufactured.  Where the
spec gives no reset value the value is zero or empty: DESIGN CHOICE, log entries 1 and 2. -/

def Timing.init : Timing := ⟨100000, 1000, 0, 0, 0, 0, 0, 8⟩

def Tick.init : Tick :=
  { running := false, locked := false, holdover := false, relock := false, refOk := false, armed := false, master := true, uplink := 0,
    refEn := false, refDiv := 0, baseTick := 0, baseSweep := 0, tickNo := 0, sweepNo := 0, phase := 0, overtime := 0,
    overrun := false, inOvertime := false, sweepFirst := 0, edgeAt := 0, nextEdge := 0, stopIn := 0, missed := 0,
    sym := none, symEdge := 0, slew := 0, refEdge := 0, follow := none, sampled := none,
    reports := [], reported := none }

def Ring.init : Ring :=
  { cons := 0, prod := 0, idle := false, halted := false, cause := 0, cplProd := 0, cplCons := 0, held := [],
    unsig := 0, firstUnsig := none, used := false, disabledAt := none, live := [], reads := [] }

def OutRing.init : OutRing := ⟨0, 0, 0, none, 0, 0⟩

/-- MSI-X vectors are masked at reset, as PCI Express has it.  PRESUMED. -/
def Endpoint.init : Endpoint :=
  { up := true, reading := [], latMax := 0, fails := 0, mask := BitVec.allOnes 64,
    pba := 0 }

def HostIf.init : HostIf :=
  { rings := List.replicate 32 Ring.init, evt := OutRing.init, stat := OutRing.init, snapProd := 0, snapCons := 0,
    eps := List.replicate 2 Endpoint.init, rotation := 0, polledAt := none, pollNum := 0, polls := [] }

def PipeStats.init : PipeStats := ⟨0, 0, 0, 0, 0, 0, 0, 0, 0, 0, 0⟩

def UpdGather.init : UpdGather := ⟨[], [], [], 0, 0, 0, false, 0⟩

/-- BNOISE_EMA has no finite value before the first estimate (R319): it stands at the canonical NaN.  DESIGN CHOICE,
log entry 1. -/
def Pipe.init : Pipe :=
  { sched := none, steerAt := none, queue := [], slicing := none, reserveUsed := 0, sweepClosed := false, pub := none,
    rows := List.replicate 4 none, checks := [], asked := [], switches := [], told := [], abandoned := [], lostAt := [], liveMbs := [], admitted := [], tokensDone := 0, mbDone := 0,
    lastCursor := none, stats := PipeStats.init, rebal := none, rollout := none, setup := none,
    gather := UpdGather.init, values := none, verdict := none, acts := [], step := 0, skipped := 0, poisoned := 0,
    zeroed := 0, flags := 0, bnoiseEma := 0x7FC00000, foldLoss := 0, mbLoss := [] }

def VerEntry.init : VerEntry :=
  { crc := 0, sealTick := 0, size := 0, base := 0, space := 0, source := 0, srcSc := 0, srcTag := 0, refs := 0,
    vtag := 0, pipe := 0, job := 0, hold := false, pend := false, pendTill := 0, bad := false, state := 0, busy := [],
    retired := false, snapHeld := false }

def Locus.init : Locus :=
  { installed := false, autoSpace := 0, autoBase1 := 0, autoBase0 := 0, xferSize := 0, keepBase := 0, keepBudget := 0,
    keepTag := 0, nLayers := 0, gather := [], layers := [], entries := List.replicate 4 VerEntry.init,
    freed := [], keptValid := [] }

def StageCtx.init : StageCtx :=
  { owner := none, prog := [], stale := [], missing := [], run := none, slips := 0, chronic := false, prefill := 0, shift := 0,
    backlog := [], fwd := 0, bwd := 0, tokLoss := [], maxSlot := 0, lastMax := 0, flags := 0, locus := Locus.init, gradBase := none, written := [], handed := [], handCnt := [], backMbs := [], fwdMbs := [],
    acts := [], update := [] }

def Facet.init : Facet :=
  { failed := false, holding := false, hostedBy := none, scs := List.replicate 4 StageCtx.init,
    prisms := List.replicate 4 ⟨[], []⟩, ray := [], strands := [], groups := [], nextGroup := 0, strandProgs := [], grads := [], updWaited := false, turns := List.replicate 7 ⟨none, 0, []⟩,
    point := 4, ramp := none, temp := 0, hotSince := none, floored := false, missedAck := 0, cntCe := 0, cntUe := 0, ueSweep := 0,
    imbRun := 0, imbRaised := false, moves := [], retireDue := [], ceSweep := [], retrain := none,
    retrainAt := none, retrainReq := [], switching := none }

def Channel.init : Channel :=
  { en := false, job := 0, pipe := 0, topo := 0, ordered := false, fmt := 0, lossEn := false, linkAuto := false,
    torusX := 0, self := 0, members := [], layers := [], crc := 0, closed := false, early := [], cur := 0, sub := 0,
    began := false, codes := [], accs := [], written := 0, aborted := [], txSeq := [], rxSeq := [], parts := [],
    outq := [], mb := 0, tokens := 0, locals := [], losses := [], totals := none, flags := 0, done := [], widened := 0,
    lastMove := 0, stalled := false, foldFrom := none, foldTime := 0 }

def SnapDom.init : SnapDom :=
  { armed := false, mirror := false, m := 0, k := 0, leader := 0, self := 0, members := [], targets := [], crc := 0,
    cut := none, gens := [], commitCtr := 0, sRun := 0, nFail := 0, lastCut := 0, next := 0, cost := 0, doneIn := none,
    cutAt := none, deferred := false, score := 0, prevScore := 0, lastRisk := 0, riskDue := false, bad := [], restore := none,
    verify := none, cursors := List.replicate 4 none, roomless := none, taps := [], tapOff := false,
    lastReports := [], lastWant := 0, moving := [] }

def Job.init : Job :=
  { admitted := false, suspended := false, guaranteed := false, releasing := false, releaseTick := 0, halted := false,
    key := 0, srKey := 0, claims := [], debt := 0, debtBase := 0, suspTicks := 0, suspShift := 0, spilled := [], holdUntil := none, turnEnd := none, yielded := false,
    missesTurns := false, maps := List.replicate 6 none, coming := [], pipes := List.replicate 4 Pipe.init,
    bars := List.replicate 4 ⟨[]⟩, amax := [], amaxPend := [], proj := [], snap := SnapDom.init, guests := [] }

def Twin.init : Twin :=
  { paired := false, lost := false, lostTick := 0, takenOver := false, frozen := false, freezeDue := false,
    detached := false, detaching := false, missed := 0, beat := false, last := none, failSensed := false,
    mirrors := [], modNum := 0 }

def Link.init : Link :=
  { state := 0, width := 0, retraining := none, retrainQ := [], clrAsked := false, offerRetired := false, good := 0, farModule := 0,
    farLink := 0, farSerial := 0, farTwin := 0, farWidth := 0, twinOk := false, rtt := 0, lat := 0, txNext := 0, held := [], naks := 0,
    txCount := 0, ackAt := 0, replayAt := 0, retrainAt := 0, riseDue := none, tryAt := none, farLast := none,
    credits := List.replicate 6 0, txQ := [], turn := (2, 0), shares := [], foldWaits := [], rxLast := 0, rxNak := false, ackDue := false,
    rxBuf := List.replicate 6 0, rxOwed := List.replicate 6 0, rxTurn := 0, rxLeft := List.replicate 6 0, rxSkip := List.replicate 6 0, downAt := 0,
    optics := false, prevFar := none, cntCorr := 0, cntUncorr := 0, cntSym := List.replicate 8 0, cntReplay := 0,
    cntDown := 0, cntVc := 0, loadHeld := [], loadSince := none }

def CoreFocus.init : CoreFocus := ⟨[], false, [], none, none, 0, 0⟩

def Focus.init : Focus :=
  { queue := [], fullRaise := none, overflow := false, dropped := 0, hostOff := 0, timers := List.replicate 64 0,
    cores := List.replicate 16 CoreFocus.init, lines := List.replicate 12 ⟨false, none⟩, sampling := false,
    lostFocus := 0, relAt := 0 }

def Centroid.init : Centroid :=
  { halted := false, stopped := false, roles := List.range 14, resetsSweep := 0, bank := 0, noImage := false,
    switching := none }

def Power.init : Power :=
  { emergRaised := false, emergWins := 0, peak := 0, tmax := 0, inputW := 0, inputMv := 0, statFirst := 0,
    statTicks := 0, flowLow := false, leak := false, leakAt := none, inlet := 0, axisTemp := 0, stackTemps := [],
    hotStacks := [], trainTemps := [], tmaxSweep := 0, spentRails := [], failedPhases := [], statusBits := [], droops := [], addr := 0,
    lastPlan := none, prevCe := 0, prevFec := 0, prevDroop := 0, score := 0, terms := [0, 0, 0, 0] }

/-- Logical index of a site at manufacture (R21, Table 1.2). -/
def siteLogical (site : Nat) : Nat :=
  let row := site / 13
  let col := site % 13
  if col = 12 then 96 + row else if row % 2 = 0 then 12 * row + col else 12 * row + (11 - col)

/-- The facet map at manufacture (R21).  Serial, microcode and bank contents: DESIGN CHOICE, log entry 2. -/
def Flash.init : Flash :=
  { banks := List.replicate 2 ⟨true, 0, [0], 0⟩, committed := 0, copies := [(true, 0), (true, 0)], serial := 0,
    twinSerial := 0, code := 0,
    sites := (List.range 104).map fun s => ⟨if s % 13 = 12 then 2 else 0, siteLogical s, 0, 0, 0, 0⟩,
    wires := [], remaps := [], lanes := [], tests := [], pprs := [], sfdp := true }

def Test.init : Test :=
  { busy := false, op := 0, result := 0, site := 0, started := false, ucode := none, bank := 0, tap := .idcode }

def Boot.init : Boot :=
  { state := 1, step := 0, cause := 0, resetN := true, wakeCause := false, failed := [], fellBack := false,
    fmapFell := false }

/-- The module with given flash, always-on domain and boot state, and everything else at reset. -/
def Mach.fresh (fl : Flash) (b : Boot) : Mach :=
  { now := 0, edges := 0, boot := b, flash := fl, tick := Tick.init, regs := [], pend := [], pendLate := [],
    host := HostIf.init, descs := [], copies := [], jobs := List.replicate 16 Job.init, chords := [], loads := [],
    progs := [], facets := List.replicate 104 Facet.init, flights := [], nextOp := 0, chordNet := [], earlyChecks := [], heldReqs := [], mem := [],
    tallies := [], ue := [], scrambled := [], chans := List.replicate 32 Channel.init, store := [], twin := Twin.init,
    links := List.replicate 36 Link.init, focus := Focus.init, ctr := Centroid.init, power := Power.init,
    test := Test.init, shifts := [], failWait := [], out := [], free := 0 }

/-- The state after reset: STANDBY after a COLD reset with no command waiting. -/
def State.reset : State := ⟨Mach.fresh Flash.init Boot.init, []⟩

end Sys2Proof.Machine
end

