-- ==== Sys2Proof/Machine/Regs.lean ====
section
/-!
DEFINITION. The set-up register map of chapter 19: every writable register's offset, access kind, reset value, field
mask and range (Tables 19.2–19.9), bit fields, sparse maps, and the stores of R534.
-/
namespace Sys2Proof.Machine

/-! ### Sparse maps in canonical form

A sorted list of key and value pairs without the default value; used for memory, tallies and registers. -/

/-- Value at `x`, `d` when nothing is listed. -/
def kvGet {α : Type} (d : α) : List (Nat × α) → Nat → α
  | [], _ => d
  | (k, v) :: t, x => if x = k then v else kvGet d t x

/-- Stores `v` at `x`; a stored default removes the entry. -/
def kvSet {α : Type} [DecidableEq α] (d : α) : List (Nat × α) → Nat → α → List (Nat × α)
  | [], x, v => if v = d then [] else [(x, v)]
  | (k, w) :: t, x, v =>
    if x < k then (if v = d then (k, w) :: t else (x, v) :: (k, w) :: t)
    else if x = k then (if v = d then t else (k, v) :: t)
    else (k, w) :: kvSet d t x v

/-- Every listed key is at least `lo`. -/
def kvFrom {α : Type} (lo : Nat) : List (Nat × α) → Bool
  | [] => true
  | (k, _) :: _ => decide (lo ≤ k)

/-- Canonical form: keys strictly rise and no value is the default. -/
def kvWf {α : Type} [DecidableEq α] (d : α) : List (Nat × α) → Bool
  | [] => true
  | (k, v) :: t => decide (v ≠ d) && kvFrom (k + 1) t && kvWf d t

/-! ### Bit fields -/

/-- Bits `hi`:`lo` of a number (R12). -/
def bf (x hi lo : Nat) : Nat := (x >>> lo) % 2 ^ (hi + 1 - lo)

/-- ⌈a / b⌉. -/
def ceilDiv (a b : Nat) : Nat := (a + b - 1) / b

/-- Bit `i` of a number. -/
def tb (x i : Nat) : Bool := x.testBit i

/-- Bits `hi`:`lo` of a 64-bit word. -/
def wf (w : Word) (hi lo : Nat) : Nat := bf w.toNat hi lo

/-- A word from a number. -/
def word (n : Nat) : Word := BitVec.ofNat 64 n

/-- 1 or 0. -/
def b2n (b : Bool) : Nat := if b then 1 else 0

/-- `w` ones from bit `lo`. -/
def ones (lo w : Nat) : Nat := (2 ^ w - 1) <<< lo

/-- Saturating 32-bit count. -/
def sat32 (n : Nat) : Nat := min n 0xFFFFFFFF

/-- The little-endian bytes of a number. -/
def leBytes (n x : Nat) : List Byte := (List.range n).map fun i => BitVec.ofNat 8 (x >>> (8 * i))

/-- The number that little-endian bytes spell. -/
def leNat : List Byte → Nat
  | [] => 0
  | b :: t => b.toNat + 256 * leNat t

/-! ### Registers -/

/-- Access kinds (Table 0.4). -/
inductive Access where
  | ro | rw | rwt | rws | w1c | wo
  deriving DecidableEq, Repr

/-- A register or register array: base, dimensions as (count, stride) from the widest stride down, access kind, reset
value, writable bits, and the range check of R536. -/
structure RegRow where
  base  : Nat
  dims  : List (Nat × Nat)
  acc   : Access
  reset : Nat
  mask  : Nat
  ok    : Nat → Bool

/-- Field `hi`:`lo` lies in `mn`..`mx`. -/
def rng (hi lo mn mx : Nat) (v : Nat) : Bool := decide (mn ≤ bf v hi lo) && decide (bf v hi lo ≤ mx)

def anyVal (_ : Nat) : Bool := true

def both (p q : Nat → Bool) (v : Nat) : Bool := p v && q v

/-- Number of ones in the low `n` bits. -/
def popc (n v : Nat) : Nat := ((List.range n).filter fun i => v.testBit i).length

/-- Module-wide registers (Table 19.2; Tables 2.1, 12.9, 14.10, 17.7, 18.8). -/
def regsModule : List RegRow := [
  ⟨0x8, [], .rw, 0, ones 0 12, anyVal⟩,
  ⟨0x20, [], .rws, 0, 1, anyVal⟩,
  ⟨0x1000, [], .wo, 0, 3, anyVal⟩,
  ⟨0x1008, [], .rws, 100000, ones 0 21, anyVal⟩,
  ⟨0x1010, [], .rws, 1000, ones 0 21, anyVal⟩,
  ⟨0x1018, [(5, 8)], .rws, 0, ones 0 21, anyVal⟩,
  ⟨0x1040, [], .rws, 8, ones 0 8, anyVal⟩,
  ⟨0x1048, [], .rw, 1, 1, anyVal⟩,
  ⟨0x1050, [], .rw, 0, ones 0 6, rng 5 0 0 35⟩,
  ⟨0x1058, [], .rwt, 0, ones 0 36, anyVal⟩,
  ⟨0x1060, [], .rw, 0, 1 + ones 32 21, anyVal⟩,
  ⟨0x1068, [(2, 8)], .rw, 0, ones 0 64, anyVal⟩,
  ⟨0x1098, [], .w1c, 0, ones 0 4, anyVal⟩,
  ⟨0x2000, [], .rws, 0, 7, rng 2 0 0 4⟩,
  ⟨0x2008, [], .rws, 6, 7, rng 2 0 0 6⟩,
  ⟨0x2010, [], .rws, 90, ones 0 7, rng 6 0 50 100⟩,
  ⟨0x2018, [], .rw, 10500, ones 0 14, fun v => rng 13 0 6000 11500 v && decide (v % 10 = 0)⟩,
  ⟨0x2020, [], .rw, 0, ones 0 16, anyVal⟩,
  ⟨0x2028, [], .rw, 95, ones 0 7, rng 6 0 60 104⟩,
  ⟨0x2030, [], .rw, 102, ones 0 7, rng 6 0 60 104⟩,
  ⟨0x2038, [], .rw, 1000, ones 0 16, rng 15 0 0 60000⟩,
  ⟨0x2040, [], .rw, 64, ones 0 16, rng 15 0 1 65535⟩,
  ⟨0x2048, [], .wo, 0, 1 + ones 8 7, anyVal⟩,
  ⟨0x2058, [], .w1c, 0, ones 0 17, anyVal⟩,
  ⟨0x3000, [], .rw, 0, 1, anyVal⟩,
  ⟨0x3008, [], .wo, 0, ones 0 4 + ones 8 7 + ones 16 4 + ones 24 1, anyVal⟩,
  ⟨0x3018, [], .rw, 0, ones 0 64, fun v => decide (v % 4096 = 0)⟩,
  ⟨0x3020, [], .rw, 0, ones 0 64, fun v => decide (v % 4096 = 0) && decide (v ≤ 58720256)⟩,
  ⟨0x3028, [], .rw, 0, ones 0 64, anyVal⟩,
  ⟨0x3030, [], .w1c, 0, ones 0 10, anyVal⟩,
  ⟨0x4000, [], .rw, 0x25, 0xFD, rng 7 3 1 16⟩,
  ⟨0x4008, [], .rw, 0, ones 0 64, anyVal⟩,
  ⟨0x4010, [], .wo, 0, 3, anyVal⟩,
  ⟨0x4020, [], .w1c, 0, ones 0 5, anyVal⟩,
  ⟨0x4028, [], .rw, 0xF00000000, ones 0 36, fun v => decide (2 ≤ popc 36 v) && decide (popc 36 v ≤ 8)⟩]

/-- VECTOR, COUNT and TIME of a coalescing control register (Table 19.3). -/
def maskCoalesce : Nat := ones 0 6 + ones 8 9 + ones 20 10

/-- Host-interface registers (Table 19.3). -/
def regsHost : List RegRow := [
  ⟨0x10000, [], .wo, 0, 1, anyVal⟩,
  ⟨0x10008, [(2, 8)], .rw, 0, ones 12 52, anyVal⟩,
  ⟨0x10018, [], .rw, 200, ones 0 14, rng 13 0 50 10000⟩,
  ⟨0x10020, [(2, 0x18)], .rw, 0, ones 12 52, anyVal⟩,
  ⟨0x10028, [(2, 0x18)], .rw, 6, ones 0 5, rng 4 0 6 16⟩,
  ⟨0x10030, [(2, 0x18)], .rw, 0, maskCoalesce + ones 32 2, rng 16 8 0 256⟩,
  ⟨0x10050, [], .rw, 0, ones 12 52, anyVal⟩,
  ⟨0x10058, [], .rw, 6, ones 0 5, rng 4 0 6 16⟩,
  ⟨0x10060, [], .rw, 0, ones 32 2, anyVal⟩,
  ⟨0x10088, [], .w1c, 0, ones 0 5, anyVal⟩,
  ⟨0x11000, [(32, 0x40)], .rw, 0, ones 12 52, anyVal⟩,
  ⟨0x11008, [(32, 0x40)], .rw, 6, ones 0 5, rng 4 0 6 16⟩,
  ⟨0x11010, [(32, 0x40)], .rw, 0, 0xF7, anyVal⟩,
  ⟨0x11018, [(32, 0x40)], .rw, 0, ones 0 16, anyVal⟩,
  ⟨0x11028, [(32, 0x40)], .rw, 0, ones 12 52, anyVal⟩,
  ⟨0x11030, [(32, 0x40)], .rw, 6, ones 0 5, rng 4 0 6 16⟩,
  ⟨0x11038, [(32, 0x40)], .rw, 0, maskCoalesce, rng 16 8 0 256⟩]

/-- Job registers (Tables 19.4, 19.5, 13.1, 9.9). -/
def regsJob : List RegRow := [
  ⟨0x20000, [(16, 0x800)], .rws, 0x100, 7 + ones 8 8 + ones 16 12 + ones 28 4, rng 15 8 1 255⟩,
  ⟨0x20020, [(16, 0x800), (2, 8)], .wo, 0, ones 0 64, anyVal⟩,
  ⟨0x20040, [(16, 0x800), (4, 8)], .rws, 0, 1 + ones 4 12, rng 15 4 0 4031⟩,
  ⟨0x20060, [(16, 0x800), (4, 0x10)], .rws, 0, ones 0 64, anyVal⟩,
  ⟨0x20068, [(16, 0x800), (4, 0x10)], .rws, 0, ones 0 32, anyVal⟩,
  ⟨0x20100, [(16, 0x800), (16, 0x20)], .rws, 0, ones 0 5 + ones 12 14 + ones 32 24, anyVal⟩,
  ⟨0x20108, [(16, 0x800), (16, 0x20)], .rws, 0, ones 0 16, anyVal⟩,
  ⟨0x20110, [(16, 0x800), (16, 0x20)], .rws, 0, ones 0 41, rng 11 0 0 0⟩,
  ⟨0x20118, [(16, 0x800), (16, 0x20)], .rws, 0, ones 0 41, rng 11 0 0 0⟩,
  ⟨0x20300, [(16, 0x800), (8, 0x10)], .rws, 0, 7 + ones 12 52, anyVal⟩,
  ⟨0x20308, [(16, 0x800), (8, 0x10)], .rws, 0, ones 12 52, anyVal⟩,
  ⟨0x28000, [], .w1c, 0, ones 0 8, anyVal⟩]

/-- Pipeline, version, update and fold registers (Table 19.8; Tables 4.15, 5.14, 10.12, 11.11, 7.6). -/
def regsPipe : List RegRow := [
  ⟨0x30000, [], .rws, 1, 3, rng 1 0 0 2⟩,
  ⟨0x30008, [], .rws, 90, ones 0 7, rng 6 0 50 100⟩,
  ⟨0x30010, [], .rw, 16, ones 0 16, rng 15 0 1 65535⟩,
  ⟨0x30018, [], .rw, 1000, ones 0 16, rng 15 0 1 65535⟩,
  ⟨0x30020, [], .w1c, 0, ones 0 11, anyVal⟩,
  ⟨0x40000, [], .rw, 0, ones 0 12, anyVal⟩,
  ⟨0x40008, [(2, 8)], .rw, 0, ones 0 36, anyVal⟩,
  ⟨0x40018, [], .rw, 1000, ones 0 16, rng 15 0 1 65535⟩,
  ⟨0x40020, [], .w1c, 0, ones 0 9, anyVal⟩,
  ⟨0x40100, [(16, 8)], .rws, 0, 15, anyVal⟩,
  ⟨0x50000, [], .rws, 0, 3, rng 1 0 0 2⟩,
  ⟨0x50008, [], .rws, 25, ones 0 7, rng 6 0 0 50⟩,
  ⟨0x50010, [], .w1c, 0, ones 0 10, anyVal⟩,
  ⟨0x50100, [(16, 8)], .rws, 0, 15 + ones 8 8,
    fun v => rng 1 0 0 2 v && (decide (bf v 1 0 = 0) || rng 15 8 1 255 v)⟩,
  ⟨0x50180, [(16, 8)], .rws, 1, ones 0 20, anyVal⟩,
  ⟨0x50200, [(16, 8)], .rws, 1048575, ones 0 20, anyVal⟩,
  ⟨0x60000, [], .rws, 0x244, ones 0 12, both (rng 3 0 1 15) (both (rng 7 4 1 15) (rng 11 8 1 15))⟩,
  ⟨0x60008, [], .rws, 50, ones 0 7, rng 6 0 0 100⟩,
  ⟨0x60010, [], .rw, 16, ones 0 16, rng 15 0 1 65535⟩,
  ⟨0x60018, [], .rws, 0, 3, anyVal⟩,
  ⟨0x60020, [], .w1c, 0, ones 0 7, anyVal⟩,
  ⟨0x60100, [(32, 8)], .rws, 0, ones 0 8, rng 7 0 0 128⟩]

/-- Snapshot, link, memory and focus registers (Table 19.9; Tables 12.9, 14.10, 15.5, 16.5). -/
def regsSnap : List RegRow := [
  ⟨0x70000, [], .rws, 16, ones 0 16, rng 15 0 1 65535⟩,
  ⟨0x70008, [], .rws, 0x000A000403E80040, ones 0 64, anyVal⟩,
  ⟨0x70010, [], .rws, 80, ones 0 7, rng 6 0 0 125⟩,
  ⟨0x70018, [], .rws, 10000, ones 0 32, rng 31 0 1 0xFFFFFFFF⟩,
  ⟨0x70020, [], .rws, 10, ones 0 20, rng 19 0 1 1000000⟩,
  ⟨0x70028, [], .rws, 0xF6, ones 0 8, fun v => decide (v = 0) || rng 7 0 226 255 v⟩,
  ⟨0x70030, [], .rws, 0, ones 0 22, anyVal⟩,
  ⟨0x70038, [], .rws, 0, ones 0 8, rng 7 0 0 192⟩,
  ⟨0x70040, [], .rw, 64, ones 0 16, rng 15 0 1 65535⟩,
  ⟨0x70050, [], .w1c, 0, ones 0 19, anyVal⟩,
  ⟨0x70100, [(16, 8)], .rws, 0x2800000, 15 + ones 16 10, anyVal⟩,
  ⟨0x80000, [(36, 0x100)], .rw, 0x11, ones 0 5, anyVal⟩,
  ⟨0x80008, [(36, 0x100)], .wo, 0, 3 + ones 4 5, anyVal⟩,
  ⟨0x84000, [], .rws, 8, 15, rng 3 0 1 15⟩,
  ⟨0x84008, [], .rw, 4096, ones 0 21, rng 20 0 1 1048576⟩,
  ⟨0x84010, [], .rw, 100, ones 0 14, rng 13 0 0 10000⟩,
  ⟨0x84018, [], .w1c, 0, ones 0 11, anyVal⟩,
  ⟨0x88000, [(4096, 8)], .rws, 63, ones 0 6, anyVal⟩,
  ⟨0x90000, [], .rws, 0x0B5E2D7, ones 0 28, anyVal⟩,
  ⟨0x90008, [], .rw, 3, 3, anyVal⟩,
  ⟨0x90010, [], .rw, 25, ones 0 7, rng 6 0 7 100⟩,
  ⟨0x90018, [], .rw, 10000, ones 0 32, rng 31 0 1 0xFFFFFFFF⟩,
  ⟨0x90020, [], .rw, 64, ones 0 16, rng 15 0 1 65535⟩,
  ⟨0x90028, [], .rw, 86400, ones 0 20, rng 19 0 3600 604800⟩,
  ⟨0x90030, [], .wo, 0, 1 + ones 8 7 + ones 16 4, anyVal⟩,
  ⟨0x90038, [], .w1c, 0, ones 0 7, anyVal⟩,
  ⟨0x91000, [(104, 0x40), (8, 8)], .rws, 0, ones 0 30 + ones 32 16,
    fun v => rng 39 32 0 191 v && (! v.testBit 28 || rng 47 40 1 192 v)⟩,
  ⟨0xA0000, [], .rw, 0x10, ones 0 5, anyVal⟩,
  ⟨0xA0020, [], .w1c, 0, 7, anyVal⟩,
  ⟨0xA0100, [(12, 8)], .rw, 0x19, ones 0 12, both (rng 7 0 1 255) (rng 9 8 0 2)⟩,
  ⟨0xA0200, [(64, 8)], .rw, 0, ones 0 16, anyVal⟩,
  ⟨0xA1000, [(2304, 8)], .rw, 0x401, ones 0 11, anyVal⟩]

/-- All writable registers. -/
def regRows : List RegRow := regsModule ++ regsHost ++ regsJob ++ regsPipe ++ regsSnap

/-- Does offset `r` from the base fall on an element of the dimensions (R537)? -/
def dimsHit : List (Nat × Nat) → Nat → Bool
  | [], r => decide (r = 0)
  | (n, st) :: t, r => decide (r / st < n) && dimsHit t (r % st)

/-- The register that holds the word at an 8-byte-aligned BAR0 offset. -/
def regFind (off : Nat) : Option RegRow :=
  regRows.find? fun r => decide (r.base ≤ off) && dimsHit r.dims (off - r.base)

/-- Reset value of the word at `off`, 0 at a reserved address. -/
def regReset (off : Nat) : Word := ((regFind off).map fun r => word r.reset).getD 0

/-- The word in effect at `off`. -/
def regGet (m : Mach) (off : Nat) : Word :=
  kvGet (regReset off) m.regs off

/-- The word in effect at `off`, as a number. -/
def regN (m : Mach) (off : Nat) : Nat := (regGet m off).toNat

/-- Puts a word into effect. -/
def regSet (m : Mach) (off : Nat) (v : Word) : Mach := { m with regs := kvSet (regReset off) m.regs off v }

/-- A pending word (R534); every word that holds a pending value is listed, whatever the value. -/
def pendPut (l : List (Nat × Word)) (k : Nat) (v : Word) : List (Nat × Word) := (l.filter fun e => e.1 != k) ++ [(k, v)]

/-- The word that a write to an RWT or RWS register merges into: the pending one, or the one in effect (R534). -/
def pendGet (m : Mach) (off : Nat) : Word :=
  match m.pend.find? fun e => e.1 == off with
  | some e => e.2
  | none => regGet m off

/-- Sets bits of a word, as an event does in its event register. -/
def regOr (m : Mach) (off : Nat) (v : Word) : Mach := regSet m off (regGet m off ||| v)

/-- `old` with `size` bytes from byte `ofs` replaced by those of `v` (R534). -/
def mergeBytes (old : Word) (ofs size : Nat) (v : Word) : Word :=
  let msk := word (ones (8 * ofs) (8 * size))
  (old &&& ~~~msk) ||| ((v <<< (8 * ofs)) &&& msk)

/-! Named offsets of Tables 19.2–19.9 -/

def offPeriod : Nat := 0x1008
def offSweepLen : Nat := 0x1010
def offPhase (k : Nat) : Nat := 0x1018 + 8 * k
def offGrace : Nat := 0x1040
def offRole : Nat := 0x1048
def offUplink : Nat := 0x1050
def offDownlinks : Nat := 0x1058
def offRefCtl : Nat := 0x1060
def offBaseTick : Nat := 0x1068
def offBaseSweep : Nat := 0x1070
def offModuleNum : Nat := 0x8
def offFwCtl : Nat := 0x20
def offFloor : Nat := 0x2000
def offCeil : Nat := 0x2008
def offReclaim : Nat := 0x2010
def offCap : Nat := 0x2018
def offStatDiv : Nat := 0x2020
def offThermHi : Nat := 0x2028
def offThermCrit : Nat := 0x2030
def offLeakGrace : Nat := 0x2038
def offFailUe : Nat := 0x2040
def offTestCtl : Nat := 0x3000
def offFlashSrc : Nat := 0x3018
def offFlashLen : Nat := 0x3020
def offPairSerial : Nat := 0x3028
def offTwinCtl : Nat := 0x4000
def offLeaseExp : Nat := 0x4008
def offTwinLinks : Nat := 0x4028
def offDbBase (e : Nat) : Nat := 0x10008 + 8 * e
def offDbPoll : Nat := 0x10018
def offEvtBase : Nat := 0x10020
def offEvtCtl : Nat := 0x10030
def offStatBase : Nat := 0x10038
def offStatCtl : Nat := 0x10048
def offSnapBase : Nat := 0x10050
def offSnapCtl : Nat := 0x10060
def offRing (n : Nat) : Nat := 0x11000 + 0x40 * n
def offRingSize (n : Nat) : Nat := offRing n + 0x08
def offRingCtl (n : Nat) : Nat := offRing n + 0x10
def offRingEpoch (n : Nat) : Nat := offRing n + 0x18
def offCplBase (n : Nat) : Nat := offRing n + 0x28
def offCplSize (n : Nat) : Nat := offRing n + 0x30
def offCplCtl (n : Nat) : Nat := offRing n + 0x38
def offJob (j : Nat) : Nat := 0x20000 + 0x800 * j
def offJobBar (j b : Nat) : Nat := offJob j + 0x40 + 8 * b
def offJobMask (j b : Nat) : Nat := offJob j + 0x60 + 0x10 * b
def offLwin (j w : Nat) : Nat := offJob j + 0x100 + 0x20 * w
def offHwin (j w : Nat) : Nat := offJob j + 0x300 + 0x10 * w
def offRebalCtl : Nat := 0x30000
def offRebalMargin : Nat := 0x30008
def offCreditTimeout : Nat := 0x30010
def offRemoteTimeout : Nat := 0x30018
def offLoadPos : Nat := 0x40000
def offLoadUp : Nat := 0x40008
def offLoadDown : Nat := 0x40010
def offLoadTimeout : Nat := 0x40018
def offVerAuto (j : Nat) : Nat := 0x40100 + 8 * j
def offStatMode : Nat := 0x50000
def offHostShare : Nat := 0x50008
def offSteerCtl (j : Nat) : Nat := 0x50100 + 8 * j
def offSteerMin (j : Nat) : Nat := 0x50180 + 8 * j
def offSteerMax (j : Nat) : Nat := 0x50200 + 8 * j
def offFoldArb : Nat := 0x60000
def offFoldMove : Nat := 0x60008
def offFoldMovePct : Nat := 0x60008
def offFoldTimeout : Nat := 0x60010
def offScaleCtl : Nat := 0x60018
def offFoldWindow (c : Nat) : Nat := 0x60100 + 8 * c
def offRiskRepeat : Nat := 0x70000
def offRiskLvl : Nat := 0x70008
def offThermBase : Nat := 0x70010
def offMtbf : Nat := 0x70018
def offCostMin : Nat := 0x70020
def offVerifyTol : Nat := 0x70028
def offStoreBase : Nat := 0x70030
def offStoreSlots : Nat := 0x70038
def offRingTimeout : Nat := 0x70040
def offSnapJob (j : Nat) : Nat := 0x70100 + 8 * j
def offLinkCtl (l : Nat) : Nat := 0x80000 + 0x100 * l
def offHopMax : Nat := 0x84000
def offRetrainThr : Nat := 0x84008
def offLinkHold : Nat := 0x84010
def offRoute (n : Nat) : Nat := 0x88000 + 8 * n
def offKeyDef : Nat := 0x90000
def offMemCtl : Nat := 0x90008
def offRetireThr : Nat := 0x90018
def offRetrainPeriod : Nat := 0x90020
def offMemRgn (f r : Nat) : Nat := 0x91000 + 0x40 * f + 8 * r
def offFocCtl : Nat := 0xA0000
def offLineCtl (l : Nat) : Nat := 0xA0100 + 8 * l
def offGrpHold (g : Nat) : Nat := 0xA0200 + 8 * g
def offSrc (s : Nat) : Nat := 0xA1000 + 8 * s

end Sys2Proof.Machine
end

