-- ==== Sys2Proof/Machine/Mem.lean ====
section
/-!
DEFINITION. Memory: scratchpads, HBM and staging SRAM as one sparse map (R36, R37), the placement of granules (R450),
uncorrectable words and bursts (R459–R461), and the tallies (R36, R282).
-/
namespace Sys2Proof.Machine

/-- Key of a byte: die, space and offset as the lattice address places them (Table 1.6). -/
def memKey (facet space off : Nat) : Nat := facet * 2 ^ 45 + space * 2 ^ 41 + off

/-- The key at which lattice memory stands: a facet doubled up on a host facet's die has its spaces in the host's upper
halves (R393). -/
def locate (m : Mach) (facet space off : Nat) : Nat :=
  match (m.facets.getD facet Facet.init).hostedBy with
  | some h =>
    if space = 0 then memKey h 0 (off + 0x2000000)
    else if space = 1 then memKey h 1 (off + 0x180000000)
    else memKey h space off
  | none => memKey facet space off

/-- Extents of two ranges meet; an empty one meets none. -/
def spansMeet (a n b k : Nat) : Bool := decide (0 < n ∧ 0 < k ∧ a < b + k ∧ b < a + n)

/-- What an unlisted byte reads as: memory is zeroed before READY (R510). -/
def memDefault : Byte := 0

/-- The canonical form of a sparse memory: addresses strictly rise and no entry is what an unlisted address reads as. -/
def Memory.wf (l : List Host.Cell) : Bool := kvWf memDefault l

/-- Product in GF(2^4) with x^4 + x + 1 (R450). -/
def gf16Mul (a b : Nat) : Nat :=
  let p := (List.range 4).foldl (fun acc i => if b.testBit i then acc ^^^ (a <<< i) else acc) 0
  let p := if p.testBit 6 then p ^^^ (0x13 <<< 2) else p
  let p := if p.testBit 5 then p ^^^ (0x13 <<< 1) else p
  if p.testBit 4 then p ^^^ 0x13 else p

/-- Channel, bank, row and column of the granule at HBM offset `x` under `key` (R450). -/
def place (x key : Nat) : Nat × Nat × Nat × Nat :=
  let g := x >>> 8
  let q := g >>> 4
  let ch := (List.range 6).foldl (fun c i => c ^^^ gf16Mul ((q >>> (4 * i)) &&& 15) ((key >>> (4 * i)) &&& 15)) (g &&& 15)
  let r := q >>> 7
  let f := (r ^^^ (r >>> 4) ^^^ (r >>> 8) ^^^ (r >>> 12)) &&& 15
  let bank := ((q >>> 3) &&& 15) ^^^ gf16Mul f ((key >>> 24) &&& 15)
  (ch, bank, r, q &&& 7)

/-- An enabled region of a facet: base and size in 64 MiB units (R451). -/
def regionOf (m : Mach) (f r : Nat) : Option (Nat × Nat) :=
  let w := regN m (offMemRgn f r)
  if tb w 28 then some (bf w 39 32, bf w 47 40) else none

/-- Key that places HBM offset `x` of a facet (R450, R451). -/
def hbmKey (m : Mach) (f x : Nat) : Nat :=
  match (List.range 8).find? fun r => match regionOf m f r with
    | some b => decide (b.1 ≤ x / 2 ^ 26) && decide (x / 2 ^ 26 < b.1 + b.2)
    | none => false with
  | some r => bf (regN m (offMemRgn f r)) 27 0
  | none => regN m offKeyDef

/-- Channel that holds HBM offset `x` of a facet. -/
def hbmChannel (m : Mach) (f x : Nat) : Nat := (place x (hbmKey m f x)).1

/-- Is the byte at key `k` one whose contents a change of placement left undefined (R451)? -/
def scrambledAt (m : Mach) (k : Nat) : Option Scrambled :=
  m.scrambled.find? fun s =>
    decide (s.lo ≤ k) && decide (k < s.hi) &&
      match s.keys with
      | none => true
      | some (a, b) => place (k % 2 ^ 41) a.toNat != place (k % 2 ^ 41) b.toNat

/-- Bytes in an error-corrected unit: an 8-byte scratchpad word or a 32-byte HBM burst (R459, R460). -/
def unitSize (k : Nat) : Nat := if (k / 2 ^ 41) % 16 = 1 then 32 else 8

/-- First key of the unit that holds key `k`. -/
def unitBase (k : Nat) : Nat := k - k % unitSize k

/-- One byte as a reader receives it: 0xFF in an uncorrectable unit (R461), a free value where a change of placement
left it undefined (R451), else what was written. -/
def readByte (m : Mach) (k : Nat) : Byte :=
  if unitBase k ∈ m.ue then 0xFF
  else match scrambledAt m k with
    | some s => Config.free 8 s.seed k
    | none => kvGet memDefault m.mem k

/-- `n` bytes from offset `off` of a space of a die. -/
def readMem (m : Mach) (facet space off n : Nat) : List Byte :=
  (List.range n).map fun i => readByte m (locate m facet space off + i)

/-- Uncorrectable units that a read of `n` bytes meets, in address order. -/
def ueHit (m : Mach) (facet space off n : Nat) : List Nat :=
  let k := locate m facet space off
  m.ue.filter fun u => decide (u < k + n) && decide (k < u + unitSize u)

/-- Takes keys `lo`..`hi` − 1 out of the undefined extents. -/
def carve (lo hi : Nat) (l : List Scrambled) : List Scrambled :=
  l.flatMap fun s =>
    if s.hi ≤ lo ∨ hi ≤ s.lo then [s]
    else (if s.lo < lo then [{ s with hi := lo }] else []) ++ (if hi < s.hi then [{ s with lo := hi }] else [])

/-- Stores bytes from key `k` up. -/
def storeBytes (l : List Host.Cell) : Nat → List Byte → List Host.Cell
  | _, [] => l
  | k, b :: t => storeBytes (kvSet memDefault l k b) (k + 1) t

/-- Writes bytes (R461): an uncorrectable unit that the write covers whole becomes correctable, one that it covers in
part keeps its mark and takes 0xFF in its other bytes. -/
def writeMem (m : Mach) (facet space off : Nat) (bs : List Byte) : Mach :=
  let k := locate m facet space off
  let n := bs.length
  let part := (ueHit m facet space off n).filter fun u => ! (decide (k ≤ u) && decide (u + unitSize u ≤ k + n))
  let filled := part.foldl (fun l u => storeBytes l u (List.replicate (unitSize u) 0xFF)) m.mem
  { m with
    mem := storeBytes filled k bs
    scrambled := carve k (k + n) m.scrambled
    ue := m.ue.filter fun u => ! (decide (k ≤ u) && decide (u + unitSize u ≤ k + n)) }

/-- Uncorrectable units that a write covers only in part: each raises MEM_UE again (R461). -/
def uePart (m : Mach) (facet space off n : Nat) : List Nat :=
  let k := locate m facet space off
  (ueHit m facet space off n).filter fun u => ! (decide (k ≤ u) && decide (u + unitSize u ≤ k + n))

/-- A little-endian number of `n` bytes. -/
def readNat (m : Mach) (facet space off n : Nat) : Nat := leNat (readMem m facet space off n)

/-- Stores a number in `n` little-endian bytes. -/
def writeNat (m : Mach) (facet space off n v : Nat) : Mach := writeMem m facet space off (leBytes n v)

/-- Contents of `n` bytes from an offset are lost: they read as free values until they are written. -/
def loseMem (m : Mach) (facet space off n : Nat) : Mach :=
  let k := locate m facet space off
  if n = 0 then m
  else { m with
    mem := m.mem.filter fun c => !(decide (k ≤ c.1) && decide (c.1 < k + n))
    ue := m.ue.filter fun u => !(decide (k ≤ u) && decide (u < k + n))
    scrambled := ⟨k, k + n, none, m.free⟩ :: carve k (k + n) m.scrambled
    free := m.free + 1 }

/-! ### Tallies -/

/-- Die and number at which a tally stands, on the host's die for a doubled facet (R393). -/
def tallyAt (m : Mach) (facet t : Nat) : Nat × Nat :=
  match (m.facets.getD facet Facet.init).hostedBy with
  | some h => (h, if t < 1984 then t + 1984 else t - 64)
  | none => (facet, t)

def tallyKey (m : Mach) (facet t : Nat) : Nat := (tallyAt m facet t).1 * 4096 + (tallyAt m facet t).2

/-- Key of a tally among the undefined extents: its offset in space 2. -/
def tallyMem (m : Mach) (facet t : Nat) : Nat := memKey (tallyAt m facet t).1 2 (4 * (tallyAt m facet t).2)

def tallyGet (m : Mach) (facet t : Nat) : W32 :=
  match scrambledAt m (tallyMem m facet t) with
  | some s => Config.free 32 s.seed (tallyMem m facet t)
  | none => kvGet (0 : W32) m.tallies (tallyKey m facet t)

def tallySet (m : Mach) (facet t : Nat) (v : W32) : Mach :=
  { m with
    tallies := kvSet (0 : W32) m.tallies (tallyKey m facet t) v
    scrambled := carve (tallyMem m facet t) (tallyMem m facet t + 4) m.scrambled }

/-- A tally adds modulo 2^32. -/
def tallyAddN (m : Mach) (facet t n : Nat) : Mach := tallySet m facet t (tallyGet m facet t + BitVec.ofNat 32 n)

end Sys2Proof.Machine
end

