-- ==== Sys2Proof/Machine/Ops.lean ====
section
/-!
DEFINITION. Operations that the meanings share: access to the parts of the state, free values, stamps (R46), raising
events (R469–R471, R543, R559), records and completions (R89–R92), and MSI-X (R474–R476).
-/
namespace Sys2Proof.Machine

/-- A meaning's answer. -/
abbrev Res := Host.Outcome State Fault Refusal

/-- A command that changes the module and leaves the queue.  One whose operands name a unit that the module does not have
changes nothing (log entry 66). -/
def act (exists_ : Bool) (f : Mach → Mach) (s : State) : Res := .next (if exists_ then { s with m := f s.m } else s)

/-- Runs `f` when the module is READY; before that nothing outside the always-on domain is powered (R507, R512). -/
def atReady (f : Mach → Mach) (m : Mach) : Mach := if m.boot.state = 3 then f m else m

/-- Runs `f` when `c` holds. -/
def onlyIf (c : Bool) (f : Mach → Mach) (m : Mach) : Mach := if c then f m else m

/-- A command of a unit that is there and runs at READY. -/
def actReady (exists_ : Bool) (f : Mach → Mach) (s : State) : Res := act exists_ (atReady f) s

/-! ### Parts of the state -/

def facetOf (m : Mach) (f : Nat) : Facet := m.facets.getD f Facet.init
def modFacet (m : Mach) (f : Nat) (g : Facet → Facet) : Mach := { m with facets := m.facets.modify f g }
def scOf (m : Mach) (f c : Nat) : StageCtx := (facetOf m f).scs.getD c StageCtx.init
def modSc (m : Mach) (f c : Nat) (g : StageCtx → StageCtx) : Mach :=
  modFacet m f fun x => { x with scs := x.scs.modify c g }
def modRun (m : Mach) (f c : Nat) (g : SlotRun → SlotRun) : Mach :=
  modSc m f c fun x => { x with run := x.run.map g }
def jobOf (m : Mach) (j : Nat) : Job := m.jobs.getD j Job.init
def modJob (m : Mach) (j : Nat) (g : Job → Job) : Mach := { m with jobs := m.jobs.modify j g }
def pipeOf (m : Mach) (j p : Nat) : Pipe := (jobOf m j).pipes.getD p Pipe.init
def modPipe (m : Mach) (j p : Nat) (g : Pipe → Pipe) : Mach :=
  modJob m j fun x => { x with pipes := x.pipes.modify p g }
def snapOf (m : Mach) (j : Nat) : SnapDom := (jobOf m j).snap
def modSnap (m : Mach) (j : Nat) (g : SnapDom → SnapDom) : Mach := modJob m j fun x => { x with snap := g x.snap }
def ringOf (m : Mach) (n : Nat) : Ring := m.host.rings.getD n Ring.init
def modHost (m : Mach) (g : HostIf → HostIf) : Mach := { m with host := g m.host }
def modRing (m : Mach) (n : Nat) (g : Ring → Ring) : Mach :=
  modHost m fun h => { h with rings := h.rings.modify n g }
def epOf (m : Mach) (e : Nat) : Endpoint := m.host.eps.getD e Endpoint.init
def modEp (m : Mach) (e : Nat) (g : Endpoint → Endpoint) : Mach :=
  modHost m fun h => { h with eps := h.eps.modify e g }
def linkOf (m : Mach) (l : Nat) : Link := m.links.getD l Link.init
def modLink (m : Mach) (l : Nat) (g : Link → Link) : Mach := { m with links := m.links.modify l g }
def chanOf (m : Mach) (c : Nat) : Channel := m.chans.getD c Channel.init
def modChan (m : Mach) (c : Nat) (g : Channel → Channel) : Mach := { m with chans := m.chans.modify c g }
def modTick (m : Mach) (g : Tick → Tick) : Mach := { m with tick := g m.tick }
def modFocus (m : Mach) (g : Focus → Focus) : Mach := { m with focus := g m.focus }
def coreOf (m : Mach) (c : Nat) : CoreFocus := m.focus.cores.getD c CoreFocus.init
def modCore (m : Mach) (c : Nat) (g : CoreFocus → CoreFocus) : Mach :=
  modFocus m fun x => { x with cores := x.cores.modify c g }
def modPower (m : Mach) (g : Power → Power) : Mach := { m with power := g m.power }
def modTwin (m : Mach) (g : Twin → Twin) : Mach := { m with twin := g m.twin }
def modTest (m : Mach) (g : Test → Test) : Mach := { m with test := g m.test }
def modFlash (m : Mach) (g : Flash → Flash) : Mach := { m with flash := g m.flash }
def modCtr (m : Mach) (g : Centroid → Centroid) : Mach := { m with ctr := g m.ctr }

/-- Applies `f` to every element of a list in order. -/
def forAll {α : Type} (l : List α) (f : Mach → α → Mach) (m : Mach) : Mach := l.foldl f m

/-- Sends a record, message or level. -/
def emit (m : Mach) (o : Output) : Mach := { m with out := m.out ++ [o] }

/-- Reads `len` bytes of host memory in requests of at most 4,096 bytes (R74). -/
def readHost (ep addr len : Nat) (relaxed : Bool) (m : Mach) : Mach :=
  (List.range ((len + 4095) / 4096)).foldl (fun m i =>
    emit m (.hostRead ep (addr + 4096 * i) (min 4096 (len - 4096 * i)) relaxed)) m

/-- The next seed of free values. -/
def spendFree (m : Mach) : Mach := { m with free := m.free + 1 }

/-- A free value of width `w` from the current seed. -/
def freeVal (m : Mach) (w : Nat) : BitVec w := Config.free w m.free

/-- An edge comes: the generator runs, or it was started and its reference or its master has given the first edge (R63). -/
def edgeDue (m : Mach) : Bool :=
  m.tick.running || (m.tick.armed && (if m.tick.master then !m.tick.refEn || m.tick.refOk else m.tick.sym.isSome))

/-- Instant of the coming edge on the tick grid (R43, R62): a step of the tick clock that lies ahead, also where a reference
pulse or a correction came within the present step (log entry 5). -/
def gridEdge (m : Mach) : Nat := max (Int.ofNat m.tick.nextEdge + m.tick.slew).toNat (m.now + 1)

/-- Time does not reach a coming edge before its TICK_EDGE: whatever happens at the edge's instant belongs to the window that
the edge opens (R13, R46).  Log entry 5. -/
def reach (m : Mach) (t : Nat) : Nat := if edgeDue m then min t (gridEdge m - 1) else t

/-- The instant moves to `t`, never back and never past a coming edge. -/
def atTime (m : Mach) (t : Nat) : Mach := { m with now := max m.now (reach m t) }

/-- Runs `f` at the instant `t`, or now where `t` lies behind; nothing happens while an edge has to come before `t`. -/
def byTime (t : Nat) (f : Mach → Mach) (m : Mach) : Mach :=
  if t ≤ (atTime m t).now then f (atTime m t) else m

/-- Number of this module (R35). -/
def self (m : Mach) : Nat := wf (regGet m offModuleNum) 11 0

/-! ### Stamps (R46) -/

/-- Tick and offset of the present instant; the offset is 0xFFFF_FFFF while the generator does not run. -/
def stamp (m : Mach) : Nat × Nat :=
  if m.tick.running then (m.tick.tickNo, m.now - m.tick.edgeAt) else (m.tick.tickNo, 0xFFFFFFFF)

/-! ### Event codes (R559, Table 19.11) -/

def evTick (i : Nat) : Nat := 0x100 + i
def evHost (i : Nat) : Nat := 0x200 + i
def evPipe (i : Nat) : Nat := 0x300 + i
def evVer (i : Nat) : Nat := 0x400 + i
def evFac (i : Nat) : Nat := 0x500 + i
def evStrand (i : Nat) : Nat := 0x600 + i
def evUpd (i : Nat) : Nat := 0x700 + i
def evFold (i : Nat) : Nat := 0x800 + i
def evSnap (i : Nat) : Nat := 0x900 + i
def evTwin (i : Nat) : Nat := 0xA00 + i
def evJob (i : Nat) : Nat := 0xB00 + i
def evLink (i : Nat) : Nat := 0xC00 + i
def evMem (i : Nat) : Nat := 0xD00 + i
def evFoc (i : Nat) : Nat := 0xE00 + i
def evPwr (i : Nat) : Nat := 0xF00 + i
def evTest (i : Nat) : Nat := 0x1000 + i

def evLost : Nat := 0x0001
def tickConfigErr : Nat := evTick 0
def tickHoldoverEv : Nat := evTick 1
def tickRefLostEv : Nat := evTick 2
def sweepOverrun : Nat := evTick 3
def tickSlip : Nat := evTick 4
def tickChronic : Nat := evTick 5
def hostRingErr : Nat := evHost 0
def hostDmaErr : Nat := evHost 1
def hostCfgErr : Nat := evHost 2
def hostDbStale : Nat := evHost 3
def portDownEv : Nat := evHost 4
def snapRingEmpty : Nat := evHost 5
def arcFault : Nat := evPipe 0
def arcOverrun : Nat := evPipe 1
def chordSeqEv : Nat := evPipe 2
def chordMismatch : Nat := evPipe 3
def chordMoved : Nat := evPipe 4
def creditTimeoutEv : Nat := evPipe 5
def queueDiscard : Nat := evPipe 6
def mapConflict : Nat := evPipe 7
def rebalAdvice : Nat := evPipe 8
def rebalanced : Nat := evPipe 9
def rebalNone : Nat := evPipe 10
def vtagMiss : Nat := evVer 0
def verRetired : Nat := evVer 1
def verAutoPublished : Nat := evVer 2
def verAutoWait : Nat := evVer 3
def verAutoFail : Nat := evVer 4
def verAutoSkipped : Nat := evVer 5
def loadSegCrc : Nat := evVer 6
def loadSegDrop : Nat := evVer 7
def loadOrphanEv : Nat := evVer 8
def prismFault : Nat := evFac 0
def scaleCold : Nat := evFac 1
def rayFault : Nat := evFac 2
def progMissing : Nat := evFac 3
def strandFault : Nat := evStrand 0
def seqFault : Nat := evStrand 1
def remoteTimeoutEv : Nat := evStrand 2
def tallyTimeoutEv : Nat := evStrand 3
def barErr : Nat := evStrand 4
def sweepPoisoned : Nat := evUpd 0
def updEmpty : Nat := evUpd 1
def updNoTarget : Nat := evUpd 2
def updUncovered : Nat := evUpd 3
def updNoArea : Nat := evUpd 4
def updLong : Nat := evUpd 5
def updWait : Nat := evUpd 6
def actLate : Nat := evUpd 7
def steerAdvice : Nat := evUpd 8
def steerApplied : Nat := evUpd 9
def foldMismatch : Nat := evFold 0
def foldSeqEv : Nat := evFold 1
def foldScaleErr : Nat := evFold 2
def foldStallEv : Nat := evFold 3
def foldMoved : Nat := evFold 4
def foldCfgErr : Nat := evFold 5
def projCold : Nat := evFold 6
def snapCommitted : Nat := evSnap 0
def snapAborted : Nat := evSnap 1
def snapDeferred : Nat := evSnap 2
def snapMismatch : Nat := evSnap 3
def snapTapOff : Nat := evSnap 4
def snapReleased : Nat := evSnap 5
def snapStoreFull : Nat := evSnap 6
def snapShardLost : Nat := evSnap 7
def snapRebuilt : Nat := evSnap 8
def snapFallback : Nat := evSnap 9
def divergeEv : Nat := evSnap 10
def snapRestoredEv : Nat := evSnap 11
def snapVerified : Nat := evSnap 12
def restoreMismatch : Nat := evSnap 13
def facetFailEv : Nat := evSnap 14
def facetTakeover : Nat := evSnap 15
def jobHit : Nat := evSnap 16
def doubledEv : Nat := evSnap 17
def degradedEv : Nat := evSnap 18
def twinLostEv : Nat := evTwin 0
def twinTakeover : Nat := evTwin 1
def twinFrozen : Nat := evTwin 2
def twinDetached : Nat := evTwin 3
def twinLeaseErr : Nat := evTwin 4
def jobOvercommit : Nat := evJob 0
def wcetBreach : Nat := evJob 1
def wcetStale : Nat := evJob 2
def jobSuspended : Nat := evJob 3
def jobResumed : Nat := evJob 4
def jobCfgErr : Nat := evJob 5
def waveMissEv : Nat := evJob 6
def rolloutDone : Nat := evJob 7
def linkUpEv : Nat := evLink 0
def linkDownEv : Nat := evLink 1
def linkFailEv : Nat := evLink 2
def linkWidth : Nat := evLink 3
def laneRetired : Nat := evLink 4
def linkFlushEv : Nat := evLink 5
def linkMisroute : Nat := evLink 6
def linkTtl : Nat := evLink 7
def linkVcErr : Nat := evLink 8
def tickAnnLate : Nat := evLink 9
def twinBridgeErr : Nat := evLink 10
def imbalanceEv : Nat := evMem 0
def memRekeyedEv : Nat := evMem 1
def memCfgErr : Nat := evMem 2
def memUeEv : Nat := evMem 3
def memRetiredEv : Nat := evMem 4
def memRetireNone : Nat := evMem 5
def memTrainFail : Nat := evMem 6
def focOrderFault : Nat := evFoc 0
def glitchWake : Nat := evFoc 1
def focQueueFull : Nat := evFoc 2
def lineAssertedEv : Nat := evFoc 3
def lineDeassertedEv : Nat := evFoc 4
def ctrCoreResetEv : Nat := evPwr 0
def fwSwitched : Nat := evPwr 1
def fwSwitchFail : Nat := evPwr 2
def fwFallback : Nat := evPwr 3
def pwrCfgErr : Nat := evPwr 4
def pwrCapFloor : Nat := evPwr 5
def pwrCapEmergEv : Nat := evPwr 6
def pwrPhaseFailEv : Nat := evPwr 7
def pwrThermHi : Nat := evPwr 8
def pwrThermCrit : Nat := evPwr 9
def pwrHbmWarm : Nat := evPwr 10
def pwrHbmHot : Nat := evPwr 11
def pwrAxisHot : Nat := evPwr 12
def coolWarm : Nat := evPwr 13
def coolLowEv : Nat := evPwr 14
def coolLeakEv : Nat := evPwr 15
def healthScore : Nat := evPwr 16
def fmapFallback : Nat := evTest 0
def testRefused : Nat := evTest 1
def testDoneEv : Nat := evTest 2
def wireRepaired : Nat := evTest 3
def ucodeDone : Nat := evTest 4
def ucodeAbort : Nat := evTest 5
def flashDoneEv : Nat := evTest 6
def flashFail : Nat := evTest 7
def twinPairedEv : Nat := evTest 8
def phaseUpdatedEv : Nat := evTest 9

/-- Event register and number of sticky bits of a code block (Table 19.7); the block's events beyond that number, and
blocks that are not here, have no sticky bit (R543). -/
def stickyReg (block : Nat) : Option (Nat × Nat) :=
  match block with
  | 0x1 => some (0x1098, 4)
  | 0x2 => some (0x10088, 5)
  | 0x3 => some (0x30020, 11)
  | 0x4 => some (0x40020, 9)
  | 0x7 => some (0x50010, 10)
  | 0x8 => some (0x60020, 7)
  | 0x9 => some (0x70050, 19)
  | 0xA => some (0x4020, 5)
  | 0xB => some (0x28000, 8)
  | 0xC => some (0x84018, 11)
  | 0xD => some (0x90038, 7)
  | 0xE => some (0xA0020, 3)
  | 0xF => some (0x2058, 17)
  | 0x10 => some (0x3030, 10)
  | _ => none

/-- Sets the sticky bit of an event, if it has one (R470, R543). -/
def setSticky (m : Mach) (code : Nat) : Mach :=
  match stickyReg (code / 256) with
  | some (off, n) => if code % 256 < n then regOr m off (word (2 ^ (code % 256))) else m
  | none => m

/-! ### Focus sources (R468, R469, Table 16.1) -/

/-- Source of kind `k` on logical facet or reserve index `f`. -/
def srcFacet (f k : Nat) : Nat := (1 + f / 3) * 36 + (f % 3) * 12 + k
def srcLink (l : Nat) : Nat := 1296 + l
/-- Module unit: 0 tick, 1 twin, 2 memory, 3 pipeline maps, 4 version homes, 5 snapshot, 6 fold, 7 power, 8 thermal,
9 coolant, 10 health score, 11 program store. -/
def srcUnit (u : Nat) : Nat := 1332 + u
def srcChan (c : Nat) : Nat := 1368 + c
def srcJob (j : Nat) : Nat := 1404 + j
def srcCore (c : Nat) : Nat := 1440 + c
def srcLine (l : Nat) : Nat := 2232 + l
def srcHost : Nat := 35

/-- The site that holds logical index `f`, if any (R22, R24). -/
def siteOf (m : Mach) (f : Nat) : Option Nat :=
  (List.range m.flash.sites.length).find? fun s =>
    match m.flash.sites[s]? with
    | some x => x.logical == f && x.state != 1
    | none => false

/-- Does the source belong to a reserve index that names no die (R24, R469)? -/
def deadSource (m : Mach) (src : Nat) : Bool :=
  let f := (src / 36 - 1) * 3 + (src % 36) / 12
  decide (1188 ≤ src) && decide (src < 1296) && (siteOf m f).isNone

/-- One record into the focus queue, or a drop that is counted (R471). -/
def enqueue (m : Mach) (r : EvRec) : Mach :=
  if m.focus.queue.length < 1024 then
    modFocus m fun x => { x with queue := x.queue ++ [r] }
  else
    let m := modFocus m fun x => { x with dropped := sat32 (x.dropped + 1), lostFocus := x.lostFocus + 1 }
    if m.focus.overflow then m
    else
      let fs := wf (regGet m (offSrc 2296)) 10 0
      let m := setSticky m focQueueFull
      modFocus m fun x => { x with
        overflow := true
        fullRaise := if tb fs 0 then
            some ⟨focQueueFull, 2296, bf fs 4 1, none, [r.source], (stamp m).1, (stamp m).2, m.now⟩ else none }

/-- Raises an event: the sticky bit (R470), and a record in the focus queue when the source is enabled (R471). An order
fault is recorded whatever FOC_SRC says (R480). -/
def raise (m : Mach) (code src : Nat) (job : Option Nat) (detail : List Nat) : Mach :=
  if deadSource m src then m
  else
    let m := setSticky m code
    let w := (regGet m (offSrc src)).toNat
    if tb w 0 || code == focOrderFault then
      enqueue m ⟨code, src, bf w 4 1, job, detail, (stamp m).1, (stamp m).2, m.now⟩
    else m

/-! ### Ring records and interrupts -/

/-- PORT of ring 0–34: command rings, event 32, statistics 33, snapshot 34 (Table 19.3). -/
def portOf (m : Mach) (n : Nat) : Nat :=
  if n < 32 then wf (regGet m (offRingCtl n)) 1 1
  else if n = 32 then wf (regGet m offEvtCtl) 33 33
  else if n = 33 then wf (regGet m offStatCtl) 33 33
  else wf (regGet m offSnapCtl) 33 33

/-- EN of ring 0–34. -/
def enabledRing (m : Mach) (n : Nat) : Bool :=
  if n < 32 then tb (regN m (offRingCtl n)) 0
  else if n = 32 then tb (regN m offEvtCtl) 32
  else if n = 33 then tb (regN m offStatCtl) 32
  else tb (regN m offSnapCtl) 32

/-- The coalescing control of ring 0–33. -/
def coalesceReg (n : Nat) : Nat := if n < 32 then offCplCtl n else if n = 32 then offEvtCtl else offStatCtl

/-- Unsignalled records of ring 0–33 and the instant of the first. -/
def unsigOf (m : Mach) (n : Nat) : Nat × Option Nat :=
  if n < 32 then ((ringOf m n).unsig, (ringOf m n).firstUnsig)
  else if n = 32 then (m.host.evt.unsig, m.host.evt.firstUnsig)
  else (m.host.stat.unsig, m.host.stat.firstUnsig)

def setUnsig (m : Mach) (n u : Nat) (f : Option Nat) : Mach :=
  if n < 32 then modRing m n fun r => { r with unsig := u, firstUnsig := f }
  else if n = 32 then modHost m fun h => { h with evt := { h.evt with unsig := u, firstUnsig := f } }
  else modHost m fun h => { h with stat := { h.stat with unsig := u, firstUnsig := f } }

/-- Signals a ring: its vector passes through focus as the ring's source (R92, R475). -/
def signalRing (m : Mach) (n : Nat) : Mach := raise (setUnsig m n 0 none) 0 n none []

/-- Coalescing after one record was written (R92). A COUNT of 0 acts as 1 (R539). -/
def noteRecord (m : Mach) (n : Nat) : Mach :=
  let w := regN m (coalesceReg n)
  let u := (unsigOf m n).1 + 1
  let f := (unsigOf m n).2.getD m.now
  if bf w 29 20 = 0 ∨ max 1 (bf w 16 8) ≤ u then signalRing m n else setUnsig m n u (some f)

/-- An MSI-X message, or its pending bit while the vector is masked (R476). -/
def sendMsix (m : Mach) (ep vector : Nat) : Mach :=
  let e := epOf m ep
  if e.mask.getLsbD vector then
    modEp m ep fun e => { e with pba := e.pba ||| word (2 ^ vector) }
  else emit m (.msix ep vector)

/-- Address of entry `i` of a ring of 2^s entries of `sz` bytes (R78). -/
def entryAddr (base i s sz : Nat) : Nat := base + (i % 2 ^ s) * sz

/-- PHASE of the record written at producer index `i`: 1 on the first pass (R77). -/
def phaseAt (i s : Nat) : Bool := (i / 2 ^ s) % 2 == 0

/-- A completion ring is full, or its port is down and its records are held (R91, R99).  A CONS ahead of the producer index counts as
full (DESIGN CHOICE, log entry 78). -/
def cplBlocked (m : Mach) (n : Nat) : Bool :=
  let r := ringOf m n
  decide (2 ^ (regN m (offCplSize n)) ≤ (r.cplProd - r.cplCons).toNat) || ! (epOf m (portOf m n)).up

/-- IDLE once a disabled ring has no open descriptor and no held completion (R100). -/
def settleIdle (m : Mach) (n : Nat) : Mach :=
  let r := ringOf m n
  if !enabledRing m n && r.used && r.live.isEmpty && r.held.isEmpty then
    modRing m n fun r => { r with idle := true, disabledAt := none }
  else m

/-- Writes one completion record in two posted writes, bytes 0–7 last (R89, R91). -/
def putCpl (m : Mach) (n : Nat) (c : CplRec) : Mach :=
  let r := ringOf m n
  let s := regN m (offCplSize n)
  let i := r.cplProd.toNat
  let put (head : Bool) (m : Mach) : Mach :=
    emit m (.cplWrite (portOf m n) (entryAddr (regN m (offCplBase n)) i s 32) head (phaseAt i s) c)
  let m := put true (put false m)
  noteRecord (modRing m n fun r => { r with cplProd := r.cplProd + 1 }) n

/-- Completes a descriptor with given stamp: the record is written, held while the ring is full (R91), or left out for a
QUIET descriptor that ended OK or FLOATED (Table 3.4). -/
def completeAt (m : Mach) (quiet : Bool) (c : CplRec) : Mach :=
  let n := c.ring
  let m := modRing m n fun r => { r with live := r.live.filter fun i => i != c.index }
  let head := (ringOf m n).live.head?
  let now := m.tick.tickNo
  let fence (d : Desc) : Desc :=
    if d.d.ring = n ∧ d.wait = .fenced ∧ head = some d.d.index then { d with fetchTick := max d.fetchTick now } else d
  let m := { m with descs := (m.descs.filter fun d => !(d.d.ring == n && d.d.index == c.index)).map fence }
  let m :=
    if quiet && decide (c.status < 2) then m
    else if (ringOf m n).held.isEmpty && !cplBlocked m n then putCpl m n c
    else modRing m n fun r => { r with held := r.held ++ [c] }
  settleIdle m n

/-- Writes held completions while the ring has room (R91). -/
def flushHeld (fuel : Nat) (n : Nat) (m : Mach) : Mach :=
  match fuel with
  | 0 => m
  | k + 1 =>
    match (ringOf m n).held with
    | [] => settleIdle m n
    | c :: t =>
      if cplBlocked m n then m
      else flushHeld k n (putCpl (modRing m n fun r => { r with held := t }) n c)

/-- The event ring has no room: it is full (R93), or halted with its endpoint's link (R99; log entry 16). -/
def evtFull (m : Mach) : Bool :=
  decide (2 ^ (regN m 0x10028) ≤ (m.host.evt.prod - m.host.evt.cons).toNat) || !(epOf m (portOf m 32)).up

/-- Writes one event record (R89). -/
def putEvt (m : Mach) (r : EvRec) : Mach :=
  let s := regN m 0x10028
  let i := m.host.evt.prod.toNat
  let put (head : Bool) (m : Mach) : Mach :=
    emit m (.evtWrite (portOf m 32) (entryAddr (regN m offEvtBase) i s 32) head (phaseAt i s) r)
  let m := put true (put false m)
  noteRecord (modHost m fun h => { h with evt := { h.evt with prod := h.evt.prod + 1 } }) 32

/-- Writes EVENT_LOST when records were dropped and the event ring has room again (R93). -/
def flushLost (m : Mach) : Mach :=
  if enabledRing m 32 && decide (0 < m.host.evt.lost) && !evtFull m then
    let n := m.host.evt.lost + m.focus.lostFocus
    let m := modHost m fun h => { h with evt := { h.evt with lost := 0 } }
    let m := modFocus m fun x => { x with lostFocus := 0 }
    putEvt m ⟨evLost, 32, 15, none, [n], (stamp m).1, (stamp m).2, m.now⟩
  else m

/-- The host copy of a released record (R474, R93). -/
def hostCopy (m : Mach) (r : EvRec) : Mach :=
  if !enabledRing m 32 then modFocus m fun x => { x with hostOff := sat32 (x.hostOff + 1) }
  else
    let m := flushLost m
    if evtFull m then
      modHost m fun h => { h with evt := { h.evt with dropped := sat32 (h.evt.dropped + 1), lost := h.evt.lost + 1 } }
    else putEvt m r

/-- One statistics record: discarded while the ring is disabled, counted when the ring is full (R93). -/
def putStat (m : Mach) (r : StatRec) : Mach :=
  let s := regN m 0x10040
  let i := m.host.stat.prod.toNat
  if !enabledRing m 33 || !(epOf m (portOf m 33)).up then m
  else if 2 ^ s ≤ (m.host.stat.prod - m.host.stat.cons).toNat then
    modHost m fun h => { h with stat := { h.stat with dropped := sat32 (h.stat.dropped + 1) } }
  else
    let put (head : Bool) (m : Mach) : Mach :=
      emit m (.statWrite (portOf m 33) (entryAddr (regN m offStatBase) i s 64) head (phaseAt i s) r)
    let m := put true (put false m)
    noteRecord (modHost m fun h => { h with stat := { h.stat with prod := h.stat.prod + 1 } }) 33

/-! ### Memory with its errors (R461) -/

/-- The first edge that lies at least `n` ticks after this instant.  DEDUCED, log entry 88. -/
def edgeAhead (m : Mach) (n : Nat) : Nat := m.tick.tickNo + n + (if m.now ≤ m.tick.edgeAt then 0 else 1)

/-- The module decides to retire a channel in the present tick (R463), unless it is retired already or was decided. -/
def decideRetire (f ch : Nat) (m : Mach) : Mach :=
  if (m.flash.remaps.any fun r => r.1 == f && r.2.1 == ch) || ((facetOf m f).retireDue.any fun d => d.1 == ch)
      || ((facetOf m f).moves.any fun x => match x.1 with | .channel c _ => c == ch | .rekey _ _ _ => false) then m
  else modFacet m f fun x => { x with retireDue := x.retireDue ++ [(ch, edgeAhead m 2)] }

/-- Facet, space and offset under which a byte of a die is named: one in the upper half of a space of a die that hosts a
doubled facet belongs to that facet's logical index (R393, R469). -/
def logicalPlace (m : Mach) (k : Nat) : Nat × Nat × Nat :=
  let h := k / 2 ^ 45
  let sp := (k / 2 ^ 41) % 16
  let o := k % 2 ^ 41
  let half := if sp = 0 then 0x2000000 else 0x180000000
  match (List.range 96).find? fun g => (m.facets.getD g Facet.init).hostedBy == some h with
  | some g => if sp < 2 ∧ half ≤ o then (g, sp, o - half) else (h, sp, o)
  | none => (h, sp, o)

/-- Raises MEM_UE and counts it for each uncorrectable unit in the list; with AUTO_RETIRE the channel of a burst is retired
(R461, R463). -/
def raiseUe (m : Mach) (units : List Nat) : Mach :=
  forAll units (fun m u =>
    let f := u / 2 ^ 45
    let sp := (u / 2 ^ 41) % 16
    let p := logicalPlace m u
    let m := modFacet m p.1 fun x => { x with cntUe := min (x.cntUe + 1) (2 ^ 64 - 1) }
    let m := modFacet m f fun x => { x with ueSweep := x.ueSweep + (if sp = 0 then 1 else 0) }
    let m := if sp = 1 ∧ tb (regN m offMemCtl) 1 then decideRetire f (hbmChannel m f (u % 2 ^ 41)) m else m
    raise m memUeEv (if f < 104 then srcFacet p.1 5 else srcUnit 2) none [p.1, p.2.1, p.2.2]) m

/-- A read by an engine: the bytes, whether it met an uncorrectable unit, and the module with MEM_UE raised. -/
def readChecked (m : Mach) (f sp off n : Nat) : List Byte × Bool × Mach :=
  let hit := ueHit m f sp off n
  (readMem m f sp off n, !hit.isEmpty, raiseUe m hit)

/-- A write by an engine; a partial write into an uncorrectable unit raises MEM_UE again. -/
def writeChecked (m : Mach) (f sp off : Nat) (bs : List Byte) : Mach :=
  raiseUe (writeMem m f sp off bs) (uePart m f sp off bs.length)

end Sys2Proof.Machine
end

