-- ==== Sys2Proof/Machine/Arbiter.lean ====
section
/-!
DEFINITION. What a link sends (R340, R424, R428–R431): the channel, size and segment bytes of a message, and the arbitration of the
slots of frames among the messages that wait.  Slots take no time here (log entry 52): a link sends until nothing may go.
-/
namespace Sys2Proof.Machine

/-! ### Sizes (R340, R431) -/

/-- Virtual channel of a message (Tables 14.4, 14.6). -/
def msgVc (c : Instr) : Nat :=
  match c with
  | .chordWrite .. => 0
  | .foldSeg .. => 1
  | .req .. | .resp .. => 2
  | .load .. | .shard .. => 3
  | _ => 4

/-- Virtual channel of a KIND (Table 14.6). -/
def kindVc (k : Nat) : Nat := if k = 0x01 then 0 else if k = 0x02 then 1 else if k < 0x10 then 3 else if k < 0x20 then 2 else 4

/-- Bytes of a block of 32 in a BLK8 segment: E4M3, or BF16 when widened. -/
def blockWire (wide : Bool) (es : List W32) : List Byte := es.flatMap fun e => leBytes (if wide then 2 else 1) e.toNat

/-- The bytes of a segment in its format (R340): 0 FP32, 1 BF16, 2 BLK8, 3 the one-byte codes of the pre-pass (R237).  The scalars
of R343 and R344 have no place in the layout. -/
def segWire (fmt : Nat) (s : FoldSegIn) : List Byte :=
  match fmt with
  | 0 => s.elems.flatMap fun e => leBytes 4 e.toNat
  | 1 => s.elems.flatMap fun e => leBytes 2 e.toNat
  | 2 =>
    let wide := s.wide.zipIdx.foldl (fun a p => if p.1 then a + 2 ^ p.2 else a) 0
    let n := ceilDiv s.elems.length 32
    leBytes 4 wide ++ leBytes 4 (s.index % 2 ^ 16) ++ (s.scales ++ List.replicate (32 - s.scales.length) 0)
      ++ (List.range n).flatMap fun b => blockWire (s.wide.getD b false) ((s.elems.drop (32 * b)).take 32)
  | _ => s.elems.flatMap fun e => leBytes 1 e.toNat

/-- Format of a segment of a layer: projected factors are FP32, the pre-pass folds codes. -/
def foldFmt (ch : Channel) (y : FoldLayer) (sub : Nat) : Nat := if 0 < y.rank then 0 else if sub = 0 then 3 else ch.fmt

/-- Does a request carry a compare value behind its operand (Table 14.6)? -/
def isCas (r : RemoteReq) : Bool := (r.op == 0x34 || r.op == 0x35) && r.mod == 9

/-- Payload bytes of a message (Tables 14.6, 14.12). -/
def msgBytes (m : Mach) (c : Instr) : Nat :=
  match c with
  | .chordWrite _ _ d _ => d.length
  | .foldSeg _ n entry _ _ _ segs =>
    let ch := chanOf m n
    let fmt (s : FoldSegIn) : Nat := match ch.layers[entry]? with
      | some y => foldFmt ch y s.sub
      | none => ch.fmt
    (segs.map fun s => (segWire (fmt s) s).length).foldl (· + ·) 0
  | .req _ (some (_, r)) => r.data.length + if isCas r then r.bytes else 0
  | .resp _ (some (_, d)) => d.length
  | .load _ _ d => d.length
  | .shard _ _ _ _ _ _ d => d.length
  | .mbLost _ _ ids => 4 * ids.length
  | .updValues .. => 8 + 4 * 4 + 16 * 6 * 4
  | .foldTotals .. => 16
  | .snapCommit _ _ _ ack _ _ => if ack then 0 else 8 + 4 * 8
  | .snapGens _ _ gs => 8 * gs.length
  | .snapManifests _ _ _ ms => (ms.map fun o => match o with | some x => 128 + 16 * x.crcs.length | none => 0).foldl (· + ·) 0
  | _ => 0

/-- Flits of `n` payload bytes behind a header. -/
def flitsOf (n : Nat) : Nat := ceilDiv (32 + n) 256

def msgFlits (m : Mach) (c : Instr) : Nat := flitsOf (msgBytes m c)

/-! ### Headers (R431, R448) -/

/-- Fields packed upward: width and value of each. -/
def packed : List (Nat × Nat) → Nat
  | [] => 0
  | (w, v) :: t => v % 2 ^ w + 2 ^ w * packed t

/-- KIND of a message (Table 14.6). -/
def msgKind (c : Instr) : Nat :=
  match c with
  | .chordWrite .. => 0x01
  | .foldSeg .. => 0x02
  | .load .. => 0x03
  | .shard .. => 0x04
  | .req .. => 0x10
  | .resp .. => 0x11
  | .tally .. => 0x20
  | .credit .. => 0x21
  | _ => 0x22

/-- OPID: the issuer's operation number. -/
def msgOpid (c : Instr) : Nat :=
  match c with
  | .chordWrite _ _ _ (some f) => f.opid
  | .req o _ => o
  | .resp o _ => o
  | .tally _ o _ _ _ => o
  | _ => 0

def bit (b : Bool) : Nat × Nat := (1, if b then 1 else 0)

/-- Fields of a CTRL message: its subject, then the subject's own (Table 14.12). -/
def ctrlArgs (c : Instr) : List (Nat × Nat) :=
  match c with
  | .chordCheck n d k mode keep => [(8, 1), (10, n), (5, d), (2, k), (1, mode), bit keep]
  | .chordLoss n first lost dropped => [(8, 2), (10, n), (16, first), (16, lost), (16, dropped)]
  | .mbLost j p ids => [(8, 3), (4, j), (2, p), (5, ids.length)]
  | .verQuery _ j p v s => [(8, 4), (4, j), (2, p), (8, v), (64, s)]
  | .verReply _ j p v r n => [(8, 5), (4, j), (2, p), (8, v), bit r, (9, n)]
  | .verSwitch j p a b k e => [(8, 6), (4, j), (2, p), (8, a), (8, b), bit k, (64, e)]
  | .verLastUnit j p v i => [(8, 7), (4, j), (2, p), (8, v), (24, i)]
  | .verRetire j p v n => [(8, 8), (4, j), (2, p), (8, v), (64, n)]
  | .updReport _ j p y n g => [(8, 9), (4, j), (2, p), (12, y), (32, n), (64, g.toNat)]
  | .updValues j p v => [(8, 0x0A), (4, j), (2, p), (2, v.verdict), (64, v.sweep)]
  | .foldCheck _ n s => [(8, 0x0B), (5, n), (2, s.topo), (1, s.mode), (2, s.fmt), (11, s.torusX), bit s.lossEn, (32, s.crc.toNat)]
  | .foldTotals _ j p s mb _ _ => [(8, 0x0C), (4, j), (2, p), (64, s), (24, mb)]
  | .steer j p n e => [(8, 0x0D), (4, j), (2, p), (20, n), (64, e)]
  | .snapCheck _ j crc => [(8, 0x0E), (4, j), (32, crc.toNat)]
  | .snapCut j s => [(8, 0x0F), (4, j), (64, s)]
  | .snapDone _ j g => [(8, 0x10), (4, j), (64, g)]
  | .snapCommit _ j g ack _ _ => [(8, 0x11), (4, j), (64, g), bit ack]
  | .snapGens _ j gs => [(8, 0x12), (4, j), (8, gs.length)]
  | .snapChoice j g none_ => [(8, 0x13), (4, j), (64, g), bit none_]
  | .snapManifests _ j r _ => [(8, 0x14), (4, j), bit r]
  | .shardAck _ j g s r => [(8, 0x15), (4, j), (64, g), (32, s), bit r]
  | _ => [(8, 0)]

/-- ARGS of the message that carries the payload from byte `ofs` on; `more` says that the payload takes several messages (R431, R448). -/
def msgArgs (dst : Nat) (c : Instr) (ofs : Nat) (more : Bool) : List (Nat × Nat) :=
  match c with
  | .chordWrite f o _ far =>
    let space := (far.map (·.space)).getD 0
    [(64, dst * 2 ^ 52 + f * 2 ^ 45 + space * 2 ^ 41 + o + ofs), (10, (far.map (·.chord)).getD 0)]
  | .foldSeg _ n e p s _ segs => [(5, n), (12, e), (2, p), (16, s), (7, segs.length)]
  | .load _ o _ => [(48, o + ofs)]
  | .shard _ j g i o mirror _ => [(4, j), (64, g), (32, i), (26, o + ofs), bit mirror]
  | .req _ (some (_, r)) => [(64, r.laddr.toNat + ofs), (8, r.op.toNat), (4, r.mod), (4, Nat.log2 r.bytes)]
  | .resp _ far => [(8, (far.map (·.1)).getD 0)]
  | .tally _ _ a md v => [(64, a.toNat), (4, md), (32, (v.map (·.toNat)).getD 0)]
  | .credit n k => [(10, n), (5, k)]
  | _ => ctrlArgs c ++ (if more then [(32, ofs)] else [])

/-- The 32-byte header (Table 14.5) of the message that carries `len` payload bytes from byte `ofs` on.  What may transit has its HOPS from
LINK_HOP_MAX (R432). -/
def msgHead (m : Mach) (dst : Nat) (c : Instr) (ofs len : Nat) (more : Bool) : BitVec 256 :=
  let hops := if msgKind c < 0x10 then 0 else bf (regN m offHopMax) 3 0
  BitVec.ofNat 256 (packed ([(32, msgOpid c), (24, 0), (12, self m), (12, dst), (12, 0), (4, hops), (8, msgKind c), (7, 0), (17, len)]
    ++ msgArgs dst c ofs more))

/-- The messages that a command takes: a payload of more than 65,536 bytes goes as several. -/
def messagesOf (m : Mach) (dst : Nat) (c : Instr) : List (BitVec 256 × Nat) :=
  let n := msgBytes m c
  let k := max 1 (ceilDiv n 65536)
  (List.range k).map fun i =>
    let len := min 65536 (n - 65536 * i)
    (msgHead m dst c (65536 * i) len (decide (1 < k)), flitsOf len)

/-- Fields of a header. -/
def headKind (h : BitVec 256) : Nat := bf h.toNat 103 96
def headHops (h : BitVec 256) : Nat := bf h.toNat 95 92
def headDst (h : BitVec 256) : Nat := bf h.toNat 79 68
def headSrc (h : BitVec 256) : Nat := bf h.toNat 67 56
def headLen (h : BitVec 256) : Nat := bf h.toNat 127 111

/-- The header with HOPS one lower. -/
def lowerHops (h : BitVec 256) : BitVec 256 := h - BitVec.ofNat 256 (2 ^ 92)

/-! ### TICK flits -/

/-- A tick symbol (Table 14.7). -/
def symFlit (s : TickSym) : BitVec 2048 :=
  BitVec.ofNat 2048 (packed [(8, 0x40), bit s.sweepEdge, bit s.stop, bit s.holdover, (3, s.phase), (2, 0), (32, s.delay), (64, s.tick),
    (64, s.sweep), (21, s.period), (21, s.sweepLen), (21, s.fill), (21, s.steady), (21, s.drain), (21, s.fold), (21, s.update), (8, s.grace)])

/-- A sweep-state report (R438). -/
def reportFlit (done : Bool) (sweep modNum : Nat) : BitVec 2048 :=
  BitVec.ofNat 2048 (packed [(8, 0x41), bit done, (7, 0), (64, sweep), (12, modNum)])

/-- A heartbeat (Table 14.9). -/
def heartbeatFlit (h : HeartbeatMsg) : BitVec 2048 :=
  BitVec.ofNat 2048 (packed ([(8, 0x42), (1, 0), bit h.lease, bit h.frozen, bit h.detach, (20, 0), (64, h.tick), (4, 0), (12, h.modNum),
    (16, h.leader.toNat)] ++ (List.range 16).map fun j => (64, h.commits.getD j 0)))

/-- The TICK flit of an output. -/
def tickFlit (o : Output) : BitVec 2048 :=
  match o with
  | .tickSym _ s => symFlit s
  | .sweepReport _ d s n => reportFlit d s n
  | .heartbeat _ h => heartbeatFlit h
  | _ => 0

/-- The sender that a message counts against within its channel: its fold channel. -/
def msgKey (c : Instr) : Nat :=
  match c with
  | .foldSeg _ n _ _ _ _ _ => n
  | _ => 0

/-! ### Slots (R429) -/

/-- Does a flit of the channel wait that has a credit (R428)? -/
def txReady (x : Link) (vc : Nat) : Bool := x.txQ.any (fun t => t.vc == vc) && decide (0 < x.credits.getD vc 0)

/-- Weights of CHORD, FOLD and STRAND in FOLD_ARB. -/
def arbWeights (m : Mach) : List Nat :=
  let w := regN m offFoldArb
  [bf w 3 0, bf w 7 4, bf w 11 8]

/-- Case 3: the channel whose turn it is goes on for as many flits as its weight, then the next one that can send. -/
def wrrPick (w : List Nat) (x : Link) : Option (Nat × Nat × Nat) :=
  if 0 < x.turn.2 ∧ txReady x x.turn.1 then some (x.turn.1, x.turn.1, x.turn.2 - 1)
  else ([(x.turn.1 + 1) % 3, (x.turn.1 + 2) % 3, x.turn.1 % 3].find? (txReady x)).map fun c => (c, c, w.getD c 1 - 1)

/-- Channel of slot `i` of a frame, and the turn that stands after it.  A TICK flit takes slot 0 and no other. -/
def txPick (w : List Nat) (i : Nat) (x : Link) : Option (Nat × Nat × Nat) :=
  if i == 0 && txReady x 5 then some (5, x.turn)
  else if txReady x 4 then some (4, x.turn)
  else match wrrPick w x with
    | some r => some r
    | none => if txReady x 3 && x.txQ.all (fun t => t.vc == 3) then some (3, x.turn) else none

/-- Flits counted against a message's sender. -/
def shareOf (x : Link) (t : TxMsg) : Nat :=
  ((x.shares.find? fun s => s.1 == t.vc && s.2.1 == t.key).map (·.2.2)).getD 0

/-- The message of a channel that sends: the one that has begun, else the oldest of the sender with the fewest flits. -/
def txMsg (x : Link) (vc : Nat) : Option TxMsg :=
  let l := x.txQ.filter fun t => t.vc == vc
  match l.find? (·.begun) with
  | some t => some t
  | none => l.foldl (fun a t => match a with
    | some b => if shareOf x t < shareOf x b then some t else a
    | none => some t) none

/-- Counts a flit against its sender; a sender with nothing left to send is forgotten. -/
def countShare (t : TxMsg) (q : List TxMsg) (l : List (Nat × Nat × Nat)) : List (Nat × Nat × Nat) :=
  (l.map fun s => if s.1 = t.vc ∧ s.2.1 = t.key then (s.1, s.2.1, s.2.2 + 1) else s).filter fun s =>
    q.any fun u => u.vc == s.1 && u.key == s.2.1

/-- Slot `i` of a frame: the link after it, what the slot holds, and what left with it. -/
def txStep (w : List Nat) (i : Nat) (x : Link) : Link × Option SlotOut × List Output :=
  match txPick w i x with
  | none => (x, none, [])
  | some (vc, turn) =>
    match txMsg x vc with
    | none => (x, none, [])
    | some t =>
      let q := if t.flits ≤ 1 then x.txQ.erase t else x.txQ.replace t { t with flits := t.flits - 1, begun := true }
      ({ x with credits := x.credits.modify vc (· - 1), turn := turn, txQ := q, shares := countShare t q x.shares },
        some ⟨vc, if t.begun then none else some t.head⟩, if t.flits ≤ 1 then t.out.toList else [])

/-- The five slots of a frame, in order. -/
def txSlots (w : List Nat) (x : Link) : Link × List (Option SlotOut) × List Output :=
  (List.range 5).foldl (fun (a : Link × List (Option SlotOut) × List Output) i =>
    let r := txStep w i a.1
    (r.1, a.2.1 ++ [r.2.1], a.2.2 ++ r.2.2)) (x, [], [])

/-- Channel whose credits the next frame returns: the first after the last one that is owed some (R428). -/
def creditTurn (x : Link) : Option Nat :=
  ((List.range 6).map fun k => (x.rxTurn + 1 + k) % 6).find? fun v => decide (0 < x.rxOwed.getD v 0)

/-- The control field of a frame (Table 14.3). -/
def frameCtrl (x : Link) (f : TxFrame) : BitVec 40 :=
  let nibble (o : Option SlotOut) : Nat × Nat := (4, match o with | some s => 8 + s.vc | none => 0)
  BitVec.ofNat 40 (packed (f.slots.map nibble ++ [(3, f.crVc), (4, f.crCount), (12, x.rxLast), bit x.rxNak]))

/-- Is there anything for a frame to carry: a flit that may go, credits to return, an ACK?  Frames that carry nothing are left out
(log entry 52). -/
def frameDue (w : List Nat) (x : Link) : Bool := x.ackDue || (txPick w 0 x).isSome || (creditTurn x).isSome

/-- One frame: every 16,384th is an alignment frame and carries nothing (R424). -/
def txFrame (w : List Nat) (l now : Nat) (lanes : List Nat) (x : Link) : Link × List Output :=
  if x.txCount = 16383 then ({ x with txCount := 0 }, [.alignFrame l lanes])
  else
    let r := txSlots w x
    let vc := (creditTurn x).getD 0
    let n := if (creditTurn x).isSome then min 15 (x.rxOwed.getD vc 0) else 0
    let f : TxFrame := ⟨x.txNext, r.2.1, vc, n⟩
    let y := r.1
    ({ y with
      held := y.held ++ [f], txNext := (y.txNext + 1) % 4096, txCount := y.txCount + 1, ackDue := false
      rxOwed := y.rxOwed.modify vc (· - n), rxTurn := if n = 0 then y.rxTurn else vc
      ackAt := if y.held.isEmpty then now else y.ackAt, replayAt := if y.held.isEmpty then now else y.replayAt },
      r.2.2 ++ [.frame l lanes f.seqNum (frameCtrl x f) f.slots])

/-- At most `n` frames, while 1,024 are not held (R426): what left, in order. -/
def txRun (w : List Nat) (l now : Nat) (lanes : List Nat) : Nat → Link → Link × List Output
  | 0, x => (x, [])
  | n + 1, x =>
    if !frameDue w x || decide (1024 ≤ x.held.length) then (x, [])
    else
      let a := txFrame w l now lanes x
      let r := txRun w l now lanes n a.1
      (r.1, a.2 ++ r.2)

/-- Fold channels whose messages wait on a link for its credit (R348): the time each has waited. -/
def noteWaits (now : Nat) (x : Link) : Link :=
  let keys := ((x.txQ.filter fun t => t.vc == 1).map (·.key)).eraseDups
  let waits (n : Nat) : Bool := x.credits.getD 1 0 == 0 && keys.contains n
  let old := x.foldWaits.map fun w => match w.2.1 with
    | some t => if waits w.1 then w else (w.1, none, w.2.2 + (now - t))
    | none => if waits w.1 then (w.1, some now, w.2.2) else w
  let new := (keys.filter fun n => waits n && !(x.foldWaits.any fun w => w.1 == n)).map fun n => (n, some now, 0)
  { x with foldWaits := old ++ new }

/-- What leaves a link; a fold segment that does so ends its channel's wait (R353). -/
def emitSent (m : Mach) (o : Output) : Mach :=
  match o with
  | .message _ _ (.foldSeg _ n _ _ _ _ _) => emit (modChan m n fun c => { c with lastMove := m.edges, stalled := false }) o
  | _ => emit m o

/-- Lanes that training may use: the good ones that are not retired, retired ones too once they are offered (R442). -/
def usableLanes (m : Mach) (l : Nat) (good : BitVec 8) : List Nat :=
  (List.range 8).filter fun n => good.getLsbD n && (!m.flash.lanes.contains (l, n) || (linkOf m l).offerRetired)

/-- Lanes in service: the lowest-numbered good ones (R440). -/
def activeLanes (m : Mach) (l : Nat) : List Nat :=
  let x := linkOf m l
  ((usableLanes m l x.good).filter fun n => x.retraining != some n && x.riseDue != some n).take x.width

/-- A link that is up sends what may go. -/
def pumpLink (l : Nat) (m : Mach) : Mach :=
  let x := linkOf m l
  if x.state ≠ 2 then m
  else
    let n := 3 + ((x.txQ.map (·.flits)) ++ x.rxOwed).foldl (· + ·) 0
    let r := txRun (arbWeights m) l m.now (activeLanes m l) n x
    r.2.foldl emitSent (modLink m l fun _ => noteWaits m.now r.1)

/-- A sender that joins those that wait begins level with the one that has the fewest flits. -/
def joinShare (vc key : Nat) (l : List (Nat × Nat × Nat)) : List (Nat × Nat × Nat) :=
  if l.any fun s => s.1 == vc && s.2.1 == key then l
  else
    let mine := (l.filter fun s => s.1 == vc).map (·.2.2)
    l ++ [(vc, key, mine.foldl min (mine.headD 0))]

/-- Gives a link something to send. -/
def sendTx (l vc key flits : Nat) (head : BitVec 2048) (o : Option Output) (m : Mach) : Mach :=
  pumpLink l (modLink m l fun x => { x with
    txQ := x.txQ ++ [⟨vc, key, flits, false, head, o⟩], shares := joinShare vc key x.shares })

/-- Sends a message on a link, counted against a chord or fold channel.  What it is for its destination leaves with the last of the
messages that it takes. -/
def sendKeyed (m : Mach) (l dst key : Nat) (c : Instr) : Mach :=
  let ps := messagesOf m dst c
  (ps.zipIdx).foldl (fun m p =>
    sendTx l (msgVc c) key p.1.2 (p.1.1.setWidth 2048) (if p.2 + 1 = ps.length then some (.message l dst c) else none) m) m

/-- Sends a message on a link. -/
def sendOn (m : Mach) (l dst : Nat) (c : Instr) : Mach := sendKeyed m l dst (msgKey c) c

/-- Sends a TICK flit on a link. -/
def sendTick (m : Mach) (l : Nat) (o : Output) : Mach := sendTx l 5 0 1 (tickFlit o) (some o) m

/-! ### The receiver's buffers (R427, R428) -/

/-- Flits leave a receive buffer; their credits are owed to the far end. -/
def oweRx (l vc n : Nat) (m : Mach) : Mach :=
  let k := min n ((linkOf m l).rxBuf.getD vc 0)
  modLink m l fun x => { x with rxBuf := x.rxBuf.modify vc (· - k), rxOwed := x.rxOwed.modify vc (· + k) }

/-- Flits leave a receive buffer, and frames return their credits. -/
def freeRx (l vc n : Nat) (m : Mach) : Mach := pumpLink l (oweRx l vc n m)

/-- Flits of a message from a module that comes over one link only leave the buffer that holds them. -/
def freeRxFrom (md vc n : Nat) (m : Mach) : Mach :=
  match (List.range 36).find? fun l => (linkOf m l).farModule == md && decide (0 < (linkOf m l).rxBuf.getD vc 0) with
  | some l => freeRx l vc n m
  | none => m

end Sys2Proof.Machine
end

