-- ==== Sys2Proof/Machine/Operands.lean ====
section
/-!
DEFINITION. Operand forms: descriptor headers and bodies (Table 3.4), lattice addresses with the checks of R38 and R96,
host windows, and the timing that decides ticks and sweeps (R47–R49, R62).
-/
namespace Sys2Proof.Machine

/-! ### Descriptors -/

/-- Bits `hi`:`lo` of a descriptor. -/
def db (d : DescIn) (hi lo : Nat) : Nat := bf d.raw.toNat hi lo

def dOpcode (d : DescIn) : Nat := db d 7 0
def dFmt (d : DescIn) : Nat := db d 15 8
def dKind (d : DescIn) : Nat := db d 17 16
def dFloat (d : DescIn) : Bool := tb d.raw.toNat 18
def dFence (d : DescIn) : Bool := tb d.raw.toNat 19
def dQuiet (d : DescIn) : Bool := tb d.raw.toNat 20
def dJobField (d : DescIn) : Nat := db d 43 40
def dTag (d : DescIn) : Nat := db d 63 48
def dEdge (d : DescIn) : Nat := db d 127 64

/-- ADMIN of the descriptor's ring. -/
def ringAdmin (m : Mach) (n : Nat) : Bool := tb (regN m (offRingCtl n)) 2

/-- The job a descriptor acts for (R95), by the ring's control register as it stands now, also after a rewrite with EN = 0 while
descriptors of the ring remain (DESIGN CHOICE, log entry 78). -/
def dJob (m : Mach) (d : DescIn) : Nat :=
  if ringAdmin m d.ring then dJobField d else wf (regGet m (offRingCtl d.ring)) 7 4

/-- Do bits `hi`:`lo` of the descriptor read 0? -/
def dZero (d : DescIn) (hi lo : Nat) : Bool := db d hi lo == 0

/-- The bytes that the fetch of a descriptor's image returned, if none of it failed. -/
def imageBytes (d : DescIn) : Option (List Byte) :=
  match d.image with
  | .bytes l => some l
  | .error _ => none

/-- Bytes read before a host access failed (R98). -/
def imageGood (d : DescIn) : Nat :=
  match d.image with
  | .bytes l => l.length
  | .error l => l.length

/-- A little-endian field of `n` bytes at byte `o` of an image. -/
def imgNat (l : List Byte) (o n : Nat) : Nat := leNat ((l.drop o).take n)

/-- Bits `hi`:`lo` of the record of `sz` bytes at byte `o` of an image. -/
def imgBits (l : List Byte) (o sz hi lo : Nat) : Nat := bf (imgNat l o sz) hi lo

/-! ### CRC-32 (IEEE 802.3): reflected polynomial 0xEDB88320, initial value and final complement of all ones -/

def crcByte (c : Nat) (b : Byte) : Nat :=
  (List.range 8).foldl (fun c _ => if c % 2 = 1 then (c >>> 1) ^^^ 0xEDB88320 else c >>> 1) (c ^^^ b.toNat)

def crc32 (l : List Byte) : Nat := (l.foldl crcByte 0xFFFFFFFF) ^^^ 0xFFFFFFFF

/-! ### Lattice addresses (R35, R36, R38) -/

/-- The fields of Table 1.6. -/
structure Lat where
  mod   : Nat
  facet : Nat
  space : Nat
  off   : Nat
  deriving DecidableEq, Repr

def latOf (a : Nat) : Lat := ⟨bf a 63 52, bf a 51 45, bf a 44 41, bf a 40 0⟩

def latAddr (l : Lat) : Nat := l.mod * 2 ^ 52 + l.facet * 2 ^ 45 + l.space * 2 ^ 41 + l.off

/-- Size of a space on a die (Table 1.7); none for a reserved code or a space the die does not have. -/
def spaceSize (facet space : Nat) : Option Nat :=
  if facet < 104 then
    match space with
    | 0 | 3 => some Config.spadSize
    | 1 => some Config.hbmSize
    | 2 | 4 => some 0x4000
    | 15 => some 0x100000
    | _ => none
  else if facet = 127 then
    match space with
    | 0 => some Config.stagingSize
    | 2 => some 0x4000
    | 15 => some 0x100000
    | _ => none
  else none

/-- What an access does, for the permissions of R96. -/
inductive Perm where
  | read | write | atomic | tally
  deriving DecidableEq, Repr

def permBit : Perm → Nat
  | .read => 1
  | .write => 2
  | .atomic => 3
  | .tally => 4

/-- Lattice window `w` of job `j` covers the access (R96, R540). -/
def lwinCovers (m : Mach) (j w : Nat) (l : Lat) (n : Nat) (p : Perm) : Bool :=
  let o := offLwin j w
  let a := regN m o
  let base := bf (regN m (o + 0x10)) 40 0
  let lim := bf (regN m (o + 0x18)) 40 0
  tb a 0 && tb a (permBit p)
    && decide (bf a 43 32 ≤ l.mod) && decide (l.mod ≤ bf a 55 44)
    && decide (bf a 18 12 ≤ l.facet) && decide (l.facet ≤ bf a 25 19)
    && tb (regN m (o + 8)) l.space
    && decide (base ≤ l.off) && decide (l.off + n ≤ lim)

/-- DOUBLE of a job (Table 12.9). -/
def isDouble (m : Mach) (j : Nat) : Bool := tb (regN m (offSnapJob j)) 3

/-- What a DOUBLE job leaves free on every facet for a guest: the upper half of spaces 0, 1 and 3, and tallies 1,984–4,031
(R394). -/
def doubleBars (m : Mach) (j : Nat) (l : Lat) (n : Nat) : Bool :=
  isDouble m j && decide (l.facet < 104)
    && ((l.space == 0 || l.space == 3) && decide (Config.spadSize / 2 < l.off + n)
      || l.space == 1 && decide (Config.hbmSize / 2 < l.off + n)
      || l.space == 2 && decide (4 * 1984 < l.off + n) && decide (l.off < 4 * 4032))

/-- Some window of the job covers the access; reserve indices, space 15, the chord tallies, writes of locus tables and what
DOUBLE leaves free pass for no job (R96, R116, R147, R283, R394). -/
def latAllowed (m : Mach) (j : Nat) (l : Lat) (n : Nat) (p : Perm) : Bool :=
  !(decide (96 ≤ l.facet) && decide (l.facet ≤ 103)) && l.space != 15
    && !(l.space == 4 && p != .read)
    && !(l.space == 2 && decide (l.facet < 104) && decide (16128 < l.off + n) && decide (l.off < 16384))
    && !doubleBars m j l n
    && (List.range 16).any fun w => lwinCovers m j w l n p

/-- Status of the checks of R38 in their order: 0, or ADDR_INVALID, ADDR_RANGE, ADDR_DENIED. -/
def latStatus (m : Mach) (j : Nat) (l : Lat) (n : Nat) (p : Perm) : Nat :=
  match spaceSize l.facet l.space with
  | none => 0x08
  | some sz => if sz < l.off + n ∨ sz ≤ l.off then 0x09 else if latAllowed m j l n p then 0 else 0x0A

/-- Some host window of the job covers the bytes in the direction (R96). -/
def hostAllowed (m : Mach) (j addr n : Nat) (toHost : Bool) : Bool :=
  (List.range 8).any fun w =>
    let a := regN m (offHwin j w)
    let lim := regN m (offHwin j w + 8)
    tb a 0 && tb a (if toHost then 2 else 1)
      && decide ((a >>> 12) <<< 12 ≤ addr) && decide (addr + n ≤ (lim >>> 12) <<< 12)

/-- Arc-queue windows alias the scratchpad (R36). -/
def realSpace (sp : Nat) : Nat := if sp = 3 then 0 else sp

/-- The link toward a module, if LINK_ROUTE names one (Table 14.10). -/
def routeOf (m : Mach) (dst : Nat) : Option Nat :=
  let r := regN m (offRoute dst)
  if r < 36 then some r else none

/-- Sends a message to another module, as the command it is there; without a route nothing leaves. -/
def sendMsg (m : Mach) (dst : Nat) (c : Instr) : Mach :=
  match routeOf m dst with
  | some l => sendOn m l dst c
  | none => m

/-! ### Timing (R43–R50, R62) -/

/-- The timing set in this module's own registers. -/
def ownTiming (m : Mach) : Timing :=
  ⟨regN m offPeriod, regN m offSweepLen, regN m (offPhase 0), regN m (offPhase 1), regN m (offPhase 2),
   regN m (offPhase 3), regN m (offPhase 4), regN m offGrace⟩

/-- Does the module follow a master (R47)? -/
def following (m : Mach) : Bool := m.tick.running && !m.tick.master

/-- The timing set in effect: a follower's is its master's (R47). -/
def timing (m : Mach) : Timing := if following m then m.tick.follow.getD (ownTiming m) else ownTiming m

/-- Ticks before PUBLISH. -/
def Timing.used (t : Timing) : Nat := t.fill + t.steady + t.drain + t.fold + t.update

/-- Does R49 accept the set? -/
def timingOk (t : Timing) : Bool :=
  decide (400 ≤ t.period) && decide (t.period ≤ 1670000) && decide (1 ≤ t.sweepLen) && decide (t.sweepLen ≤ 1048576)
    && decide (t.fill ≤ 1048575) && decide (t.steady ≤ 1048575) && decide (t.drain ≤ 1048575)
    && decide (t.fold ≤ 1048575) && decide (t.update ≤ 1048575) && decide (t.used + 1 ≤ t.sweepLen)

/-- Phase of tick offset `k` within a sweep (R48): 0 FILL, 1 STEADY, 2 DRAIN, 3 FOLD, 4 UPDATE, 5 PUBLISH. -/
def phaseOf (t : Timing) (k : Nat) : Nat :=
  if k < t.fill then 0
  else if k < t.fill + t.steady then 1
  else if k < t.fill + t.steady + t.drain then 2
  else if k < t.fill + t.steady + t.drain + t.fold then 3
  else if k < t.used then 4
  else 5

/-- Ticks of the current sweep up to and including the current one. -/
def sweepTicks (m : Mach) : Nat := m.tick.tickNo - m.tick.sweepFirst + 1

/-- The next edge ends the sweep's nominal length (R48). -/
def sweepDue (m : Mach) : Bool := decide ((timing m).sweepLen ≤ sweepTicks m)

/-- Admission tick length of R62 in 10 ns steps. -/
def admitLen (m : Mach) : Nat := (timing m).period - 1

/-- Does the coming edge begin a sweep, as its symbol says or its nominal length?  The first edge does (R63). -/
def beginsSweep (m : Mach) : Bool :=
  !m.tick.running || match m.tick.sampled.or m.tick.sym with
    | some s => s.sweepEdge
    | none => sweepDue m

/-- Is `now` within the 2 µs before an edge that begins a sweep (R15, R64)?  Once the edge is announced the symbol says so,
before that its nominal length does. -/
def nearSweepEdge (m : Mach) : Bool :=
  edgeDue m && beginsSweep m && decide (gridEdge m ≤ m.now + 200)

/-- The edge begins a PUBLISH phase: offset `k` of the sweep is its first tick. -/
def publishStart (m : Mach) : Bool := decide (m.tick.phase = 5) && decide (m.tick.tickNo = m.tick.sweepFirst + (timing m).used)

/-- Nominal tick of sweep `s` (R54). -/
def nominalTick (m : Mach) (s : Nat) : Nat :=
  let pendLen := (pendGet m offSweepLen).toNat
  let later := if following m then (timing m).sweepLen else pendLen
  m.tick.sweepFirst + (timing m).sweepLen + m.tick.overtime + (s - (m.tick.sweepNo + 1)) * later

/-- Timeouts in ticks count edges (R562): the wait of `n` ticks that began at edge count `start` has expired. -/
def expired (m : Mach) (start n : Nat) : Bool := decide (start + n ≤ m.edges)

end Sys2Proof.Machine
end

