-- ==== Sys2Proof/Machine/FacetOps.lean ====
section
/-!
DEFINITION. Facet failure, row shift and doubling up (R391–R396, R26, R503), with the abort of a cut (R376) and the
facet map's records (R22, R515).
-/
namespace Sys2Proof.Machine

def rowOf (site : Nat) : Nat := site / 13

/-- A change of the facet map: both copies take the higher SEQ plus 1 (R515). -/
def flashRecord (m : Mach) (g : Flash → Flash) : Mach :=
  let hi := m.flash.copies.foldl (fun a c => max a c.2) 0 + 1
  modFlash m fun fl => { g fl with copies := fl.copies.map fun _ => (true, hi) }

def modSite (fl : Flash) (s : Nat) (g : Site → Site) : Flash := { fl with sites := fl.sites.modify s g }

/-- Site of a logical index in any state. -/
def anySiteOf (m : Mach) (f : Nat) : Option Nat :=
  (List.range m.flash.sites.length).find? fun s =>
    match m.flash.sites[s]? with
    | some x => x.logical == f
    | none => false

def facetRow (m : Mach) (f : Nat) : Nat := rowOf ((anySiteOf m f).getD 255)

/-- Reserve channels to which moves of a row, running or waiting, go. -/
def movingTo (m : Mach) (row : Nat) : List Nat :=
  (List.range 96).flatMap fun f =>
    if facetRow m f = row then (facetOf m f).moves.filterMap fun x => match x.1 with
      | .channel _ rc => some rc
      | .rekey _ _ _ => none
    else []

/-- The row's usable reserve site: its role is not consumed and its half-stack holds no remap (R392, R465).  DEDUCED: a channel
move under way counts as the remap that it makes (log entry 88). -/
def reserveSite (m : Mach) (row : Nat) : Option Nat :=
  if (m.flash.remaps.any fun r => r.2.2.1 == row) || !(movingTo m row).isEmpty then none else siteOf m (96 + row)

/-- Sites from `a` to `b` along their row, both included, `a` first. -/
def sitesFromTo (a b : Nat) : List Nat :=
  if a ≤ b then (List.range (b + 1 - a)).map (a + ·) else (List.range (a + 1 - b)).map (a - ·)

/-- Logical index at a site. -/
def logicalAt (m : Mach) (s : Nat) : Nat := ((m.flash.sites[s]?).map (·.logical)).getD 255

/-- Logical indices whose contents a shift moves. -/
def shiftFacets (m : Mach) (sh : Shift) : List Nat :=
  ((sitesFromTo sh.fromSite sh.toSite).drop (if sh.lossless then 0 else 1)).dropLast.map (logicalAt m)

/-- Does facet `f` stand on a site whose shift copy runs? -/
def shifting (m : Mach) (f : Nat) : Bool := m.shifts.any fun sh => !sh.copied && (shiftFacets m sh).contains f

/-- Does a shift copy run in the row of facet `f` (R396)? -/
def rowShifting (m : Mach) (f : Nat) : Bool :=
  m.shifts.any fun sh => !sh.copied && (anySiteOf m f).any fun s => rowOf s == sh.row

/-- Starts a row shift: operations to the moving facets, and to a failed one whose reserve refills, are held until the new
assignment (R392, R526, R289). -/
def startShift (m : Mach) (sh : Shift) : Mach :=
  let fs := (if sh.lossless then [] else [logicalAt m sh.fromSite]) ++ shiftFacets m sh
  let m := { m with shifts := m.shifts ++ [sh] }
  forAll fs (fun m f => modFacet m f fun x => { x with holding := true }) m

/-! ### Cuts -/

/-- The first sweep edge at least 4 ticks from now (R374, R380). -/
def cutSweep (m : Mach) : Nat :=
  (((List.range 6).map (m.tick.sweepNo + 1 + ·)).find? fun s => decide (edgeAhead m 4 ≤ nominalTick m s)).getD (m.tick.sweepNo + 6)

/-- The leader names the edge of a cut to itself and to every member (R380). -/
def announceCut (j : Nat) (m : Mach) : Mach :=
  let sw := cutSweep m
  let others := (snapOf m j).members.map (·.1) |>.filter fun d => d != self m
  let m := modSnap m j fun x => { x with cutAt := some sw, deferred := false }
  forAll others (fun m d => sendMsg m d (.snapCut j sw)) m

/-- A deferred policy cut is named once no cut runs (R374). -/
def resumeDeferred (j : Nat) (m : Mach) : Mach := if (snapOf m j).deferred then announceCut j m else m

/-- The module is done with the ring entries of a cut: it writes back USED, GENERATION and FAILED, DONE last (R94,
Table 3.12).  An access while the ring's endpoint was down has failed (log entry 16). -/
def finishEntries (gen : Nat) (l : List SnapUse) (m : Mach) : Mach :=
  forAll l (fun m e => emit m (.snapEntryWrite (portOf m 34) e.place e.used gen true e.failed)) m

/-- A cut aborts (R376): holds and slots are released, the ring entries it used are
written back without the manifest's slot, and the leader raises SNAP_ABORTED. -/
def abortCut (j cause : Nat) (m : Mach) : Mach :=
  let sn := snapOf m j
  match sn.cut with
  | none => m
  | some c =>
    let m := { m with
      facets := m.facets.map fun x => { x with scs := x.scs.map fun s => { s with locus := { s.locus with
        entries := s.locus.entries.map fun e => if e.job == j then { e with snapHeld := false } else e } } }
      store := m.store.filter fun i => !(i.job == j && i.gen == c.gen && !i.committed) }
    let m := if c.entriesDone then m else finishEntries c.gen (c.entries.map fun e => { e with used := e.used - 1 }) m
    let m := modSnap m j fun x => { x with cut := none }
    let m := if sn.leader = sn.self then raise m snapAborted (srcUnit 5) (some j) [j, c.gen, cause] else m
    resumeDeferred j m

/-! ### Failure -/

/-- Stage contexts of a facet with their jobs. -/
def scOwners (x : Facet) : List (Nat × Nat) :=
  (List.range x.scs.length).filterMap fun c =>
    match (x.scs[c]?).bind (·.owner) with
    | some (j, _) => some (c, j)
    | none => none

/-- Facets whose stage contexts run as guests on facet `h` (R393). -/
def guestsOf (m : Mach) (h : Nat) : List Nat := (List.range 96).filter fun f => (facetOf m f).hostedBy == some h

/-- Jobs with a stage context on the facet or among its guests, lowest first. -/
def jobsOn (m : Mach) (f : Nat) : List Nat :=
  (List.range 16).filter fun j => (f :: guestsOf m f).any fun g => (scOwners (facetOf m g)).any fun p => p.2 == j

/-- A store slot of every facet lies in the upper half of its HBM (R393, R367). -/
def storeHigh (m : Mach) : Bool :=
  let n := regN m offStoreSlots
  decide (0 < n) && decide (0x180000000 < regN m offStoreBase * 4096 + n * 0x4000000)

/-- The host facet for failed facet `f` (R393). -/
def pickHost (m : Mach) (f : Nat) : Option Nat :=
  let need := ((scOwners (facetOf m f)).filter fun p => isDouble m p.2).length
  let okHost (h : Nat) : Bool :=
    let x := facetOf m h
    h != f && !x.failed && x.hostedBy.isNone && !(m.facets.any fun y => y.hostedBy == some h)
      && (scOwners x).all (fun p => isDouble m p.2)
      && decide (need ≤ 4 - (scOwners x).length) && !storeHigh m
  let key (h : Nat) : Nat := (facetOf m h).scs.foldl (fun a s => max a s.lastMax) 0
  ((List.range 96).filter okHost).foldl (fun best h =>
    match best with
    | none => some h
    | some b => if key h < key b then some h else some b) none

/-- Doubling up on a host facet (R393). -/
def doubleUp (f h : Nat) (m : Mach) : Mach :=
  let guests := (scOwners (facetOf m f)).filter fun p => isDouble m p.2
  let used := (scOwners (facetOf m h)).map (·.1)
  let free := (List.range 4).filter fun c => !used.contains c
  let pairs := guests.zip free
  let m := modFacet m f fun x => { x with hostedBy := some h, failed := false }
  let m := forAll pairs (fun m (g, c) =>
    modJob m g.2 fun x => { x with guests := x.guests ++ [(f, g.1, h, c)] }) m
  forAll ((List.range 16).filter fun j => guests.any fun p => p.2 == j)
    (fun m j => raise m doubledEv (srcFacet f 11) (some j) [j, f, h]) m

/-- Jobs of `f` that a restore cannot place (R393). -/
def markRoomless (f : Nat) (js : List Nat) (m : Mach) : Mach :=
  forAll js (fun m j => modSnap m j fun x => { x with roomless := some f }) m

/-- Takeover of a failed facet: row shift toward the usable reserve (R392), else doubling up (R393); a copy that runs in
the row is waited for (R396, R527). -/
def takeOver (f : Nat) (m : Mach) : Mach :=
  match anySiteOf m f with
  | none => m
  | some s =>
    let row := rowOf s
    if m.shifts.any fun sh => sh.row == row then { m with failWait := m.failWait ++ [f] }
    else
      match reserveSite m row with
      | some r => startShift m ⟨row, s, r, false, false, false⟩
      | none =>
        let js := jobsOn m f
        if js.any (isDouble m) then
          match pickHost m f with
          | some h => markRoomless f (js.filter fun j => !isDouble m j) (doubleUp f h m)
          | none => markRoomless f js m
        else markRoomless f js m

/-- A microcode update in the row of a failed site is given up (R527). -/
def abortUcode (row cause : Nat) (m : Mach) : Mach :=
  match m.test.ucode with
  | none => m
  | some u =>
    if rowOf u.site ≠ row then m
    else
      let v := ((m.flash.sites[u.site]?).map (·.ucode)).getD 0
      let m := modTest m fun t => { t with ucode := none, busy := false, result := 2 }
      raise m ucodeAbort (srcFacet (logicalAt m u.site) 11) none [u.site, v, cause]

/-- The contents of a facet's site are lost (R392). -/
def loseFacet (f : Nat) (m : Mach) : Mach :=
  loseMem (loseMem (loseMem m f 0 0 Config.spadSize) f 1 0 Config.hbmSize) f 2 0 0x4000

/-- What runs on a facet that fails ends; a guest fails with its host. -/
def stopFacet (f : Nat) (m : Mach) : Mach :=
  modFacet m f fun y => { y with
    failed := true, holding := false, hostedBy := none, prisms := List.replicate 4 ⟨[], []⟩, ray := [], strands := [], groups := [],
    grads := [], scs := y.scs.map fun c => { c with run := none }, moves := [], retireDue := [], retrain := none }

/-- The owner of a lost shard learns of it by the one subject that names a shard, a refusing SHARD_ACK (log entry 46). -/
def tellLost (m : Mach) (i : StoreItem) : Mach := sendMsg m i.owner (.shardAck (self m) i.job i.gen i.shard true)

/-- Declares an active facet failed (R391, R503). -/
def failFacetOp (f : Nat) (m : Mach) : Mach :=
  let x := facetOf m f
  if x.failed || decide (96 ≤ f) then m
  else
    let site := (anySiteOf m f).getD 255
    let row := rowOf site
    let res := (siteOf m (96 + row)).getD 255
    let js := jobsOn m f
    let lostStore := m.store.filter fun i => i.slot % 96 == f
    let m := flashRecord m fun fl => modSite fl site fun y => { y with state := 1 }
    let gone := f :: guestsOf m f
    let m := loseFacet f (forAll gone (fun m g => stopFacet g m) m)
    let m := { m with
      jobs := m.jobs.map fun y => { y with guests := y.guests.filter fun g => g.2.2.1 != f }
      flights := m.flights.filter fun fl => match fl.issuer with
        | .strand g _ => !gone.contains g
        | .sc g _ => !gone.contains g
        | .gather g _ => !gone.contains g
        | .fold _ => true
      store := m.store.filter fun i => i.slot % 96 != f }
    let m := raise m facetFailEv (srcFacet f 11) none [f, site, res]
    let m := forAll js (fun m j =>
      let m := modJob m j fun y => { y with halted := true }
      raise (abortCut j 2 m) jobHit (srcJob j) (some j) [j, f]) m
    let m := { m with jobs := m.jobs.map fun y => if y.snap.armed then { y with snap := { y.snap with nFail := y.snap.nFail + 1 } } else y }
    let m := forAll (lostStore.filter fun i => i.owner != self m) tellLost m
    -- R527: before the reverse copy begins the site under update holds the reserve role
    let m := if (m.test.ucode.any fun u => rowOf u.site == row && u.step < 4) then abortUcode row 1 m else m
    forAll gone (fun m g => takeOver g m) m

/-- Site `s` becomes FAILED: a facet failure for an active site, a consumed reserve role for a reserve site (R26, R520,
R527). -/
def failSite (s : Nat) (m : Mach) : Mach :=
  let f := logicalAt m s
  if f < 96 then failFacetOp f m
  else
    let m := flashRecord m fun fl => modSite fl s fun y => { y with state := 1, logical := 255 }
    if m.test.ucode.any fun u => u.site == s then abortUcode (rowOf s) 2 m else m

/-- The edge after a shift copy: the new assignment and detour wires take effect (R392, R525). -/
def finishShift (sh : Shift) (m : Mach) : Mach :=
  let path := sitesFromTo sh.fromSite sh.toSite
  let logs := path.map (logicalAt m)
  let moved := shiftFacets m sh
  let f := logicalAt m sh.fromSite
  let res := 96 + sh.row
  let m := { m with shifts := m.shifts.filter fun y => y != sh }
  let m := flashRecord m fun fl =>
    let fl := (path.drop 1).zip logs |>.foldl (fun fl (s, l) =>
      modSite fl s fun y => { y with logical := l, state := 0 }) fl
    modSite fl sh.fromSite fun y => { y with
      logical := if sh.lossless then res else 255
      state := if !sh.lossless then 1 else if sh.ucode && (m.test.ucode.any fun u => u.step = 4) then 2 else 3 }
  let m := forAll moved (fun m g => modFacet m g fun x => { x with holding := false }) m
  let m :=
    if sh.lossless then m
    else modFacet m f fun x => { x with failed := false, holding := false }
  let m := if sh.lossless then m else raise m facetTakeover (srcFacet f 11) none [f, sh.fromSite, sh.toSite]
  let wait := m.failWait.filter fun g => ((anySiteOf m g).map rowOf) == some sh.row
  let m := { m with failWait := m.failWait.filter fun g => !wait.contains g }
  forAll wait (fun m g => takeOver g m) m

/-- SHIFT_COPY_DONE: the copy in the row ends (R392). -/
def shiftCopyDoneOp (row : Nat) (m : Mach) : Mach :=
  { m with shifts := m.shifts.map fun sh => if sh.row == row then { sh with copied := true } else sh }

/-! ### Commands -/

end Sys2Proof.Machine
end

