-- ==== Sys2Proof/Machine/Commit.lean ====
section
/-!
DEFINITION. The commit of a generation and its retention (R375–R377), and the manifest's header (Table 12.4).
-/
namespace Sys2Proof.Machine

def shardBytes : Nat := 0x4000000

/-- Shard index that stands for a manifest in SHARD and SHARD_ACK.  DESIGN CHOICE: the spec gives none. -/
def manifestIdx : Nat := 0xFFFFFFFF

/-- Target index that stands for the twin (R371). -/
def twinTarget : Nat := 64

def isLeader (sn : SnapDom) : Bool := sn.leader == sn.self

/-- Module of a position in the member list. -/
def memberModule (sn : SnapDom) (p : Nat) : Nat := ((sn.members[p]?).map (·.1)).getD 0

/-- Modules of the members. -/
def domainModules (sn : SnapDom) : List Nat := sn.members.map (·.1)

/-- Sends a message that travels only over a link that leads to its destination (R432). -/
def sendDirect (m : Mach) (dst : Nat) (c : Instr) : Mach :=
  match (List.range m.links.length).find? fun l => (linkOf m l).state == 2 && (linkOf m l).farModule == dst with
  | some l => sendOn m l dst c
  | none => m

/-- Module that a target index names, none for a HOST target. -/
def targetModule (m : Mach) (sn : SnapDom) (t : Nat) : Option Nat :=
  if t = twinTarget then some m.twin.modNum
  else match sn.targets[t]? with
    | some (1, md) => some md
    | _ => none

/-- Data shards of a stream. -/
def nData (total : Nat) : Nat := (total + shardBytes - 1) / shardBytes

/-- Targets of a cut: those that hold a shard, and the twin while it mirrors (R372). -/
def cutTargets (sn : SnapDom) (c : Cut) : List Nat :=
  (c.placed.map (·.2)).eraseDups ++ (if sn.mirror && !(c.placed.any fun x => x.2 == twinTarget) then [twinTarget] else [])

/-- Bytes 0–63 of a member's manifest. -/
def manifestHead (m : Mach) (j : Nat) (sn : SnapDom) (c : Cut) (commit : Option Nat) (losses : List Word) : List Byte :=
  let lo := (b2n commit.isSome) + nData c.total * 2 ^ 64 + b2n c.mzero * 2 ^ 104 + sn.m * 2 ^ 105 + sn.k * 2 ^ 107
    + j * 2 ^ 112 + self m * 2 ^ 116
  leBytes 16 lo ++ leBytes 8 c.gen ++ leBytes 8 (commit.getD 0)
    ++ (List.range 4).flatMap fun p => leBytes 8 (losses.getD p 0).toNat

/-- A manifest write on its way: counted until SHARD_ACK settles it. -/
def sendShardTo (j : Nat) (shard t ofs : Nat) (data : List Byte) (m : Mach) : Mach :=
  let sn := snapOf m j
  match sn.cut, targetModule m sn t with
  | some c, some md => sendDirect m md (.shard (self m) j c.gen shard ofs (t == twinTarget) data)
  | _, _ => m

/-- Counts a write to a target as sent now (R290, R370). -/
def noteSent (j shard t : Nat) (m : Mach) : Mach :=
  let op := m.nextOp
  let m := { m with nextOp := op + 1 }
  modSnap m j fun x => { x with cut := x.cut.map fun c => { c with sent := c.sent ++ [(op, shard, t, m.now)] } }

/-- Does the pipeline have a training schedule (R375, Table 4.5)? -/
def trains (m : Mach) (j p : Nat) : Bool := match (pipeOf m j p).sched with | some s => !s.fwdOnly | none => false

/-- Releases a generation: SNAP_RELEASED names each host entry it used (R377). -/
def releaseGen (j : Nat) (m : Mach) (g : Gen) : Mach :=
  if g.tags.isEmpty then raise m snapReleased (srcUnit 5) (some j) [j, g.gen]
  else forAll g.tags (fun m t => raise m snapReleased (srcUnit 5) (some j) [j, g.gen, t]) m

/-- Ends the holds of a job's cut on version regions (R373). -/
def dropHolds (j : Nat) (m : Mach) : Mach :=
  { m with facets := m.facets.map fun x => { x with scs := x.scs.map fun s => { s with locus := { s.locus with
      entries := s.locus.entries.map fun e => if e.job == j then { e with snapHeld := false } else e } } } }

/-- The member's cut ends committed: its generation joins the list, and a third one releases the oldest (R377). -/
def keepGen (j : Nat) (m : Mach) : Mach :=
  match (snapOf m j).cut with
  | none => m
  | some c =>
    let g : Gen := ⟨c.gen, c.committing.getD 0, c.entries.map (·.tag), (snapOf m j).k, (snapOf m j).m, nData c.total⟩
    let m := dropHolds j m
    let all := (snapOf m j).gens ++ [g]
    let old := all.take (all.length - 2)
    let m := modSnap m j fun x => { x with cut := none, gens := all.drop (all.length - 2) }
    forAll old (releaseGen j) m

/-- Every member has acknowledged: the generation is committed (R375 step 4). -/
def finishCommit (j : Nat) (m : Mach) : Mach :=
  let sn := snapOf m j
  match sn.cut with
  | none => m
  | some c =>
    if !isLeader sn || c.committing.isNone || !((domainModules sn).all c.membersAck.contains) then m
    else
      let m := modSnap m j fun x => { x with cost := c.overtime, doneIn := some m.tick.sweepNo }
      let m := raise m snapCommitted (srcUnit 5) (some j) [j, c.gen, c.committing.getD 0]
      resumeDeferred j (keepGen j m)

/-- The member's manifests say COMMITTED on every target: it acknowledges to the leader (R375 step 3). -/
def ackCommit (j : Nat) (m : Mach) : Mach :=
  let sn := snapOf m j
  match sn.cut with
  | none => m
  | some c =>
    if c.committing.isNone || !((cutTargets sn c).all c.manifested.contains) then m
    else if isLeader sn then
      finishCommit j (modSnap m j fun x => { x with cut := x.cut.map fun c => { c with
        membersAck := if c.membersAck.contains (self m) then c.membersAck else c.membersAck ++ [self m] } })
    else
      let m := sendMsg m (memberModule sn sn.leader) (.snapCommit (self m) j c.gen true (c.committing.getD 0) [])
      keepGen j m

/-- Writes bytes into slot 0 of every ring entry of a cut. -/
def emitEntries (l : List SnapUse) (bs : List Byte) (m : Mach) : Mach :=
  forAll l (fun m e => emit m (.hostWrite (portOf m 34) e.addr bs false)) m

/-- Writes a manifest's first 64 bytes again on one target; a host access is acknowledged by the bus. -/
def rewriteHead (j : Nat) (head : List Byte) (m : Mach) (t : Nat) : Mach :=
  let sn := snapOf m j
  match sn.cut, targetModule m sn t with
  | some _, some _ => noteSent j manifestIdx t (sendShardTo j manifestIdx t 0 head m)
  | some c, none =>
    let m := emitEntries c.entries head m
    modSnap m j fun x => { x with cut := x.cut.map fun c => { c with manifested := c.manifested ++ [t] } }
  | none, _ => m

/-- The member overwrites bytes 0–63 of every copy of its manifest (R375 step 3). -/
def memberCommit (j commit : Nat) (losses : List Word) (m : Mach) : Mach :=
  match (snapOf m j).cut with
  | none => m
  | some c =>
    let m := modSnap m j fun x => { x with
      commitCtr := max x.commitCtr commit, cut := x.cut.map fun c => { c with committing := some commit, manifested := [] } }
    let head := manifestHead m j (snapOf m j) c (some commit) losses
    ackCommit j (forAll (cutTargets (snapOf m j) c) (rewriteHead j head) m)

/-- The losses the manifest records: (+0, +0) for a pipeline without a training schedule. -/
def cutLosses (m : Mach) (j : Nat) (c : Cut) : List Word :=
  (List.range 4).map fun p => if trains m j p then ((c.losses[p]?).bind id).getD 0 else 0

/-- The leader commits once every member is done and it holds every loss (R375 steps 1 and 2). -/
def tryCommit (j : Nat) (m : Mach) : Mach :=
  let sn := snapOf m j
  match sn.cut with
  | none => m
  | some c =>
    let lossesIn := (List.range 4).all fun p => !trains m j p || ((c.losses[p]?).bind id).isSome
    if !isLeader sn || c.committing.isSome || !((domainModules sn).all c.membersDone.contains) || !lossesIn then m
    else
      let n := sn.commitCtr + 1
      let ls := cutLosses m j c
      let m := modSnap m j fun x => { x with commitCtr := n }
      let m := forAll ((domainModules sn).filter fun d => d != self m)
        (fun m d => sendMsg m d (.snapCommit (self m) j c.gen false n ls)) m
      memberCommit j n ls m

/-- The folded loss of a pipeline for the sweep is known (R344, R375). -/
def noteLoss (j p : Nat) (m : Mach) : Mach :=
  match (snapOf m j).cut with
  | none => m
  | some c =>
    if c.gen ≠ m.tick.sweepNo then m
    else
      let l := (pipeOf m j p).foldLoss
      let m := modSnap m j fun x => { x with cut := x.cut.map fun c => { c with losses := c.losses.set p (some l) } }
      tryCommit j m

end Sys2Proof.Machine
end

