-- ==== Sys2Proof/Machine/Flags.lean ====
section
/-!
DEFINITION. The four arithmetic flags (R215) as bits of a number, in the order of the FLAGS field of Table 6.7, and
results that carry flags.
-/
namespace Sys2Proof.Machine

/-- invalid, overflow, underflow, inexact (Table 3.8, Table 6.7). -/
def flInvalid : Nat := 8
def flOverflow : Nat := 4
def flUnderflow : Nat := 2
def flInexact : Nat := 1

/-- A value with the flags it raised. -/
abbrev Fl (α : Type) := α × Nat

/-- ORs flags into a result. -/
def flOr {α : Type} (x : Fl α) (f : Nat) : Fl α := (x.1, x.2 ||| f)

/-- Applies `g` to the value and ORs both operations' flags. -/
def flBind {α β : Type} (x : Fl α) (g : α → Fl β) : Fl β := flOr (g x.1) x.2

/-- Runs `g` over a list in order and ORs the flags. -/
def flMap {α β : Type} (g : α → Fl β) : List α → Fl (List β)
  | [] => ([], 0)
  | a :: t => flBind (g a) fun b => flBind (flMap g t) fun l => (b :: l, 0)

/-- A left fold whose steps raise flags. -/
def flFold {α β : Type} (g : β → α → Fl β) : β → List α → Fl β
  | b, [] => (b, 0)
  | b, a :: t => flBind (g b a) fun c => flFold g c t

end Sys2Proof.Machine
end

