-- ==== Sys2Proof/Machine/Float.lean ====
section
/-!
DEFINITION. Chapter 7: the formats of Table 7.1, exact values, rounding and conversion (R207–R217), the compensated pair
FP32P (R210–R212), block scales (R218, R219), stochastic rounding (R231, R232) and the order of reductions (R223, R224).
-/
namespace Sys2Proof.Machine

/-! ### Exact values -/

/-- An exact value: (−1)^neg · m · 2^e, an infinity or NaN. A zero keeps its sign. -/
inductive Fp where
  | fin (neg : Bool) (m : Nat) (e : Int)
  | inf (neg : Bool)
  | nan
  deriving DecidableEq, Repr

def fpZero : Fp := .fin false 0 0

/-- An integer as an exact value. -/
def fpInt (x : Int) : Fp := .fin (decide (x < 0)) x.natAbs 0

/-- Signed integer of a finite value at exponent `e0`, which is at most its own. -/
def fpAt (neg : Bool) (m : Nat) (e e0 : Int) : Int :=
  let v : Int := Int.ofNat (m <<< (e - e0).toNat)
  if neg then -v else v

def fpNeg : Fp → Fp
  | .fin n m e => .fin (!n) m e
  | .inf n => .inf (!n)
  | .nan => .nan

def fpAbs : Fp → Fp
  | .fin _ m e => .fin false m e
  | .inf _ => .inf false
  | .nan => .nan

/-- Exact sum; a zero sum is +0 unless both terms are −0 (R217); opposite infinities are invalid (R215). -/
def fpAdd (a b : Fp) : Fl Fp :=
  match a, b with
  | .nan, _ => (.nan, 0)
  | _, .nan => (.nan, 0)
  | .inf x, .inf y => if x = y then (.inf x, 0) else (.nan, flInvalid)
  | .inf x, _ => (.inf x, 0)
  | _, .inf y => (.inf y, 0)
  | .fin nx mx ex, .fin ny my ey =>
    let e := min ex ey
    let s := fpAt nx mx ex e + fpAt ny my ey e
    if s = 0 then (.fin (mx == 0 && my == 0 && nx && ny) 0 0, 0) else (.fin (decide (s < 0)) s.natAbs e, 0)

def fpSub (a b : Fp) : Fl Fp := fpAdd a (fpNeg b)

/-- Exact product; 0 × ∞ is invalid. -/
def fpMul (a b : Fp) : Fl Fp :=
  match a, b with
  | .nan, _ => (.nan, 0)
  | _, .nan => (.nan, 0)
  | .inf x, .inf y => (.inf (x != y), 0)
  | .inf x, .fin y m _ => if m = 0 then (.nan, flInvalid) else (.inf (x != y), 0)
  | .fin y m _, .inf x => if m = 0 then (.nan, flInvalid) else (.inf (x != y), 0)
  | .fin x m e, .fin y k f => (.fin (x != y) (m * k) (e + f), 0)

/-- Quotient to 160 bits with a sticky bit, which every rounding of this module treats as the exact quotient; a finite
non-zero value over zero gives an infinity and raises overflow alone (R246). -/
def fpDiv (a b : Fp) : Fl Fp :=
  match a, b with
  | .nan, _ => (.nan, 0)
  | _, .nan => (.nan, 0)
  | .inf _, .inf _ => (.nan, flInvalid)
  | .inf x, .fin y _ _ => (.inf (x != y), 0)
  | .fin y _ _, .inf x => (.fin (x != y) 0 0, 0)
  | .fin x m e, .fin y k f =>
    if k = 0 then (if m = 0 then (.nan, flInvalid) else (.inf (x != y), flOverflow))
    else
      let s := 160 + k.log2
      let q := (m <<< s) / k
      let sticky := if q * k = m <<< s then 0 else 1
      (.fin (x != y) (2 * q + sticky) (e - f - s - 1), 0)

/-- Integer square root, rounded down, bit by bit from bit `n`. -/
def isqrt (n : Nat) (x : Nat) : Nat :=
  (List.range (n + 1)).foldl (fun r i =>
    let c := r + 2 ^ (n - i)
    if c * c ≤ x then c else r) 0

/-- m·2^e as an even power of two times an integer: (m′, e′) with e′ even. -/
def evenExp (m : Nat) (e : Int) : Nat × Int := if e % 2 = 0 then (m, e) else (2 * m, e - 1)

/-- Square root to about 160 bits with a sticky bit. -/
def fpSqrt : Fp → Fl Fp
  | .nan => (.nan, 0)
  | .inf n => if n then (.nan, flInvalid) else (.inf false, 0)
  | .fin n m e =>
    if m = 0 then (.fin n 0 0, 0)
    else if n then (.nan, flInvalid)
    else
      let (m', e') := evenExp m e
      let x := m' <<< 320
      let r := isqrt ((x.log2) / 2 + 1) x
      (.fin false (2 * r + (if r * r = x then 0 else 1)) (e' / 2 - 161), 0)

/-- Reciprocal square root with a sticky bit; of zero it is an exact infinity (R246). -/
def fpRsqrt : Fp → Fl Fp
  | .nan => (.nan, 0)
  | .inf n => if n then (.nan, flInvalid) else (.fin false 0 0, 0)
  | .fin n m e =>
    if m = 0 then (.inf n, flOverflow)
    else if n then (.nan, flInvalid)
    else
      let (m', e') := evenExp m e
      let s := 160 + m'.log2
      let r := isqrt (s + 1) (2 ^ (2 * s) / m')
      (.fin false (2 * r + (if r * r * m' = 2 ^ (2 * s) then 0 else 1)) (-(e' / 2) - Int.ofNat s - 1), 0)

/-- Order of two values that are not NaN, −0 below +0 when `zeros` holds (R217): is a below b? -/
def fpLt (zeros : Bool) (a b : Fp) : Bool :=
  match a, b with
  | .nan, _ => false
  | _, .nan => false
  | .inf x, .inf y => x && !y
  | .inf x, _ => x
  | _, .inf y => !y
  | .fin nx mx ex, .fin ny my ey =>
    let e := min ex ey
    let x := fpAt nx mx ex e
    let y := fpAt ny my ey e
    decide (x < y) || (zeros && decide (x = y) && decide (mx = 0) && nx && !ny)

def fpEq (a b : Fp) : Bool :=
  match a, b with
  | .nan, _ => false
  | _, .nan => false
  | a, b => !fpLt false a b && !fpLt false b a

def fpMax (a b : Fp) : Fp :=
  match a, b with
  | .nan, _ => .nan
  | _, .nan => .nan
  | a, b => if fpLt true a b then b else a

def fpMin (a b : Fp) : Fp :=
  match a, b with
  | .nan, _ => .nan
  | _, .nan => .nan
  | a, b => if fpLt true b a then b else a

/-! ### Formats (Table 7.1) -/

/-- A floating-point format: exponent and mantissa bits, bias, sign bit, pattern of the largest finite magnitude, its
infinity, its canonical NaN. -/
structure FmtDef where
  eb   : Nat
  mb   : Nat
  bias : Nat
  sgn  : Bool
  top  : Nat
  infP : Option Nat
  nanP : Nat

def f32 : FmtDef := ⟨8, 23, 127, true, 0x7F7FFFFF, some 0x7F800000, 0x7FC00000⟩
/-- IEEE binary64, in which the centroid evaluates R319 and R389. -/
def f64 : FmtDef := ⟨11, 52, 1023, true, 0x7FEFFFFFFFFFFFFF, some 0x7FF0000000000000, 0x7FF8000000000000⟩
def fBf16 : FmtDef := ⟨8, 7, 127, true, 0x7F7F, some 0x7F80, 0x7FC0⟩
def fF16 : FmtDef := ⟨5, 10, 15, true, 0x7BFF, some 0x7C00, 0x7E00⟩
def fUbf16 : FmtDef := ⟨8, 8, 127, false, 0xFEFF, some 0xFF00, 0xFF80⟩
def fE4m3 : FmtDef := ⟨4, 3, 7, true, 0x7E, none, 0x7F⟩
def fE5m2 : FmtDef := ⟨5, 2, 15, true, 0x7B, some 0x7C, 0x7E⟩
def fE2m1 : FmtDef := ⟨2, 1, 1, true, 0x7, none, 0x0⟩

/-- Bits below the sign. -/
def FmtDef.w (f : FmtDef) : Nat := f.eb + f.mb

/-- Exponent of a unit in the last place of the smallest normals. -/
def FmtDef.qmin (f : FmtDef) : Int := 1 - Int.ofNat f.bias - Int.ofNat f.mb

/-- Value of a pattern (R207). -/
def fpDec (f : FmtDef) (bits : Nat) : Fp :=
  let neg := f.sgn && bits.testBit f.w
  let mag := bits % 2 ^ f.w
  if f.top < mag then (if some mag = f.infP then .inf neg else .nan)
  else
    let ex := mag >>> f.mb
    let mn := mag % 2 ^ f.mb
    if ex = 0 then .fin neg mn f.qmin else .fin neg (2 ^ f.mb + mn) (f.qmin + Int.ofNat ex - 1)

/-- Rounds m·2^e to a multiple of 2^q, ties to even: the multiple, and whether it is inexact. -/
def rneAt (m : Nat) (e q : Int) : Nat × Bool :=
  if q ≤ e then (m <<< (e - q).toNat, false)
  else
    let d := (q - e).toNat
    let hi := m >>> d
    let lo := m % 2 ^ d
    let half := 2 ^ (d - 1)
    (if half < lo ∨ (lo = half ∧ hi % 2 = 1) then hi + 1 else hi, decide (lo ≠ 0))

/-- Magnitude pattern of m·2^e > 0 rounded to nearest even, without a bound on its exponent; inexact; tiny (R215). -/
def roundMag (f : FmtDef) (m : Nat) (e : Int) : Nat × Bool × Bool :=
  let top := Int.ofNat m.log2 + e
  let qn := top - Int.ofNat f.mb
  let q := max qn f.qmin
  let (mn, ix) := rneAt m e q
  let (mu, _) := rneAt m e qn
  let tiny := decide (qn < f.qmin) && decide (mu * 2 ^ (qn - f.qmin + 400).toNat < 2 ^ (f.mb + 400))
  ((q - f.qmin).toNat * 2 ^ f.mb + mn, ix, tiny)

/-- Conversion of an exact value to a format with its flags (R213, R214, R209). -/
def fpEnc (f : FmtDef) (v : Fp) : Fl Nat :=
  let sb (n : Bool) : Nat := if f.sgn && n then 2 ^ f.w else 0
  match v with
  | .nan => (f.nanP, 0)
  | .inf n =>
    if n && !f.sgn then (f.nanP, flInvalid)
    else match f.infP with
      | some p => (p + sb n, 0)
      | none => (f.nanP, flInvalid)
  | .fin n m e =>
    if m = 0 then (sb n, 0)
    else if n && !f.sgn then (f.nanP, flInvalid)
    else
      let (mag, ix, tiny) := roundMag f m e
      if f.top < mag then
        ((if f.mb = 2 then f.top else f.infP.getD f.top) + sb n, flOverflow ||| flInexact)
      else (mag + sb n, (if ix then flInexact else 0) ||| (if ix && tiny then flUnderflow else 0))

/-- Conversion to a two's-complement integer of `w` bits: nearest even, saturated (R213). -/
def fpToInt (w : Nat) (v : Fp) : Fl Int :=
  let hi : Int := 2 ^ (w - 1) - 1
  let lo : Int := -(2 ^ (w - 1))
  match v with
  | .nan => (0, flInvalid)
  | .inf n => (if n then lo else hi, flInvalid)
  | .fin n m e =>
    let (k, ix) := rneAt m e 0
    let x : Int := if n then -Int.ofNat k else Int.ofNat k
    if hi < x then (hi, flOverflow ||| flInexact)
    else if x < lo then (lo, flOverflow ||| flInexact)
    else (x, if ix then flInexact else 0)

/-- A two's-complement pattern as an integer. -/
def sInt (w bits : Nat) : Int :=
  let b := bits % 2 ^ w
  if b < 2 ^ (w - 1) then Int.ofNat b else Int.ofNat b - 2 ^ w

/-- An integer as a two's-complement pattern. -/
def uBits (w : Nat) (x : Int) : Nat := (x % 2 ^ w).toNat

/-! ### FP32 -/

/-- Round to FP32. -/
def r32 (v : Fl Fp) : Fl Nat := flBind v (fpEnc f32)

def v32 (b : Nat) : Fp := fpDec f32 b

def add32 (a b : Nat) : Fl Nat := r32 (fpAdd (v32 a) (v32 b))
def sub32 (a b : Nat) : Fl Nat := r32 (fpSub (v32 a) (v32 b))
def mul32 (a b : Nat) : Fl Nat := r32 (fpMul (v32 a) (v32 b))
def div32 (a b : Nat) : Fl Nat := r32 (fpDiv (v32 a) (v32 b))
def sqrt32 (a : Nat) : Fl Nat := r32 (fpSqrt (v32 a))

/-- Exact a·b + c. -/
def fpFma (a b c : Fp) : Fl Fp := flBind (fpMul a b) fun p => fpAdd p c

def fma32 (a b c : Nat) : Fl Nat := r32 (fpFma (v32 a) (v32 b) (v32 c))

def nan32 : Nat := 0x7FC00000

/-! ### FP32P (R210–R212) -/

/-- A pair (hi, lo) of FP32 patterns. -/
abbrev Pair := Nat × Nat

/-- Exact value hi + lo; an infinity or NaN in hi decides. -/
def pairVal (p : Pair) : Fp :=
  match v32 p.1, v32 p.2 with
  | .nan, _ => .nan
  | _, .nan => .nan
  | .inf n, _ => .inf n
  | v, _ =>
    match v32 p.2 with
    | .fin _ 0 _ => v
    | l => (fpAdd v l).1

/-- A pair as the 64-bit word of Table 7.1, hi in bytes 0–3. -/
def pairWord (p : Pair) : Nat := p.1 + p.2 * 2 ^ 32

def wordPair (w : Nat) : Pair := (w % 2 ^ 32, (w >>> 32) % 2 ^ 32)

/-- An FP32 value as a pair. -/
def pairOf (b : Nat) : Pair := (b, 0)

def isFin : Fp → Bool
  | .fin _ _ _ => true
  | _ => false

/-- Compensated addition (R211). -/
def addP (x y : Pair) : Fl Pair :=
  let s := (add32 x.1 y.1)
  if [x.1, x.2, y.1, y.2].any fun b => v32 b == .nan then ((nan32, 0), 0)
  else match v32 s.1 with
  | .nan => ((nan32, 0), flInvalid)
  | .inf _ => ((s.1, 0), s.2)
  | _ =>
    let z := (sub32 s.1 x.1).1
    let e := (add32 (sub32 x.1 (sub32 s.1 z).1).1 (sub32 y.1 z).1).1
    let e := (add32 e (add32 x.2 y.2).1).1
    let hi := (add32 s.1 e).1
    let lo := (sub32 e (sub32 hi s.1).1).1
    let exact := (fpAdd (pairVal x) (pairVal y)).1
    match v32 hi with
    | .nan => ((nan32, 0), flInvalid)
    | .inf _ => ((hi, 0), if isFin exact then flOverflow ||| flInexact else 0)
    | .fin _ m _ =>
      let r : Pair := (hi, if m = 0 then 0 else lo)
      (r, if fpEq exact (pairVal r) then 0 else flInexact)

/-- The product of two values as the pair (rne32(x·y), rest) of R223 and R252; the flags are those of rounding the rest, or of
rounding the product where it rounds to zero (R215). -/
def mulPair (x y : Fp) : Fl Pair :=
  let e := fpMul x y
  let p := r32 e
  match v32 p.1 with
  | .fin _ m _ =>
    let t := if m = 0 then (0, p.2) else r32 (fpSub e.1 (v32 p.1))
    let r : Pair := (p.1, t.1)
    (r, if fpEq e.1 (pairVal r) then 0 else t.2 ||| flInexact)
  | _ => ((p.1, 0), p.2)

/-- Combines partial sums pairwise, the lower index on the left, an odd one carried up (R192, R223, R224). -/
def combine {α : Type} (add : α → α → Fl α) (fuel : Nat) (l : List α) : Fl (List α) :=
  match fuel with
  | 0 => (l, 0)
  | k + 1 =>
    match l with
    | _ :: _ :: _ => flBind (level l) fun l' => combine add k l'
    | _ => (l, 0)
where
  level : List α → Fl (List α)
    | a :: b :: t => flBind (add a b) fun c => flBind (level t) fun r => (c :: r, 0)
    | l => (l, 0)

/-- The terms at indices congruent to `l` mod 512, summed in order; an index may have none (R223 step 1, R249). -/
def laneSum (terms : List (Option Pair)) (l : Nat) : Fl Pair :=
  let mine := (List.range ((terms.length + 511 - l) / 512)).filterMap fun i => (terms[l + 512 * i]?).join
  match mine with
  | [] => ((0, 0), 0)
  | a :: t => flFold addP a t

/-- Reduction of at most 2^24 terms (R223). -/
def reduceBlock (terms : List (Option Pair)) : Fl Pair :=
  flBind (flMap (laneSum terms) (List.range 512)) fun ls =>
    flBind (combine addP 9 ls) fun r => (r.headD (0, 0), 0)

/-- A list in pieces of `n` elements. -/
def chunks {α : Type} (n : Nat) (l : List α) : List (List α) :=
  (List.range ((l.length + n - 1) / n)).map fun i => (l.drop (n * i)).take n

/-- Reduction over any number of indices, those without a term left out (R223, R224, R252). -/
def reduceAt (terms : List (Option Pair)) : Fl Pair :=
  if terms.length ≤ 2 ^ 24 then reduceBlock terms
  else
    flBind (flMap reduceBlock (chunks (2 ^ 24) terms)) fun bs =>
      flBind (combine addP 64 bs) fun r => (r.headD (0, 0), 0)

/-- Reduction of terms x_0 to x_{n−1} (R223, R224). -/
def reduceP (terms : List Pair) : Fl Pair := reduceAt (terms.map some)

/-- One rounding of an FP32P value to FP32 (R212). -/
def pairTo32 (p : Pair) : Fl Nat := fpEnc f32 (pairVal p)

/-! ### Block scales (R218, R219) -/

/-- ⌊log2 |v|⌋ of a finite non-zero value. -/
def fpLog2 (m : Nat) (e : Int) : Int := Int.ofNat m.log2 + e

def clampX (x : Int) : Int := max (-127) (min 127 x)

/-- v·2^k. -/
def fpScale (v : Fp) (k : Int) : Fp :=
  match v with
  | .fin n m e => .fin n m (e + k)
  | v => v

/-- Element patterns of values under scale 2^x: saturation to the format's largest value raises `sat` and inexact
(R218 step 4). -/
def blockElems (f : FmtDef) (sat : Nat) (x : Int) (vs : List Fp) : Fl (List Nat) :=
  flMap (fun v =>
    let (b, fl) := fpEnc f (fpScale v (-x))
    if fl &&& flOverflow ≠ 0 then (b, flInexact ||| sat) else (b, fl)) vs

/-- One block: scale byte and element patterns (R218, R219). -/
def blockEnc (f : FmtDef) (emax : Int) (vs : List Fp) : Fl (Nat × List Nat) :=
  if vs.all isFin then
    let tops := vs.filterMap fun v => match v with | .fin _ m e => if m = 0 then none else some (fpLog2 m e) | _ => none
    match tops with
    | [] => ((0, vs.map fun _ => 0), 0)
    | t :: ts =>
      let x0 := ts.foldl max t - emax
      let x := clampX x0
      flBind (blockElems f (if 127 < x0 then flOverflow else 0) x vs) fun es => (((x + 127).toNat, es), 0)
  else ((0xFF, vs.map fun _ => 0), 0)

/-- Value of a block element under its scale byte; 0xFF makes it NaN (R199). -/
def blockVal (f : FmtDef) (scale bits : Nat) : Fp :=
  if scale = 0xFF then .nan else fpScale (fpDec f bits) (Int.ofNat scale - 127)

/-! ### Stochastic rounding (R230–R232) -/

/-- BF16 of an FP32 pattern with 16 random bits (R231). -/
def srBf16 (x r : Nat) : Fl Nat :=
  match v32 x with
  | .nan => (0x7FC0, 0)
  | .inf _ => (((x >>> 16) &&& 0x8000) ||| ((x % 2 ^ 31) >>> 16), 0)
  | .fin _ _ _ =>
    let mag := (x % 2 ^ 31) + r
    let b := mag >>> 16
    let ix := decide (x % 2 ^ 16 ≠ 0)
    (((x >>> 16) &&& 0x8000) ||| b,
      (if ix then flInexact else 0) ||| (if 0x7F7F < b then flOverflow else 0)
        ||| (if ix && decide (b < 0x80) then flUnderflow else 0))

/-- UBF16 of an FP32 pattern with 16 random bits (R231). -/
def srUbf16 (x r : Nat) : Fl Nat :=
  match v32 x with
  | .nan => (0xFF80, 0)
  | .inf n => if n then (0xFF80, flInvalid) else (0xFF00, 0)
  | .fin n m _ =>
    if n && decide (m ≠ 0) then (0xFF80, flInvalid)
    else
      let b := ((x % 2 ^ 31) + (r >>> 1)) >>> 15
      let ix := decide (x % 2 ^ 15 ≠ 0)
      (b, (if ix then flInexact else 0) ||| (if 0xFEFF < b then flOverflow else 0)
        ||| (if ix && decide (b < 0x100) then flUnderflow else 0))

/-- The mixer of R232. -/
def srMix (z : Word) : Word :=
  let z := (z ^^^ (z >>> 30)) * 0xBF58476D1CE4E5B9
  let z := (z ^^^ (z >>> 27)) * 0x94D049BB133111EB
  z ^^^ (z >>> 31)

/-- The random word of R232. -/
def srWord (key : BitVec 128) (sweep p : Word) (stream : Nat) : Word :=
  let kLo : Word := key.setWidth 64
  let kHi : Word := (key >>> 64).setWidth 64
  let x := srMix (p ^^^ kLo)
  let x := srMix (x ^^^ sweep ^^^ (word stream <<< 60))
  srMix (x ^^^ kHi)

/-- The 16 random bits of the element at byte `b` of a layer (R232): `b` is a multiple of 2. -/
def srBits (key : BitVec 128) (sweep pipe layer b stream : Nat) : Nat :=
  let g := b / 8 * 8
  let w := srWord key (word sweep) (word (pipe * 2 ^ 62 + layer * 2 ^ 40 + g)) stream
  wf w (8 * (b % 8) + 15) (8 * (b % 8))

end Sys2Proof.Machine
end

