-- ==== Sys2Proof/Machine/Elementary.lean ====
section
/-!
DEFINITION. The elementary functions of R221: exp, exp2, log, log2, rsqrt, sqrt, tanh, sigmoid and erf, correctly
rounded to FP32.  Each function is enclosed between two exact values; where both round alike the result is decided, and
where they do not the result is the free value `Config.elementary` (log entry 3).
-/
namespace Sys2Proof.Machine

/-- Fraction bits of the fixed-point work. -/
def fxP : Nat := 400

/-- 1 in fixed point. -/
def fxOne : Nat := 2 ^ fxP

def fxMul (a b : Nat) : Nat := (a * b) >>> fxP

/-- ln 2 = 2·atanh(1/3), at most 300 units low. -/
def fxLn2 : Nat :=
  (((List.range 140).foldl (fun (st : Nat × Nat) k => (st.1 + st.2 / (2 * k + 1), st.2 / 9)) (0, 2 * fxOne / 3)).1)

/-- e^r for 0 ≤ r < 1, low by at most 2^20 units. -/
def fxExp (r : Nat) : Nat :=
  ((List.range 120).foldl (fun (st : Nat × Nat) k => (st.1 + st.2, fxMul st.2 r / (k + 1))) (0, fxOne)).1

/-- Error bound of the fixed-point series, in units of 2^−fxP. -/
def fxErr : Nat := 2 ^ 40

/-- atanh z = z + z³/3 + … for z ≤ 1/3. -/
def fxAtanh (z : Nat) : Nat :=
  let z2 := fxMul z z
  ((List.range 140).foldl (fun (st : Nat × Nat) k => (st.1 + st.2 / (2 * k + 1), fxMul st.2 z2)) (0, z)).1

/-- arctan of 1/n. -/
def fxAtanInv (n : Nat) : Nat :=
  let t := (List.range 140).foldl (fun (st : Int × Nat) k =>
    ((if k % 2 = 0 then st.1 + Int.ofNat (st.2 / (2 * k + 1)) else st.1 - Int.ofNat (st.2 / (2 * k + 1))),
      st.2 / (n * n))) ((0 : Int), fxOne / n)
  t.1.toNat

/-- π by Machin's formula. -/
def fxPi : Nat := 4 * (4 * fxAtanInv 5 - fxAtanInv 239)

/-- A finite value in fixed point, rounded down. -/
def fxOf (m : Nat) (e : Int) : Nat :=
  let s := e + Int.ofNat fxP
  if 0 ≤ s then m <<< s.toNat else m >>> (-s).toNat

/-- Enclosure of a positive result: lower and upper bound, both not zero. -/
abbrev Encl := Fp × Fp

/-- Encloses n·2^e within `err` units. -/
def enclose (neg : Bool) (n err : Nat) (e : Int) : Encl :=
  (.fin neg (if err < n then n - err else 1) e, .fin neg (n + err) e)

/-- Magnitude above which exp leaves the FP32 range whatever follows. -/
def expBig (m : Nat) (e : Int) : Bool := decide (7 < fpLog2 m e)

/-- e^x of a finite non-zero x, as an enclosure. -/
def enclExp (n : Bool) (m : Nat) (e : Int) : Encl :=
  if expBig m e then
    (if n then (.fin false 1 (-600), .fin false 1 (-500)) else (.fin false 1 500, .fin false 1 600))
  else
    let x := fxOf m e
    let l := fxLn2
    let k := x / l
    if n then
      -- x = −k·ln2 − r, as −(k + 1)·ln2 + (ln2 − r)
      enclose false (fxExp (l - x % l)) fxErr (-(Int.ofNat k) - 1 - Int.ofNat fxP)
    else enclose false (fxExp (x % l)) fxErr (Int.ofNat k - Int.ofNat fxP)

/-- ln of a positive finite value that is not 1. -/
def enclLog (m : Nat) (e : Int) : Encl :=
  let k := fpLog2 m e
  let y := fxOf m (e - k)
  let z := ((y - fxOne) <<< fxP) / (y + fxOne)
  let v : Int := 2 * Int.ofNat (fxAtanh z) + k * Int.ofNat fxLn2
  enclose (decide (v < 0)) v.natAbs fxErr (-(Int.ofNat fxP))

/-- Divides the bounds of an enclosure by a fixed-point number known within `fxErr`. -/
def enclDivFx (x : Encl) (d : Nat) : Encl :=
  ((fpDiv x.1 (.fin false (d + fxErr) (-(Int.ofNat fxP)))).1, (fpDiv x.2 (.fin false (d - fxErr) (-(Int.ofNat fxP)))).1)

/-- Decides a result from its enclosure; the exact result is never representable, so inexact is raised. -/
def decideEncl (fn : Nat) (arg : Word) (x : Encl) : Fl Nat :=
  let a := fpEnc f32 x.1
  let b := fpEnc f32 x.2
  if a.1 = b.1 then (a.1, a.2 ||| flInexact)
  else ((Config.elementary fn arg).toNat, flInexact)

/-- Is the finite value an integer? -/
def fpInteger (n : Bool) (m : Nat) (e : Int) : Option Int :=
  if m = 0 then some 0
  else
    let (k, ix) := rneAt m e 0
    if ix then none else some (if n then -(Int.ofNat k) else Int.ofNat k)

def elemExp (arg : Word) : Fp → Fl Nat
  | .nan => (nan32, 0)
  | .inf n => ((fpEnc f32 (if n then fpZero else .inf false)).1, 0)
  | .fin n m e => if m = 0 then ((fpEnc f32 (fpInt 1)).1, 0) else decideEncl 2 arg (enclExp n m e)

def elemExp2 (arg : Word) : Fp → Fl Nat
  | .nan => (nan32, 0)
  | .inf n => ((fpEnc f32 (if n then fpZero else .inf false)).1, 0)
  | .fin n m e =>
    if decide (m ≠ 0) && decide (9 < fpLog2 m e) then
      decideEncl 3 arg (if n then (.fin false 1 (-600), .fin false 1 (-500)) else (.fin false 1 500, .fin false 1 600))
    else match fpInteger n m e with
      | some k => fpEnc f32 (.fin false 1 k)
      | none =>
        let x := fxOf m e
        let k := x >>> fxP
        let f := x % fxOne
        if n then
          decideEncl 3 arg (enclose false (fxExp (fxMul (fxOne - f) fxLn2)) fxErr (-(Int.ofNat k) - 1 - Int.ofNat fxP))
        else decideEncl 3 arg (enclose false (fxExp (fxMul f fxLn2)) fxErr (Int.ofNat k - Int.ofNat fxP))

/-- Is the value a power of two?  Its exponent. -/
def powerOfTwo (m : Nat) (e : Int) : Option Int := if 2 ^ m.log2 = m then some (fpLog2 m e) else none

def elemLog (two : Bool) (arg : Word) : Fp → Fl Nat
  | .nan => (nan32, 0)
  | .inf n => if n then (nan32, flInvalid) else ((fpEnc f32 (.inf false)).1, 0)
  | .fin n m e =>
    if m = 0 then ((fpEnc f32 (.inf true)).1, flOverflow)
    else if n then (nan32, flInvalid)
    else match powerOfTwo m e with
      | some k =>
        if k = 0 then (0, 0)
        else if two then fpEnc f32 (fpInt k)
        else decideEncl 4 arg (enclLog m e)
      | none => if two then decideEncl 5 arg (enclDivFx (enclLog m e) fxLn2) else decideEncl 4 arg (enclLog m e)

/-- Enclosure of an odd function that lies between c·(|x| − |x|³) and c·(|x| − |x|³/8) for small |x|, with c = 1. -/
def enclOdd (n : Bool) (m : Nat) (e : Int) : Encl :=
  let x : Fp := .fin n m e
  let c := (fpMul x (fpMul x x).1).1
  ((fpSub x c).1, (fpSub x (fpScale c (-3))).1)

def elemTanh (arg : Word) : Fp → Fl Nat
  | .nan => (nan32, 0)
  | .inf n => ((fpEnc f32 (.fin n 1 0)).1, 0)
  | .fin n m e =>
    if m = 0 then ((fpEnc f32 (.fin n 0 0)).1, 0)
    else if fpLog2 m e < -60 then decideEncl 6 arg (enclOdd n m e)
    else if 5 ≤ fpLog2 m e then decideEncl 6 arg (.fin n (2 ^ 40 - 1) (-40), .fin n (2 ^ 41 - 1) (-41))
    else
      -- 1 − 2/(e^{2x} + 1)
      let x := 2 * fxOf m e
      let k := x / fxLn2
      let y := fxExp (x % fxLn2) <<< k
      let q := (2 * fxOne * fxOne) / (y + fxOne)
      decideEncl 6 arg (enclose n (fxOne - q) fxErr (-(Int.ofNat fxP)))

def elemSigmoid (arg : Word) : Fp → Fl Nat
  | .nan => (nan32, 0)
  | .inf n => ((fpEnc f32 (if n then fpZero else fpInt 1)).1, 0)
  | .fin n m e =>
    if m = 0 then ((fpEnc f32 (.fin false 1 (-1))).1, 0)
    else if expBig m e then
      decideEncl 7 arg (if n then (.fin false 1 (-600), .fin false 1 (-500))
        else (.fin false (2 ^ 200 - 1) (-200), .fin false (2 ^ 201 - 1) (-201)))
    else
      let y := enclExp n m e
      let one := fpInt 1
      let f (v : Fp) : Fp := (fpDiv v (fpAdd one v).1).1
      -- the quotient drops at most one part in 2^160
      let lo := f y.1
      let hi := f y.2
      decideEncl 7 arg ((fpSub lo (fpScale lo (-150))).1, (fpAdd hi (fpScale hi (-150))).1)

def elemErf (arg : Word) : Fp → Fl Nat
  | .nan => (nan32, 0)
  | .inf n => ((fpEnc f32 (.fin n 1 0)).1, 0)
  | .fin n m e =>
    if m = 0 then ((fpEnc f32 (.fin n 0 0)).1, 0)
    else
      let x := fxOf m e
      if 5 * fxOne ≤ x then decideEncl 8 arg (.fin n (2 ^ 30 - 1) (-30), .fin n (2 ^ 60 - 1) (-60))
      else
        let x2 := fxMul x x
        -- x·Σ (−x²)^k / (k!·(2k+1))
        let t := ((List.range 300).foldl (fun (st : Int × Nat) k =>
          let term := Int.ofNat (st.2 / (2 * k + 1))
          ((if k % 2 = 0 then st.1 + term else st.1 - term), fxMul st.2 x2 / (k + 1))) ((0 : Int), x)).1
        -- 2/√π
        let c := isqrt (fxP + 1) (4 * fxOne * fxOne * fxOne / fxPi)
        decideEncl 8 arg (enclose n (fxMul t.toNat c) (2 ^ 80) (-(Int.ofNat fxP)))

/-- Function `fn` of an exact argument: 0 sqrt, 1 rsqrt, 2 exp, 3 exp2, 4 log, 5 log2, 6 tanh, 7 sigmoid, 8 erf, in the
order of Table 8.4; `arg` is the argument's pattern. -/
def elem (fn : Nat) (arg : Word) (v : Fp) : Fl Nat :=
  match fn with
  | 0 => r32 (fpSqrt v)
  | 1 => r32 (fpRsqrt v)
  | 2 => elemExp arg v
  | 3 => elemExp2 arg v
  | 4 => elemLog false arg v
  | 5 => elemLog true arg v
  | 6 => elemTanh arg v
  | 7 => elemSigmoid arg v
  | _ => elemErf arg v

end Sys2Proof.Machine
end

