-- ==== Sys2Proof/Machine/FocusOps.lean ====
section
/-!
DEFINITION. Focus (chapter 16): release and delivery, hold-off, the cores' priority stacks, external lines and firmware
sources.
-/
namespace Sys2Proof.Machine

/-- Group of a source (R468). -/
def groupOf (src : Nat) : Nat := src / 36

/-- The group's hold-off timer is 0 (R472, R13). -/
def timerClear (m : Mach) (g : Nat) : Bool := decide (m.focus.timers.getD g 0 ≤ m.now)

/-- `a` goes before `b` (R473): higher PRIO, then the older record, then the lower source number. -/
def evBefore (a b : EvRec) : Bool :=
  if a.prio ≠ b.prio then decide (b.prio < a.prio)
  else if a.born ≠ b.born then decide (a.born < b.born)
  else decide (a.source < b.source)

/-- The record that is released next, with its place in the queue. -/
def nextRelease (m : Mach) : Option (Nat × EvRec) :=
  m.focus.queue.zipIdx.foldl (fun best (r, i) =>
    if timerClear m (groupOf r.source) then
      match best with
      | none => some (i, r)
      | some (j, b) => if evBefore r b then some (i, r) else some (j, b)
    else best) none

/-- First rising edge of the 25 MHz clock at or after instant `t` (R472). -/
def edge25 (t : Nat) : Nat := (t + 3) / 4 * 4

/-- Priority of the top of a core's stack; none when it is empty (R477). -/
def topPrio (c : CoreFocus) : Option Nat := c.stack.head?.map (·.2)

/-- Is `p` above the core's current priority? -/
def above (c : CoreFocus) (p : Nat) : Bool :=
  match topPrio c with
  | none => true
  | some q => decide (q < p)

/-- The level of a core's machine external interrupt (R477). -/
def coreIrq (c : CoreFocus) : Bool := !c.frozen && c.pending.any fun r => above c r.prio

/-- A change of one core's delivery state, with its interrupt line driven when its level changes. -/
def changeCore (m : Mach) (c : Nat) (g : CoreFocus → CoreFocus) : Mach :=
  let was := coreIrq (coreOf m c)
  let m := modCore m c g
  let is := coreIrq (coreOf m c)
  if was == is then m else emit m (.coreInterrupt c is)

/-- The core copy of a record (R477). -/
def coreCopy (m : Mach) (c : Nat) (r : EvRec) : Mach :=
  changeCore m c fun x =>
    if x.pending.length < 64 then { x with pending := x.pending ++ [r] }
    else { x with dropped := sat32 (x.dropped + 1) }

/-- Room in the focus queue: the FOC_QUEUE_FULL record that waits for it is queued (R471). -/
def roomReturned (m : Mach) : Mach :=
  let w := m.focus.fullRaise
  let m := modFocus m fun x => { x with fullRaise := none, overflow := false }
  match w with
  | some r => enqueue m r
  | none => m

/-- Delivers a released record to its host and core targets (R473–R475, R480). -/
def deliver (m : Mach) (r : EvRec) : Mach :=
  let w := regN m (offSrc r.source)
  let order := r.code == focOrderFault && decide (2268 ≤ r.source ∧ r.source < 2284)
  let m :=
    if tb w 10 || order then
      if r.source < 34 then sendMsix m (portOf m r.source) (wf (regGet m (coalesceReg r.source)) 5 0)
      else if r.source = 34 then m
      else hostCopy m r
    else m
  if order then
    let fc := regN m offFocCtl
    if tb fc 4 && bf fc 3 0 != r.source - 2268 then coreCopy m (bf fc 3 0) r else m
  else if tb w 5 then coreCopy m (bf w 9 6) r else m

/-- FOCUS_RELEASE: one record at most every 10 ns (R472, R473). -/
def focusReleaseOp (m : Mach) : Mach :=
  if (atTime m m.focus.relAt).now < m.focus.relAt then m else
  let m := atTime m m.focus.relAt
  match nextRelease m with
  | none => m
  | some (i, r) =>
    let g := groupOf r.source
    let hold := regN m (offGrpHold g)
    let m := modFocus m fun x => { x with
      queue := x.queue.eraseIdx i
      relAt := m.now + 1
      timers := if hold = 0 then x.timers else x.timers.set g (edge25 m.now + 100 * hold) }
    deliver (roomReturned m) r

/-- HOLDOFF_EXPIRY: the group's timer reaches 0 (R472). -/
def holdoffOp (g : Nat) (m : Mach) : Mach :=
  byTime (m.focus.timers.getD g 0) (fun m => modFocus m fun x => { x with timers := x.timers.set g 0 }) m

/-- FOC_RAISE by a core (R486): the record is queued as under R471, and no block's sticky bit is set, whatever CODE it carries;
sources outside 1,476–2,231 are not firmware sources. -/
def focRaiseOp (src : Nat) (code : BitVec 16) (detail : Word) (m : Mach) : Mach :=
  let w := regN m (offSrc src)
  if 1476 ≤ src ∧ src ≤ 2231 ∧ tb w 0 then
    enqueue m ⟨code.toNat, src, bf w 4 1, none, [detail.toNat], (stamp m).1, (stamp m).2, m.now⟩
  else m

/-- The record a claim takes: highest PRIO above P_c, the oldest on a tie (R478). -/
def claimPick (c : CoreFocus) : Option (Nat × EvRec) :=
  c.pending.zipIdx.foldl (fun best (r, i) =>
    if above c r.prio then
      match best with
      | none => some (i, r)
      | some (j, b) => if b.prio < r.prio then some (i, r) else some (j, b)
    else best) none

/-- FOC_CLAIM (R478). -/
def focClaimOp (c : Nat) (m : Mach) : Mach :=
  changeCore m c fun x =>
    if x.frozen then { x with claimed := none }
    else
      match claimPick x with
      | none => { x with claimed := none }
      | some (i, r) => { x with
          pending := x.pending.eraseIdx i, stack := (r.source, r.prio) :: x.stack, claimed := some r,
          lastRec := some r }

/-- FOC_COMPLETE (R479). -/
def focCompleteOp (c src : Nat) (m : Mach) : Mach :=
  let x := coreOf m c
  if x.frozen then m
  else
    match x.stack with
    | (s, _) :: t =>
      if s = src then changeCore m c fun x => { x with stack := t }
      else
        let m := changeCore m c fun x => { x with frozen := true }
        raise m focOrderFault (2268 + c) none [c, src, s, x.stack.length]
    | [] =>
      let m := changeCore m c fun x => { x with frozen := true }
      raise m focOrderFault (2268 + c) none [c, src, 0, 0]

/-- The stack empties and a freeze ends (R481). -/
def emptyStack (c : Nat) (m : Mach) : Mach :=
  changeCore m c fun x => { x with
    stack := [], frozen := false, stackDrop := sat32 (x.stackDrop + x.stack.length) }

/-- MODE of a line selects changes to this level (Table 16.5). -/
def modeSelects (m : Mach) (l : Nat) (asserted : Bool) : Bool :=
  let mode := wf (regGet m (offLineCtl l)) 9 8
  mode == 2 || (if asserted then mode == 0 else mode == 1)

/-- The filtered level of a line changes (R483). -/
def lineChange (l : Nat) (asserted : Bool) (m : Mach) : Mach :=
  let m := modFocus m fun x => { x with lines := x.lines.modify l fun y => { y with asserted := asserted } }
  if modeSelects m l asserted then
    raise m (if asserted then lineAssertedEv else lineDeassertedEv) (srcLine l) none [l]
  else m

/-- A change of the filtered level while the filters run. -/
def lineOp (l : Nat) (asserted : Bool) (m : Mach) : Mach :=
  if m.focus.sampling && (m.focus.lines.getD l ⟨false, none⟩).asserted != asserted then
    let m := lineChange l asserted m
    if l = 5 then modPower m fun p => { p with flowLow := asserted }
    else if l = 4 then modPower m fun p => { p with leak := asserted }
    else m
  else m

/-- Samples that the judgement of line `l` takes: FILT, and 25 for line 0 (R483, R485). -/
def filtOf (m : Mach) (l : Nat) : Nat := if l = 0 then 25 else wf (regGet m (offLineCtl l)) 7 0

/-- What power management sees of FLOW_LOW and LEAK once their lines are judged: the filtered level (R485). -/
def takeLevel (l : Nat) (m : Mach) : Mach :=
  let a := (m.focus.lines.getD l ⟨false, none⟩).asserted
  if l = 5 then modPower m fun p => { p with flowLow := a }
  else if l = 4 then modPower m fun p => { p with leak := a }
  else m

/-- Sampling restarts: each set latch is judged on its first samples (R485). `confirmed` gives, per line, how many of
them matched the latched level. -/
def judgeLatches (confirmed : List (Nat × Nat)) (m : Mach) : Mach :=
  let m := modFocus m fun x => { x with sampling := true }
  forAll (List.range 12) (fun m l =>
    let y := m.focus.lines.getD l ⟨false, none⟩
    let m := modFocus m fun x => { x with lines := x.lines.modify l fun y => { y with latch := none } }
    match y.latch with
    | none => m
    | some lev =>
      let n := ((confirmed.find? fun e => e.1 == l).map (·.2)).getD 0
      takeLevel l (if filtOf m l ≤ n then
          if y.asserted != lev then lineChange l lev m else m
        else raise m glitchWake (2284 + l) none [l, b2n lev, n])) m

/-! ### Commands -/

def execFocusRelease (s : State) : Res := actReady true focusReleaseOp s

def execHoldoffExpiry (g : Nat) (s : State) : Res := actReady (decide (g < 64)) (holdoffOp g) s

def execFocRaise (core src : Nat) (code : BitVec 16) (detail : Word) (s : State) : Res :=
  actReady (decide (core < 16)) (focRaiseOp src code detail) s

def execFocClaim (core : Nat) (s : State) : Res := actReady (decide (core < 16)) (focClaimOp core) s

def execFocComplete (core src : Nat) (s : State) : Res := actReady (decide (core < 16)) (focCompleteOp core src) s

def execFocStackRst (core : Nat) (s : State) : Res := actReady (decide (core < 16)) (emptyStack core) s

def execLineAsserted (l : Nat) (s : State) : Res := act (decide (l < 12)) (lineOp l true) s

def execLineDeasserted (l : Nat) (s : State) : Res := act (decide (l < 12)) (lineOp l false) s

/-- STANDBY_LINE_LATCH (R484, R508): the first edge that MODE selects sets the latch; an assertion on a line with WAKE
is a wake cause, discarded while LEAK is asserted. -/
def standbyLatchOp (l : Nat) (edge : Bool) (m : Mach) : Mach :=
  if m.focus.sampling then m
  else
    let m := if l = 5 then modPower m fun p => { p with flowLow := edge } else m
    let m := if l = 4 then modPower m fun p => { p with leak := edge } else m
    let sel := modeSelects m l edge
    let m := modFocus m fun x => { x with lines := x.lines.modify l fun y =>
      { y with latch := if sel && y.latch.isNone then some edge else y.latch } }
    let m := if m.power.leak then { m with boot := { m.boot with wakeCause := false } } else m
    if edge && tb (regN m (offLineCtl l)) 11 && !m.power.leak && m.boot.state == 1 then
      { m with boot := { m.boot with wakeCause := true } }
    else m

def execStandbyLineLatch (l : Nat) (edge : Bool) (s : State) : Res := act (decide (l < 12)) (standbyLatchOp l edge) s

end Sys2Proof.Machine
end

