-- ==== Sys2Proof/Machine/Power.lean ====
section
/-!
DEFINITION. Centroid, operating points, cap, thermal and coolant responses, metering and the PMBus and SMBus targets
(chapter 17; R549, R556).
-/
namespace Sys2Proof.Machine

/-- Frequency of a point in MHz (Table 17.2). -/
def pointMhz (p : Nat) : Nat := [800, 1000, 1200, 1400, 1600, 1700, 1800].getD p 1600

/-- Planning power of a point in tenths of a watt (Table 17.2). -/
def pointPower (p : Nat) : Nat := [278, 368, 471, 588, 720, 901, 1138].getD p 720

def floorPoint (m : Mach) : Nat := regN m offFloor
def ceilPoint (m : Mach) : Nat := regN m offCeil

/-- A change of point (R495): a raise ramps voltage first and steps frequency at the ramp's end, a lowering steps
frequency at once. -/
def setPoint (f p : Nat) (m : Mach) : Mach :=
  modFacet m f fun x =>
    if x.point < p then { x with ramp := some p }
    else if p < x.point then { x with point := p, ramp := some p }
    else { x with ramp := none }

/-- DVFS_RAMP_END (R495). -/
def rampEndOp (f : Nat) (m : Mach) : Mach :=
  modFacet m f fun x => { x with point := x.ramp.getD x.point, ramp := none }

/-- Working active facets. -/
def liveFacets (m : Mach) : List Nat := (List.range 96).filter fun f => !(facetOf m f).failed

/-- Every facet to the floor (R502). -/
def allToFloor (m : Mach) : Mach := forAll (liveFacets m) (fun m f => setPoint f (floorPoint m) m) m

/-! ### STATUS bits of the PMBus target (R506): 0 input undervoltage, 1 input overvoltage, 2 input power over the cap,
3 temperature warning, 4 temperature fault -/

/-- PMB_ALERT follows the STATUS bits (R506, R555). -/
def setStatus (bits : List Nat) (m : Mach) : Mach :=
  let was := m.power.statusBits
  let m := modPower m fun p => { p with statusBits := bits }
  if was.isEmpty == bits.isEmpty then m else emit m (.pin .pmbAlert (!bits.isEmpty))

def addStatus (b : Nat) (m : Mach) : Mach :=
  if m.power.statusBits.contains b then m else setStatus (m.power.statusBits ++ [b]) m

/-! ### Planning at a sweep edge (R497, R498, R502) -/

/-- Largest slot time of a facet in the sweep that ended, over its stage contexts. -/
def facetSlot (x : Facet) : Nat := x.scs.foldl (fun a s => max a s.lastMax) 0

/-- The point that R497 plans for a facet. -/
def planPoint (m : Mach) (x : Facet) : Nat :=
  let t := facetSlot x
  let lo := floorPoint m
  let hi := ceilPoint m
  let target := admitLen m * regN m offReclaim
  if t = 0 then lo
  else
    ((List.range (hi + 1 - lo)).map (lo + ·)).find? (fun p =>
      decide (t * pointMhz x.point * 100 ≤ target * pointMhz p)) |>.getD hi

/-- R502 on a plan: a facet at PWR_THERM_HI goes one point lower; a hot stack, FLOW_LOW or LEAK holds it at the floor. -/
def thermalPlan (m : Mach) (f p : Nat) : Nat :=
  let x := facetOf m f
  let lo := floorPoint m
  let site := (anySiteOf m f).getD 255
  let stack := (site / 13 / 2) * 13 + site % 13
  if m.power.flowLow || m.power.leak || m.power.leakAt.isSome || m.power.hotStacks.contains stack then lo
  else if regN m offThermHi * 16 ≤ x.temp then max lo (p - 1) else p

/-- A common multiple of the powers of Table 17.2. -/
def powerUnit : Nat := ((List.range 7).map pointPower).foldl (· * ·) 1

/-- Predicted input power of a plan in mW, as an exact fraction (R498). -/
def predicted (m : Mach) (meter : PowerMeter) (plan : List (Nat × Nat)) : Nat × Nat :=
  let facets := plan.foldl (fun a (f, p) =>
    let w := ((meter.facets.find? fun e => e.1 == f).map (·.2)).getD 0
    a + w * pointPower p * (powerUnit / pointPower (facetOf m f).point)) 0
  ((facets + meter.rest * powerUnit) * 1000, powerUnit * max 1 meter.eff)

/-- The facet that R498 lowers next: smallest t·f_old/f(p), lowest index on a tie. -/
def lowerNext (m : Mach) (plan : List (Nat × Nat)) : Option Nat :=
  (plan.foldl (fun (best : Option (Nat × Nat × Nat)) (f, p) =>
    if p ≤ floorPoint m then best
    else
      let x := facetOf m f
      let num := facetSlot x * pointMhz x.point
      match best with
      | none => some (f, num, pointMhz p)
      | some (g, n, d) => if num * d < n * pointMhz p then some (f, num, pointMhz p) else some (g, n, d)) none).map (·.1)

/-- R498: lowers the plan until it meets the cap or stands at the floor; true when the cap is still exceeded. -/
def meetCap (m : Mach) (meter : PowerMeter) (fuel : Nat) (plan : List (Nat × Nat)) : List (Nat × Nat) × Bool :=
  match fuel with
  | 0 => (plan, false)
  | k + 1 =>
    let w := predicted m meter plan
    if w.1 ≤ regN m offCap * 1000 * w.2 then (plan, false)
    else
      match lowerNext m plan with
      | none => (plan, true)
      | some g => meetCap m meter k (plan.map fun e => if e.1 == g then (g, e.2 - 1) else e)

/-- The sweep-edge plan of every active facet, at step 2 of R52. -/
def planPower (meter : PowerMeter) (m : Mach) : Mach :=
  let m := forAll (liveFacets m) (fun m f =>
    let m := modFacet m f fun x => { x with floored := false }
    if regN m offThermHi * 16 ≤ (facetOf m f).temp then
      raise m pwrThermHi (srcFacet f 10) none [f, (facetOf m f).temp, (facetOf m f).point]
    else m) m
  let cool := m.power.hotStacks.filter fun st =>
    decide (90 * 16 ≤ ((m.power.stackTemps.find? fun e => e.1 == st).map (·.2)).getD 0)
  let m := modPower m fun p => { p with hotStacks := cool, emergRaised := false }
  let plan := (liveFacets m).map fun f => (f, thermalPlan m f (planPoint m (facetOf m f)))
  let (plan, capless) := meetCap m meter 700 plan
  let w := predicted m meter plan
  let m := if capless then raise m pwrCapFloor (srcUnit 7) none [w.1 / (1000 * w.2)] else m
  let m := modPower m fun p => { p with
    lastPlan := some (m.now, meter, (liveFacets m).map fun f => (f, (facetOf m f).point)) }
  forAll plan (fun m e => setPoint e.1 e.2 m) m

/-! ### Cap (R499, R500) -/

/-- The highest point that a facet has or is being raised to. -/
def highPoint (x : Facet) : Nat := max x.point (x.ramp.getD x.point)

/-- Facets that an emergency can lower: those above the floor, or being raised above it (R499). -/
def emergLow (m : Mach) : List Nat := (liveFacets m).filter fun f => decide (floorPoint m < highPoint (facetOf m f))

/-- One point lower, not below the floor. -/
def oneLower (m : Mach) (p : Nat) : Nat := max (floorPoint m) (p - 1)

/-- The plan of an edge taken again in the cycle of that edge (R500): from the points before it, each facet one point lowered and
planned no higher than that. -/
def replan (meter : PowerMeter) (base : List (Nat × Nat)) (m : Mach) : Mach :=
  let m := forAll base (fun m e => modFacet m e.1 fun x => { x with point := e.2, ramp := none }) m
  let plan := base.map fun e => (e.1, min (thermalPlan m e.1 (planPoint m (facetOf m e.1))) (oneLower m e.2))
  forAll (meetCap m meter 700 plan).1 (fun m e => setPoint e.1 e.2 m) m

/-- Emergency lowering, one point per facet per window (R499); one that falls into the cycle of a plan prevails, and the plan is taken
again (R500). -/
def emergLower (m : Mach) : Mach :=
  match m.power.lastPlan with
  | some (t, meter, base) =>
    if t = m.now then replan meter base m
    else forAll (emergLow m) (fun m f => setPoint f (oneLower m (facetOf m f).point) m) m
  | none => forAll (emergLow m) (fun m f => setPoint f (oneLower m (facetOf m f).point) m) m

/-- PWR_CAP_EMERG: a 10 µs window whose mean exceeds the cap lowers every facet above the floor by one point. -/
def capEmergOp (mean : Nat) (m : Mach) : Mach :=
  let m := modPower m fun p => { p with inputW := mean, peak := max p.peak mean }
  if mean ≤ regN m offCap then m
  else
    let low := emergLow m
    let m := emergLower m
    let m := addStatus 2 m
    let m := if low.isEmpty then m else modPower m fun p => { p with emergWins := p.emergWins + 1 }
    if m.power.emergRaised then m
    else raise (modPower m fun p => { p with emergRaised := true }) pwrCapEmergEv (srcUnit 7) none [mean]


/-! ### Health score (R382, R504) -/

/-- c_x of R382 for x = num / den. -/
def riskTerm (num den lvl : Nat) : Nat := if lvl = 0 then 0 else min 1023 (256 * num / (den * lvl))

def totalCe (m : Mach) : Nat := m.facets.foldl (fun a x => a + x.cntCe) 0
def totalFec (m : Mach) : Nat := m.links.foldl (fun a l => a + l.cntCorr) 0
def totalDroop (m : Mach) : Nat := m.power.droops.foldl (fun a d => a + d.2) 0

/-- The health monitor writes the score at step 1 of a sweep edge and raises HEALTH_SCORE when it changes. -/
def healthOp (m : Mach) : Mach :=
  let p := m.power
  let lvl := regN m offRiskLvl
  let terms := [riskTerm (totalCe m - p.prevCe) 1 (bf lvl 15 0), riskTerm (totalFec m - p.prevFec) 1000 (bf lvl 31 16),
    riskTerm (totalDroop m - p.prevDroop) 1 (bf lvl 47 32),
    riskTerm (p.tmaxSweep - 16 * regN m offThermBase) 16 (bf lvl 63 48)]
  let score := min 1023 (terms.foldl (· + ·) 0)
  let m' := modPower m fun q => { q with
    score := score, terms := terms, prevCe := totalCe m, prevFec := totalFec m, prevDroop := totalDroop m,
    tmaxSweep := 0 }
  if score = p.score then m' else raise m' healthScore (srcUnit 10) none (score :: terms)

/-! ### Thermal sample (R502) -/

/-- The two facets on a stack (R20). -/
def stackFacets (m : Mach) (st : Nat) : List Nat :=
  [logicalAt m ((st / 13) * 26 + st % 13), logicalAt m ((st / 13) * 26 + 13 + st % 13)]

/-- One facet's new temperature: the STATUS bits, the critical response and the failure at 105 °C held for 10 ms at the floor; a
reserve facet has a temperature and no response. -/
def facetTemp (m : Mach) (e : Nat × Nat) : Mach :=
  let f := e.1
  let t := e.2
  let old := facetOf m f
  let m := modFacet m f fun x => { x with temp := t }
  if 96 ≤ f then m else
  let m := if regN m offThermHi * 16 ≤ t then addStatus 3 m else m
  let m := if regN m offThermCrit * 16 ≤ t then addStatus 4 m else m
  let m :=
    if regN m offThermCrit * 16 ≤ t && !old.floored then
      let m := setPoint f (floorPoint m) (modFacet m f fun x => { x with floored := true })
      raise m pwrThermCrit (srcFacet f 10) none [f, t, (facetOf m f).point]
    else m
  let x := facetOf m f
  if decide (105 * 16 ≤ t) && decide (x.point ≤ floorPoint m) then
    match x.hotSince with
    | none => modFacet m f fun x => { x with hotSince := some m.now }
    | some t0 => if t0 + 1000000 ≤ m.now then failFacetOp f m else m
  else modFacet m f fun x => { x with hotSince := none }

/-- One stack's new temperature. -/
def stackTemp (m : Mach) (e : Nat × Nat) : Mach :=
  let old := ((m.power.stackTemps.find? fun x => x.1 == e.1).map (·.2)).getD 0
  let m := modPower m fun p => { p with stackTemps := (p.stackTemps.filter fun x => x.1 != e.1) ++ [e] }
  let m := if old < 85 * 16 ∧ 85 * 16 ≤ e.2 then raise m pwrHbmWarm (srcUnit 8) none [e.1, e.2] else m
  if 95 * 16 ≤ e.2 ∧ !m.power.hotStacks.contains e.1 then
    let m := modPower m fun p => { p with hotStacks := p.hotStacks ++ [e.1] }
    let m := forAll ((stackFacets m e.1).filter (· < 96)) (fun m f => setPoint f (floorPoint m) m) m
    raise m pwrHbmHot (srcUnit 8) none [e.1, e.2]
  else m

/-- THERMAL_SAMPLE. -/
def thermalOp (r : ThermalReading) (m : Mach) : Mach :=
  let oldAxis := m.power.axisTemp
  let oldInlet := m.power.inlet
  let hot := (r.facets ++ r.stackDegs).foldl (fun a e => max a e.2) r.axis
  let m := modPower m fun p => { p with
    axisTemp := r.axis, inlet := r.inlet, tmaxSweep := max p.tmaxSweep hot, tmax := max p.tmax hot }
  let m := forAll (r.facets.filter fun e => decide (e.1 < 104)) facetTemp m
  let m := forAll (r.stackDegs.filter fun e => decide (e.1 < 52)) stackTemp m
  let m := if oldAxis < 100 * 16 ∧ 100 * 16 ≤ r.axis then raise m pwrAxisHot (srcUnit 8) none [127, r.axis] else m
  if oldInlet ≤ 45 * 16 ∧ 45 * 16 < r.inlet then raise m coolWarm (srcUnit 9) none [r.inlet, 0] else m

/-- COOL_LOW. -/
def coolLowOp (m : Mach) : Mach :=
  let m := modPower m fun p => { p with flowLow := true }
  raise (allToFloor m) coolLowEv (srcUnit 9) none [m.power.inlet, 5]

/-- COOL_LEAK. -/
def coolLeakOp (m : Mach) : Mach :=
  let m := modPower m fun p => { p with leak := true, leakAt := some (p.leakAt.getD m.now) }
  raise (allToFloor m) coolLeakEv (srcUnit 9) none [m.power.inlet, 4]

/-! ### Energy record, droops, phases -/

/-- PAYLOAD of Table 17.4. -/
def energyPayload (m : Mach) (e : EnergyReading) (ticks : Nat) : BitVec 384 :=
  let p := m.power
  BitVec.ofNat 384 (
    ((e.input % 2 ^ 48) <<< 336) + ((e.facets % 2 ^ 48) <<< 288) + ((e.hbm % 2 ^ 48) <<< 240)
      + ((e.axis % 2 ^ 48) <<< 192) + ((p.peak % 2 ^ 16) <<< 176) + ((p.tmax % 2 ^ 16) <<< 160)
      + ((e.facetMaxE % 2 ^ 32) <<< 128) + ((e.facetMax % 2 ^ 7) <<< 121) + ((ticks % 2 ^ 16) <<< 96)
      + ((p.statFirst % 2 ^ 64) <<< 32) + ((p.emergWins % 2 ^ 16) <<< 16))

/-- STAMP_OFS of an energy record.  The spec gives its STAMP_TICK, the last tick covered (R501), and no offset beside it: a free
value within the tick (R46), and 0xFFFF_FFFF while the generator does not run. -/
def energyOfs (m : Mach) : Nat :=
  if m.tick.running then (freeVal m 32).toNat % max 1 (timing m).period else 0xFFFFFFFF

/-- ENERGY_RECORD (R501): due when PWR_STAT_DIV ticks have been covered. -/
def energyOp (e : EnergyReading) (m : Mach) : Mach :=
  let div := regN m offStatDiv
  let p := m.power
  if div = 0 ∨ p.statTicks < div then m
  else
    let rec_ : StatRec := ⟨3, energyPayload m e p.statTicks, p.statFirst + p.statTicks - 1, energyOfs m⟩
    let m := putStat (spendFree m) rec_
    modPower m fun q => { q with statFirst := q.statFirst + q.statTicks, statTicks := 0, peak := 0, tmax := 0, emergWins := 0 }

/-- DROOP_EPISODE (R496). -/
def droopOp (die : Nat) (m : Mach) : Mach :=
  modPower m fun p => { p with droops :=
    let n := ((p.droops.find? fun d => d.1 == die).map (·.2)).getD 0
    (p.droops.filter fun d => d.1 != die) ++ [(die, sat32 (n + 1))] }

/-- PWR_PHASE_FAIL (R505): rail 0–103 is the core rail of that site; a second failure on it is a facet failure. -/
def phaseFailOp (rail phase : Nat) (m : Mach) : Mach :=
  let spent := m.power.spentRails.contains rail
  let m := modPower m fun p => { p with
    spentRails := if spent then p.spentRails else p.spentRails ++ [rail]
    failedPhases := p.failedPhases ++ [(rail, phase)] }
  let m := raise m pwrPhaseFailEv (srcUnit 7) none [rail, phase]
  if spent && decide (rail < 104) then failSite rail m else m

/-! ### Centroid cores (R490) -/

/-- The centroid halts: TWIN_FAIL is asserted and no descriptor is fetched. -/
def haltCentroid (m : Mach) : Mach :=
  if m.ctr.halted then m else emit (modCtr m fun c => { c with halted := true }) (.pin .twinFail true)

/-- CTR_CORE_RESET. -/
def coreResetOp (core : Nat) (m : Mach) : Mach :=
  let m := emptyStack core m
  if core = 0 then haltCentroid m
  else
    let role := m.ctr.roles.idxOf core
    let std := [14, 15].find? fun c => c != core && !m.ctr.roles.contains c
    let m := modCtr m fun c => { c with
      resetsSweep := c.resetsSweep + 1
      roles := match std with
        | some n => if role < c.roles.length then c.roles.set role n else c.roles
        | none => c.roles }
    let m := raise m ctrCoreResetEv (srcCore core) none [core, if role < m.ctr.roles.length then std.getD core else core]
    if 2 < m.ctr.resetsSweep then haltCentroid m else m

/-- PWR_CAP write (R500, R536). -/
def capWriteOp (size : Nat) (v : Word) (m : Mach) : Mach :=
  let w := mergeBytes (regGet m offCap) 0 size v &&& word (ones 0 14)
  if 6000 ≤ w.toNat ∧ w.toNat ≤ 11500 ∧ w.toNat % 10 = 0 then regSet m offCap w
  else raise m hostCfgErr srcHost none []

/-- ID_FW_CTL write (R492): pending until the next sweep edge; naming the idle bank starts a switch. -/
def fwCtlOp (v : Word) (m : Mach) : Mach :=
  let b := bf v.toNat 0 0
  let m := { m with pend := pendPut m.pend offFwCtl (word b) }
  modCtr m fun c => { c with switching := if b = c.bank then none else some b }

/-! ### Management targets -/

/-- LINEAR11 of `num/den` ≥ 0: the smallest exponent from −16 at which the mantissa fits 10 bits, rounded to nearest. -/
def linear11 (num den : Nat) : Nat :=
  let pick := (List.range 32).find? fun e =>
    decide (if e ≤ 16 then (num * 2 ^ (16 - e) * 2 + den) / (2 * den) < 1024
      else (num * 2 + den * 2 ^ (e - 16)) / (2 * den * 2 ^ (e - 16)) < 1024)
  let e := pick.getD 31
  let y := if e ≤ 16 then (num * 2 ^ (16 - e) * 2 + den) / (2 * den)
    else (num * 2 + den * 2 ^ (e - 16)) / (2 * den * 2 ^ (e - 16))
  ((e + 16) % 32) * 2048 + y % 1024

def reply (bs : List Byte) (m : Mach) : Mach := emit m (.mgmtReply bs)

/-- A PMBus command that STANDBY and BOOT serve too (R556). -/
def pmbAlways (bs : Mach → List Byte) (m : Mach) : Mach := if m.boot.state = 0 then m else reply (bs m) m

/-- A PMBus command that is served from READY on and gets a NACK before (R556). -/
def pmbReady (f : Mach → Mach) (m : Mach) : Mach :=
  if m.boot.state = 0 then m else if m.boot.state = 3 then f m else emit m .mgmtNack

def lin2 (num den : Nat) : List Byte := leBytes 2 (linear11 num den)

/-- STATUS_INPUT: bit 7 overvoltage, bit 4 undervoltage, bit 0 input power over the cap. -/
def statusInputBits (m : Mach) : Nat :=
  let b := m.power.statusBits
  128 * b2n (b.contains 1) + 16 * b2n (b.contains 0) + b2n (b.contains 2)

/-- STATUS_TEMPERATURE: bit 7 fault, bit 6 warning. -/
def statusTempBits (m : Mach) : Nat :=
  let b := m.power.statusBits
  128 * b2n (b.contains 4) + 64 * b2n (b.contains 3)

/-- STATUS_WORD: bit 14 power limit, bit 13 input, bit 3 input undervoltage, bit 2 temperature. -/
def statusWordBits (m : Mach) : Nat :=
  let b := m.power.statusBits
  16384 * b2n (b.contains 2) + 8192 * b2n (statusInputBits m != 0) + 8 * b2n (b.contains 0)
    + 4 * b2n (statusTempBits m != 0)

def hottest (l : List Nat) : Nat := l.foldl max 0

/-- ID_CODE (R558, Table 19.6). -/
def idCode (m : Mach) : Nat := 0x100000000 + m.flash.code * 0x1000000 + 0x10000 + 0x9600

/-- ID_BOOT_STATUS (Table 18.8). -/
def bootStatus (m : Mach) : Nat := m.boot.state + 16 * m.boot.step + 256 * m.boot.cause

/-- The lease is held while TICK_NOW is below TWIN_LEASE_EXP (R400). -/
def leaseHeld (m : Mach) : Bool := decide (m.tick.tickNo < regN m offLeaseExp)

/-- TWIN_STATUS (Table 12.9). -/
def twinStatus (m : Mach) : Nat :=
  let t := m.twin
  b2n t.paired + 2 * b2n (t.paired && tb (regN m offTwinCtl) 0 && !t.lost) + 4 * b2n (leaseHeld m)
    + 8 * b2n t.takenOver + 16 * b2n t.frozen + 32 * b2n t.detached + 0x10000 * t.modNum

/-- FOC_LINE_STATUS (Table 16.5). -/
def lineStatus (m : Mach) : Nat :=
  m.focus.lines.zipIdx.foldl (fun a (y, i) => a + b2n y.asserted * 2 ^ i + b2n y.latch.isSome * 2 ^ (16 + i)) 0

/-- A block read of the SMBus target, answered in every state but OFF (R556). -/
def smbRead (v : Mach → Nat) (m : Mach) : Mach := if m.boot.state = 0 then m else reply (leBytes 8 (v m)) m

/-- 0 before READY. -/
def readyVal (v : Mach → Nat) (m : Mach) : Nat := if m.boot.state = 3 then v m else 0

/-! ### Commands -/

def execCtrCoreReset (core : Nat) (s : State) : Res := actReady (decide (core < 16)) (coreResetOp core) s
def execIdFwCtl (v : Word) (s : State) : Res := actReady true (fwCtlOp v) s
def execDvfsRampEnd (f : Nat) (s : State) : Res := actReady (decide (f < 104)) (rampEndOp f) s
def execPwrCapEmerg (mean : Nat) (s : State) : Res := actReady true (capEmergOp mean) s
def execPwrCap (size : Nat) (v : Word) (s : State) : Res := actReady (decide (size = 4 ∨ size = 8)) (capWriteOp size v) s
def execEnergyRecord (e : EnergyReading) (s : State) : Res := actReady true (energyOp e) s
def execDroopEpisode (die : Nat) (s : State) : Res :=
  actReady (decide (die < 104 ∨ die = 127)) (droopOp die) s
def execCoolLow (s : State) : Res := actReady true coolLowOp s
def execCoolLeak (s : State) : Res := actReady true coolLeakOp s
def execClearFaults (s : State) : Res := act true (pmbReady (setStatus [])) s
def execStatusWord (s : State) : Res := act true (pmbReady fun m => reply (leBytes 2 (statusWordBits m)) m) s
def execStatusInput (s : State) : Res := act true (pmbReady fun m => reply (leBytes 1 (statusInputBits m)) m) s
def execStatusTemperature (s : State) : Res := act true (pmbReady fun m => reply (leBytes 1 (statusTempBits m)) m) s
def execReadVin (s : State) : Res := act true (pmbAlways fun m => lin2 m.power.inputMv 1000) s
def execReadIin (ma : Nat) (s : State) : Res := act true (pmbAlways fun _ => lin2 ma 1000) s
def execReadPin (s : State) : Res := act true (pmbAlways fun m => lin2 m.power.inputW 1) s
def execReadTemperature1 (s : State) : Res :=
  act true (pmbReady fun m => reply (lin2 (hottest ((m.facets.take 96).map (·.temp))) 16) m) s
def execReadTemperature2 (s : State) : Res :=
  act true (pmbReady fun m => reply (lin2 (hottest (m.power.stackTemps.map (·.2))) 16) m) s
def execReadTemperature3 (s : State) : Res := act true (pmbAlways fun m => lin2 m.power.inlet 16) s
def execPmbusRevision (s : State) : Res := act true (pmbAlways fun _ => [0x44]) s
/-- "OHMET" as bytes. -/
def execMfrId (s : State) : Res := act true (pmbAlways fun _ => [0x4F, 0x48, 0x4D, 0x45, 0x54]) s
/-- Every other code is answered with a NACK (R506, R556). -/
def execPmbusOtherCommand (_code : BitVec 8) (s : State) : Res :=
  act true (fun m => if m.boot.state = 0 then m else emit m .mgmtNack) s
def execSmbReadIdCode (s : State) : Res := act true (smbRead idCode) s
def execSmbReadIdSerial (s : State) : Res := act true (smbRead fun m => m.flash.serial.toNat) s
def execSmbReadBootStatus (s : State) : Res := act true (smbRead bootStatus) s
def execSmbReadTwinStatus (s : State) : Res := act true (smbRead (readyVal twinStatus)) s
def execSmbReadLineStatus (s : State) : Res := act true (smbRead (readyVal lineStatus)) s
def execSmbOtherCommand (_code : BitVec 8) (s : State) : Res :=
  act true (fun m => if m.boot.state = 0 then m else emit m .mgmtNack) s

end Sys2Proof.Machine
end

