-- ==== Sys2Proof/Machine/Sequencer.lean ====
section
/-!
DEFINITION. The sequencer of a facet: the slot that a stage context runs, the record it issues next, completion words
(Table 6.7), span hazards (R201) and the time of a record at the frequency floor (R206).
-/
namespace Sys2Proof.Machine

/-! ### Spans (R201) -/

/-- A run of scratchpad bytes: start and length. -/
abbrev Span := Nat × Nat

/-- Span of a matrix: pitch in bytes, rows, bytes of a row. -/
def spanMat (addr pitch rows rowBytes : Nat) : Span := (addr, pitch * (rows - 1) + rowBytes)

/-- The rows of a matrix, one by one: the bytes that are read of it. -/
def rowSpans (addr pitch rows rowBytes : Nat) : List Span := (List.range rows).map fun i => (addr + pitch * i, rowBytes)

def overlap (a b : Span) : Bool := decide (a.1 < b.1 + b.2) && decide (b.1 < a.1 + a.2)

/-- What a command reads and writes. -/
structure Footprint where
  reads  : List Span
  writes : List Span

/-- R201: does a later command touch what an earlier one writes, or write what an earlier one touches? -/
def hazard (early late : Footprint) : Bool :=
  (early.writes.any fun w => (late.reads ++ late.writes).any (overlap w))
    || (early.reads.any fun r => late.writes.any (overlap r))

/-! ### Time at the floor (R206) -/

/-- Cycles at the frequency floor in 10 ns steps, rounded up. -/
def stepsAtFloor (m : Mach) (cycles : Nat) : Nat :=
  let f := pointMhz (floorPoint m)
  (cycles * 100 + f - 1) / f

/-! ### Records of a stage context -/

/-- Bits `hi`:`lo` of a record. -/
def rb (r : Rec) (hi lo : Nat) : Nat := bf r.toNat hi lo

/-- TAG of a record. -/
def recTag (r : Rec) : Nat := rb r 495 480

/-- The image of a handle of the program store. -/
def progImage (m : Mach) (h : Nat) : Option Prog := m.progs.find? fun p => p.handle == h

/-- ACT_POLICY that covers a stage (R312). -/
def actPolicyOf (m : Mach) (j : Nat) (e : MapSc) : Option ActPolicy :=
  (pipeOf m j e.pipe).acts.find? fun a => decide (a.first ≤ e.stage) && decide (e.stage ≤ a.last)

/-- Records of a handle, none where it names no program. -/
def imageOf (m : Mach) (h : Nat) : List Rec := ((progImage m h).map (·.image)).getD []

/-- Records of the program that the unit in progress runs: RECOMP_PROG before a backward unit's program where one is due
(R313), PREFILL_PROG and DECODE_PROG for rollout units (R415), else the installed stage program. -/
def runProg (m : Mach) (x : StageCtx) (r : SlotRun) : List Rec :=
  match x.owner, r.units[r.unitIdx]? with
  | some (j, e), some u =>
    if r.recomp then (match actPolicyOf m j e with | some a => imageOf m a.recompProg | none => [])
    else if u.dir ≠ 2 ∧ u.dir ≠ 3 then x.prog
    else match (pipeOf m j e.pipe).rollout with
      | some ro => imageOf m (if u.dir = 2 then ro.prefillProg else ro.decodeProg)
      | none => []
  | _, _ => []

/-- Job that a stage context works for. -/
def scJob (m : Mach) (f c : Nat) : Option Nat := (scOf m f c).owner.map (·.1)

/-- Does a job issue: admitted, not suspended, halted or releasing, and past its hold (R405, R412, R413)? -/
def jobIssues (m : Mach) (j : Nat) : Bool :=
  let x := jobOf m j
  x.admitted && !x.suspended && !x.halted && !x.releasing
    && (match x.holdUntil with | some t => decide (t ≤ m.now) | none => true)

/-- Is the unit that runs an expert unit, which runs as it arrives (R139)? -/
def runsExpert (r : SlotRun) : Bool := ((r.units[r.unitIdx]?).map fun u => u.dir == 4).getD false

/-- Can the slot issue its next record: a unit is there and nothing is waited for, its gathered layers among it?  A forward WAVE side that waits holds back the
backward unit, not an expert unit. -/
def slotOpen (r : SlotRun) : Bool :=
  r.wait == .none && !r.actWait && r.fetching == 0 && (!(r.waves.any fun w => w.1 == 0) || runsExpert r) && decide (r.unitIdx < r.units.length)

/-- The record that a stage context would issue next (R105, R287). -/
def curRec (m : Mach) (f c : Nat) : Option Rec :=
  let x := scOf m f c
  match x.run with
  | some r => if slotOpen r then (runProg m x r)[r.recIdx]? else none
  | none => none

/-- A stage context of the same job with a lower index that can still issue comes first (R105). -/
def scTurn (m : Mach) (f c : Nat) : Bool :=
  (List.range c).all fun k => scJob m f k != scJob m f c || (curRec m f k).isNone

/-- A command of a job that a switch takes off the facet ends: its overrun counts to JOB_DEBT (R412). -/
def countDebt (f j : Nat) (m : Mach) : Mach :=
  match (facetOf m f).switching with
  | some (o, _, t) => if o.contains j then modJob m j fun x => { x with debt := max x.debt (x.debtBase + (m.now - t)) } else m
  | none => m

/-- A switch holds the job's issue on the facet (R410). -/
def switchHolds (m : Mach) (f j : Nat) : Bool :=
  match (facetOf m f).switching with
  | some (o, i, _) => o.contains j || i.contains j
  | none => false

/-- The record to issue, when the facet works and its job issues. -/
def issuable (m : Mach) (f c : Nat) : Option (Rec × Nat) :=
  match scJob m f c, curRec m f c with
  | some j, some r =>
    if jobIssues m j && scTurn m f c && !(facetOf m f).failed && !switchHolds m f j then some (r, j) else none
  | _, _ => none

/-- A completion word (Table 6.7).  CYCLES is a free value: the spec gives no instant of start.  Log entry 3. -/
def compWord (m : Mach) (tag flags status opcode : Nat) : Word :=
  word (tag * 2 ^ 48 + (freeVal m 24).toNat * 2 ^ 24 + flags * 2 ^ 16 + status * 2 ^ 8 + opcode)

/-- Produces a completion word and ORs its flags into the facet's flag word for the stage context (R200). -/
def giveWord (f c tag flags status opcode : Nat) (m : Mach) : Mach :=
  let m := emit m (.word f c (compWord m tag flags status opcode))
  modSc (spendFree m) f c fun x => { x with flags := x.flags ||| flags }

/-- A record that fails a check completes at once; the program goes on (R203, R259, R287). -/
def failRecord (f c tag status opcode ev : Nat) (m : Mach) : Mach :=
  let m := giveWord f c tag 0 status opcode m
  raise m ev (srcFacet f (if ev = seqFault then 3 else 2)) (scJob m f c) [f, c, tag, status]

/-- The record pointer moves on, with `n` more commands in flight. -/
def stepRec (f c n : Nat) (m : Mach) : Mach :=
  modRun m f c fun r => { r with recIdx := r.recIdx + 1, inFlight := r.inFlight + n }

end Sys2Proof.Machine
end

