-- ==== Sys2Proof/Machine/PrismOps.lean ====
section
/-!
DEFINITION. Prism matrix units (chapter 6): the command, its checks, the summation order, the accumulator store, the
epilogue and the commands PRISM_COMMAND and PRISM_COMPLETE.
-/
namespace Sys2Proof.Machine

/-! ### Fields (Tables 6.1–6.4) -/

def pPrism (r : Rec) : Nat := rb r 10 8
def pShape (r : Rec) : Nat := rb r 13 11
def pFmtA (r : Rec) : Nat := rb r 17 14
def pFmtB (r : Rec) : Nat := rb r 21 18
def pAcc (r : Rec) : Nat := rb r 23 22
def pInit (r : Rec) : Nat := rb r 25 24
def pEpi (r : Rec) : Nat := rb r 27 26
def pEpiSrc (r : Rec) : Nat := rb r 29 28
def pOut (r : Rec) : Nat := rb r 33 30
def pBase (r : Rec) : Nat := rb r 37 34
def pM (r : Rec) : Nat := rb r 59 40
def pN (r : Rec) : Nat := rb r 79 60
def pK (r : Rec) : Nat := rb r 104 80
def pLda (r : Rec) : Nat := rb r 131 112
def pLdb (r : Rec) : Nat := rb r 151 132
def pLdc (r : Rec) : Nat := rb r 171 152
def pLdd (r : Rec) : Nat := rb r 191 172
def pLde (r : Rec) : Nat := rb r 211 192
def pA (r : Rec) : Nat := rb r 237 212
def pB (r : Rec) : Nat := rb r 263 238
def pC (r : Rec) : Nat := rb r 289 264
def pD (r : Rec) : Nat := rb r 315 290
def pE (r : Rec) : Nat := rb r 341 316
def pSa (r : Rec) : Nat := rb r 367 342
def pSb (r : Rec) : Nat := rb r 393 368
def pSd (r : Rec) : Nat := rb r 419 394
def pLdsa (r : Rec) : Nat := rb r 439 420
def pLdsb (r : Rec) : Nat := rb r 459 440
def pLdsd (r : Rec) : Nat := rb r 479 460

/-- Half bytes per element of an operand format (Table 6.2). -/
def opHalf (f : Nat) : Nat := [4, 4, 2, 2, 2, 2, 1].getD f 2

/-- Half bytes per element of an output format (Table 6.2). -/
def outHalf (f : Nat) : Nat := [0, 8, 4, 4, 2, 2, 2, 1, 8].getD f 2

/-- Is an operand, or an output, in a block format? -/
def opBlock (f : Nat) : Bool := f == 5 || f == 6
def outBlock (f : Nat) : Bool := f == 6 || f == 7

/-- Chunk length and the accumulators allowed of an operand pair (Table 6.3, R184). -/
def pairClass (a b : Nat) : Option (Nat × List Nat) :=
  if a = 6 ∧ b = 6 then some (64, [0, 1])
  else if a = 4 ∧ b = 4 then some (32, [0, 2])
  else if a = 4 ∨ b = 4 then none
  else if a < 2 ∨ b < 2 then some (16, [0, 1])
  else some (32, [0, 1])

/-- Rows and columns of a tile (Table 6.4). -/
def tileOf (shape : Nat) : Nat × Nat := [(128, 256), (256, 128), (64, 512), (512, 64), (32, 1024), (1024, 32)].getD shape (128, 256)

/-- ⌈log2 n⌉. -/
def clog2 (n : Nat) : Nat := if n ≤ 1 then 0 else (n - 1).log2 + 1

def tiles (r : Rec) : Nat := ceilDiv (pM r) (tileOf (pShape r)).1 * ceilDiv (pN r) (tileOf (pShape r)).2

/-- Sections of the sum (R192). -/
def sections (k : Nat) : Nat := if 65536 < k then ceilDiv k 16384 else 1

/-- Accumulator slots a command uses (Table 6.6). -/
def slotNeed (r : Rec) : Nat :=
  let s := if pAcc r = 1 then 2 else 1
  if pOut r = 0 then tiles r * s
  else if 1 < sections (pK r) then (clog2 (sections (pK r)) + 1) * s + s
  else 2 * s

/-! ### Spans -/

def rowBytesOp (fmt k : Nat) : Nat := ceilDiv (k * opHalf fmt) 2

def spanA (r : Rec) : Span := spanMat (pA r) (16 * pLda r) (pM r) (rowBytesOp (pFmtA r) (pK r))
def spanB (r : Rec) : Span := spanMat (pB r) (16 * pLdb r) (pN r) (rowBytesOp (pFmtB r) (pK r))
def spanC (r : Rec) : Span := spanMat (pC r) (16 * pLdc r) (pM r) (4 * pN r)
def spanD (r : Rec) : Span := spanMat (pD r) (16 * pLdd r) (pM r) (ceilDiv (pN r * outHalf (pOut r)) 2)
def spanE (r : Rec) : Span :=
  match pEpiSrc r with
  | 0 => spanMat (pE r) (16 * pLde r) (pM r) (4 * pN r)
  | 1 => (pE r, 4 * pN r)
  | 2 => (pE r, 4 * pM r)
  | _ => (pE r, 4)
def spanSa (r : Rec) : Span := spanMat (pSa r) (pLdsa r) (pM r) (pK r / 32)
def spanSb (r : Rec) : Span := spanMat (pSb r) (pLdsb r) (pN r) (pK r / 32)
def spanSd (r : Rec) : Span := spanMat (pSd r) (pLdsd r) (pM r) (pN r / 32)

def whenB {α : Type} (c : Bool) (a : α) : List α := if c then [a] else []

/-- The spans read, without C. -/
def prismSources (r : Rec) : List Span :=
  [spanA r, spanB r] ++ whenB (opBlock (pFmtA r)) (spanSa r) ++ whenB (opBlock (pFmtB r)) (spanSb r)
    ++ whenB (pEpi r != 0) (spanE r)

/-- The rows that a command reads; bytes between rows are no read (Table 6.8). -/
def prismReadRows (r : Rec) : List Span :=
  rowSpans (pA r) (16 * pLda r) (pM r) (rowBytesOp (pFmtA r) (pK r))
    ++ rowSpans (pB r) (16 * pLdb r) (pN r) (rowBytesOp (pFmtB r) (pK r))
    ++ (if opBlock (pFmtA r) then rowSpans (pSa r) (pLdsa r) (pM r) (pK r / 32) else [])
    ++ (if opBlock (pFmtB r) then rowSpans (pSb r) (pLdsb r) (pN r) (pK r / 32) else [])
    ++ (if pEpi r = 0 then [] else if pEpiSrc r = 0 then rowSpans (pE r) (16 * pLde r) (pM r) (4 * pN r) else [spanE r])
    ++ (if pInit r = 1 then rowSpans (pC r) (16 * pLdc r) (pM r) (4 * pN r) else [])

def prismFoot (r : Rec) : Footprint :=
  ⟨prismSources r ++ whenB (pInit r == 1) (spanC r), whenB (pOut r != 0) (spanD r) ++ whenB (outBlock (pOut r)) (spanSd r)⟩

/-! ### Checks (R203) -/

/-- Fields that the command's settings leave unused are 0 (R181). -/
def prismUnused (r : Rec) : Bool :=
  (opBlock (pFmtA r) || (pSa r == 0 && pLdsa r == 0))
    && (opBlock (pFmtB r) || (pSb r == 0 && pLdsb r == 0))
    && (outBlock (pOut r) || (pSd r == 0 && pLdsd r == 0))
    && (pInit r == 1 || (pC r == 0 && pLdc r == 0))
    && (pOut r != 0 || (pD r == 0 && pLdd r == 0))
    && (pEpi r != 0 || (pE r == 0 && pEpiSrc r == 0))
    && ((pEpi r != 0 && pEpiSrc r == 0) || pLde r == 0)

/-- Pitches hold their rows. -/
def prismPitches (r : Rec) : Bool :=
  decide (rowBytesOp (pFmtA r) (pK r) ≤ 16 * pLda r) && decide (rowBytesOp (pFmtB r) (pK r) ≤ 16 * pLdb r)
    && (pInit r != 1 || decide (4 * pN r ≤ 16 * pLdc r))
    && (pOut r == 0 || decide (ceilDiv (pN r * outHalf (pOut r)) 2 ≤ 16 * pLdd r))
    && (pEpi r == 0 || pEpiSrc r != 0 || decide (4 * pN r ≤ 16 * pLde r))
    && (!opBlock (pFmtA r) || decide (pK r / 32 ≤ pLdsa r)) && (!opBlock (pFmtB r) || decide (pK r / 32 ≤ pLdsb r))
    && (!outBlock (pOut r) || decide (pN r / 32 ≤ pLdsd r))

/-- Step 1 of R203 without the slot-range condition, as PROG_LOAD checks it (R263). -/
def prismGood (r : Rec) : Bool :=
  rb r 7 0 == 1 && rb r 511 496 == 0 && rb r 111 105 == 0 && rb r 39 38 == 0
    && (decide (pPrism r < 4) || pPrism r == 7) && decide (pShape r < 6) && decide (pFmtA r < 7) && decide (pFmtB r < 7)
    && decide (pAcc r < 3) && decide (pInit r < 3) && decide (pEpi r < 3) && decide (pOut r < 9)
    && prismUnused r
    && (match pairClass (pFmtA r) (pFmtB r) with | some (_, accs) => accs.contains (pAcc r) | none => false)
    && (!(opBlock (pFmtA r) || opBlock (pFmtB r)) || pK r % 32 == 0) && (!outBlock (pOut r) || pN r % 32 == 0)
    && (decide (pK r ≤ 65536) || (pInit r != 2 && pOut r != 0 && (pAcc r != 1 || decide (pK r ≤ 1048576))))
    && ((pOut r != 0 && pInit r != 2) || pPrism r != 7)
    && (pOut r != 0 || pEpi r == 0) && (pOut r != 8 || (pAcc r == 2 && pEpi r == 0))
    && decide (1 ≤ pM r) && decide (1 ≤ pN r) && decide (1 ≤ pK r) && decide (pK r ≤ 16777216)
    && [pA r, pB r, pC r, pD r, pE r].all (· % 16 == 0) && prismPitches r

/-- Do two slot ranges overlap? -/
def slotsMeet (a b : Nat × Nat) : Bool := decide (a.1 < b.1 + b.2) && decide (b.1 < a.1 + a.2)

/-- Do kept tiles match an INIT ACC command, or belong to a keeping one (R195)? -/
def sameTiles (c : Nat) (r : Rec) (k : Kept) : Bool :=
  k.sc == c && k.base == pBase r && k.shape == pShape r && k.acc == pAcc r && k.m == pM r && k.n == pN r

/-- Kept tiles on a prism that INIT ACC can continue (R195): the ones whose keeping command was issued last. -/
def keptMatch (p : Prism) (c : Nat) (r : Rec) : Option Kept :=
  p.kept.reverse.find? fun k => sameTiles c r k && !k.releasing

/-- The prism that a command runs on (R196): the one it names, or the one with the fewest queued commands. -/
def pickPrism (x : Facet) (r : Rec) : Nat :=
  if pPrism r < 4 then pPrism r
  else (List.range 4).foldl (fun best i =>
    if ((x.prisms[i]?).map (·.queue.length)).getD 0 < ((x.prisms[best]?).map (·.queue.length)).getD 0 then i else best) 0

/-- Do the job's windows cover a span of the facet's scratchpad (R203 step 3)? -/
def spanAllowed (m : Mach) (j f : Nat) (s : Span) (p : Perm) : Bool := latAllowed m j ⟨self m, f, 0, s.1⟩ s.2 p

/-- Status of the checks of R203, in their order. -/
def prismStatus (m : Mach) (f c j : Nat) (r : Rec) (p : Prism) : Nat :=
  let ft := prismFoot r
  let range : Nat × Nat := (pBase r, slotNeed r)
  if !prismGood r || decide (16 < pBase r + slotNeed r) then 0x50
  else if (ft.reads ++ ft.writes).any fun s => decide (Config.spadSize < s.1 + s.2) then 0x09
  else if !(ft.reads.all fun s => spanAllowed m j f s .read) || !(ft.writes.all fun s => spanAllowed m j f s .write) then 0x0A
  else if (ft.writes.any fun w => (prismSources r).any (overlap w))
      || (pInit r == 1 && (ft.writes.any (overlap (spanC r)))
        && !(pD r == pC r && pLdd r == pLdc r && pOut r == 1)) then 0x51
  else if pInit r = 2 ∧ (keptMatch p c r).isNone then 0x52
  else if p.kept.any fun k => k.sc != c && slotsMeet (k.base, k.need) range then 0x53
  else 0

/-! ### Worst-case execution time (R205) -/

def prismWcet (r : Rec) : Nat :=
  let (tm, tn) := tileOf (pShape r)
  let k0 := ((pairClass (pFmtA r) (pFmtB r)).map (·.1)).getD 16
  let ns := sections (pK r)
  let a := (ns - 1) + (if 1 < ns ∧ pInit r = 1 then 1 else 0)
  let p := 64 * (if pAcc r = 1 then 2 else 1) * (ceilDiv (pK r) k0 + a)
  let scales := (if opBlock (pFmtA r) then tm * pK r / 32 else 0) + (if opBlock (pFmtB r) then tn * pK r / 32 else 0)
  let cb := if pInit r = 1 then 4 * tm * tn else 0
  let eb := if pEpi r = 0 then 0 else match pEpiSrc r with | 0 => 4 * tm * tn | 1 => 4 * tn | 2 => 4 * tm | _ => 4
  let rd := tm * pK r * opHalf (pFmtA r) / 2 + tn * pK r * opHalf (pFmtB r) / 2 + scales + cb + eb
  let w := tm * tn * outHalf (pOut r) / 2 + (if outBlock (pOut r) then tm * tn / 32 else 0)
  let d := if pOut r = 0 then 0 else max 64 (ceilDiv w 512)
  48 + tiles r * max p (max (ceilDiv rd 1024) d) + d + 24

/-! ### Arithmetic (R189–R192, R197–R199) -/

/-- Value of an operand element from its pattern and scale byte. -/
def opVal (fmt scale bits : Nat) : Fp :=
  match fmt with
  | 0 => fpDec fBf16 bits
  | 1 => fpDec fF16 bits
  | 2 => fpDec fE4m3 bits
  | 3 => fpDec fE5m2 bits
  | 4 => fpInt (sInt 8 bits)
  | 5 => blockVal fE4m3 scale bits
  | _ => blockVal fE2m1 scale bits

/-- Pattern of element `k` of the row of half-byte elements at `off`. -/
def elemBits (m : Mach) (f off half k : Nat) : Nat :=
  if half = 1 then bf (readNat m f 0 (off + k / 2) 1) (4 * (k % 2) + 3) (4 * (k % 2))
  else readNat m f 0 (off + k * (half / 2)) (half / 2)

/-- Row of operand values (R182). -/
def operandRow (m : Mach) (f fmt addr pitch sAddr sPitch k i : Nat) : List Fp :=
  (List.range k).map fun e =>
    let s := if opBlock fmt then readNat m f 0 (sAddr + sPitch * i + e / 32) 1 else 0
    opVal fmt s (elemBits m f (addr + pitch * i) (opHalf fmt) e)

/-- The exact sum of a chunk's products and its special cases (R199). -/
def chunkSum (prods : List (Fl Fp)) : Fl Fp :=
  let fl := prods.foldl (fun a p => a ||| p.2) 0
  let vs := prods.map (·.1)
  if vs.contains (.inf false) && vs.contains (.inf true) then (.nan, fl ||| flInvalid)
  else if vs.contains .nan then (.nan, fl)
  else match vs with
    | [] => (fpZero, fl)
    | v :: t => (t.foldl (fun a b => (fpAdd a b).1) v, fl)

/-- A chunk's result as an accumulator word (R189): 0 FP32, 1 FP32P, 2 INT32. -/
def chunkWord (acc : Nat) (s : Fl Fp) : Fl Word :=
  if acc = 2 then flBind s fun v => let x := fpToInt 32 v; (word (uBits 32 x.1), x.2)
  else flBind s fun v => let x := fpEnc f32 v; (word x.1, x.2)

/-- `add` of R189 by accumulator. -/
def accAdd (acc : Nat) (x y : Word) : Fl Word :=
  match acc with
  | 0 => let s := add32 x.toNat y.toNat; (word s.1, s.2)
  | 1 => let s := addP (wordPair x.toNat) (wordPair y.toNat); (word (pairWord s.1), s.2)
  | _ =>
    let s := sInt 32 x.toNat + sInt 32 y.toNat
    let t := max (-(2 ^ 31)) (min (2 ^ 31 - 1) s)
    (word (uBits 32 t), if s = t then 0 else flOverflow)

/-- Adds chunk results in increasing k to an initial value, if there is one (`run` of R189). -/
def accRun (acc : Nat) (start : Option Word) (ts : List Word) : Fl Word :=
  match start, ts with
  | some a, ts => flFold (accAdd acc) a ts
  | none, [] => (0, 0)
  | none, t :: ts => flFold (accAdd acc) t ts

/-- One element of the product (R189, R192). -/
def prismElement (acc k0 : Nat) (start : Option Word) (a b : List Fp) : Fl Word :=
  let prods := (a.zip b).map fun (x, y) => fpMul x y
  let ts (ps : List (Fl Fp)) : Fl (List Word) := flMap (fun c => chunkWord acc (chunkSum c)) (chunks k0 ps)
  if prods.length ≤ 65536 then flBind (ts prods) (accRun acc start)
  else
    flBind (flMap (fun s => flBind (ts s) (accRun acc none)) (chunks 16384 prods)) fun ss =>
      flBind (combine (accAdd acc) 64 ss) fun r =>
        match start with
        | none => (r.headD 0, 0)
        | some i => accAdd acc (r.headD 0) i

/-- Step 1 of R197: the accumulated value as FP32. -/
def accTo32 (acc : Nat) (w : Word) : Fl Nat :=
  match acc with
  | 0 => (w.toNat % 2 ^ 32, 0)
  | 1 => pairTo32 (wordPair w.toNat)
  | _ => fpEnc f32 (fpInt (sInt 32 w.toNat))

/-- Epilogue operand of element (i, j) (R183). -/
def epiOperand (m : Mach) (f : Nat) (r : Rec) (i j : Nat) : Nat :=
  match pEpiSrc r with
  | 0 => readNat m f 0 (pE r + 16 * pLde r * i + 4 * j) 4
  | 1 => readNat m f 0 (pE r + 4 * j) 4
  | 2 => readNat m f 0 (pE r + 4 * i) 4
  | _ => readNat m f 0 (pE r) 4

/-- Steps 1 and 2 of R197. -/
def epilogue (m : Mach) (f : Nat) (r : Rec) (i j : Nat) (w : Word) : Fl Nat :=
  flBind (accTo32 (pAcc r) w) fun v =>
    match pEpi r with
    | 1 => add32 v (epiOperand m f r i j)
    | 2 => mul32 v (epiOperand m f r i j)
    | _ => (v, 0)

/-- Packs half-byte patterns, the even index in the low nibble (R182). -/
def packNibbles : List Nat → List Byte
  | a :: b :: t => BitVec.ofNat 8 (a + 16 * b) :: packNibbles t
  | [a] => [BitVec.ofNat 8 a]
  | [] => []

/-- Row of D and of its scales (R197 step 3). -/
def outRow (fmt : Nat) (vs : List Nat) : Fl (List Byte × List Byte) :=
  let conv (f : FmtDef) (n : Nat) : Fl (List Byte × List Byte) :=
    flBind (flMap (fun v => fpEnc f (v32 v)) vs) fun bs => ((bs.flatMap (leBytes n), []), 0)
  let block (f : FmtDef) (emax : Int) (nib : Bool) : Fl (List Byte × List Byte) :=
    flBind (flMap (fun c => blockEnc f emax (c.map v32)) (chunks 32 vs)) fun bs =>
      let es := bs.flatMap (·.2)
      ((if nib then packNibbles es else es.map (BitVec.ofNat 8), bs.map fun b => BitVec.ofNat 8 b.1), 0)
  match fmt with
  | 1 => ((vs.flatMap (leBytes 4), []), 0)
  | 2 => conv fBf16 2
  | 3 => conv fF16 2
  | 4 => conv fE4m3 1
  | 5 => conv fE5m2 1
  | 6 => block fE4m3 8 false
  | _ => block fE2m1 2 true

/-- Accumulated values of row `i`. -/
def accRow (m : Mach) (f : Nat) (r : Rec) (kept : List Word) (bs : List (List Fp)) (i : Nat) : Fl (List Word) :=
  let k0 := ((pairClass (pFmtA r) (pFmtB r)).map (·.1)).getD 16
  let a := operandRow m f (pFmtA r) (pA r) (16 * pLda r) (pSa r) (pLdsa r) (pK r) i
  let start (j : Nat) : Option Word :=
    match pInit r with
    | 1 => some (word (readNat m f 0 (pC r + 16 * pLdc r * i + 4 * j) 4))
    | 2 => some (kept.getD (i * pN r + j) 0)
    | _ => none
  flMap (fun (e : Nat × List Fp) => prismElement (pAcc r) k0 (start e.1) a e.2) ((List.range (pN r)).zip bs)

/-- All accumulated values, row by row. -/
def accAll (m : Mach) (f : Nat) (r : Rec) (kept : List Word) : Fl (List (List Word)) :=
  let bs := (List.range (pN r)).map (operandRow m f (pFmtB r) (pB r) (16 * pLdb r) (pSb r) (pLdsb r) (pK r))
  flMap (accRow m f r kept bs) (List.range (pM r))

/-- The row of D that accumulated values give. -/
def dRow (m : Mach) (f : Nat) (r : Rec) (e : Nat × List Word) : Fl (List Byte × List Byte) :=
  if pOut r = 8 then ((e.2.flatMap fun w => leBytes 4 w.toNat, []), 0)
  else flBind (flMap (fun (p : Nat × Word) => epilogue m f r e.1 p.1 p.2) ((List.range e.2.length).zip e.2)) (outRow (pOut r))

/-! ### The commands -/

/-- Footprints of the commands of stage context `c` that the facet's engines hold (R201). -/
def prismFeet (x : Facet) (c : Nat) : List Footprint :=
  x.prisms.flatMap fun p => (p.queue.filter fun q => q.sc == c).map fun q => prismFoot q.cmd

def modPrism (m : Mach) (f p : Nat) (g : Prism → Prism) : Mach :=
  modFacet m f fun x => { x with prisms := x.prisms.modify p g }

/-- Changes or drops the first element that satisfies `p`. -/
def modFirst {α : Type} (p : α → Bool) (g : α → Option α) : List α → List α
  | [] => []
  | a :: t => if p a then (match g a with | some b => b :: t | none => t) else a :: modFirst p g t

/-- Kept tiles at the issue of a command, oldest first: it marks those that it reads and releases, and adds those it keeps, which
hold no values before it completes (R195). -/
def keepAtIssue (c : Nat) (r : Rec) (l : List Kept) : List Kept :=
  if pInit r = 2 then
    if pOut r = 0 then l
    else (modFirst (fun k => sameTiles c r k && !k.releasing) (fun k => some { k with releasing := true }) l.reverse).reverse
  else if pOut r = 0 then l ++ [⟨c, pBase r, slotNeed r, pShape r, pAcc r, pM r, pN r, [], false⟩]
  else l

/-- Slots of the tile that element `e` of kept tiles lies in, in raster order from ACC_BASE (R194, R195). -/
def tileSlots (k : Kept) (e : Nat) : Nat × Nat :=
  let (tm, tn) := tileOf k.shape
  let s := if k.acc = 1 then 2 else 1
  (k.base + (e / k.n / tm * ceilDiv k.n tn + e % k.n / tn) * s, s)

/-- Element `e` of kept tiles after the slots of `range` were used for others. -/
def spoilIn (range : Nat × Nat) (seed : Nat) (k : Kept) (e : Nat × Word) : Word :=
  if slotsMeet (tileSlots k e.1) range then Config.free 64 seed (k.base * 2 ^ 40 + e.1) else e.2

/-- Kept tiles of stage context `c` when a command of it that used other slots completes: a tile in those slots holds an undefined
value, and tiles that newly kept ones replace whole are gone (log entry 85). -/
def reuseSlots (c : Nat) (r : Rec) (seed : Nat) (l : List Kept) : List Kept :=
  let range : Nat × Nat := (pBase r, slotNeed r)
  l.filterMap fun k =>
    if k.sc ≠ c ∨ k.vals.isEmpty ∨ (pInit r = 2 ∧ sameTiles c r k) then some k
    else if pOut r = 0 ∧ range.1 ≤ k.base ∧ k.base + k.need ≤ range.1 + range.2 then none
    else some { k with vals := ((List.range k.vals.length).zip k.vals).map (spoilIn range seed k) }

/-- The kept tiles that a completing command continues: those that hold values. -/
def continued (c : Nat) (r : Rec) (l : List Kept) : Option Kept :=
  if pInit r = 2 then l.find? fun k => sameTiles c r k && !k.vals.isEmpty else none

/-- Kept tiles at the completion of a command that accumulated `vals` (R195). -/
def keepAtEnd (c : Nat) (r : Rec) (seed : Nat) (vals : List Word) (l : List Kept) : List Kept :=
  let l := reuseSlots c r seed l
  if pOut r = 0 then
    modFirst (fun k => sameTiles c r k && k.vals.isEmpty == (pInit r != 2)) (fun k => some { k with vals }) l
  else if pInit r = 2 then modFirst (fun k => sameTiles c r k && k.releasing) (fun _ => none) l
  else l

/-- Footprints of everything of stage context `c` in flight on the facet; `more` are those of engines outside the
prisms. -/
def prismIssue (f c : Nat) (r : Rec) (j : Nat) (more : List Footprint) (m : Mach) : Mach :=
  let x := facetOf m f
  let i := pickPrism x r
  let p := x.prisms.getD i ⟨[], []⟩
  let st := prismStatus m f c j r p
  if st ≠ 0 then failRecord f c (recTag r) st 1 prismFault (stepRec f c 0 m)
  else if 8 ≤ p.queue.length then m
  else if (prismFeet x c ++ more).any fun e => hazard e (prismFoot r) then m
  else
    stepRec f c 1 (modPrism m f i fun p => { p with queue := p.queue ++ [⟨c, j, r⟩], kept := keepAtIssue c r p.kept })

/-- Writes rows of D and of its scales. -/
def writeRows (f : Nat) (r : Rec) (rows : List (List Byte × List Byte)) (m : Mach) : Mach :=
  ((List.range rows.length).zip rows).foldl (fun m (e : Nat × List Byte × List Byte) =>
    let m := writeChecked m f 0 (pD r + 16 * pLdd r * e.1) e.2.1
    if e.2.2.isEmpty then m else writeChecked m f 0 (pSd r + pLdsd r * e.1) e.2.2) m

/-- Uncorrectable units that the spans read meet. -/
def ueSpans (m : Mach) (f : Nat) (l : List Span) : List Nat := (l.flatMap fun s => ueHit m f 0 s.1 s.2).eraseDups

/-- A prism finishes the command at the head of its queue (R204): `done` runs after the command left its slot. -/
def prismFinish (f i : Nat) (m : Mach) : Mach :=
  let p := (facetOf m f).prisms.getD i ⟨[], []⟩
  match p.queue with
  | [] => m
  | q :: rest =>
    let r := q.cmd
    let acc := accAll m f r (((continued q.sc r p.kept).map (·.vals)).getD [])
    let seed := m.free
    let ue := ueSpans m f (prismReadRows r)
    let st := if ue.isEmpty then 0 else 0x0F
    let out : Fl (List (List Byte × List Byte)) :=
      if pOut r = 0 then ([], 0) else flMap (dRow m f r) ((List.range acc.1.length).zip acc.1)
    let m := raiseUe m ue
    let m := writeRows f r out.1 m
    let m := modPrism m f i fun p => { p with queue := rest, kept := keepAtEnd q.sc r seed acc.1.flatten p.kept }
    giveWord f q.sc (recTag r) (acc.2 ||| out.2 ||| (if ue.isEmpty then 0 else flInvalid)) st 1 { m with free := m.free + 1 }

end Sys2Proof.Machine
end

