-- ==== Sys2Proof/Machine/RayOps.lean ====
section
/-!
DEFINITION. The ray vector engine (chapter 8): the command, its checks, element-wise, integer, mask, reduction and fused
operations, and its worst-case execution time.
-/
namespace Sys2Proof.Machine

/-! ### Fields (Table 8.2) -/

def yOp (r : Rec) : Nat := rb r 15 8
def yFx (r : Rec) : Nat := rb r 19 16
def yFy (r : Rec) : Nat := rb r 23 20
def yFz (r : Rec) : Nat := rb r 27 24
def ySx (r : Rec) : Nat := rb r 30 28
def ySy (r : Rec) : Nat := rb r 33 31
def yMask (r : Rec) : Nat := rb r 35 34
def yRows (r : Rec) : Nat := rb r 59 40
def yN (r : Rec) : Nat := rb r 87 60
def yImm (r : Rec) : Nat := rb r 119 88
def yLdx (r : Rec) : Nat := rb r 139 120
def yLdy (r : Rec) : Nat := rb r 159 140
def yLdz (r : Rec) : Nat := rb r 179 160
def yLdm (r : Rec) : Nat := rb r 199 180
def yX (r : Rec) : Nat := rb r 225 200
def yY (r : Rec) : Nat := rb r 251 226
def yZ (r : Rec) : Nat := rb r 277 252
def yMa (r : Rec) : Nat := rb r 303 278
def ySxA (r : Rec) : Nat := rb r 329 304
def ySyA (r : Rec) : Nat := rb r 355 330
def ySzA (r : Rec) : Nat := rb r 381 356
def yLdsx (r : Rec) : Nat := rb r 401 382
def yLdsy (r : Rec) : Nat := rb r 421 402
def yLdsz (r : Rec) : Nat := rb r 441 422

/-- Half bytes per element of a format, scales aside (Table 8.3). -/
def rayHalf (f : Nat) : Nat := [8, 4, 4, 4, 2, 2, 2, 8, 16, 2, 1].getD f 0

def rayBlock (f : Nat) : Bool := f == 9 || f == 10

/-- Kinds of operation (Table 8.4). -/
inductive RayKind where
  /-- floating-point element-wise, with the number of operands -/
  | ew (arity : Nat)
  | cmp
  | select
  | compress
  | expand
  | int
  | red (arity : Nat)
  | extreme
  | fused
  deriving DecidableEq, Repr

def rayKind (op : Nat) : Option RayKind :=
  if op = 0 then some (.ew 1)
  else if op ≤ 8 then some (.ew 2)
  else if op ≤ 0x13 then some (.ew 1)
  else if 0x18 ≤ op ∧ op ≤ 0x1A then some .cmp
  else if op = 0x1C then some .select
  else if op = 0x1D then some .compress
  else if op = 0x1E then some .expand
  else if 0x20 ≤ op ∧ op ≤ 0x29 then some .int
  else if op = 0x30 ∨ op = 0x31 then some (.red 1)
  else if op = 0x32 then some (.red 2)
  else if 0x33 ≤ op ∧ op ≤ 0x35 then some .extreme
  else if 0x38 ≤ op ∧ op ≤ 0x3C then some .fused
  else none

/-- Does the operation read Y; must it? -/
def readsY (op : Nat) : Bool :=
  match rayKind op with
  | some (.ew 2) | some .cmp | some .select | some .int | some (.red 2) => true
  | some .fused => op == 0x3B || op == 0x3C
  | _ => false

/-- May Y be given: an operand that is read, or the gain of the norms (R253)? -/
def mayY (op : Nat) : Bool := readsY op || op == 0x39 || op == 0x3A

/-- Is the IMM field used: an IMM source, FMA, AXPY, or the ε of the norms (R253)? -/
def usesImm (r : Rec) : Bool := ySx r == 4 || ySy r == 4 || [5, 6, 0x39, 0x3A].contains (yOp r)

/-- The integer operations (Table 8.4). -/
def isIntOp (op : Nat) : Bool := decide (0x20 ≤ op) && decide (op ≤ 0x29)

/-- One value per row at Z (R241). -/
def perRow (op : Nat) : Bool := (decide (0x30 ≤ op) && decide (op ≤ 0x35)) || op == 0x3B

/-! ### Spans (R258) -/

def rayRowBytes (fmt n : Nat) : Nat := if fmt = 11 then ceilDiv n 8 else ceilDiv (n * rayHalf fmt) 2

/-- How the bytes of a matrix are given: as one span (R201), or as its rows. -/
abbrev MatSpans := Nat → Nat → Nat → Nat → List Span

def oneSpan : MatSpans := fun addr pitch rows rowBytes => [spanMat addr pitch rows rowBytes]

/-- Span of X or Y by its source mode. -/
def raySrc (mat : MatSpans) (mode fmt addr ld rows n : Nat) : List Span :=
  match mode with
  | 0 => mat addr (16 * ld) rows (rayRowBytes fmt n)
  | 1 => [(addr, rayRowBytes fmt n)]
  | 2 => [(addr, rayRowBytes fmt rows)]
  | 3 => [(addr, rayRowBytes fmt 1)]
  | _ => []

/-- Span of a source's scales. -/
def rayScale (mat : MatSpans) (mode fmt addr ld rows n : Nat) : List Span :=
  if !rayBlock fmt then [] else match mode with
    | 0 => mat addr ld rows (n / 32)
    | 1 => [(addr, n / 32)]
    | _ => []

def maskSpan (mat : MatSpans) (r : Rec) : List Span :=
  if yMask r = 0 then [] else mat (yMa r) (16 * yLdm r) (yRows r) (ceilDiv (yN r) 8)

def zSpan (r : Rec) : Span :=
  if perRow (yOp r) then (yZ r, yRows r * rayHalf (yFz r) / 2)
  else spanMat (yZ r) (16 * yLdz r) (yRows r) (rayRowBytes (yFz r) (yN r))

/-- X as it counts toward spans: an EXPAND reads as many elements of each row as the mask has active positions (R251);
`act` gives them by row. -/
def xSpans (mat : MatSpans) (r : Rec) (act : List Nat) : List Span :=
  if yOp r = 0x1E then
    ((List.range act.length).zip act).filterMap fun e =>
      if e.2 = 0 then none else match ySx r with
        | 0 => some (yX r + 16 * yLdx r * e.1, rayRowBytes (yFx r) e.2)
        | 1 => some (yX r, rayRowBytes (yFx r) e.2)
        | 2 => some (yX r + e.1 * rayHalf (yFx r) / 2, ceilDiv (rayHalf (yFx r)) 2)
        | 3 => some (yX r, rayRowBytes (yFx r) 1)
        | _ => none
  else raySrc mat (ySx r) (yFx r) (yX r) (yLdx r) (yRows r) (yN r)

/-- X and SX as a command reads them. -/
def ownReads (mat : MatSpans) (r : Rec) (act : List Nat) : List Span :=
  xSpans mat r act ++ rayScale mat (ySx r) (yFx r) (ySxA r) (yLdsx r) (yRows r) (yN r)

/-- Y, SY and the mask. -/
def sideReads (mat : MatSpans) (r : Rec) : List Span :=
  (if yOp r = 0x1D then [] else
      raySrc mat (ySy r) (yFy r) (yY r) (yLdy r) (yRows r) (yN r)
        ++ rayScale mat (ySy r) (yFy r) (ySyA r) (yLdsy r) (yRows r) (yN r))
    ++ maskSpan mat r

def rayReads (mat : MatSpans) (r : Rec) (act : List Nat) : List Span := ownReads mat r act ++ sideReads mat r

/-- Z and SZ. -/
def zWrites (r : Rec) : List Span :=
  [zSpan r] ++ whenB (rayBlock (yFz r) && !perRow (yOp r)) (spanMat (ySzA r) (yLdsz r) (yRows r) (yN r / 32))

def rayWrites (r : Rec) : List Span := zWrites r ++ whenB (yOp r == 0x1D) (yY r, 4 * yRows r)

/-! ### Masks (R249) -/

/-- Mask bit (i, j); every element is active under MASK_MODE NONE. -/
def activeAt (m : Mach) (f : Nat) (r : Rec) (i j : Nat) : Bool :=
  yMask r == 0 || (readNat m f 0 (yMa r + 16 * yLdm r * i + j / 8) 1).testBit (j % 8)

/-- Active positions of each row. -/
def activeCounts (m : Mach) (f : Nat) (r : Rec) : List Nat :=
  if yMask r = 0 then [] else
    (List.range (yRows r)).map fun i => ((List.range (yN r)).filter (activeAt m f r i)).length

def rayFoot (m : Mach) (f : Nat) (r : Rec) : Footprint := ⟨rayReads oneSpan r (activeCounts m f r), rayWrites r⟩

/-! ### Checks (R259, R260) -/

/-- Formats that an operation allows for X, Y and Z (Table 8.3, R247, R248, R251, R252, R254). -/
def rayFormats (r : Rec) : Bool :=
  let fx := yFx r
  let fy := yFy r
  let fz := yFz r
  let isInt (f : Nat) : Bool := f == 6 || f == 7
  let srcOk (mode f : Nat) : Bool := !rayBlock f || decide (mode < 2)
  decide (fx < 11) && decide (fy < 11) && decide (fz < 12) && srcOk (ySx r) fx && srcOk (ySy r) fy
    && match rayKind (yOp r) with
      | none => false
      | some .int => isInt fx && isInt fz && isInt fy
      | some .cmp => [0, 1, 2, 6, 7, 11].contains fz
      | some .compress | some .expand => fz == fx && !rayBlock fz
      | some (.red _) => fz == 0 || fz == 8
      | some .extreme => fz == 0 && fx != 8
      | some .fused => fz != 11 && (yOp r != 0x3B || (fz == 0 && ySy r == 2 && fy == 7))
          && (yOp r == 0x3B || yOp r == 0x3C || ySy r == 1 || ySy r == 5) && (yOp r != 0x38 || ySy r == 5)
      | _ => fz != 11

/-- Unused fields are 0 (R243). -/
def rayUnused (r : Rec) : Bool :=
  let op := yOp r
  let addrUsed (mode : Nat) : Bool := decide (mode < 4)
  (addrUsed (ySx r) || yX r == 0) && (ySx r == 0 || yLdx r == 0)
    && (addrUsed (ySy r) || op == 0x1D || yY r == 0) && (ySy r == 0 || yLdy r == 0)
    && (ySy r != 5 || yFy r == 0)
    && (isIntOp op || ((ySx r != 4 || yFx r == 0) && (ySy r != 4 || yFy r == 0)))
    && ((rayBlock (yFx r) && decide (ySx r < 2)) || ySxA r == 0) && ((rayBlock (yFx r) && ySx r == 0) || yLdsx r == 0)
    && ((rayBlock (yFy r) && decide (ySy r < 2)) || ySyA r == 0) && ((rayBlock (yFy r) && ySy r == 0) || yLdsy r == 0)
    && (rayBlock (yFz r) || (ySzA r == 0 && yLdsz r == 0))
    && (yMask r != 0 || (yMa r == 0 && yLdm r == 0)) && (usesImm r || yImm r == 0)

def rayPitches (r : Rec) : Bool :=
  (ySx r != 0 || decide (rayRowBytes (yFx r) (yN r) ≤ 16 * yLdx r))
    && (ySy r != 0 || decide (rayRowBytes (yFy r) (yN r) ≤ 16 * yLdy r))
    && (perRow (yOp r) || decide (rayRowBytes (yFz r) (yN r) ≤ 16 * yLdz r))
    && (yMask r == 0 || decide (ceilDiv (yN r) 8 ≤ 16 * yLdm r))
    && (!(rayBlock (yFx r) && ySx r == 0) || decide (yN r / 32 ≤ yLdsx r))
    && (!(rayBlock (yFy r) && ySy r == 0) || decide (yN r / 32 ≤ yLdsy r))
    && (!rayBlock (yFz r) || decide (yN r / 32 ≤ yLdsz r))

/-- Step 1 of R259. -/
def rayGood (r : Rec) : Bool :=
  let op := yOp r
  rb r 7 0 == 2 && rb r 511 496 == 0 && rb r 479 442 == 0 && rb r 39 36 == 0
    && decide (ySx r < 6) && decide (ySy r < 6) && decide (yMask r < 3) && rayFormats r && rayUnused r
    && !(ySx r == 4 && ySy r == 4)
    && !((ySx r == 4 || ySy r == 4) && [5, 6, 0x39, 0x3A].contains op)
    && ySx r != 5 && (!readsY op || ySy r != 5) && (mayY op || ySy r == 5)
    && (!([0x1C, 0x1D, 0x1E].contains op) || yMask r != 0)
    && decide (1 ≤ yN r) && decide (yN r ≤ 134217728) && decide (1 ≤ yRows r)
    && (!(rayBlock (yFx r) || rayBlock (yFy r) || rayBlock (yFz r)) || yN r % 32 == 0)
    && [yX r, yY r, yZ r, yMa r].all (· % 16 == 0) && rayPitches r

/-- In place (R260). -/
def rayInPlace (r : Rec) : Bool :=
  yZ r == yX r && yLdz r == yLdx r && yFz r == yFx r && ySx r == 0
    && (!rayBlock (yFx r) || (ySzA r == ySxA r && yLdsz r == yLdsx r))
    && (match rayKind (yOp r) with
      | some (.ew _) | some .cmp | some .select | some .int | some .compress | some .fused => true
      | _ => false)

/-- Status of the checks of R259. -/
def rayStatus (m : Mach) (f j : Nat) (r : Rec) : Nat :=
  if !rayGood r then 0x58
  else
    let ft := rayFoot m f r
    if (ft.reads ++ ft.writes).any fun s => decide (Config.spadSize < s.1 + s.2) then 0x09
    else if !(ft.reads.all fun s => spanAllowed m j f s .read) || !(ft.writes.all fun s => spanAllowed m j f s .write) then 0x0A
    else if !rayInPlace r && (zWrites r).any fun z => ft.reads.any (overlap z) then 0x59
    else 0

/-! ### Worst-case execution time (R264) -/

def lanesOf (op : Nat) : Nat := if op = 4 ∨ (0x0B ≤ op ∧ op ≤ 0x13) then 128 else 512

/-- Bytes of `n` elements in a pass, scales included; nothing outside TENSOR and ROW modes. -/
def passBytes (mode fmt n : Nat) : Nat :=
  if 1 < mode then 0 else ceilDiv (n * rayHalf fmt) 2 + (if rayBlock fmt then n / 32 else 0)

/-- Cycles of a pass: lanes, and which of X, Y, Z it moves. -/
def passCycles (r : Rec) (lanes : Nat) (x y z : Bool) : Nat :=
  let n := yN r
  let bx := if x then ceilDiv (passBytes (ySx r) (yFx r) n) 2048 else 0
  let by_ := if y then ceilDiv (passBytes (ySy r) (yFy r) n) 2048 else 0
  let bz := if z && !perRow (yOp r) then
      ceilDiv (if yFz r = 11 then ceilDiv n 8 else passBytes 0 (yFz r) n) 2048 else 0
  max (ceilDiv n lanes) (max bx (max by_ bz))

/-- Passes of the operation and reductions per row (Table 8.6). -/
def rayPasses (r : Rec) : Nat × Nat :=
  let c := passCycles r
  match yOp r with
  | 0x30 | 0x31 | 0x33 | 0x34 | 0x35 => (c 512 true false false, 1)
  | 0x32 => (c 512 true true false, 1)
  | 0x38 => (c 512 true false false + c 128 true false false + c 128 true false true, 2)
  | 0x39 => (c 512 true false false + c 512 true true true, 1)
  | 0x3A => (c 512 true false false + c 512 true false false + c 512 true true true, 2)
  | 0x3B => (c 512 true false false + c 128 true false false, 2)
  | 0x3C => (c 512 true true false + c 512 true true true, 1)
  | op => (c (lanesOf op) true true true, 0)

def rayWcet (r : Rec) : Nat :=
  let (s, q0) := rayPasses r
  let q := q0 * (1 + clog2 (ceilDiv (yN r) (2 ^ 24)))
  40 + yRows r * max s (ceilDiv (s + 80 * q) 8) + 80 * q + 24

/-! ### Operands (R240, R244) -/

/-- An operand element: its exact value, its pair when the format is FP32P, its pattern. -/
structure RayVal where
  v    : Fp
  pair : Pair
  bits : Nat

/-- Element `j` of a run of elements of a format, with its scale byte. -/
def rayElem (fmt bits scale : Nat) : RayVal :=
  let f32v (b : Nat) : Pair := (b, 0)
  match fmt with
  | 0 => ⟨v32 bits, f32v bits, bits⟩
  | 1 => ⟨fpDec fBf16 bits, f32v (bits * 65536), bits⟩
  | 2 => ⟨fpDec fF16 bits, f32v (fpEnc f32 (fpDec fF16 bits)).1, bits⟩
  | 3 => ⟨fpDec fUbf16 bits, f32v (fpEnc f32 (fpDec fUbf16 bits)).1, bits⟩
  | 4 => ⟨fpDec fE4m3 bits, f32v (fpEnc f32 (fpDec fE4m3 bits)).1, bits⟩
  | 5 => ⟨fpDec fE5m2 bits, f32v (fpEnc f32 (fpDec fE5m2 bits)).1, bits⟩
  | 6 => ⟨fpInt (sInt 8 bits), f32v (fpEnc f32 (fpInt (sInt 8 bits))).1, bits⟩
  | 7 => ⟨v32 (fpEnc f32 (fpInt (sInt 32 bits))).1, f32v (fpEnc f32 (fpInt (sInt 32 bits))).1, bits⟩
  | 8 => ⟨pairVal (wordPair bits), wordPair bits, bits⟩
  | 9 => let v := blockVal fE4m3 scale bits; ⟨v, f32v (fpEnc f32 v).1, bits⟩
  | _ => let v := blockVal fE2m1 scale bits; ⟨v, f32v (fpEnc f32 v).1, bits⟩

/-- An element as the pair that add_p takes: a block value that FP32 does not hold raises the flags of its rounding (R211). -/
def pairIn (x : RayVal) : Fl Pair := (x.pair, if x.pair.2 % 2 ^ 31 = 0 then (fpEnc f32 x.v).2 else 0)

/-- Flags of reading an element into a floating-point operation: inexact when an INT32 changes (R244). -/
def readFlags (fmt : Nat) (x : RayVal) : Nat := if fmt = 7 then (fpEnc f32 (fpInt (sInt 32 x.bits))).2 else 0

/-- Element (i, j) of X or Y (R240, Table 8.1). -/
def rayOperand (m : Mach) (f mode fmt addr ld sAddr sLd imm i j : Nat) (intOp : Bool) : RayVal :=
  let at_ (base k : Nat) : Nat := elemBits m f base (rayHalf fmt) k
  match mode with
  | 0 => rayElem fmt (at_ (addr + 16 * ld * i) j) (if rayBlock fmt then readNat m f 0 (sAddr + sLd * i + j / 32) 1 else 0)
  | 1 => rayElem fmt (at_ addr j) (if rayBlock fmt then readNat m f 0 (sAddr + j / 32) 1 else 0)
  | 2 => rayElem fmt (at_ addr i) 0
  | 3 => rayElem fmt (at_ addr 0) 0
  | _ => rayElem (if intOp then 7 else 0) imm 0

def rayX (m : Mach) (f : Nat) (r : Rec) (i j : Nat) : RayVal :=
  rayOperand m f (ySx r) (yFx r) (yX r) (yLdx r) (ySxA r) (yLdsx r) (yImm r) i j (isIntOp (yOp r))

def rayY (m : Mach) (f : Nat) (r : Rec) (i j : Nat) : RayVal :=
  rayOperand m f (ySy r) (yFy r) (yY r) (yLdy r) (ySyA r) (yLdsy r) (yImm r) i j (isIntOp (yOp r))

/-- Format in which an element entered: that of the stream, FP32 for IMM. -/
def srcFmt (mode fmt : Nat) : Nat := if mode = 4 then 0 else fmt

/-! ### Results -/

/-- A result before its conversion to FMT_Z: FP32, a pair, or an exact value that the fused operations round once. -/
inductive RayOut where
  | f32 (bits : Nat)
  | pair (p : Pair)
  | exact (v : Fp)
  | int (x : Int)
  | bit (b : Bool)
  | raw (bits : Nat)

/-- Element-wise floating-point operations (R245, R246). -/
def ewOp (op imm : Nat) (x y : RayVal) (toPair : Bool) : Fl RayOut :=
  let f (r : Fl Nat) : Fl RayOut := (.f32 r.1, r.2)
  match op with
  | 0 => f (r32 (x.v, 0))
  | 1 => if toPair then let r := flBind (pairIn x) fun a => flBind (pairIn y) (addP a); (.pair r.1, r.2) else f (r32 (fpAdd x.v y.v))
  | 2 =>
    if toPair then
      let n := (fpEnc f32 (fpNeg (v32 y.pair.1))).1
      let l := if y.pair.2 % 2 ^ 31 = 0 then 0 else (fpEnc f32 (fpNeg (v32 y.pair.2))).1
      let r := flBind (pairIn x) fun a => flOr (addP a (n, l)) (pairIn y).2
      (.pair r.1, r.2)
    else f (r32 (fpSub x.v y.v))
  | 3 => f (r32 (fpMul x.v y.v))
  | 4 => f (r32 (fpDiv x.v y.v))
  | 5 => f (r32 (fpFma x.v y.v (v32 imm)))
  | 6 => f (r32 (fpFma (v32 imm) x.v y.v))
  | 7 => f (r32 (fpMax x.v y.v, 0))
  | 8 => f (r32 (fpMin x.v y.v, 0))
  | 9 => f (r32 (fpAbs x.v, 0))
  | 0x0A => f (r32 (fpNeg x.v, 0))
  | _ => f (elem (op - 0x0B) (word (pairWord x.pair)) x.v)

/-- Integer operations (R247). -/
def intOp (op : Nat) (x y : Int) : Int :=
  let sh := (y % 32).toNat
  let bits (g : Nat → Nat → Nat) : Int := sInt 32 (g (uBits 32 x) (uBits 32 y))
  match op with
  | 0x20 => x + y
  | 0x21 => x - y
  | 0x22 => x * y
  | 0x23 => bits (· &&& ·)
  | 0x24 => bits (· ||| ·)
  | 0x25 => bits (· ^^^ ·)
  | 0x26 => x * 2 ^ sh
  | 0x27 => x / 2 ^ sh
  | 0x28 => min x y
  | _ => max x y

/-- Value of an integer operand. -/
def intOf (mode fmt : Nat) (x : RayVal) : Int := if mode ≠ 4 ∧ fmt = 6 then sInt 8 x.bits else sInt 32 x.bits

/-- Pattern of a scalar result in a format other than the block formats and MASK1. -/
def outBits (fmt : Nat) (o : RayOut) : Fl Nat :=
  let conv (v : Fp) : Fl Nat :=
    match fmt with
    | 0 => fpEnc f32 v
    | 1 => fpEnc fBf16 v
    | 2 => fpEnc fF16 v
    | 3 => fpEnc fUbf16 v
    | 4 => fpEnc fE4m3 v
    | 5 => fpEnc fE5m2 v
    | 6 => let x := fpToInt 8 v; (uBits 8 x.1, x.2)
    | 7 => let x := fpToInt 32 v; (uBits 32 x.1, x.2)
    | _ => flBind (fpEnc f32 v) fun b => (b, 0)
  match o with
  | .f32 b => if fmt = 8 then (b, 0) else conv (v32 b)
  | .pair p => if fmt = 8 then (pairWord p, 0) else conv (pairVal p)
  | .exact v => if fmt < 4 then conv v else flBind (fpEnc f32 v) fun b => if fmt = 8 then (b, 0) else conv (v32 b)
  | .int x => (uBits (if fmt = 6 then 8 else 32) x, 0)
  | .bit b =>
    (match fmt with
      | 0 => if b then 0x3F800000 else 0
      | 1 => if b then 0x3F80 else 0
      | 2 => if b then 0x3C00 else 0
      | _ => b2n b, 0)
  | .raw b => (b, 0)

/-! ### Rows -/

/-- An element of a row of Z: keep the previous contents, or a result. -/
abbrev RowOut := List (Option RayOut)

/-- Maximum of values under R217. -/
def maxList : List Fp → Fp
  | [] => .inf true
  | v :: t => t.foldl fpMax v

def minList : List Fp → Fp
  | [] => .inf false
  | v :: t => t.foldl fpMin v

/-- Soft max of a row (Table 7.5): m and S, with the flags raised so far, and the e_i. -/
def softParts (xs : List RayVal) : Fl (Fp × Pair × List Nat) :=
  let mx := maxList (xs.map (·.v))
  let ds := flMap (fun (x : RayVal) => r32 (fpSub x.v mx)) xs
  let es := flBind ds fun l => flMap (fun d => elemExp (word d) (v32 d)) l
  let s := flBind es fun l => reduceP (l.map pairOf)
  ((mx, s.1, es.1), s.2)

/-- Scale of a norm: r = rsqrt(rne32(S/n) + ε) (Table 7.5). -/
def normScale (s : Pair) (n imm : Nat) : Fl Nat :=
  flBind (r32 (fpDiv (pairVal s) (fpInt n))) fun q =>
    flBind (add32 q imm) fun t => r32 (fpRsqrt (v32 t))

/-- Output of a norm: y = x × r, then × g if a gain is given; the last rounding is to FMT_Z (R253). -/
def normOut (d : Fp) (r : Nat) (g : Option RayVal) : Fl RayOut :=
  match g with
  | none => let p := fpMul d (v32 r); (.exact p.1, p.2)
  | some y => flBind (r32 (fpMul d (v32 r))) fun b => let p := fpMul (v32 b) y.v; (.exact p.1, p.2)

/-- The terms of the active positions at their indices in the row. -/
def placeTerms : List Bool → List Pair → List (Option Pair)
  | [], _ => []
  | true :: t, p :: ps => some p :: placeTerms t ps
  | _ :: t, ps => none :: placeTerms t ps

/-- Fused operations over the active elements of a row; `ys` holds the second operand or the gain.  The terms of the norms and
of SOFTMAX are x_0 to x_{n−1} over the n active elements (R253, Table 7.5); the DOT of SOFTMAX_BWD is over the row, as R252
has it. -/
def fusedRow (op imm : Nat) (act : List Bool) (xs : List RayVal) (ys : Option (List RayVal)) : Fl (List RayOut) :=
  let gains : List (Option RayVal) := match ys with | some l => l.map some | none => xs.map fun _ => none
  match op with
  | 0x38 =>
    flBind (softParts xs) fun (_, s, es) =>
      flMap (fun e => let q := fpDiv (v32 e) (pairVal s); (RayOut.exact q.1, q.2)) es
  | 0x39 =>
    flBind (flMap (fun (x : RayVal) => mulPair x.v x.v) xs) fun sq =>
      flBind (reduceP sq) fun s =>
        flBind (normScale s xs.length imm) fun r =>
          flMap (fun (e : RayVal × Option RayVal) => normOut e.1.v r e.2) (xs.zip gains)
  | 0x3A =>
    flBind (flBind (flMap pairIn xs) reduceP) fun s1 =>
      flBind (r32 (fpDiv (pairVal s1) (fpInt xs.length))) fun mu =>
        flBind (flMap (fun (x : RayVal) => r32 (fpSub x.v (v32 mu))) xs) fun ds =>
          flBind (flMap (fun d => mulPair (v32 d) (v32 d)) ds) fun sq =>
            flBind (reduceP sq) fun s2 =>
              flBind (normScale s2 xs.length imm) fun r =>
                flMap (fun (e : Nat × Option RayVal) => normOut (v32 e.1) r e.2) (ds.zip gains)
  | _ =>
    let yl := ys.getD []
    flBind (flMap (fun (e : RayVal × RayVal) => mulPair e.1.v e.2.v) (xs.zip yl)) fun ps =>
      flBind (reduceAt (placeTerms act ps)) fun s =>
        flBind (pairTo32 s) fun d =>
          flMap (fun (e : RayVal × RayVal) =>
            flBind (r32 (fpSub e.2.v (v32 d))) fun t => let r := r32 (fpMul e.1.v (v32 t)); (RayOut.f32 r.1, r.2)) (xs.zip yl)

/-- The token loss of a row (Table 7.5, R254). -/
def lossRow (xs : List RayVal) (tgt : Option RayVal) : Fl Nat :=
  match tgt with
  | none => (nan32, flInvalid)
  | some t =>
    flBind (softParts xs) fun (mx, s, _) =>
      flBind (elemLog false (word (pairWord s)) (pairVal s)) fun lg =>
        flBind (r32 (fpAdd mx (v32 lg))) fun lse => r32 (fpSub (v32 lse) t.v)

/-- The one value of a reduction over the active elements, each at its index j of the row (R252). -/
def reduceRow (op : Nat) (act : List Bool) (xs ys : List RayVal) : Fl RayOut :=
  let p (ts : Fl (List Pair)) : Fl RayOut := flBind ts fun l => let r := reduceAt (placeTerms act l); (.pair r.1, r.2)
  match op with
  | 0x30 => p (flMap pairIn xs)
  | 0x31 => p (flMap (fun (x : RayVal) => mulPair x.v x.v) xs)
  | 0x32 => p (flMap (fun (e : RayVal × RayVal) => mulPair e.1.v e.2.v) (xs.zip ys))
  | 0x33 => (.exact (maxList (xs.map (·.v))), 0)
  | 0x34 => (.exact (minList (xs.map (·.v))), 0)
  | _ => (.exact (xs.foldl (fun a x => fpMax a (fpAbs x.v)) fpZero), 0)

/-- Result of a two-operand or one-operand element. -/
def elemRow (r : Rec) (x y : RayVal) : Fl RayOut :=
  let op := yOp r
  if isIntOp op then (.int (intOp op (intOf (ySx r) (yFx r) x) (intOf (ySy r) (yFy r) y)), 0)
  else if op = 0x18 then (.bit (fpEq x.v y.v), 0)
  else if op = 0x19 then (.bit (fpLt false x.v y.v), 0)
  else if op = 0x1A then (.bit (fpLt false x.v y.v || fpEq x.v y.v), 0)
  else flOr (ewOp op (yImm r) x y (yFz r == 8)) (readFlags (srcFmt (ySx r) (yFx r)) x
    ||| (if readsY op then readFlags (srcFmt (ySy r) (yFy r)) y else 0))

/-- What an inactive position receives (R249). -/
def inactive (r : Rec) : Option RayOut := if yMask r = 2 then some (.raw 0) else none

/-- Spreads results over the active positions of a row. -/
def spread (dead : Option RayOut) : List Bool → List RayOut → RowOut
  | [], _ => []
  | true :: t, o :: os => some o :: spread dead t os
  | true :: t, [] => none :: spread dead t []
  | false :: t, os => dead :: spread dead t os

/-- Row `i` of Z: results and, for a per-row output, one of them. -/
def rayRow (m : Mach) (f : Nat) (r : Rec) (i : Nat) : Fl RowOut :=
  let op := yOp r
  let js := List.range (yN r)
  let act := js.map (activeAt m f r i)
  let live := js.filter (activeAt m f r i)
  let xs := live.map (rayX m f r i)
  let ys := live.map (rayY m f r i)
  match rayKind op with
  | some .select =>
    let take (fm : Nat) (x : RayVal) : Fl (Option RayOut) :=
      let o := ewOp 0 0 x x false
      (some o.1, o.2 ||| readFlags fm x)
    flMap (fun j =>
      if activeAt m f r i j then take (srcFmt (ySx r) (yFx r)) (rayX m f r i j) else (inactive r, 0)) js
  | some .compress => ((xs.map fun x => some (.raw x.bits)) ++ List.replicate (yN r - live.length) none, 0)
  | some .expand =>
    (spread (inactive r) act ((List.range live.length).map fun k => .raw (rayX m f r i k).bits), 0)
  | some (.red _) | some .extreme =>
    let fl := xs.foldl (fun a x => a ||| readFlags (srcFmt (ySx r) (yFx r)) x) 0
      ||| (if readsY op then ys.foldl (fun a y => a ||| readFlags (srcFmt (ySy r) (yFy r)) y) 0 else 0)
    flOr (flBind (reduceRow op act xs ys) fun o => ([some o], 0)) fl
  | some .fused =>
    let fl := xs.foldl (fun a x => a ||| readFlags (srcFmt (ySx r) (yFx r)) x) 0
      ||| (if op = 0x3B ∨ ySy r = 5 then 0 else ys.foldl (fun a y => a ||| readFlags (srcFmt (ySy r) (yFy r)) y) 0)
    if op = 0x3B then
      let t := (rayY m f r i 0).bits
      let ok := decide (t < yN r) && activeAt m f r i t
      flOr (flBind (lossRow xs (if ok then some (rayX m f r i t) else none)) fun b => ([some (.f32 b)], 0)) fl
    else if live.isEmpty then (act.map fun _ => inactive r, 0)
    else
      flOr (flBind (fusedRow op (yImm r) act xs (if ySy r = 5 then none else some ys)) fun os =>
        (spread (inactive r) act os, 0)) fl
  | _ =>
    flBind (flMap (fun j => elemRow r (rayX m f r i j) (rayY m f r i j)) live) fun os => (spread (inactive r) act os, 0)

/-- Bits of a run of MASK1 results, those kept taken from what stands there. -/
def maskBytes (old : List Byte) (row : RowOut) : List Byte :=
  (List.range old.length).map fun b =>
    (List.range 8).foldl (fun (acc : Byte) k =>
      match row[8 * b + k]? with
      | some (some o) =>
        let v := match o with | .bit t => t | .raw x => x.testBit 0 | _ => false
        if v then acc ||| BitVec.ofNat 8 (2 ^ k) else acc &&& ~~~(BitVec.ofNat 8 (2 ^ k))
      | _ => acc) (old.getD b 0)

/-- New codes at the positions of a block that receive a value; the others keep theirs. -/
def placeCodes : RowOut → List Nat → List (Option Nat)
  | [], _ => []
  | some _ :: t, c :: cs => some c :: placeCodes t cs
  | _ :: t, cs => none :: placeCodes t cs

/-- One block of a row: its scale and the codes of the positions that receive a value.  An inactive position under ZERO counts as
a +0 of the block; one under MERGE takes no part and keeps its code, and a block without any other is not written (R249,
log entry 22). -/
def blockOut (fmt : Nat) (row : RowOut) : Fl (Option Nat × List (Option Nat)) :=
  let f := if fmt = 9 then fE4m3 else fE2m1
  let emax : Int := if fmt = 9 then 8 else 2
  let vals := row.filterMap id
  if vals.isEmpty then ((none, row.map fun _ => none), 0)
  else
    flBind (flMap (fun (o : RayOut) => match o with
      | .raw _ => (fpZero, 0)
      | o => let b := outBits 0 o; (v32 b.1, b.2)) vals) fun vs =>
      flBind (blockEnc f emax vs) fun b => ((some b.1, placeCodes row b.2), 0)

/-- Bytes of a run of codes: a byte is written where a code of it is; a nibble that keeps its contents is taken from `old`. -/
def codeBytes (nib : Bool) (old : Nat → Nat) (codes : List (Option Nat)) : List (Nat × Byte) :=
  if nib then
    (List.range (codes.length / 2)).filterMap fun k =>
      match (codes[2 * k]?).join, (codes[2 * k + 1]?).join with
      | none, none => none
      | a, b => some (k, BitVec.ofNat 8 (a.getD (old (2 * k)) + 16 * b.getD (old (2 * k + 1))))
  else ((List.range codes.length).zip codes).filterMap fun e => e.2.map fun c => (e.1, BitVec.ofNat 8 c)

/-- A run of bytes to write: offset and bytes. -/
abbrev Piece := Nat × List Byte

/-- Joins runs that touch, so that a word written whole is written at once (R461). -/
def joinPieces : List Piece → List Piece
  | [] => []
  | p :: t =>
    match joinPieces t with
    | q :: r => if p.1 + p.2.length = q.1 then (p.1, p.2 ++ q.2) :: r else p :: q :: r
    | [] => [p]

/-- Runs of bytes of a row of Z and of its scales; positions that keep their contents are not written (R249). -/
def rayRowOut (m : Mach) (f : Nat) (r : Rec) (i : Nat) (row : RowOut) : Fl (List Piece) :=
  let fz := yFz r
  let off := yZ r + 16 * yLdz r * i
  if fz = 11 then
    let bs := maskBytes (readMem m f 0 off (ceilDiv (yN r) 8)) row
    (joinPieces (((List.range bs.length).zip bs).filterMap fun e =>
      if ((row.drop (8 * e.1)).take 8).any Option.isSome then some (off + e.1, [e.2]) else none), 0)
  else if rayBlock fz then
    let sz := ySzA r + yLdsz r * i
    flBind (flMap (blockOut fz) (chunks 32 row)) fun bs =>
      let codes := codeBytes (fz == 10) (elemBits m f off (rayHalf fz)) (bs.flatMap (·.2))
      let scales := ((List.range bs.length).zip bs).filterMap fun e => e.2.1.map fun x => (e.1, BitVec.ofNat 8 x)
      (joinPieces (codes.map fun e => (off + e.1, [e.2])) ++ joinPieces (scales.map fun e => (sz + e.1, [e.2])), 0)
  else
    let n := rayHalf fz / 2
    let on := ((List.range row.length).zip row).filterMap fun e => e.2.map fun o => (e.1, o)
    flBind (flMap (fun (e : Nat × RayOut) => let b := outBits fz e.2; (((off + n * e.1, leBytes n b.1) : Piece), b.2)) on) fun ps =>
      (joinPieces ps, 0)

/-- Runs of bytes that row `i` of a finished command writes: one value at Z for a per-row output (R241). -/
def rayPieces (m : Mach) (f : Nat) (r : Rec) (i : Nat) (row : RowOut) : Fl (List Piece) :=
  if perRow (yOp r) then
    match row with
    | some o :: _ =>
      let n := rayHalf (yFz r) / 2
      let b := outBits (yFz r) o
      ([(yZ r + i * n, leBytes n b.1)], b.2)
    | _ => ([], 0)
  else rayRowOut m f r i row

/-! ### The commands -/

def rayFeet (m : Mach) (f c : Nat) : List Footprint :=
  ((facetOf m f).ray.filter fun q => q.sc == c).map fun q => rayFoot m f q.cmd

/-- Does an EXPAND, whose reads its mask counts, wait for a command that is still to write the mask (R251, R201)? -/
def maskHeld (r : Rec) (early : List Footprint) : Bool :=
  yOp r == 0x1E && rayGood r && early.any fun e => hazard e ⟨maskSpan oneSpan r, []⟩

def rayIssue (f c : Nat) (r : Rec) (j : Nat) (more : List Footprint) (m : Mach) : Mach :=
  let st := rayStatus m f j r
  if maskHeld r (rayFeet m f c ++ more) then m
  else if st ≠ 0 then failRecord f c (recTag r) st 2 rayFault (stepRec f c 0 m)
  else if 16 ≤ (facetOf m f).ray.length then m
  else if (rayFeet m f c ++ more).any fun e => hazard e (rayFoot m f r) then m
  else stepRec f c 1 (modFacet m f fun x => { x with ray := x.ray ++ [⟨c, j, r⟩] })

/-- The ray finishes the command at the head of its queue (R257). -/
def rayFinish (f : Nat) (m : Mach) : Mach :=
  match (facetOf m f).ray with
  | [] => m
  | q :: rest =>
    let r := q.cmd
    let rows := flMap (rayRow m f r) (List.range (yRows r))
    let outs := flMap (fun (e : Nat × RowOut) => rayPieces m f r e.1 e.2) ((List.range rows.1.length).zip rows.1)
    let counts := activeCounts m f r
    let ue := ueSpans m f (rayReads rowSpans r counts)
    let m := raiseUe m ue
    let m := outs.1.flatten.foldl (fun m (p : Piece) => writeChecked m f 0 p.1 p.2) m
    let m := if yOp r = 0x1D then writeChecked m f 0 (yY r) (counts.flatMap (leBytes 4)) else m
    let m := modFacet m f fun x => { x with ray := rest }
    giveWord f q.sc (recTag r) (rows.2 ||| outs.2 ||| (if ue.isEmpty then 0 else flInvalid)) (if ue.isEmpty then 0 else 0x0F) 2 m

end Sys2Proof.Machine
end

