-- ==== Sys2Proof/Machine/Versions.lean ====
section
/-!
DEFINITION. Versions (chapter 5): homes, the publish pointer, version rows and LIVE counts, tag resolution, retirement and
abandoned micro-batches (R149–R168).
-/
namespace Sys2Proof.Machine

/-- The FILL map in effect (R155). -/
def fillMap (m : Mach) (j : Nat) : Option PlaceMap := ((jobOf m j).maps[0]?).bind id

/-- Stage-context entries of a pipeline in a map. -/
def mapStages (pm : PlaceMap) (p : Nat) : List MapSc := pm.scs.filter fun e => e.pipe == p

/-- The FILL map of the sweep: at a sweep edge, between steps 3 and 4, the one that a MAP_LOAD of the edge has installed
(R157). -/
def fillNext (m : Mach) (j : Nat) : Option PlaceMap :=
  match (jobOf m j).coming.find? fun e => e.1 == 0 with
  | some e => some e.2
  | none => fillMap m j

/-- Is this module the home of the pipeline: does it hold stage 0 (R155)? -/
def isHome (m : Mach) (j p : Nat) : Bool :=
  match fillNext m j with
  | some pm => (mapStages pm p).any fun e => e.stage == 0
  | none => false

/-- Modules at the far ends of the pipeline's chords in a map, this one excluded. -/
def farModulesIn (m : Mach) (p : Nat) (pm : PlaceMap) : List Nat :=
  let mine (f c : Nat) : Bool := (mapStages pm p).any fun e => e.facet == f && e.sc == c
  (pm.chords.flatMap fun e =>
    (if e.srcModule == self m && mine e.srcFacet e.srcSc && e.dstModule != self m then [e.dstModule] else [])
      ++ (if e.dstModule == self m && mine e.dstFacet e.dstSc && e.srcModule != self m then [e.srcModule] else [])).eraseDups

/-- Modules at the far ends of the pipeline's chords, this one excluded. -/
def farModules (m : Mach) (j p : Nat) : List Nat :=
  match fillNext m j with
  | none => []
  | some pm => farModulesIn m p pm

/-- MAP_ID of the FILL map that `fillNext` names. -/
def fillId (m : Mach) (j : Nat) : Nat := ((fillNext m j).map (·.mapId)).getD 0

/-- Every other module of a pipeline under a map (R155): those at the far ends of its chords here and, where there are any, those
further on, which this module's map does not show and are free. -/
def pipeModulesIn (m : Mach) (j p : Nat) (pm : PlaceMap) : List Nat :=
  let near := farModulesIn m p pm
  if near.isEmpty then []
  else ((near ++ Config.furtherModules j p pm.mapId).filter (· != self m)).eraseDups

/-- Every other module of the pipeline. -/
def pipeModules (m : Mach) (j p : Nat) : List Nat :=
  match fillNext m j with
  | none => []
  | some pm => pipeModulesIn m j p pm

/-- The home as a destination: this module; for a stage 1 here the module that its forward chord comes from; else the
module that the pipeline's home is, which the map does not show. -/
def homeModule (m : Mach) (j p : Nat) : Option Nat :=
  if isHome m j p then some (self m)
  else match fillMap m j with
    | none => none
    | some pm =>
      if (mapStages pm p).isEmpty then none
      else
        let first : Option MapChord := pm.chords.find? fun e => e.kind == 0 && e.dstModule == self m && e.srcModule != self m
          && (mapStages pm p).any fun x => x.stage == 1 && x.facet == e.dstFacet && x.sc == e.dstSc
        match first with
        | some e => some e.srcModule
        | none => some (Config.pipelineHome j p (fillId m j))

/-! ### Locus entries -/

def locusOf (m : Mach) (f c : Nat) : Locus := (scOf m f c).locus
def modLocus (m : Mach) (f c : Nat) (g : Locus → Locus) : Mach := modSc m f c fun x => { x with locus := g x.locus }

/-- Changes every entry of every locus. -/
def mapEntries (m : Mach) (g : Nat → Nat → VerEntry → VerEntry) : Mach :=
  { m with facets := (List.range m.facets.length).zip m.facets |>.map fun (f, x) =>
      { x with scs := (List.range x.scs.length).zip x.scs |>.map fun (c, s) =>
          { s with locus := { s.locus with entries := s.locus.entries.map (g f c) } } } }

/-- Index of the entry of a locus that holds a tag in a state other than FREE (R149). -/
def entryOf (l : Locus) (vtag : Nat) : Option Nat :=
  (List.range l.entries.length).find? fun i =>
    match l.entries[i]? with
    | some e => e.state != 0 && e.vtag == vtag
    | none => false

/-- FREE, and not held for a copy in progress, whose entry leaves FREE when the copy ends (Table 5.6). -/
def entryFree (e : VerEntry) : Bool := e.state == 0 && e.busy.isEmpty

/-- First FREE entry of a locus. -/
def freeIdx (l : Locus) : Option Nat :=
  (List.range l.entries.length).find? fun i => ((l.entries[i]?).map entryFree).getD false

/-- The entry a unit resolves its tag to: READY, PUBLISHED or DRAINING (R163). -/
def resolveTag (l : Locus) (vtag : Nat) : Option VerEntry :=
  l.entries.find? fun e => e.vtag == vtag && (e.state == 2 || e.state == 3 || e.state == 4)

/-- Stage contexts of the pipeline on this module, facet and SC: those of the FILL map in effect, and those of a map that
the edge in progress has installed. -/
def pipeScs (m : Mach) (j p : Nat) : List (Nat × Nat) :=
  let of (o : Option PlaceMap) : List (Nat × Nat) :=
    match o with
    | some pm => (mapStages pm p).map fun e => (e.facet, e.sc)
    | none => []
  (of (fillMap m j) ++ of (fillNext m j)).eraseDups

/-- Changes the entries that stage contexts hold under a tag. -/
def modTagOn (scs : List (Nat × Nat)) (vtag : Nat) (g : VerEntry → VerEntry) (m : Mach) : Mach :=
  mapEntries m fun f c e => if scs.contains (f, c) && e.vtag == vtag && e.state != 0 then g e else e

/-- Changes the pipeline's entries of a tag on this module: those on its stage contexts, and those that belong to it on stage
contexts that a map has taken away (R155, R166). -/
def modTag (j p vtag : Nat) (g : VerEntry → VerEntry) (m : Mach) : Mach :=
  let scs := pipeScs m j p
  mapEntries m fun f c e =>
    if (scs.contains (f, c) || (e.job == j && e.pipe == p)) && e.vtag == vtag && e.state != 0 then g e else e

/-- Does every locus of the pipeline on this module hold the tag READY or PUBLISHED with BAD 0 (R157)? -/
def locallyReady (m : Mach) (scs : List (Nat × Nat)) (vtag : Nat) : Bool :=
  scs.all fun (f, c) => (locusOf m f c).entries.any fun e => e.vtag == vtag && (e.state == 2 || e.state == 3) && !e.bad

/-- An entry leaves for FREE: a REF source loses a reference (R153). -/
def freeEntry (f c i : Nat) (m : Mach) : Mach :=
  match (locusOf m f c).entries[i]? with
  | none => m
  | some e =>
    let m := modLocus m f c fun l => { l with entries := l.entries.set i VerEntry.init }
    if e.source = 3 then
      modLocus m f e.srcSc fun l => { l with entries := l.entries.map fun x =>
        if x.vtag == e.srcTag && x.state != 0 then { x with refs := x.refs - 1 } else x }
    else m

/-! ### Locus tables as bytes (R146, Tables 5.1–5.5) -/

def headerBits (l : Locus) : Nat :=
  l.gather.length * 2 ^ 26 + l.nLayers * 2 ^ 31 + l.keepTag * 2 ^ 40 + l.keepBudget * 2 ^ 52 + l.keepBase * 2 ^ 74
    + l.xferSize * 2 ^ 96 + l.autoBase0 * 2 ^ 118 + l.autoBase1 * 2 ^ 140 + l.autoSpace * 2 ^ 162

def gatherBits (g : Nat × Nat × Nat) : Nat := 2 ^ 10 + g.2.2 * 2 ^ 11 + g.2.1 * 2 ^ 13 + g.1 * 2 ^ 20

def entryBits (e : VerEntry) : Nat :=
  e.state + b2n e.bad * 2 ^ 3 + b2n e.pend * 2 ^ 4 + b2n e.hold * 2 ^ 5 + e.pipe * 2 ^ 6 + e.vtag * 2 ^ 8
    + e.refs * 2 ^ 344 + e.srcTag * 2 ^ 349 + e.srcSc * 2 ^ 357 + e.source * 2 ^ 359 + e.space * 2 ^ 361
    + e.base * 2 ^ 362 + e.size * 2 ^ 384 + e.sealTick * 2 ^ 416 + e.crc.toNat * 2 ^ 480

def layerBits (y : LocusLayer) : Nat := b2n y.kept + y.offset * 2 ^ 18 + y.size * 2 ^ 40 + b2n y.gathered * 2 ^ 62

/-- The 4 KiB of a locus table. -/
def locusBytes (l : Locus) : List Byte :=
  let body := leBytes 64 (headerBits l) ++ l.gather.flatMap (fun g => leBytes 4 (gatherBits g))
    ++ List.replicate (64 - 4 * l.gather.length) 0 ++ l.entries.flatMap (fun e => leBytes 64 (entryBits e))
    ++ l.layers.flatMap fun y => leBytes 8 (layerBits y)
  (body ++ List.replicate (4096 - body.length) 0).take 4096

/-! ### Home rows and LIVE (R155, R162) -/

def modRows (m : Mach) (j p : Nat) (g : VerRow → VerRow) (vtag : Nat) : Mach :=
  modPipe m j p fun x => { x with rows := x.rows.map fun r => r.map fun y => if y.vtag == vtag then g y else y }

def liveOf (m : Mach) (j p vtag : Nat) : Nat :=
  match (pipeOf m j p).rows.find? fun r => (r.map (·.vtag)) == some vtag with
  | some (some r) => r.live
  | _ => 0

/-- Puts a row for a tag into the first free row, else in place of a tag that only waits to be published again, unless one is
there.  DESIGN CHOICE, log entry 76: a tag's row begins when the tag is published, and stays while a stage context here holds the
tag; the spec says neither. -/
def ensureRow (j p : Nat) (r : VerRow) (m : Mach) : Mach :=
  let rows := (pipeOf m j p).rows
  let place (ok : Option VerRow → Bool) : Option Nat := (List.range rows.length).find? fun i => ok ((rows[i]?).getD none)
  if rows.any fun x => (x.map (·.vtag)) == some r.vtag then modRows m j p (fun y => { y with state := r.state, hold := r.hold }) r.vtag
  else
    match (place fun x => x == none).or (place fun x => (x.map (·.state)) == some 2) with
    | some i => modPipe m j p fun x => { x with rows := x.rows.set i (some r) }
    | none => modPipe m j p fun x => { x with rows := x.rows ++ [some r] }

/-- R165: a DRAINING tag whose LIVE is 0 is retired on every module of the pipeline. -/
def retireTag (j p vtag : Nat) (m : Mach) : Mach :=
  let m := raise m verRetired (srcUnit 4) (some j) [p, vtag, m.tick.tickNo]
  let m := modTag j p vtag (fun e => if e.state == 4 then { e with retired := true } else e) m
  forAll (pipeModules m j p) (fun m d => sendMsg m d (.verRetire j p vtag m.tick.tickNo)) m

/-- LIVE of a tag falls by one (R162); at 0 a DRAINING tag retires (R165). -/
def liveDown (j p vtag : Nat) (m : Mach) : Mach :=
  if liveOf m j p vtag = 0 then m
  else
    let m := modRows m j p (fun r => { r with live := r.live - 1 }) vtag
    let draining := (pipeOf m j p).rows.any fun r => match r with
      | some y => y.vtag == vtag && y.state == 4 && y.live == 0
      | none => false
    if draining then retireTag j p vtag m else m

/-- LIVE of a tag rises by one at admission. -/
def liveUp (j p vtag : Nat) (m : Mach) : Mach := modRows m j p (fun r => { r with live := r.live + 1 }) vtag

/-- Tag of a micro-batch that is live at the home, by its id: one still in the pipeline's record of admissions. -/
def liveTag (m : Mach) (j p id : Nat) : Option Nat :=
  (((pipeOf m j p).liveMbs.find? fun e => e.1 == id)).map (·.2)

/-- A micro-batch's last unit completes, at the home (R162, R299). -/
def lastUnitAt (j p vtag id : Nat) (m : Mach) : Mach :=
  let len := (((pipeOf m j p).admitted.find? fun a => a.1 == id).map (·.2.1)).getD 0
  let m := modPipe m j p fun x => { x with
    liveMbs := x.liveMbs.filter fun e => e.1 != id
    tokensDone := x.tokensDone + len
    mbDone := x.mbDone + 1 }
  liveDown j p vtag m

/-- A last unit, reported to the home where this module is not it. -/
def lastUnit (j p vtag id : Nat) (m : Mach) : Mach :=
  if isHome m j p then lastUnitAt j p vtag id m
  else match homeModule m j p with
    | some d => sendMsg m d (.verLastUnit j p vtag id)
    | none => m

/-- Micro-batches of a list that are not abandoned yet. -/
def freshMbs (m : Mach) (j p : Nat) (ids : List Nat) : List Nat :=
  (ids.filter fun id => !(pipeOf m j p).abandoned.contains id).eraseDups

/-- Units of these micro-batches are bubbles from now on, and their token losses are not counted (R229). -/
def markLost (j p : Nat) (ids : List Nat) (m : Mach) : Mach :=
  let m := modPipe m j p fun x => { x with
    abandoned := x.abandoned ++ ids
    lostAt := (x.lostAt.filter fun e => !ids.contains e.1) ++ ids.map fun id => (id, m.tick.tickNo)
    liveMbs := x.liveMbs.filter fun e => !ids.contains e.1
    mbLoss := x.mbLoss.filter fun e => !ids.contains e.1 }
  forAll (pipeScs m j p) (fun m (f, c) => modSc m f c fun x => { x with
    tokLoss := x.tokLoss.filter fun t => !ids.contains (t.1 / 8) }) m

/-- Abandons micro-batches at the home (R164, R112): LIVE falls at once, later units are bubbles, and the pipeline's other modules
are told. -/
def abandonAt (j p : Nat) (ids : List Nat) (m : Mach) : Mach :=
  let lost := freshMbs m j p ids
  if lost.isEmpty then m
  else
    let tags := lost.filterMap (liveTag m j p)
    let m := forAll tags (fun m v => liveDown j p v m) (markLost j p lost m)
    forAll (pipeModules m j p) (fun m d => sendMsg m d (.mbLost j p lost)) m

/-- Abandons micro-batches from any module of the pipeline. -/
def abandonMb (j p : Nat) (ids : List Nat) (m : Mach) : Mach :=
  if isHome m j p then abandonAt j p ids m
  else
    let m := markLost j p (freshMbs m j p ids) m
    match homeModule m j p with
    | some d => sendMsg m d (.mbLost j p ids)
    | none => m

/-- MB_LOST arrives: at the home from another module, elsewhere from the home. -/
def mbLostOp (j p : Nat) (ids : List Nat) (m : Mach) : Mach :=
  if isHome m j p then abandonAt j p ids m else markLost j p (freshMbs m j p ids) m

/-! ### Publishing (R160, R161) -/

/-- Entries of a module follow a move of the publish pointer: READY ones of the new tag are PUBLISHED, PUBLISHED ones of the old tag
drain (Table 5.6). -/
def switchTags (j p new old : Nat) (hasOld keep : Bool) (m : Mach) : Mach :=
  let m := modTag j p new (fun e => if e.state == 2 || e.state == 3 then { e with state := 3, pend := false, retired := false } else e) m
  if hasOld && old != new then
    modTag j p old (fun e => if e.state == 3 then { e with state := 4, hold := keep, retired := false } else e) m
  else m

/-- Tells other modules of a move of the publish pointer, unless they have been told of it before its edge (R160). -/
def tellSwitch (j p : Nat) (mv : Nat × Nat × Nat × Bool) (mods : List Nat) (m : Mach) : Mach :=
  if (pipeOf m j p).told.contains mv then m
  else forAll mods (fun m d => sendMsg m d (.verSwitch j p mv.2.1 mv.2.2.1 mv.2.2.2 mv.1))
    (modPipe m j p fun x => { x with told := (x.told.filter fun t => decide (mv.1 ≤ t.1)) ++ [mv] })

/-- The home moves the publish pointer (R160). -/
def publish (j p vtag : Nat) (keep : Bool) (m : Mach) : Mach :=
  let old := (pipeOf m j p).pub
  let m := switchTags j p vtag (old.getD 0) old.isSome keep m
  let m := modPipe m j p fun x => { x with pub := some vtag }
  let m := ensureRow j p ⟨vtag, 3, false, 0⟩ m
  let m := match old with
    | some o => if o = vtag then m else modRows m j p (fun r => { r with state := 4, hold := keep }) o
    | none => m
  let m := tellSwitch j p (m.tick.tickNo, vtag, old.getD vtag, keep) (pipeModules m j p) m
  match old with
  | some o => if o ≠ vtag ∧ liveOf m j p o = 0 then retireTag j p o m else m
  | none => m

/-! ### Commands of other modules -/

/-- Queried entries carry PEND until the named sweep's edge (R159). -/
def markPend (scs : List (Nat × Nat)) (vtag sweep : Nat) (m : Mach) : Mach :=
  modTagOn scs vtag (fun e => { e with pend := true, pendTill := max e.pendTill sweep }) m

/-- Takes a module's first open query for a tag off the list: the sweep of its check. -/
def takeAsked (src vtag : Nat) (l : List (Nat × Nat × Option Nat)) : Option Nat × List (Nat × Nat × Option Nat) :=
  match l.find? fun a => a.1 == src && a.2.1 == vtag with
  | some a => (a.2.2, l.erase a)
  | none => (none, l)

/-- VER_REPLY arrives at the home (R157): it answers the sender's oldest open query for the tag.  One that comes less than 2 µs
before the edge of the sweep does not count. -/
def verReplyOp (src j p vtag : Nat) (ready : Bool) (m : Mach) : Mach :=
  let a := takeAsked src vtag (pipeOf m j p).asked
  let late (s : Nat) : Bool := nearSweepEdge m && decide (s ≤ m.tick.sweepNo + 1)
  modPipe m j p fun x => { x with
    asked := a.2
    checks := x.checks.map fun c =>
      if c.tag == vtag && a.1 == some c.sweep && !late c.sweep then
        { c with ready := c.ready.filter (· != src) ++ (if ready then [src] else []) }
      else c }

/-- KEEP_TAG takes the value of the publish pointer; a change invalidates the kept layers (R179). -/
def setKeepTag (t : Nat) (m : Mach) (sc : Nat × Nat) : Mach :=
  modLocus m sc.1 sc.2 fun l => if l.keepTag = t then l else { l with keepTag := t, keptValid := [] }

/-- A move of the publish pointer, on a module that is not the home. -/
def takeSwitch (j p new old : Nat) (keep : Bool) (m : Mach) : Mach :=
  forAll (pipeScs m j p) (setKeepTag new) (switchTags j p new old (old != new) keep m)

/-- VER_SWITCH arrives (R160): the entries follow at step 3 of the edge that it names, or now where that edge has been. -/
def verSwitchOp (j p new old : Nat) (keep : Bool) (edge : Nat) (m : Mach) : Mach :=
  if m.tick.running && decide (m.tick.tickNo < edge) then
    modPipe m j p fun x => { x with switches := x.switches ++ [(edge, new, old, keep)] }
  else takeSwitch j p new old keep m

/-- Step 3: moves of the publish pointer that the homes announced for this edge. -/
def dueSwitches (m : Mach) : Mach :=
  forAll ((List.range 16).flatMap fun j => (List.range 4).map fun p => (j, p)) (fun m (j, p) =>
    let due := (pipeOf m j p).switches.filter fun e => decide (e.1 ≤ m.tick.tickNo)
    if due.isEmpty then m
    else forAll due (fun m e => takeSwitch j p e.2.1 e.2.2.1 e.2.2.2 m)
      (modPipe m j p fun x => { x with switches := x.switches.filter fun e => decide (m.tick.tickNo < e.1) })) m

/-- VER_RETIRE arrives (R165, R166). -/
def verRetireOp (j p vtag : Nat) (m : Mach) : Mach :=
  modTag j p vtag (fun e => if e.state == 4 then { e with retired := true } else e) m

/-- R166: DRAINING entries leave at a tick edge once retired, unreferenced and not read by the snapshot engine. -/
def leaveDraining (m : Mach) : Mach :=
  forAll ((List.range m.facets.length).flatMap fun f => (List.range 4).flatMap fun c =>
      (List.range (locusOf m f c).entries.length).filterMap fun i =>
        match (locusOf m f c).entries[i]? with
        | some e => if e.state == 4 && e.retired && e.refs == 0 && !e.snapHeld then some (f, c, i) else none
        | none => none)
    (fun m (f, c, i) =>
      match (locusOf m f c).entries[i]? with
      | some e =>
        let m :=
          if e.hold then modLocus m f c fun l => { l with entries := l.entries.modify i fun y => { y with state := 2, hold := false, retired := false } }
          else freeEntry f c i m
        -- the home's row follows its entries
        modPipe m e.job e.pipe fun x => { x with rows := x.rows.map fun r => match r with
          | some y => if y.vtag == e.vtag && y.state == 4 then (if e.hold then some { y with state := 2, hold := false } else none) else r
          | none => none }
      | none => m) m

def execVerReply (src j p vtag : Nat) (ready : Bool) (_n : Nat) (s : State) : Res :=
  actReady (decide (j < 16 ∧ p < 4)) (verReplyOp src j p vtag ready) s
def execVerSwitch (j p new old : Nat) (keep : Bool) (edge : Nat) (s : State) : Res :=
  actReady (decide (j < 16 ∧ p < 4)) (verSwitchOp j p new old keep edge) s
def execVerLastUnit (j p vtag id : Nat) (s : State) : Res :=
  actReady (decide (j < 16 ∧ p < 4)) (lastUnitAt j p vtag id) s
def execVerRetire (j p vtag _tick : Nat) (s : State) : Res :=
  actReady (decide (j < 16 ∧ p < 4)) (verRetireOp j p vtag) s
end Sys2Proof.Machine
end

