-- ==== Sys2Proof/Machine/Chords.lean ====
section
/-!
DEFINITION. Chords and arc queues (R110–R123): entries sent and committed, credits, losses, the exchange between the two
ends, and the change of chords at a map change.
-/
namespace Sys2Proof.Machine

/-! ### The two ends -/

/-- Entries of the queue (R115). -/
def chordDepth (e : MapChord) : Nat := if e.depth = 0 then 4 else e.depth

def hasProducer (e : MapChord) : Bool := tb e.ends 0
def hasConsumer (e : MapChord) : Bool := tb e.ends 1

/-- A chord in effect, by number (R110). -/
def chordBy (m : Mach) (n : Nat) : Option Chord := m.chords.find? fun c => c.e.chord == n

def modChord (m : Mach) (n : Nat) (g : Chord → Chord) : Mach :=
  { m with chords := m.chords.map fun c => if c.e.chord == n then g c else c }

/-- Pipeline of a chord: that of its stage context in the FILL map. -/
def chordPipe (m : Mach) (c : Chord) : Nat :=
  match fillMap m c.job with
  | none => 0
  | some pm =>
    ((pm.scs.find? fun e =>
      (hasProducer c.e && e.facet == c.e.srcFacet && e.sc == c.e.srcSc)
        || (hasConsumer c.e && e.facet == c.e.dstFacet && e.sc == c.e.dstSc)).map (·.pipe)).getD 0

/-- Stage of a stage context in the FILL map. -/
def stageAt (m : Mach) (j f c : Nat) : Option MapSc :=
  (fillMap m j).bind fun pm => pm.scs.find? fun e => e.facet == f && e.sc == c

/-- Consumer ends and producer ends that lie here. -/
def consumesHere (m : Mach) (e : MapChord) : Bool := hasConsumer e && e.dstModule == self m
def producesHere (m : Mach) (e : MapChord) : Bool := hasProducer e && e.srcModule == self m

/-- One more than the largest stage of a pipeline in a map. -/
def topStage (pm : PlaceMap) (p : Nat) : Nat := (mapStages pm p).foldl (fun a e => max a (e.stage + 1)) 0

/-- Stages of the pipeline on this module: one more than the largest (Table 4.13, cause 3). -/
def pipeLen (m : Mach) (j p : Nat) : Nat := match fillMap m j with | none => 0 | some pm => topStage pm p

/-- Pipeline of which a chord of a map is the return chord (R142): KIND 0, from the last stage into stage 0.  Of an end on
another module the map says no stage: a chord into stage 0 from there counts as one, and for a chord to there
`Config.endsAtFirst` says it when the pipeline's stage 0 is not here.  Log entry 73. -/
def returnPipe (m : Mach) (j : Nat) (pm : PlaceMap) (e : MapChord) : Option Nat :=
  let src := pm.scs.find? fun x => x.facet == e.srcFacet && x.sc == e.srcSc
  let dst := pm.scs.find? fun x => x.facet == e.dstFacet && x.sc == e.dstSc
  let away (x : MapSc) : Bool := pm.chords.any fun y =>
    y.kind == 0 && producesHere m y && y.dstModule != self m && y.srcFacet == x.facet && y.srcSc == x.sc
  if e.kind ≠ 0 then none
  else if consumesHere m e then
    match dst with
    | some d =>
      let last := if producesHere m e then src.any fun x => x.pipe == d.pipe && x.stage + 1 == topStage pm d.pipe && !away x else true
      if d.stage = 0 ∧ last then some d.pipe else none
    | none => none
  else if producesHere m e then
    match src with
    | some x =>
      if x.stage + 1 = topStage pm x.pipe ∧ (mapStages pm x.pipe).all (fun y => y.stage != 0)
          ∧ Config.endsAtFirst j pm.mapId e.chord = true then some x.pipe else none
    | none => none
  else none

/-- Does a pipeline go on to another module from its highest stage here? -/
def goesOn (m : Mach) (j : Nat) (pm : PlaceMap) (p : Nat) : Bool :=
  pm.chords.any fun e => e.kind == 0 && producesHere m e && e.dstModule != self m && (returnPipe m j pm e).isNone
    && (mapStages pm p).any fun x => x.stage + 1 == topStage pm p && x.facet == e.srcFacet && x.sc == e.srcSc

/-- S: stages of the pipeline on every module (R103, R133).  Log entry 73. -/
def stageTotal (m : Mach) (j p : Nat) (o : Option PlaceMap) : Nat :=
  match o with
  | none => 0
  | some pm => topStage pm p + if goesOn m j pm p then 1 + Config.stagesBeyond j p pm.mapId else 0

/-- S of the FILL map in effect. -/
def pipeStages (m : Mach) (j p : Nat) : Nat := stageTotal m j p (fillMap m j)

/-- The pipeline's return chord (R142). -/
def isReturn (m : Mach) (c : Chord) : Bool :=
  match fillMap m c.job with
  | some pm => (returnPipe m c.job pm c.e).isSome
  | none => false

/-- Chords that leave a stage context, of a kind, the return chord told apart. -/
def outChords (m : Mach) (f c kind : Nat) (ret : Bool) : List Chord :=
  m.chords.filter fun x => hasProducer x.e && x.e.srcFacet == f && x.e.srcSc == c && x.e.kind == kind
    && isReturn m x == ret

/-- Chords that enter a stage context. -/
def inChords (m : Mach) (f c kind : Nat) (ret : Bool) : List Chord :=
  m.chords.filter fun x => hasConsumer x.e && x.e.dstFacet == f && x.e.dstSc == c && x.e.kind == kind
    && isReturn m x == ret

/-! ### Headers (Table 4.3) -/

/-- The 64 bytes of a header. -/
def headerOf (mb : MbInfo) (seq chord payload : Nat) : BitVec 512 :=
  BitVec.ofNat 512 (mb.mbId % 2 ^ 24 + mb.vtag * 2 ^ 24 + mb.len * 2 ^ 32 + mb.cost * 2 ^ 52 + mb.slice * 2 ^ 58
    + (mb.nslice - 1) * 2 ^ 61 + b2n mb.back * 2 ^ 64 + mb.pipe * 2 ^ 66 + mb.job * 2 ^ 68 + seq * 2 ^ 80
    + chord * 2 ^ 96 + payload * 2 ^ 128 + mb.admitTick * 2 ^ 192)

/-- The unit a header names, with its SEQ and chord number. -/
def headerMb (h : Nat) : MbInfo × Nat × Nat :=
  (⟨bf h 23 0, bf h 31 24, bf h 51 32, bf h 57 52, bf h 60 58, bf h 63 61 + 1, bf h 71 68, bf h 67 66, bf h 255 192,
    tb h 64⟩, bf h 95 80, bf h 105 96)

/-! ### Sending (R117) -/

/-- Offset of header slot `seq` in the arc-queue window. -/
def hdrOffset (e : MapChord) (seq : Nat) : Nat := e.hdrBase * 4096 + 256 * (seq % chordDepth e)

/-- Is a link up? -/
def linkIsUp (m : Mach) (l : Nat) : Bool := (linkOf m l).state == 2

/-- Operations to the module that left on another link than its route now names and have not been answered (R433); a chord's
entries go by their own link. -/
def routeBusy (m : Mach) (dst k : Nat) : Bool :=
  m.flights.any fun fl => fl.chord.isNone && (latOf fl.req.laddr.toNat).mod == dst && fl.state == .requested && (match fl.via with
    | some v => v != k
    | none => false)

/-- Link of a remote operation: the chord's link for a write of a chord's entry (R113, R114), LINK_ROUTE for any other. -/
def flightLink (m : Mach) (fl : Flight) : Option Nat :=
  match fl.chord with
  | some n => (chordBy m n).map (·.e.link)
  | none => routeOf m (latOf fl.req.laddr.toNat).mod

/-- A flight is a chord's header write. -/
def isHeader (fl : Flight) : Bool :=
  match fl.issuer, fl.dest with
  | .sc _ _, some _ => true
  | _, _ => false

/-- Is an operation a tally operation of Table 9.4: TADD or TREAD? -/
def isTallyOp (fl : Flight) : Bool := fl.req.op == 0x38 || fl.req.op == 0x39

/-- The message that carries an operation to another module (Table 14.6): the writes of a chord's entry are CHORD_WRITEs, tally
operations, which go over the control channel (R284), are TALLYs, a TREAD's without an operand (log entry 79). -/
def flightMsg (m : Mach) (fl : Flight) : Instr :=
  let l := latOf fl.req.laddr.toNat
  match fl.chord with
  | some n => .chordWrite l.facet l.off fl.req.data (some ⟨self m, fl.opid, l.space, n⟩)
  | none =>
    if isTallyOp fl then
      .tally (self m) fl.opid fl.req.laddr fl.req.mod (if fl.req.op = 0x38 then some (BitVec.ofNat 32 (leNat fl.req.data)) else none)
    else .req fl.opid (some (self m, fl.req))

/-- Must an operation to another module let an earlier one go first: one of the same strand to the same die that waits or is under
way on the other channel (R280), or one of the same chord that waits or left on another link (R111)? -/
def behindEarlier (m : Mach) (fl : Flight) (k : Nat) : Bool :=
  let l := latOf fl.req.laddr.toNat
  m.flights.any fun g =>
    let d := latOf g.req.laddr.toNat
    decide (g.opid < fl.opid) && d.mod == l.mod
      && ((match fl.issuer with | .strand .. => true | _ => false) && fl.chord.isNone && g.chord.isNone && g.issuer == fl.issuer
            && d.facet == l.facet && (g.state == .waiting || (g.state == .requested && isTallyOp g != isTallyOp fl))
          || fl.chord.isSome && g.chord == fl.chord && (g.state == .waiting || (g.state == .requested && g.via != some k)))

/-- Puts a remote operation on its way: one on the panel is in flight at once; one to another module waits while the link
is down (R114, R289) or while its old route drains (R433). -/
def sendFlight (fl : Flight) (m : Mach) : Mach :=
  let dst := (latOf fl.req.laddr.toNat).mod
  let add (st : FlightState) (v : Option Nat) (m : Mach) : Mach := { m with flights := m.flights ++ [{ fl with state := st, via := v }] }
  if dst = self m then add .requested none m
  else
    match flightLink m fl with
    | none => add .waiting none m
    | some k =>
      if linkIsUp m k && (fl.chord.isSome || !routeBusy m dst k) && !behindEarlier m fl k then
        sendKeyed (add .requested (some k) m) k dst (fl.chord.getD 0) (flightMsg m fl)
      else add .waiting none m

/-- A flight at its place by operation number, which is the order of issue. -/
def insertFlight (fl : Flight) : List Flight → List Flight
  | [] => [fl]
  | g :: t => if fl.opid < g.opid then fl :: g :: t else g :: insertFlight fl t

/-- Operations that waited are tried again, in the order of their issue (R280). -/
def flushWaiting (m : Mach) : Mach :=
  let w := (m.flights.filter fun fl => fl.state == .waiting).foldr insertFlight []
  forAll w (fun m fl => sendFlight fl { m with flights := m.flights.filter fun x => x.opid != fl.opid }) m

/-- Is a chord open for entries: not closed by a mismatch and, between modules, compared with its far end (R113)?  Until then
credits and entries that still arrive are those of the chord that stood before (R123; log entry 74). -/
def chordOpen (c : Chord) : Bool := !c.closed && (c.e.srcModule == c.e.dstModule || c.checked)

/-- Has the producer a credit? -/
def hasCredit (m : Mach) (e : MapChord) : Bool := tallyGet m e.srcFacet e.creditTally != 0

/-- A wait for credit ends: STALL of Table 4.14 counts the time waited. -/
def endWait (n : Nat) (m : Mach) : Mach :=
  match chordBy m n with
  | none => m
  | some c =>
    if c.waitFrom.isNone then m
    else
      let m := modPipe m c.job (chordPipe m c) fun p => { p with stats := { p.stats with
        stall := p.stats.stall + (m.now - c.waitAt) } }
      modChord m n fun c => { c with waitFrom := none, waitRaised := false }

/-- A wait for credit begins, or goes on. -/
def beginWait (n : Nat) (m : Mach) : Mach :=
  modChord m n fun c => { c with
    waitFrom := some (c.waitFrom.getD m.edges), waitAt := if c.waitFrom.isSome then c.waitAt else m.now }

/-- Step 1 of R117: the credit tally falls by one for the next entry, before its payload and its header; none while there is no
credit or other entries wait for it. -/
def takeCredit (n : Nat) (m : Mach) : Option Mach :=
  match chordBy m n with
  | none => none
  | some c =>
    if c.reserved then some m
    else if chordOpen c && c.waiting.isEmpty && hasCredit m c.e then
      let m := tallySet m c.e.srcFacet c.e.creditTally (tallyGet m c.e.srcFacet c.e.creditTally - 1)
      some (modChord (endWait n m) n fun c => { c with reserved := true })
    else none

/-- Step 2 of R117: a write of `bytes` by a stage context into the payload ring of a chord that it produces goes to payload slot
SEQ mod depth of the next entry, at its own place within a slot: the chord and the address (log entry 74). -/
def payloadTarget (m : Mach) (f c : Nat) (l : Lat) (bytes : Nat) : Option (Nat × Lat) :=
  let hit (x : Chord) : Bool :=
    let e := x.e
    hasProducer e && e.srcFacet == f && e.srcSc == c && e.dstModule == l.mod && e.dstFacet == l.facet
      && e.payloadSpace == l.space && decide (e.payloadBase * 4096 ≤ l.off)
      && decide (l.off + bytes ≤ e.payloadBase * 4096 + e.payloadSize * chordDepth e)
  match m.chords.find? hit with
  | none => none
  | some x =>
    let ofs := (l.off - x.e.payloadBase * 4096) % x.e.payloadSize
    if x.e.payloadSize < ofs + bytes then none
    else some (x.e.chord, { l with off := x.e.payloadBase * 4096 + x.e.payloadSize * (x.txSeq % chordDepth x.e) + ofs })

/-- What a write may do by R117: go to its address, as a write of a chord's payload where one is named, or wait for credit of a
chord. -/
inductive PayloadCase where
  | go (l : Lat) (chord : Option Nat) (m : Mach)
  | wait (chord : Nat)

/-- A write of a stage context: into a payload ring it takes the entry's credit first, goes to the entry's slot and counts. -/
def payloadWrite (m : Mach) (f c : Nat) (l : Lat) (bytes : Nat) : PayloadCase :=
  match payloadTarget m f c l bytes with
  | none => .go l none m
  | some (n, l) =>
    match takeCredit n m with
    | none => .wait n
    | some m => .go l (some n) (modChord m n fun c => { c with paid := c.paid + bytes })

/-- Sends one entry whose credit is taken (R117 step 3): the header's write sets out. -/
def launchEntry (n : Nat) (mb : MbInfo) (m : Mach) : Mach :=
  match chordBy m n with
  | none => m
  | some c =>
    let e := c.e
    let h := headerOf mb c.txSeq n (c.paid % 2 ^ 32)
    let m := modChord m n fun c => { c with
      txSeq := (c.txSeq + 1) % 65536, sent := c.sent ++ [(c.txSeq, mb.mbId)], reserved := false, paid := 0 }
    if e.dstModule = self m then
      { m with
        chordNet := m.chordNet ++ [⟨e.dstFacet, hdrOffset e c.txSeq, h, e.srcFacet, e.srcSc, false, m.nextOp⟩]
        nextOp := m.nextOp + 1 }
    else
      let a := latAddr ⟨e.dstModule, e.dstFacet, 3, hdrOffset e c.txSeq⟩
      let req : RemoteReq := ⟨word a, 0x33, 0, 64, leBytes 64 h.toNat, 0⟩
      let fl : Flight :=
        { opid := m.nextOp, issuer := .sc e.srcFacet e.srcSc, job := c.job, req := req, dest := some n, localOfs := 0,
          isWrite := true, sentAt := m.now, state := .requested, word := none, via := none, chord := some n, pc := 0,
          orphan := false, ue := false, stale := false }
      sendFlight fl { m with nextOp := m.nextOp + 1 }

/-- An entry is ready at the producer: it is sent, or waits for credit behind those that wait (R117 step 1). -/
def sendEntry (n : Nat) (mb : MbInfo) (m : Mach) : Mach :=
  match chordBy m n with
  | none => m
  | some c =>
    let m := modRun m c.e.srcFacet c.e.srcSc fun r => { r with sends := r.sends ++ [n] }
    match takeCredit n m with
    | some m => launchEntry n mb m
    | none => modChord (beginWait n m) n fun c => { c with waiting := c.waiting ++ [mb] }

/-- Sends what waits while there is credit; where a payload's write alone waits, the wait ends with the credit. -/
def serveWaiting (fuel n : Nat) (m : Mach) : Mach :=
  match fuel with
  | 0 => m
  | k + 1 =>
    match chordBy m n with
    | none => m
    | some c =>
      match c.waiting with
      | [] => if chordOpen c && hasCredit m c.e then endWait n m else m
      | mb :: t =>
        if !chordOpen c || !hasCredit m c.e then m
        else
          let m := tallySet m c.e.srcFacet c.e.creditTally (tallyGet m c.e.srcFacet c.e.creditTally - 1)
          let m := modChord (endWait n m) n fun c => { c with waiting := t }
          serveWaiting k n (launchEntry n mb (if t.isEmpty then m else beginWait n m))

/-- Credits reach the producer (R120): those of a removed or restarted chord are dropped (R123). -/
def addCredit (n cnt : Nat) (m : Mach) : Mach :=
  match chordBy m n with
  | none => m
  | some c =>
    if !chordOpen c || !hasProducer c.e then m
    else
      let m := tallyAddN m c.e.srcFacet c.e.creditTally cnt
      serveWaiting 32 n (modChord m n fun c => { c with sent := c.sent.drop cnt })

/-- The consumer returns credits: over the spoke network on the panel, else over the control virtual channel of the chord's
link (R113, R120). -/
def returnCredit (n cnt : Nat) (m : Mach) : Mach :=
  match chordBy m n with
  | none => m
  | some c => if c.e.srcModule = self m then addCredit n cnt m else sendOn m c.e.link c.e.srcModule (.credit n cnt)

/-! ### Committing (R118, R119, R121) -/

/-- The consumer takes the head of a chord's queue: the ready tally falls by one (R119). -/
def takeHead (n : Nat) (m : Mach) : Mach :=
  match chordBy m n with
  | none => m
  | some c =>
    let m := tallySet m c.e.dstFacet c.e.readyTally (tallyGet m c.e.dstFacet c.e.readyTally - 1)
    modChord m n fun c => { c with queue := c.queue.drop 1, taken := c.taken + 1 }

/-- The consumer releases a taken entry (R120). -/
def releaseEntry (n : Nat) (m : Mach) : Mach :=
  match chordBy m n with
  | none => m
  | some c => if c.taken = 0 then m else returnCredit n 1 (modChord m n fun c => { c with taken := c.taken - 1 })

/-- The head entry, if it is visible and the ready tally is above 0. -/
def visibleHead (m : Mach) (c : Chord) : Option MbInfo :=
  match c.queue with
  | x :: _ => if x.visible && tallyGet m c.e.dstFacet c.e.readyTally != 0 then some x.mb else none
  | [] => none

/-- Entries become visible: all that are committed (R118). -/
def showQueue (n : Nat) (m : Mach) : Mach :=
  match chordBy m n with
  | none => m
  | some c =>
    let k := (c.queue.filter fun x => !x.visible).length
    let m := tallyAddN m c.e.dstFacet c.e.readyTally k
    modChord m n fun c => { c with queue := c.queue.map fun x => { x with visible := true } }

/-- The producer abandons the micro-batches of lost and dropped entries (R112). -/
def chordLossOp (n first cnt dropped : Nat) (m : Mach) : Mach :=
  match chordBy m n with
  | none => m
  | some c =>
    let lost (s : Nat) : Bool := decide ((s + 65536 - first) % 65536 < cnt) || s == dropped
    let ids := (c.sent.filter fun p => lost p.1).map (·.2)
    if ids.isEmpty then m else abandonMb c.job (chordPipe m c) ids.eraseDups m

/-- A side that waits for an entry of a WAVE chord becomes a bubble; a slot that holds nothing else ends. -/
def dropWave (f c dir : Nat) (m : Mach) : Mach :=
  modSc m f c fun x => { x with run := x.run.bind fun r =>
    let w := r.waves.filter fun e => e.1 != dir
    if w.isEmpty && r.units.isEmpty then none else some { r with waves := w } }

/-- An entry with an unexpected SEQ (R111, R112): a WAVE side that waits for it becomes a bubble. -/
def seqError (n seq : Nat) (m : Mach) : Mach :=
  match chordBy m n with
  | none => m
  | some c =>
    let m := raise m chordSeqEv (srcFacet c.e.dstFacet 1) (some c.job) [n, c.rxSeq, seq]
    let m := if c.e.mode = 1 then dropWave c.e.dstFacet c.e.dstSc c.e.kind m else m
    let d := (seq + 65536 - c.rxSeq) % 65536
    if 32768 ≤ d then m
    else
      let held := c.queue.length + c.taken
      let m := modChord m n fun c => { c with rxSeq := (seq + 1) % 65536 }
      let m :=
        if c.e.srcModule = self m then chordLossOp n c.rxSeq d seq m
        else sendMsg m c.e.srcModule (.chordLoss n c.rxSeq d seq)
      let cnt := min (d + 1) (chordDepth c.e - held)
      if cnt = 0 then m else returnCredit n cnt m

/-- A write through the window that is dropped (R121). -/
def windowDrop (ev f off : Nat) (c : Option Chord) (m : Mach) : Mach :=
  match c with
  | some c => raise m ev (srcFacet f 1) (some c.job) [f, c.e.chord, off]
  | none => raise (spendFree m) ev (srcFacet f 1) none [f, (freeVal m 10).toNat, off]

/-- The chord whose header ring holds a window offset. -/
def ringChord (m : Mach) (f off : Nat) : Option Chord :=
  m.chords.find? fun c => hasConsumer c.e && c.e.dstFacet == f && decide (c.e.hdrBase * 4096 ≤ off)
    && decide (off < c.e.hdrBase * 4096 + 256 * chordDepth c.e)

/-- What a write through the arc-queue window does. -/
inductive WindowCase where
  | fault | overrun | badSeq (seq : Nat) | commit (mb : MbInfo) (seq : Nat)
  deriving DecidableEq, Repr

/-- R121 with R111: a write whose slot is the one its own SEQ names, or the expected one, is an entry whose SEQ is
judged; one that names any other slot is a fault. -/
def windowCase (c : Chord) (off : Nat) (bs : List Byte) : WindowCase :=
  let rel := off - c.e.hdrBase * 4096
  let d := chordDepth c.e
  if bs.length ≠ 64 ∨ rel % 256 ≠ 0 then .fault
  else
    let h := headerMb (leNat bs)
    let slot := rel / 256
    if h.2.1 = c.rxSeq then
      if slot ≠ c.rxSeq % d then .fault
      else if d ≤ c.queue.length + c.taken then .overrun
      else .commit h.1 h.2.1
    else if slot = h.2.1 % d ∨ slot = c.rxSeq % d then .badSeq h.2.1
    else .fault

/-- A committed entry joins its queue; a WAVE entry is visible at once (R118).  The credit of one that another writer than the producer
committed is counted by `countForeign` (DESIGN CHOICE, log entry 80). -/
def commitEntry (n f off : Nat) (mb : MbInfo) (seq : Nat) (bs : List Byte) (m : Mach) : Mach :=
  let m := writeChecked m f 0 off bs
  let m := modChord m n fun c => { c with
    rxSeq := (c.rxSeq + 1) % 65536, queue := c.queue ++ [⟨mb, seq, false⟩] }
  match chordBy m n with
  | some c => if c.e.mode = 1 then showQueue n m else m
  | none => m

/-- A write through the arc-queue window of a facet (R121): answers the chord whose entry it committed. -/
def windowWrite (f off : Nat) (bs : List Byte) (m : Mach) : Option Nat × Mach :=
  match ringChord m f off with
  | none => (none, windowDrop arcFault f off none m)
  | some c =>
    match windowCase c off bs with
    | .fault => (none, windowDrop arcFault f off (some c) m)
    | .overrun => (none, windowDrop arcOverrun f off (some c) m)
    | .badSeq s => (none, seqError c.e.chord s m)
    | .commit mb s => (some c.e.chord, commitEntry c.e.chord f off mb s bs m)

/-! ### Exchange between the ends (R113, R123) -/

/-- Does the new map keep a chord: an entry with every field equal (R123)? -/
def keepsChord (old new : Option PlaceMap) (n : Nat) : Bool :=
  match old, new with
  | some a, some b =>
    match a.chords.find? (fun e => e.chord == n), b.chords.find? (fun e => e.chord == n) with
    | some x, some y => x == y
    | _, _ => false
  | _, _ => false

/-- Sends our CHORD_CHECK for a chord between modules. -/
def sendCheck (n : Nat) (keep : Bool) (m : Mach) : Mach :=
  match chordBy m n with
  | none => m
  | some c =>
    let far := if c.e.srcModule = self m then c.e.dstModule else c.e.srcModule
    sendMsg (modChord m n fun c => { c with asked := true }) far (.chordCheck n c.e.depth c.e.kind c.e.mode keep)

/-- CHORD_CHECK arrives (R113): a difference in DEPTH (field 1) or kind (field 2) closes the chord.  One that comes before our
entry is in effect is kept for its opening.  The first message is the exchange at the chord's opening; a later one says whether the far end keeps the chord at the coming sweep edge, counts as a
restart in the last 2 µs, and is answered with `ours`, whether our own new map keeps it. -/
def chordCheckOp (n depth kind : Nat) (keep ours : Bool) (m : Mach) : Mach :=
  match chordBy m n with
  | none => { m with earlyChecks := (m.earlyChecks.filter fun x => x.1 != n) ++ [(n, depth, kind)] }
  | some c =>
    let bad := if depth ≠ c.e.depth then some 1 else if kind ≠ c.e.kind then some 2 else none
    match bad with
    | some fld =>
      if c.closed then m
      else
        let m := modChord m n fun c => { c with closed := true }
        let m := if hasProducer c.e then tallySet m c.e.srcFacet c.e.creditTally 0 else m
        raise m chordMismatch (srcFacet (if hasProducer c.e then c.e.srcFacet else c.e.dstFacet) 1) (some c.job) [n, fld]
    | none =>
      if !c.checked then serveWaiting 32 n (modChord m n fun c => { c with checked := true })
      else
        let late := nearSweepEdge m
        let m := modChord m n fun c => { c with farKeep := some (keep && !late) }
        if c.asked then m else sendCheck n ours m

/-! ### Map changes (R116, R123) -/

/-- A chord takes effect for the first time (R111, R116); one between modules opens with an exchange (R113). -/
def openChord (j : Nat) (e : MapChord) (m : Mach) : Mach :=
  let c : Chord :=
    { job := j, e := e, txSeq := 0, sent := [], waiting := [], waitFrom := none, waitRaised := false, waitAt := 0, reserved := false, paid := 0,
      rxSeq := 0, queue := [], taken := 0, closed := false, checked := false, farKeep := none, asked := false }
  let m := { m with chords := m.chords ++ [c] }
  let m := if hasProducer e then tallySet m e.srcFacet e.creditTally (BitVec.ofNat 32 (chordDepth e)) else m
  let m := if hasConsumer e then tallySet m e.dstFacet e.readyTally 0 else m
  if e.srcModule = e.dstModule then m
  else
    let far := if e.srcModule = self m then e.dstModule else e.srcModule
    let m := sendMsg m far (.chordCheck e.chord e.depth e.kind e.mode true)
    match m.earlyChecks.find? fun x => x.1 == e.chord with
    | some x => chordCheckOp e.chord x.2.1 x.2.2 true false { m with earlyChecks := m.earlyChecks.filter fun y => y.1 != e.chord }
    | none => m

/-- What a removed chord's write becomes (R123): one that has set out is dropped and acknowledged when it arrives; one that still
waits to set out is dropped at once, a payload's write with its acknowledgement. -/
def dropFlight (n : Nat) (fl : Flight) : Option Flight :=
  if fl.chord ≠ some n then some fl
  else match fl.state with
    | .waiting => if isHeader fl || fl.orphan then none else some { fl with state := .replied 0 [], stale := true }
    | _ => some { fl with stale := true }

/-- A chord is removed (R123): its committed entries are discarded, its producer's waits end, its writes on their way are
dropped and acknowledged when they arrive. -/
def closeChord (n : Nat) (m : Mach) : Mach :=
  match chordBy m n with
  | none => m
  | some c =>
    let m := endWait n m
    let lost := c.queue.length
    let m := if lost = 0 then m else raise m queueDiscard (srcUnit 3) (some c.job) [n, lost]
    let w := c.waiting.length + (m.flights.filter fun fl => fl.chord == some n && isHeader fl && fl.state == .waiting).length
    let m := if w = 0 then m else modRun m c.e.srcFacet c.e.srcSc fun r => { r with
      sends := (List.replicate w n).foldl (fun l x => l.erase x) r.sends }
    let m := modRun m c.e.dstFacet c.e.dstSc fun r => { r with
      units := r.units.map fun u => if u.chord == some n then { u with chord := none } else u }
    let m := if c.e.mode = 1 then dropWave c.e.dstFacet c.e.dstSc c.e.kind m else m
    { m with
      chords := m.chords.filter fun d => d.e.chord != n
      flights := m.flights.filterMap (dropFlight n)
      chordNet := m.chordNet.map fun x => if bf x.header.toNat 105 96 = n then { x with stale := true } else x }

/-- The chords of a job follow its FILL map (R123). -/
def changeChords (j : Nat) (old new : Option PlaceMap) (m : Mach) : Mach :=
  let mine := m.chords.filter fun c => c.job == j
  let stays (c : Chord) : Bool :=
    (old == new || keepsChord old new c.e.chord)
      && (c.e.srcModule == c.e.dstModule
        || (match c.farKeep with | some k => k | none => old == new))
  let gone := mine.filter fun c => !stays c
  let keptNow := mine.filter stays |>.map (·.e.chord)
  let entries := (new.map (·.chords)).getD []
  let m := forAll gone (fun m c => closeChord c.e.chord m) m
  let m := { m with chords := m.chords.map fun c => if c.job == j then { c with farKeep := none, asked := false } else c }
  forAll (entries.filter fun e => !keptNow.contains e.chord) (fun m e => openChord j e m) m

/-- The link to which a LINK_AUTO chord moves: of the other links to the far module that are up with all lanes, the one with the
lowest number at the producer's end, which is the far end of the consumer's links.  Log entry 80. -/
def moveTarget (m : Mach) (c : Chord) : Option Nat :=
  let prod := producesHere m c.e
  let far := if prod then c.e.dstModule else c.e.srcModule
  let key (k : Nat) : Nat := if prod then k else (linkOf m k).farLink
  let fit := (List.range 36).filter fun k =>
    k != c.e.link && linkIsUp m k && (linkOf m k).farModule == far && decide (8 ≤ (linkOf m k).width)
  fit.find? fun k => fit.all fun y => decide (key k ≤ key y)

/-- R114: at a sweep edge a LINK_AUTO chord on a link with fewer than 8 lanes moves to another link to the same module, at both
ends, whose credits go over the link that carries it (R113); the producer raises CHORD_MOVED. -/
def moveChords (m : Mach) : Mach :=
  forAll (m.chords.filter fun c => c.e.linkAuto && c.e.srcModule != c.e.dstModule) (fun m c =>
    let l := linkOf m c.e.link
    if !linkIsUp m c.e.link || decide (8 ≤ l.width) then m
    else
      match moveTarget m c with
      | none => m
      | some k =>
        let m := modChord m c.e.chord fun c => { c with e := { c.e with link := k } }
        if hasProducer c.e then raise m chordMoved (srcUnit 3) (some c.job) [c.e.chord, c.e.link, k] else m) m

/-! ### Timeouts (R122) -/

def creditTimeoutOp (n : Nat) (m : Mach) : Mach :=
  match chordBy m n with
  | none => m
  | some c =>
    match c.waitFrom with
    | some t =>
      if !c.waitRaised && expired m t (regN m offCreditTimeout) then
        raise (modChord m n fun c => { c with waitRaised := true }) creditTimeoutEv (srcFacet c.e.srcFacet 1) (some c.job)
          [n, c.e.srcFacet, c.e.srcSc]
      else m
    | none => m

def execCreditTimeout (n : Nat) (s : State) : Res := actReady (decide (n < 1024)) (creditTimeoutOp n) s
end Sys2Proof.Machine
end

