-- ==== Sys2Proof/Machine/Slots.lean ====
section
/-!
DEFINITION. Slots (R103–R105, R119, R126–R131, R134, R135, R162–R164, R262, R312–R314): the units that a stage context
takes in a tick, the order in which they run, and what their completion does.
-/
namespace Sys2Proof.Machine

/-- Does the pipeline run a training schedule? -/
def training (m : Mach) (j p : Nat) : Bool :=
  match (pipeOf m j p).sched with
  | some s => !s.fwdOnly
  | none => false

/-- Is the stage the pipeline's last: no forward chord but the return chord leaves it? -/
def isLast (m : Mach) (j : Nat) (e : MapSc) : Bool :=
  e.stage + 1 == pipeLen m j e.pipe && (outChords m e.facet e.sc 0 false).isEmpty

/-- Admission ordinal of the unit that the stage runs forward in the current tick (R134), if there is one. -/
def ordinal (m : Mach) (j : Nat) (e : MapSc) : Option Nat :=
  match (pipeOf m j e.pipe).sched with
  | some s =>
    let base := s.t0 + e.stage + (scOf m e.facet e.sc).shift + (jobOf m j).suspShift
    if base ≤ m.tick.tickNo then some (m.tick.tickNo - base) else none
  | none => none

/-! ### Admission (R126–R131) -/

/-- The slice count of R127. -/
def sliceCount (s : Sched) (cost len : Nat) : Option Nat :=
  let e := s.cost.getD cost (0, 0)
  ((List.range 8).map (· + 1)).find? fun n =>
    let q := (len + n - 1) / n
    decide (e.1 + (e.2 * q + 9999) / 10000 ≤ s.budget)

/-- Completes an MB_ADMIT (R131, R418). -/
def completeAdmit (j : Nat) (a : Admit) (status detail : Nat) (m : Mach) : Mach :=
  let st := if status = 0 ∧ a.floated then 1 else status
  completeAt m a.quiet ⟨a.ring, a.index, a.tag, st, 0x12, j, detail, 0, (stamp m).1, (stamp m).2⟩

/-- Takes the head of the admission queue with the tag in force (R126, R131, R162). -/
def admitHead (j p n vtag : Nat) (a : Admit) (m : Mach) : MbInfo × Mach :=
  let mb : MbInfo := ⟨a.mbId, vtag, a.len, a.cost, 0, n, j, p, m.tick.tickNo, false⟩
  let m := modPipe m j p fun x => { x with
    queue := x.queue.drop 1
    slicing := if 1 < n then some ⟨mb, 1⟩ else none
    reserveUsed := x.reserveUsed + (n - 1)
    abandoned := x.abandoned.filter (· != a.mbId)
    admitted := x.admitted ++ [(a.mbId, a.len, n)]
    liveMbs := x.liveMbs ++ [(a.mbId, vtag)]
    lastCursor := some (a.cursor, a.mbId) }
  (mb, completeAdmit j a 0 (vtag + (n - 1) * 256) (liveUp j p vtag m))

/-- The head of the queue in an admission slot: admitted, rejected, or left for the next sweep (R126, R130).  `left`
admission slots remain, this one included. -/
def admitFrom (j p vtag left : Nat) (s : Sched) : Nat → Mach → Option MbInfo × Mach
  | 0, m => (none, m)
  | k + 1, m =>
    match (pipeOf m j p).queue with
    | [] => (none, m)
    | a :: _ =>
      let reject (m : Mach) : Option MbInfo × Mach :=
        admitFrom j p vtag left s k (completeAdmit j a 0x43 0 (modPipe m j p fun x => { x with queue := x.queue.drop 1 }))
      match sliceCount s a.cost a.len with
      | none => reject m
      | some n =>
        if !s.fwdOnly && decide (s.reserve < n - 1) then reject m
        else if !s.fwdOnly && (decide (left < n) || decide (s.reserve < (pipeOf m j p).reserveUsed + (n - 1))) then
          (none, modPipe m j p fun x => { x with sweepClosed := true })
        else
          let r := admitHead j p n vtag a m
          (some r.1, r.2)

/-- One admission slot (R126). -/
def admissionSlot (j p left : Nat) (s : Sched) (m : Mach) : Option MbInfo × Mach :=
  let x := pipeOf m j p
  match x.slicing with
  | some sl =>
    let mb := { sl.mb with slice := sl.next }
    (some mb, modPipe m j p fun x => { x with
      slicing := if sl.next + 1 < mb.nslice then some { sl with next := sl.next + 1 } else none })
  | none =>
    match x.pub with
    | none => (none, m)
    | some v => if x.sweepClosed then (none, m) else admitFrom j p v left s (x.queue.length + 1) m

/-! ### Gathered layers (R177–R179) -/

/-- Shard of member `i` of `n` of a layer of `size` units (R177): first unit and number of units. -/
def shardRange (size n i : Nat) : Nat × Nat :=
  let h := ceilDiv size (max 1 n)
  (min (i * h) size, min ((i + 1) * h) size - min (i * h) size)

/-- Layers that a unit of a tag fetches: the kept ones that the keep area does not hold yet, and the dropped ones (R179). -/
def toFetch (l : Locus) (vtag : Nat) : List Nat × List Nat :=
  let idx := (List.range l.layers.length).filter fun i => ((l.layers[i]?).map (·.gathered)).getD false
  let isKept (i : Nat) : Bool := l.keepTag == vtag && ((l.layers[i]?).map (·.kept)).getD false
  (idx.filter fun i => isKept i && !l.keptValid.contains i, idx.filter fun i => !isKept i)

/-- Does a unit of the tag fetch anything? -/
def fetches (m : Mach) (f c vtag : Nat) : Bool :=
  let t := toFetch (locusOf m f c) vtag
  !(t.1.isEmpty && t.2.isEmpty)

/-- Do the gather members here that a unit reads hold its tag (R177)?  What members on other modules hold, their answers tell. -/
def gatherHolds (m : Mach) (f c vtag : Nat) : Bool :=
  !fetches m f c vtag
    || ((locusOf m f c).gather.filter fun g => g.1 == self m).all fun g => (resolveTag (locusOf m g.2.1 g.2.2) vtag).isSome

/-- Sends a read of a gathered fetch (R177): `bytes` at a lattice address, for layer `i` of the unit's locus and gather member `k`,
to an HBM offset of its reader; `shifting` when that buffer's contents change while the unit runs. -/
def sendGather (f c j i k vtag dst : Nat) (shifting : Bool) (a : Lat) (bytes : Nat) (m : Mach) : Mach :=
  let fl : Flight :=
    { opid := m.nextOp, issuer := .gather f c, job := j, req := ⟨word (latAddr a), 0x32, 0, bytes, [], 0⟩, dest := some i, localOfs := dst
      isWrite := false, sentAt := m.now, state := .requested, word := some (k, vtag), via := none, chord := none, pc := b2n shifting
      orphan := false, ue := false, stale := false }
  sendFlight fl (modRun { m with nextOp := m.nextOp + 1 } f c fun r => { r with fetching := r.fetching + 1 })

/-- Fetches GATHERED layer `i` of a unit of the tag to an HBM offset of its reader: a shard here is copied; of a member on another
module its version entries are read first (Table 5.1), which say where its shard is. -/
def gatherLayer (f c j vtag dst i : Nat) (shifting : Bool) (y : LocusLayer) (m : Mach) : Mach :=
  let l := locusOf m f c
  forAll (List.range l.gather.length) (fun m k =>
    match l.gather[k]? with
    | none => m
    | some g =>
      let r := shardRange y.size l.gather.length k
      let at_ := dst + 4096 * r.1
      if r.2 = 0 then m
      else if g.1 ≠ self m then sendGather f c j i k vtag at_ shifting ⟨g.1, g.2.1, 4, 4096 * g.2.2 + 128⟩ 256 m
      else
        match resolveTag (locusOf m g.2.1 g.2.2) vtag with
        | none => m
        | some e =>
          let d := readChecked m g.2.1 e.space (4096 * (e.base + y.offset)) (4096 * r.2)
          writeChecked d.2.2 f 1 at_ d.1) m

/-- HBM offset of kept layer `i` in the keep area. -/
def keptPlace (l : Locus) (i : Nat) : Nat :=
  4096 * (l.keepBase + ((l.layers.take i).map fun y => if y.kept then y.size else 0).foldl (· + ·) 0)

/-- Fetches for a unit (R179), once for each: kept layers at their first use under KEEP_TAG, dropped ones into the transient buffers
in turn.  With more than two dropped layers the buffers change while the unit runs, at instants that no record marks, and their
contents are free values: log entry 3. -/
def gatherFetch (f c j : Nat) (u : WorkUnit) (m : Mach) : Mach :=
  let l := locusOf m f c
  let vtag := u.mb.vtag
  let (keep, drop) := toFetch l vtag
  let key := (u.mb.mbId * 8 + u.mb.slice, u.dir)
  if (keep.isEmpty && drop.isEmpty) || ((scOf m f c).run.bind (·.fetchFor)) == some key then m
  else
    let m := modRun m f c fun r => { r with fetched := true, fetchFor := some key }
    let m := forAll keep (fun m i =>
      match l.layers[i]? with
      | some y => modLocus (gatherLayer f c j vtag (keptPlace l i) i false y m) f c fun l => { l with keptValid := l.keptValid ++ [i] }
      | none => m) m
    let buf (k : Nat) : Nat := 4096 * (l.keepBase + l.keepBudget + k % 2 * l.xferSize)
    let fits := drop.all fun i => ((l.layers[i]?).map fun y => decide (y.size ≤ l.xferSize)).getD true
    let shifting := decide (2 < drop.length) || !fits
    let m := forAll ((List.range drop.length).zip drop) (fun m (k, i) =>
      match l.layers[i]? with
      | some y => gatherLayer f c j vtag (buf k) i shifting y m
      | none => m) m
    if shifting then loseMem m f 1 (buf 0) (8192 * l.xferSize) else m

/-! ### Taking a unit (R163, R164) -/

/-- An id that a later admission than the abandoned one carries is a micro-batch of its own again (log entry 83). -/
def reuseMb (j p : Nat) (mb : MbInfo) (m : Mach) : Mach :=
  if (pipeOf m j p).lostAt.any fun e => e.1 == mb.mbId && decide (e.2 < mb.admitTick) then
    modPipe m j p fun x => { x with
      abandoned := x.abandoned.filter (· != mb.mbId), lostAt := x.lostAt.filter fun e => e.1 != mb.mbId }
  else m

/-- A unit joins its slot when its tag is resident and its micro-batch is not abandoned; otherwise it is a bubble, its
entry is released, and a miss abandons the micro-batch. -/
def acceptUnit (f c j : Nat) (e : MapSc) (u : WorkUnit) (m : Mach) : Option WorkUnit × Mach :=
  let release (m : Mach) : Mach := match u.chord with | some n => releaseEntry n m | none => m
  let m := reuseMb j e.pipe u.mb m
  if (pipeOf m j e.pipe).abandoned.contains u.mb.mbId then (none, release m)
  else
    if (resolveTag (locusOf m f c) u.mb.vtag).isSome && gatherHolds m f c u.mb.vtag then (some u, m)
    else
      let m := raise m vtagMiss (srcFacet f 4) (some j) [e.stage, f, c, u.mb.mbId, u.mb.vtag]
      (none, abandonMb j e.pipe [u.mb.mbId] (release m))

/-- Takes the head entry of a chord as a unit. -/
def takeUnit (f c j dir : Nat) (e : MapSc) (n : Nat) (mb : MbInfo) (m : Mach) : Option WorkUnit × Mach :=
  acceptUnit f c j e ⟨dir, mb, some n⟩ (takeHead n m)

/-! ### Saved activations (R312–R314) -/

def actKey (mb : MbInfo) : Nat := mb.mbId * 8 + mb.slice

def actOf (x : StageCtx) (key : Nat) : Option ActSlot := x.acts.find? fun a => a.unit == key

def setAct (f c key : Nat) (g : ActSlot → Option ActSlot) (m : Mach) : Mach :=
  modSc m f c fun x => { x with acts := x.acts.filterMap fun a => if a.unit == key then g a else some a }

/-- Lowest HBM slot that no unit holds; a unit written out and not yet prefetched holds none. -/
def freeActSlot (x : StageCtx) (a : ActPolicy) : Option Nat :=
  (List.range a.slots).find? fun i => !(x.acts.any fun s => s.slot == i && s.state != 3)

/-- HBM offset of an activation slot. -/
def actAddr (a : ActPolicy) (slot : Nat) : Nat := a.base * 4096 + slot * a.bytes

/-- Host address of a unit's slot (R313). -/
def actHost (a : ActPolicy) (stage u : Nat) : Nat :=
  a.hostBase + ((stage - a.first) * a.hostSlots + u % a.hostSlots) * a.bytes

/-- Records the micro-batch of a slice-0 backward unit that has completed (R299). -/
def noteBack (f c : Nat) (u : WorkUnit) (m : Mach) : Mach :=
  modSc m f c fun x =>
    if u.dir = 1 ∧ u.mb.slice = 0 ∧ !(x.backMbs.any fun b => b.1 == u.mb.mbId) then
      { x with backMbs := x.backMbs ++ [(u.mb.mbId, u.mb.len)] }
    else x

/-- Records the micro-batch of a forward unit, in the order in which they run (R298). -/
def noteForward (f c : Nat) (u : WorkUnit) (m : Mach) : Mach :=
  modSc m f c fun x =>
    if x.fwdMbs.any fun b => b.1 == u.mb.mbId then x else { x with fwdMbs := x.fwdMbs ++ [(u.mb.mbId, u.mb.nslice)] }

/-- The unit that becomes current waits for its activation slot or prefetch, or starts (R313, R314). -/
def openUnit (f c : Nat) (m : Mach) : Mach :=
  let m := match (scOf m f c).owner, (scOf m f c).run.bind fun r => r.units[r.unitIdx]? with
    | some (j, _), some u => gatherFetch f c j u m
    | _, _ => m
  let x := scOf m f c
  match x.owner, x.run with
  | some (j, e), some r =>
    match r.units[r.unitIdx]?, actPolicyOf m j e with
    | some u, some a =>
      if u.dir = 0 then
        if (actOf x (actKey u.mb)).isSome then modRun m f c fun r => { r with actWait := false }
        else
          match freeActSlot x a with
          | some i =>
            let o := (ordinal m j e).getD 0
            let m := modSc m f c fun x => { x with acts := x.acts ++ [⟨i, actKey u.mb, o, u.mb.nslice, 0⟩] }
            modRun m f c fun r => { r with actWait := false }
          | none => modRun m f c fun r => { r with actWait := true }
      else if u.dir = 1 then
        let m := modRun m f c fun r => { r with recomp := a.policy == 2 }
        match (actOf x (actKey u.mb)).filter fun s => s.state == 3 || s.state == 4 with
        | some s =>
          -- the wait's length is not known when the event is raised: a free value, log entry 3
          let m := if r.actWait then m else
            raise (spendFree m) actLate (srcFacet f 7) (some j) [f, c, s.u, (freeVal m 32).toNat]
          modRun m f c fun r => { r with actWait := true }
        | none => modRun m f c fun r => { r with actWait := false }
      else m
    | _, _ => m
  | _, _ => m

/-- What the end of a unit's commands does to its activation slot: a filled slot starts its write-out under OFFLOAD, a
used one is free. -/
def endAct (f c j : Nat) (e : MapSc) (u : WorkUnit) (m : Mach) : Mach :=
  match actPolicyOf m j e with
  | none => m
  | some a =>
    if u.dir = 0 then setAct f c (actKey u.mb) (fun s => some { s with state := if a.policy = 1 then 2 else 1 }) m
    else if u.dir = 1 then setAct f c (actKey u.mb) (fun _ => none) m
    else m

/-- Backward units that the stage still has to run, in the order of R135: ordinal and unit key.  A micro-batch whose
slices have not all run forward yet starts with the last slice. -/
def backSeq (cur : Nat) (acts : List ActSlot) : List (Nat × Nat) :=
  (acts.map fun a => a.unit / 8).eraseDups.flatMap fun mb =>
    let es := acts.filter fun a => a.unit / 8 == mb
    match es with
    | [] => []
    | a :: _ =>
      let u0 := a.u - a.unit % 8
      if u0 + a.nslice ≤ cur then es.reverse.map fun a => (a.u, a.unit)
      else (List.range a.nslice).reverse.map fun i => (u0 + i, mb * 8 + i)

/-- Ticks in which those units run at the stage, as shifted now (R135, R314). -/
def backTicks (base first : Nat) : List (Nat × Nat) → List (Nat × Nat)
  | [] => []
  | (u, k) :: t =>
    let b := max (base + u) first
    (k, b) :: backTicks base (b + 1) t

/-- At an edge the offload engine issues the prefetches that are due (R314). -/
def prefetchEdge (f c : Nat) (m : Mach) : Mach :=
  let x := scOf m f c
  match x.owner with
  | none => m
  | some (j, e) =>
    match actPolicyOf m j e, (pipeOf m j e.pipe).sched with
    | some a, some s =>
      if a.policy ≠ 1 then m
      else
        let cur := (ordinal m j e).getD 0
        let base := s.t0 + 2 * pipeStages m j e.pipe - 1 - e.stage + x.shift + (jobOf m j).suspShift
        let due := (backTicks base m.tick.tickNo (backSeq cur x.acts)).filter fun b => decide (b.2 ≤ m.tick.tickNo + a.lead)
        forAll due (fun m d =>
          match actOf (scOf m f c) d.1 with
          | none => m
          | some y =>
            if y.state = 1 ∨ y.state = 2 then setAct f c d.1 (fun s => some { s with state := 5 }) m
            else if y.state = 3 then
              match freeActSlot (scOf m f c) a with
              | none => m
              | some i =>
                let m := setAct f c d.1 (fun s => some { s with slot := i, state := 4 }) m
                readHost a.ep (actHost a e.stage y.u) a.bytes true m
            else m) m
    | _, _ => m

/-! ### The end of a unit -/

/-- The loss of a micro-batch whose forward pass has completed at the last stage joins the pipeline's losses (R229). -/
def addLoss (f c j p id : Nat) (m : Mach) : Mach :=
  let x := scOf m f c
  let terms := (List.range 8).flatMap fun i =>
    (x.tokLoss.filter fun t => t.1 == id * 8 + i).flatMap fun t => t.2.map pairOf
  let m := modSc m f c fun x => { x with tokLoss := x.tokLoss.filter fun t => t.1 / 8 != id }
  if terms.isEmpty then m
  else modPipe m j p fun y => { y with mbLoss := y.mbLoss ++ [(id, word (pairWord (reduceP terms).1))] }

/-- The sweep loss of a pipeline's last stage: add_p of its micro-batch losses in admission order (R229). -/
def sweepLoss (x : Pipe) : Word :=
  word (pairWord (x.mbLoss.foldl (fun s e => (addP s (wordPair e.2.toNat)).1) (wordPair 0)))

/-- A unit completes: its entry is released (R120), and the micro-batch's last unit counts (R162, R299). -/
def finishUnit (f c j : Nat) (e : MapSc) (u : WorkUnit) (m : Mach) : Mach :=
  let m := match u.chord with | some n => releaseEntry n m | none => m
  let tr := training m j e.pipe
  let lastStage := isLast m j e
  let whole := u.mb.slice + 1 == u.mb.nslice
  if u.dir = 0 then
    let m := noteForward f c u m
    if !lastStage then m
    else if tr then
      -- R135: the slices run backward from the last, once the forward pass has completed
      if whole then modSc (addLoss f c j e.pipe u.mb.mbId m) f c fun x => { x with
        backlog := x.backlog ++ (List.range u.mb.nslice).reverse.map fun i =>
          ({ u.mb with slice := i, back := true }, m.tick.tickNo) }
      else m
    else if whole then lastUnit j e.pipe u.mb.vtag u.mb.mbId (addLoss f c j e.pipe u.mb.mbId m) else m
  else if u.dir = 1 then
    let m := noteBack f c u m
    if e.stage = 0 ∧ u.mb.slice = 0 then lastUnit j e.pipe u.mb.vtag u.mb.mbId m else m
  else m

/-- Completes the units that ran and have not yet been completed. -/
def finishUnits (f c j : Nat) (e : MapSc) (m : Mach) : Mach :=
  match (scOf m f c).run with
  | none => m
  | some r =>
    let us := (r.units.take r.unitIdx).drop r.finished
    modRun (forAll us (fun m u => finishUnit f c j e u m) m) f c fun r => { r with finished := r.unitIdx }

/-- Chords on which a unit sends its output: the next stage's, the stage before's, the return chord at the last stage of
a rollout, or the expert return chord to the stage context that dispatched the unit (R139). -/
def outputChords (m : Mach) (f c j : Nat) (e : MapSc) (u : WorkUnit) : List Nat :=
  let l :=
    if u.dir = 0 then outChords m f c 0 false
    else if u.dir = 1 then outChords m f c 1 false
    else if u.dir = 4 then
      match u.chord.bind (chordBy m) with
      | some d => (outChords m f c 3 false).filter fun x =>
          x.e.dstModule == d.e.srcModule && x.e.dstFacet == d.e.srcFacet && x.e.dstSc == d.e.srcSc
      | none => []
    else if isLast m j e then outChords m f c 0 true
    else outChords m f c 0 false
  l.map fun x => x.e.chord

/-- The commands of the current unit have ended: its output sets out on the given chords and the next unit becomes
current. -/
def endUnitOn (chords : List Nat) (f c j : Nat) (e : MapSc) (u : WorkUnit) (m : Mach) : Mach :=
  let m := endAct f c j e u m
  let m := forAll chords (fun m n => sendEntry n u.mb m) m
  let m := modRun m f c fun r =>
    let nxt := r.units[r.unitIdx + 1]?
    let pre := (nxt.map fun v => v.dir == 2).getD false
    { r with unitIdx := r.unitIdx + 1, tokens := [], recIdx := if pre then r.resume else 0, resume := if pre then 0 else r.resume }
  match (scOf m f c).run with
  | some r => if r.unitIdx < r.units.length then openUnit f c (finishUnits f c j e m) else m
  | none => m

def endUnit (f c j : Nat) (e : MapSc) (u : WorkUnit) (m : Mach) : Mach :=
  endUnitOn (outputChords m f c j e u) f c j e u m

/-- Have the records of the current unit run and their commands completed? -/
def unitDone (m : Mach) (x : StageCtx) (r : SlotRun) : Bool :=
  slotOpen r && r.inFlight == 0 && decide ((runProg m x r).length ≤ r.recIdx)

/-- Moves a slot on while its current unit is done.  A rollout's last stage waits for DECODE_STEP_COMPLETE (R420). -/
def advanceUnit (fuel f c : Nat) (m : Mach) : Mach :=
  match fuel with
  | 0 => m
  | k + 1 =>
    let x := scOf m f c
    match x.owner, x.run with
    | some (j, e), some r =>
      if !unitDone m x r then m
      else
        match r.units[r.unitIdx]? with
        | none => m
        | some u =>
          if r.recomp then advanceUnit k f c (modRun m f c fun r => { r with recomp := false, recIdx := 0 })
          else if u.dir = 3 ∧ isLast m j e then m
          else advanceUnit k f c (endUnit f c j e u m)
    | _, _ => m

/-- Lets a slot go on after something it waited for. -/
def poke (f c : Nat) (m : Mach) : Mach := advanceUnit 1024 f c m

/-! ### Starting a slot (R52 step 5) -/

/-- What a side of a slot got: a unit, a wait for a WAVE entry with its deadline, or a bubble by class: 0 none,
2 planned, 3 slip. -/
structure Side where
  unit : Option WorkUnit
  wave : Option Nat
  cls  : Nat

def bubble (k : Nat) : Side := ⟨none, none, k⟩

def sideOf (u : Option WorkUnit) : Side := ⟨u, none, if u.isSome then 1 else 0⟩

/-- Does the tick lie in the span of the stage's training schedule (R133, R134), as shifted? -/
def inSpan (m : Mach) (j : Nat) (e : MapSc) : Bool :=
  match (pipeOf m j e.pipe).sched with
  | some s =>
    let from_ := s.t0 + (scOf m e.facet e.sc).shift + (jobOf m j).suspShift
    !s.fwdOnly && decide (from_ ≤ m.tick.tickNo) && decide (m.tick.tickNo < from_ + s.m + 2 * pipeStages m j e.pipe - 1 + s.reserve)
  | none => false

/-- Class of a bubble that no slip made: on the backward side of a training schedule it is planned (R135); on the forward side
it is what the producer's side was. -/
def quietClass (m : Mach) (j dir k : Nat) (e : MapSc) : Nat := if dir = 1 then (if inSpan m j e then 2 else 0) else if k = 2 then 2 else 0

/-- Has a stage context work of a side unfinished in its slot, or an entry of the chord not acknowledged? -/
def sideUnfinished (r : SlotRun) (dir n : Nat) : Bool :=
  ((r.units.drop r.unitIdx).any fun u => u.dir == dir) || (r.waves.any fun w => w.1 == dir) || r.sends.contains n

/-- Class of a bubble from what the producer's side held in the last tick, `m0` being the state before the edge
(R69, R135): a slip or a slip bubble passes on as a slip bubble, a planned bubble as planned.  What a producer on another module
held is its own state: whether it slipped is a free value, and so is whether a forward bubble of the schedule is one of
admission (log entry 25). -/
def passClass (m0 : Mach) (dir j : Nat) (e : MapSc) (cs : List Chord) (m : Mach) : Nat × Mach :=
  match cs.head? with
  | none => (quietClass m j dir 0 e, m)
  | some c =>
    if producesHere m c.e then
      let x := scOf m0 c.e.srcFacet c.e.srcSc
      let k := if dir = 0 then x.fwd else x.bwd
      let slips := match x.run with | some r => sideUnfinished r dir c.e.chord | none => false
      (if slips || k == 3 then 3 else quietClass m j dir k e, m)
    else
      let v := freeVal m 2
      (if v.getLsbD 0 then 3 else quietClass m j dir (if v.getLsbD 1 && inSpan m j e then 2 else 0) e, spendFree m)

/-- Start deadline of a WAVE side (R119). -/
def waveDeadlineOf (m : Mach) (e : MapSc) : Nat := m.tick.edgeAt + admitLen m - e.slotWcet

/-- A side that takes its entry from the chords of a kind (R119). -/
def takeSide (m0 : Mach) (f c j dir : Nat) (e : MapSc) (m : Mach) : Side × Mach :=
  let cs := inChords m f c dir false
  match cs.filterMap fun x => (visibleHead m x).map fun mb => (x.e.chord, mb) with
  | (n, mb) :: _ =>
    let r := takeUnit f c j dir e n mb m
    (sideOf r.1, r.2)
  | [] =>
    if cs.any fun x => x.e.mode == 1 then (⟨none, some (waveDeadlineOf m e), 0⟩, m)
    else
      let k := passClass m0 dir j e cs m
      (bubble k.1, k.2)

/-- Forward side: an admission slot at stage 0, the queue elsewhere. -/
def fwdSide (m0 : Mach) (f c j : Nat) (e : MapSc) (m : Mach) : Side × Mach :=
  if e.stage ≠ 0 then takeSide m0 f c j 0 e m
  else
    match (pipeOf m j e.pipe).sched, ordinal m j e with
    | some s, some o =>
      if o < s.m then
        let r := admissionSlot j e.pipe (s.m - o) s m
        match r.1 with
        | some mb =>
          let a := acceptUnit f c j e ⟨0, mb, none⟩ r.2
          (sideOf a.1, a.2)
        | none => (bubble 2, r.2)
      else (bubble 0, m)
    | _, _ => (bubble 0, m)

/-- Backward side: the last stage's own units in their order, the queue elsewhere (R135). -/
def bwdSide (m0 : Mach) (f c j : Nat) (e : MapSc) (m : Mach) : Side × Mach :=
  if !training m j e.pipe then (bubble 0, m)
  else if !isLast m j e then takeSide m0 f c j 1 e m
  else
    match (scOf m f c).backlog with
    | [] => (bubble (quietClass m j 1 0 e), m)
    | (mb, t) :: _ =>
      if t < m.tick.tickNo then
        let m := modSc m f c fun x => { x with backlog := x.backlog.drop 1 }
        let a := acceptUnit f c j e ⟨1, mb, none⟩ m
        (sideOf a.1, a.2)
      else (bubble 2, m)

/-- Counts bubbles for Table 4.14. -/
def countBubble (j p k : Nat) (m : Mach) : Mach :=
  if k = 2 then modPipe m j p fun x => { x with stats := { x.stats with planned := x.stats.planned + 1 } }
  else if k = 3 then modPipe m j p fun x => { x with stats := { x.stats with slipBub := x.stats.slipBub + 1 } }
  else m

/-- Units that wait on expert dispatch chords (R139). -/
def expertUnits (f c j : Nat) (e : MapSc) : Nat → Mach → List WorkUnit × Mach
  | 0, m => ([], m)
  | k + 1, m =>
    match (inChords m f c 2 false).filterMap fun x => (visibleHead m x).map fun mb => (x.e.chord, mb) with
    | [] => ([], m)
    | (n, mb) :: _ =>
      let r := takeUnit f c j 4 e n mb m
      let t := expertUnits f c j e k r.2
      (r.1.toList ++ t.1, t.2)

/-- An empty slot of the current tick. -/
def newRun (m : Mach) (us : List WorkUnit) (waves : List (Nat × Nat)) : SlotRun :=
  { tick := m.tick.tickNo, startAt := m.now, units := us, unitIdx := 0, recIdx := 0, resume := 0, recomp := false,
    inFlight := 0, sends := [], finished := 0, away := 0, tokens := [], wait := .none, waves := waves, actWait := false,
    slipped := false, fetched := false, fetchFor := none, fetching := 0 }

/-- A slot begins with its units; its program is the image its handle names now (R262). -/
def beginRun (f c : Nat) (e : MapSc) (us : List WorkUnit) (waves : List (Nat × Nat)) (m : Mach) : Mach :=
  if us.isEmpty && waves.isEmpty then m
  else
    let r := newRun m us waves
    let p := imageOf m e.prog
    poke f c (openUnit f c (modSc m f c fun x => { x with run := some r, prog := p }))

/-- Does the job's work run on the facet: admitted, running, not held by a halt, a release, a switch or a failure? -/
def slotAllowed (m : Mach) (f j : Nat) : Bool :=
  let x := jobOf m j
  x.admitted && !x.suspended && !x.halted && !x.releasing && !(facetOf m f).failed && !m.ctr.stopped
    && !shifting m f && !m.twin.frozen && !(match (facetOf m f).switching with | some (_, i, _) => i.contains j | none => false)

/-- A slot that takes nothing leaves an admission slot of stage 0 unused as a planned bubble (R262, R408). -/
def emptySlot (f c j : Nat) (e : MapSc) (m : Mach) : Mach :=
  let adm := e.stage == 0 && match (pipeOf m j e.pipe).sched, ordinal m j e with
    | some s, some o => decide (o < s.m)
    | _, _ => false
  let k := if adm then 2 else 0
  countBubble j e.pipe k (modSc m f c fun x => { x with fwd := k, bwd := 0 })

/-- PROG_MISSING of a stage context whose handle names no program, once per sweep (R262). -/
def noteMissing (f c j : Nat) (e : MapSc) (m : Mach) : Mach :=
  if (progImage m e.prog).isSome || (scOf m f c).missing.contains e.prog then m
  else
    raise (modSc m f c fun x => { x with missing := e.prog :: x.missing }) progMissing (srcFacet f 4) (some j) [j, f, c, e.prog]

/-- Handles of the stage programs of a stage context. -/
def stageHandles (m : Mach) (j : Nat) (e : MapSc) : List Nat :=
  e.prog :: ((match actPolicyOf m j e with | some a => [a.recompProg] | none => [])
    ++ (match (pipeOf m j e.pipe).rollout with | some r => [r.prefillProg, r.decodeProg] | none => []))

/-- Has a program of the job's stage context failed the check again (R408)? -/
def staleFor (m : Mach) (f c j : Nat) (e : MapSc) : Bool :=
  (scOf m f c).stale.any fun x => x.1 == j && (stageHandles m j e).contains x.2

/-- Starts the slot of a stage context in the tick that begins; `m0` is the state before the edge.  A rollout pipeline's
units come by position instead (R415).  Expert units count as scheduled work on the forward side (R70). -/
def startSlot (m0 : Mach) (f c : Nat) (m : Mach) : Mach :=
  let x := scOf m f c
  match x.owner with
  | none => m
  | some (j, e) =>
    if x.run.isSome then m
    else if !slotAllowed m f j then modSc m f c fun x => { x with fwd := 0, bwd := 0 }
    else if (pipeOf m j e.pipe).rollout.isSome then
      noteMissing f c j e (modSc m f c fun x => { x with fwd := 0, bwd := 0 })
    else
      match progImage m e.prog with
      | none => emptySlot f c j e (noteMissing f c j e m)
      | some _ =>
        if staleFor m f c j e then emptySlot f c j e m
        else
          let a := fwdSide m0 f c j e m
          let b := bwdSide m0 f c j e a.2
          let ex := expertUnits f c j e 64 b.2
          let slips := decide (a.1.cls = 3) || decide (b.1.cls = 3)
          let m := modSc ex.2 f c fun x => { x with
            fwd := if ex.1.isEmpty then a.1.cls else 1, bwd := b.1.cls, shift := x.shift + (if slips then 1 else 0) }
          let m := countBubble j e.pipe b.1.cls (countBubble j e.pipe a.1.cls m)
          let waves := (a.1.wave.toList.map fun d => (0, d)) ++ (b.1.wave.toList.map fun d => (1, d))
          let us := if a.1.wave.isSome then ex.1 ++ b.1.unit.toList else a.1.unit.toList ++ b.1.unit.toList ++ ex.1
          beginRun f c e us waves m

/-! ### Slips (R68–R70) -/

/-- At edge n+1: stage contexts whose slot of tick n has not completed have slipped.  A rollout slot that holds only
prefill chunks has not (R417). -/
def isSlip (m : Mach) (x : StageCtx) : Bool :=
  match x.owner, x.run with
  | some (j, e), some r =>
    if (pipeOf m j e.pipe).rollout.isSome then (r.units.drop r.unitIdx).any fun u => u.dir == 3 else true
  | _, some _ => true
  | _, none => false

/-- The slip rules for one stage context; `n` is the tick that ended, `ph` its phase. -/
def slipEdge (n ph f c : Nat) (m : Mach) : Mach :=
  let x := scOf m f c
  let j := x.owner.map (·.1)
  if isSlip m x then
    let m := raise m tickSlip (srcFacet f 0) j [c, f, n, ph]
    let m := modSc m f c fun x => { x with
      slips := x.slips + 1, shift := x.shift + 1, run := x.run.map fun r => { r with slipped := true } }
    let m := match x.owner with
      | some (j, e) => modPipe m j e.pipe fun y => { y with stats := { y.stats with slips := y.stats.slips + 1 } }
      | none => m
    if x.slips + 1 = 3 then
      raise (modSc m f c fun x => { x with chronic := true }) tickChronic (srcFacet f 0) j [c, f]
    else m
  else if x.fwd = 1 ∨ x.bwd = 1 then modSc m f c fun x => { x with slips := 0 }
  else m

/-! ### The end of a slot (R105) -/

/-- Has the slot completed: units run, writes acknowledged, groups and remote operations ended? -/
def slotDone (m : Mach) (f c : Nat) : Bool :=
  match (scOf m f c).run with
  | none => false
  | some r =>
    decide (r.units.length ≤ r.unitIdx) && r.waves.isEmpty && r.inFlight == 0 && r.sends.isEmpty && r.away == 0
      && r.wait == .none && !((facetOf m f).groups.any fun g => g.sc == c)
      && !(m.flights.any fun fl => !fl.orphan && fl.issuer == .sc f c)

/-- The owner that the maps in effect give a stage context: a job that is not suspended before one that is. -/
def mapOwner (m : Mach) (f c : Nat) : Option (Nat × MapSc) :=
  let find (susp : Bool) : Option (Nat × MapSc) :=
    (List.range 16).findSome? fun j => if (jobOf m j).suspended == susp then (stageAt m j f c).map fun e => (j, e) else none
  (find false).or (find true)

/-- Statistics of a slot that ran units (R144) and the breach of its WCET (R407). -/
def slotStats (f c j : Nat) (e : MapSc) (t fetch : Nat) (m : Mach) : Mach :=
  let m := modSc m f c fun x => { x with maxSlot := max x.maxSlot t }
  let m := modPipe m j e.pipe fun p =>
    let s := p.stats
    let top := decide (s.maxSlot < t) || s.nSlot == 0
    { p with stats := { s with
        maxSlot := if top then t else s.maxSlot, maxFacet := if top then f else s.maxFacet
        maxSc := if top then c else s.maxSc, maxStage := if top then e.stage else s.maxStage
        sumSlot := s.sumSlot + t, nSlot := s.nSlot + 1 } }
  if e.slotWcet < t - fetch then raise m wcetBreach (srcFacet f 9) (some j) [f, c, t] else m

/-- SLOT_COMPLETE (R105): the last units complete, kept tiles are released (R195), and the stage context is free for the
next tick. -/
def slotCompleteOp (f c : Nat) (m : Mach) : Mach :=
  if !slotDone m f c then m
  else
    let x := scOf m f c
    match x.owner, x.run with
    | some (j, e), some r =>
      let m := finishUnits f c j e m
      let m := if r.units.isEmpty then m else
        let t := m.now - r.startAt
        let fetch := if r.fetched then min t (freeVal m 32).toNat else 0
        slotStats f c j e t fetch (if r.fetched then spendFree m else m)
      let rets := (inChords m f c 3 false).flatMap fun q => List.replicate q.taken q.e.chord
      let m := forAll rets (fun m n => releaseEntry n m) m
      let m := modFacet m f fun y => { y with prisms := y.prisms.map fun p => { p with kept := p.kept.filter fun k => k.sc != c } }
      modSc m f c fun x => { x with run := none, owner := mapOwner m f c }
    | _, _ => modSc m f c fun x => { x with run := none }

/-! ### Answers of gathered reads (R177) -/

/-- The version entry of a tag in the four entries that a gather member answered with (Table 5.4): space and base of its region. -/
def gatherPlace (data : List Byte) (vtag : Nat) : Option (Nat × Nat) :=
  ((List.range 4).map fun i => leNat ((data.drop (64 * i)).take 64)).findSome? fun w =>
    if bf w 15 8 = vtag ∧ 2 ≤ bf w 2 0 ∧ bf w 2 0 ≤ 4 then some (bf w 361 361, bf w 383 362) else none

/-- A gather member does not hold the unit's tag: the unit is a bubble, as at a miss of its own locus (R164, R177). -/
def gatherMiss (f c : Nat) (m : Mach) : Mach :=
  match (scOf m f c).owner, (scOf m f c).run with
  | some (j, e), some r =>
    let m := { m with flights := m.flights.map fun fl => if fl.issuer == .gather f c then { fl with orphan := true } else fl }
    let m := modLocus m f c fun l => { l with keptValid := [] }
    match r.units[r.unitIdx]? with
    | none => m
    | some u =>
      let m := match u.chord with | some n => releaseEntry n m | none => m
      let m := raise m vtagMiss (srcFacet f 4) (some j) [e.stage, f, c, u.mb.mbId, u.mb.vtag]
      let m := modSc m f c fun x => if u.dir = 1 then { x with bwd := 0 } else { x with fwd := 0 }
      let m := modRun m f c fun r => { r with units := r.units.eraseIdx r.unitIdx, fetching := 0, fetchFor := none, recIdx := 0 }
      poke f c (openUnit f c (abandonMb j e.pipe [u.mb.mbId] m))
  | _, _ => m

/-- The answer of a gathered read: the member's entries, after which its shard is read, or the shard's bytes. -/
def settleGather (fl : Flight) (f c st : Nat) (data : List Byte) (m : Mach) : Mach :=
  let m := modRun m f c fun r => { r with fetching := r.fetching - 1 }
  let a := latOf fl.req.laddr.toNat
  match fl.word, fl.dest with
  | some (k, vtag), some i =>
    let l := locusOf m f c
    if a.space ≠ 4 then
      let m := if st = 0x5E ∨ st = 0x60 then gatherMiss f c m
        else if fl.pc = 1 then loseMem m f 1 fl.localOfs data.length
        else writeChecked m f 1 fl.localOfs data
      poke f c m
    else match (if st = 0 then gatherPlace data vtag else none), l.layers[i]? with
      | some p, some y =>
        sendGather f c fl.job i k vtag fl.localOfs (fl.pc == 1) ⟨a.mod, a.facet, p.1, 4096 * (p.2 + y.offset)⟩
          (4096 * (shardRange y.size l.gather.length k).2) m
      | _, _ => gatherMiss f c m
  | _, _ => m

/-! ### Waves (R119) -/

/-- Puts units before the unit that would run next; an expert unit that runs goes on first. -/
def insertNext (us : List WorkUnit) (r : SlotRun) : SlotRun :=
  let k := if runsExpert r then r.unitIdx + 1 else r.unitIdx
  { r with units := r.units.take k ++ us ++ r.units.drop k }

/-- A WAVE side takes the entry that became visible: the forward unit runs before a backward one. -/
def waveArrive (f c dir : Nat) (m : Mach) : Mach :=
  let x := scOf m f c
  match x.owner, x.run with
  | some (j, e), some r =>
    if !(r.waves.any fun w => w.1 == dir && decide (m.now ≤ w.2)) then m
    else
      match (inChords m f c dir false).filterMap fun q => (visibleHead m q).map fun mb => (q.e.chord, mb) with
      | [] => m
      | (n, mb) :: _ =>
        let t := takeUnit f c j dir e n mb m
        let m := modSc t.2 f c fun x => if dir = 0 then { x with fwd := b2n t.1.isSome } else { x with bwd := b2n t.1.isSome }
        let m := modRun m f c fun r =>
          let r := if dir = 0 then insertNext t.1.toList r else { r with units := r.units ++ t.1.toList }
          let fresh := r.unitIdx == 0 && r.recIdx == 0 && r.inFlight == 0
          { r with waves := r.waves.filter (fun w => w.1 != dir), startAt := if fresh then m.now else r.startAt }
        poke f c (openUnit f c m)
  | _, _ => m

/-- WAVE_DEADLINE: a side without a visible entry is a bubble for the tick (R119). -/
def waveDeadlineOp (f c dir : Nat) (m : Mach) : Mach :=
  let x := scOf m f c
  match x.owner, x.run with
  | some (j, e), some r =>
    match r.waves.find? fun w => w.1 == dir with
    | none => m
    | some w =>
      byTime w.2 (fun m =>
      let m := waveArrive f c dir m
      if ((scOf m f c).run.map fun r => r.waves.any fun w => w.1 == dir).getD false then
        let r := passClass m dir j e (inChords m f c dir false) m
        let k := r.1
        let m := countBubble j e.pipe k (modSc r.2 f c fun x => { x with
          shift := x.shift + (if k = 3 then 1 else 0)
          fwd := if dir = 0 then k else x.fwd, bwd := if dir = 1 then k else x.bwd })
        poke f c (dropWave f c dir m)
      else m) m
  | _, _ => m

def execWaveDeadline (f c dir : Nat) (s : State) : Res :=
  actReady (decide (f < 96 ∧ c < 4 ∧ dir < 2)) (waveDeadlineOp f c dir) s

/-- Expert units join a slot that runs: a forward WAVE side that waits does not hold them back. -/
def joinExperts (us : List WorkUnit) (r : SlotRun) : SlotRun :=
  if (r.waves.any fun w => w.1 == 0) && !runsExpert r then insertNext us r else { r with units := r.units ++ us }

/-- Expert units arrive (R139): they run as they come, under the slot's program (R262, R408). -/
def expertUnitsArrive (f c j : Nat) (e : MapSc) (m : Mach) : Mach :=
  if !slotAllowed m f j || (progImage m e.prog).isNone || staleFor m f c j e then m
  else
    let ex := expertUnits f c j e 64 m
    if ex.1.isEmpty then ex.2
    else
      let m := modSc ex.2 f c fun x => { x with fwd := 1 }
      match (scOf m f c).run with
      | none => beginRun f c e ex.1 [] m
      | some _ => poke f c (openUnit f c (modRun m f c (joinExperts ex.1)))

/-- Expert work arrives (R139): a unit, or a result that a dispatcher waits for, which its slot takes whatever holds new slots. -/
def expertArrive (f c kind : Nat) (m : Mach) : Mach :=
  match (scOf m f c).owner with
  | none => m
  | some (j, e) =>
    if kind = 2 then expertUnitsArrive f c j e m
    else
      match (inChords m f c 3 false).find? fun q => (visibleHead m q).isSome with
      | none => m
      | some q => modRun (takeHead q.e.chord m) f c fun r => { r with away := r.away - 1 }

/-! ### Activation transfers -/

/-- ACT_PREFETCH_DONE: the unit's activations are back in HBM; a failed read is issued again at the next edge. -/
def prefetchDoneOp (f c key : Nat) (r : HostData) (m : Mach) : Mach :=
  let x := scOf m f c
  match x.owner, actOf x key with
  | some (j, e), some s =>
    match actPolicyOf m j e with
    | none => m
    | some a =>
      if s.state ≠ 4 then m
      else
        match r with
        | .error _ => setAct f c key (fun s => some { s with state := 3 }) m
        | .bytes bs =>
          let m := writeChecked m f 1 (actAddr a s.slot) (bs.take a.bytes)
          poke f c (openUnit f c (setAct f c key (fun s => some { s with state := 5 }) m))
  | _, _ => m

/-- ACT_WRITEOUT_DONE: the unit stands in host memory and its HBM slot is free, unless its prefetch has already kept it;
a write that failed leaves the unit in HBM. -/
def writeoutDoneOp (f c key : Nat) (ok : Bool) (m : Mach) : Mach :=
  let x := scOf m f c
  match x.owner, actOf x key with
  | some (j, e), some s =>
    match actPolicyOf m j e with
    | none => m
    | some a =>
      if s.state ≠ 2 then m
      else if !ok then setAct f c key (fun s => some { s with state := 1 }) m
      else
        let bs := readMem m f 1 (actAddr a s.slot) a.bytes
        let m := emit m (.hostWrite a.ep (actHost a e.stage s.u) bs true)
        poke f c (openUnit f c (setAct f c key (fun s => some { s with state := 3 }) m))
  | _, _ => m

def execActPrefetchDone (f c key : Nat) (r : HostData) (s : State) : Res :=
  actReady (decide (f < 96 ∧ c < 4)) (prefetchDoneOp f c key r) s
def execActWriteoutDone (f c key : Nat) (ok : Bool) (s : State) : Res :=
  actReady (decide (f < 96 ∧ c < 4)) (writeoutDoneOp f c key ok) s

end Sys2Proof.Machine
end

