-- ==== Sys2Proof/Machine/Rollout.lean ====
section
/-!
DEFINITION. Rollout generation (R415–R420): user slots, decode positions and their steps, prefill chunks, token words and
the writes of sampled tokens; and the time of any record at the floor (R206, R265, R288, R292, R297).
-/
namespace Sys2Proof.Machine

/-! ### Time of a record -/

/-- Opcode of a record. -/
def recOp (r : Rec) : Nat := rb r 7 0

/-- Worst-case cycles of a launch group (R292) at the floor. -/
def launchWcet (m : Mach) (r : Rec) : Nat :=
  let mhz := pointMhz (floorPoint m)
  let latc := (rb r 151 136 * mhz + 99) / 100
  let count := rb r 46 32
  let steps := rb r 119 96
  40 + max (ceilDiv count 8 * steps) (max (4 * steps + rb r 135 120 * latc) (ceilDiv (count * rb r 183 152) 512)) + 24

/-- Time of a record in 10 ns steps at the frequency floor (R206). -/
def recTime (m : Mach) (r : Rec) : Nat :=
  match recOp r with
  | 1 => stepsAtFloor m (prismWcet r)
  | 2 => stepsAtFloor m (rayWcet r)
  | 3 => stepsAtFloor m (launchWcet m r)
  | 5 => stepsAtFloor m 20
  | 6 => stepsAtFloor m (40 + ceilDiv (rb r 191 160) 512 + 24)
  | 0x10 => 50 + ceilDiv (2 * rb r 223 192) 10000
  | _ => 0

/-! ### Users and positions (R416) -/

def rollOf (m : Mach) (j p : Nat) : Option Rollout := (pipeOf m j p).rollout

def userOf (m : Mach) (j p u : Nat) : Option RollUser := (rollOf m j p).bind fun r => (r.slots[u]?).bind id

def modUser (j p u : Nat) (g : RollUser → Option RollUser) (m : Mach) : Mach :=
  modPipe m j p fun x => { x with rollout := x.rollout.map fun r =>
    { r with slots := r.slots.modify u fun y => y.bind g } }

/-- Position of user slot `u`'s step at stage `s`. -/
def position (r : Rollout) (u s : Nat) : Nat := u + s + (r.e.take s).foldl (· + ·) 0

/-- Instant in the current tick at which the position starts. -/
def positionStart (m : Mach) (r : Rollout) (u s : Nat) : Nat := m.tick.edgeAt + (position r u s % r.pos) * r.tau

/-- Is the step of the user's current token due at the stage in the current tick? -/
def stepDue (m : Mach) (r : Rollout) (x : RollUser) (u s : Nat) : Bool :=
  match x.decodeFrom with
  | none => false
  | some d => m.tick.tickNo == d + x.tokens + x.late + position r u s / r.pos && !x.begun.contains s

/-- Stage context entry of a stage of the pipeline on this module. -/
def stageEntry (m : Mach) (j p s : Nat) : Option MapSc :=
  (fillMap m j).bind fun pm => (mapStages pm p).find? fun e => e.stage == s

/-- Takes the entry of a micro-batch from a chord's queue, wherever it stands: users' steps pass in their own order. -/
def takeById (n id : Nat) (m : Mach) : Mach :=
  match chordBy m n with
  | none => m
  | some c =>
    let m := tallySet m c.e.dstFacet c.e.readyTally (tallyGet m c.e.dstFacet c.e.readyTally - 1)
    modChord m n fun c => { c with
      queue := modFirst (fun q => q.mb.mbId == id) (fun _ => none) c.queue, taken := c.taken + 1 }

/-- The chord on which a user's input for a stage stands visible: the return chord at stage 0. -/
def stepInput (m : Mach) (e : MapSc) (id : Nat) : Option Nat :=
  ((inChords m e.facet e.sc 0 (e.stage == 0)).find? fun c =>
    c.queue.any fun q => q.visible && q.mb.mbId == id).map (·.e.chord)

/-! ### Units of a rollout slot -/

/-- Puts a decode step before the prefill work of its slot, behind steps that run or wait (R416, R417). -/
def insertStep (u : WorkUnit) (r : SlotRun) : SlotRun :=
  let rest := r.units.drop r.unitIdx
  let k := (rest.takeWhile fun v => v.dir == 3).length
  let us := r.units.take r.unitIdx ++ rest.take k ++ [u] ++ rest.drop k
  if k = 0 then { r with units := us, resume := if rest.isEmpty then r.resume else r.recIdx, recIdx := 0 }
  else { r with units := us }

/-- A rollout unit joins its stage context's slot. -/
def addRollUnit (f c : Nat) (e : MapSc) (u : WorkUnit) (m : Mach) : Mach :=
  let m := modSc m f c fun x => { x with fwd := 1 }
  match (scOf m f c).run with
  | none => beginRun f c e [u] [] m
  | some _ =>
    poke f c (modRun m f c fun r => if u.dir = 3 then insertStep u r else { r with units := r.units ++ [u] })

/-! ### The end of a sequence (R419) -/

/-- Writes the sampled tokens of the group in progress at TARGET. -/
def flushTokens (j p u : Nat) (m : Mach) : Mach :=
  match userOf m j p u with
  | none => m
  | some x =>
    if x.buf.isEmpty then m
    else
      let k := x.tokens - x.buf.length
      let m := emit m (.hostWrite x.ep (x.target + 4 * k) (x.buf.flatMap fun t => leBytes 4 t.toNat) false)
      modUser j p u (fun y => some { y with buf := [] }) m

/-- A sequence ends: reason 1 length, 2 stop, 3 abandoned, 4 no token. -/
def endSequence (j p u reason : Nat) (m : Mach) : Mach :=
  match userOf m j p u with
  | none => m
  | some x =>
    let m := flushTokens j p u m
    let m := modUser j p u (fun _ => none) m
    raise m rolloutDone (srcJob j) (some j) [j, p, x.mb.mbId, x.tokens, reason]

/-- Sequences whose micro-batch has been abandoned end (R164, R419). -/
def reapAbandoned (j p : Nat) (m : Mach) : Mach :=
  match rollOf m j p with
  | none => m
  | some r =>
    forAll (List.range r.slots.length) (fun m u =>
      match userOf m j p u with
      | some x => if (pipeOf m j p).abandoned.contains x.mb.mbId then endSequence j p u 3 m else m
      | none => m) m

/-! ### Steps -/

/-- A stage context whose handle names no program, or whose program is stale, takes nothing (R262, R408). -/
def takesNothing (m : Mach) (j : Nat) (e : MapSc) : Bool := (progImage m e.prog).isNone || staleFor m e.facet e.sc j e

/-- Starts a user's step at a stage when it is due, its position has begun and its input is visible (R416). -/
def tryStep (j p u s : Nat) (m : Mach) : Mach :=
  match rollOf m j p, userOf m j p u, stageEntry m j p s with
  | some r, some x, some e =>
    let start := positionStart m r u s
    if takesNothing m j e || !(stepDue m r x u s && slotAllowed m e.facet j && decide (start ≤ m.now) && decide (m.now + r.d ≤ start + r.tau)) then m
    else
      let first := s == 0 && x.tokens == 0
      match first, stepInput m e x.mb.mbId with
      | true, _ =>
        let m := modUser j p u (fun y => some { y with begun := y.begun ++ [s] }) m
        let a := acceptUnit e.facet e.sc j e ⟨3, x.mb, none⟩ m
        match a.1 with
        | some w => addRollUnit e.facet e.sc e w a.2
        | none => reapAbandoned j p a.2
      | false, some n =>
        let m := modUser j p u (fun y => some { y with begun := y.begun ++ [s] }) (takeById n x.mb.mbId m)
        let a := acceptUnit e.facet e.sc j e ⟨3, x.mb, some n⟩ m
        match a.1 with
        | some w => addRollUnit e.facet e.sc e w a.2
        | none => reapAbandoned j p a.2
      | false, none => m
  | _, _, _ => m

/-- DECODE_POSITION: a user's position at a stage begins. -/
def decodePositionOp (j p u s : Nat) (m : Mach) : Mach :=
  match rollOf m j p, userOf m j p u with
  | some r, some x => if stepDue m r x u s then byTime (positionStart m r u s) (tryStep j p u s) m else m
  | _, _ => m

/-- WAVE_MISS: the input has not come by the step's last start instant; this step and every later one of the user run
one tick later (R416). -/
def waveMissOp (j p u s : Nat) (m : Mach) : Mach :=
  match rollOf m j p, userOf m j p u with
  | some r, some x =>
    if !stepDue m r x u s || (jobOf m j).suspended then m
    else
      byTime (positionStart m r u s + r.tau - r.d) (fun m =>
      let m := tryStep j p u s m
      match userOf m j p u with
      | none => m
      | some y =>
        if stepDue m r y u s then
          raise (modUser j p u (fun y => some { y with late := y.late + 1 }) m) waveMissEv (srcJob j) (some j) [j, p, s, u]
        else m) m
  | _, _ => m

/-- Entries of a rollout pipeline that became visible on a chord: prefill chunks run in arrival order, chunk results
return to stage 0, and a decode step that waits for its input starts (R416–R418). -/
def rollArrive (n : Nat) (m : Mach) : Mach :=
  match chordBy m n with
  | none => m
  | some c =>
    match stageAt m c.job c.e.dstFacet c.e.dstSc with
    | none => m
    | some e =>
      let j := c.job
      let p := e.pipe
      match rollOf m j p with
      | none => m
      | some r =>
        forAll (c.queue.filter (·.visible)) (fun m q =>
          let u := (List.range r.slots.length).find? fun u => ((userOf m j p u).map fun x => x.mb.mbId == q.mb.mbId).getD false
          match u with
          | none => releaseEntry n (takeById n q.mb.mbId m)
          | some u =>
            match userOf m j p u with
            | none => m
            | some x =>
              if x.decodeFrom.isSome then tryStep j p u e.stage m
              else if e.stage = 0 then
                let m := releaseEntry n (takeById n q.mb.mbId m)
                modUser j p u (fun y => some { y with
                  chunks := y.chunks - 1
                  decodeFrom := if y.chunks ≤ 1 then some (m.tick.tickNo + 1) else none }) m
              else if takesNothing m j e then m
              else
                let a := acceptUnit e.facet e.sc j e ⟨2, q.mb, some n⟩ (takeById n q.mb.mbId m)
                match a.1 with
                | some w => addRollUnit e.facet e.sc e w a.2
                | none => reapAbandoned j p a.2) m

/-- A last-stage decode step completes (R419, R420). -/
def decodeStepOp (j p u : Nat) (m : Mach) : Mach :=
  match rollOf m j p, userOf m j p u with
  | some r, some x =>
    match stageEntry m j p (pipeStages m j p - 1) with
    | none => m
    | some e =>
      let f := e.facet
      let c := e.sc
      let y := scOf m f c
      match y.run with
      | none => m
      | some run =>
        match run.units[run.unitIdx]? with
        | none => m
        | some w =>
          if !(w.dir == 3 && w.mb.mbId == x.mb.mbId && unitDone m y run) then m
          else
            let at_ := r.tokenOfs + 8 * u
            let word := readChecked m f 0 at_ 8
            let v := leNat word.1
            let m := word.2.2
            if !tb v 63 then
              let m := abandonMb j p [x.mb.mbId] m
              poke f c (endUnitOn [] f c j e w (endSequence j p u 4 m))
            else
              let id := v % 2 ^ 32
              let m := writeChecked m f 0 at_ (leBytes 8 (v % 2 ^ 63))
              let m := modUser j p u (fun y => some { y with
                tokens := y.tokens + 1, buf := y.buf ++ [BitVec.ofNat 32 id], begun := [] }) m
              let n := x.tokens + 1
              let m := if x.buf.length = 15 then flushTokens j p u m else m
              let done := if n = x.targetLen / 4 then some 1 else if r.stopEn && id == r.stop.toNat then some 2 else none
              match done with
              | some why =>
                let m := lastUnit j p x.mb.vtag x.mb.mbId m
                poke f c (endUnitOn [] f c j e w (endSequence j p u why m))
              | none => poke f c (endUnit f c j e w m)
  | _, _ => m

/-! ### Users at an edge (R418) -/

/-- A free slot takes the head of the admission queue; unfit heads complete and the next one is considered. -/
def fillUser (j p u vtag : Nat) (e0 : MapSc) (r : Rollout) : Nat → Mach → Mach
  | 0, m => m
  | k + 1, m =>
    match (pipeOf m j p).queue with
    | [] => m
    | a :: _ =>
      let drop (m : Mach) : Mach := modPipe m j p fun x => { x with queue := x.queue.drop 1 }
      if a.targetLen = 0 ∨ a.targetLen % 4 ≠ 0 then fillUser j p u vtag e0 r k (completeAdmit j a 0x45 0 (drop m))
      else if r.ctxMax < a.len + a.targetLen / 4 then fillUser j p u vtag e0 r k (completeAdmit j a 0x43 0 (drop m))
      else
        let chunks := ceilDiv a.len r.chunk
        let mb : MbInfo := ⟨a.mbId, vtag, a.len, a.cost, 0, 1, j, p, m.tick.tickNo, false⟩
        let x : RollUser :=
          { mb := mb, target := a.target, targetLen := a.targetLen, chunks := chunks, decodeFrom := none,
            tokens := 0, buf := [], ep := portOf m a.ring, late := 0, begun := [] }
        let m := modPipe (drop m) j p fun y => { y with
          abandoned := y.abandoned.filter (· != a.mbId)
          admitted := y.admitted ++ [(a.mbId, a.len, 1)], liveMbs := y.liveMbs ++ [(a.mbId, vtag)]
          lastCursor := some (a.cursor, a.mbId)
          rollout := y.rollout.map fun q => { q with slots := q.slots.set u (some x) } }
        let m := completeAdmit j a 0 vtag (liveUp j p vtag m)
        forAll (List.range chunks) (fun m _ =>
          let t := acceptUnit e0.facet e0.sc j e0 ⟨2, mb, none⟩ m
          match t.1 with
          | some w => addRollUnit e0.facet e0.sc e0 w t.2
          | none => reapAbandoned j p t.2) m

/-- Free user slots, lowest first, take sequences. -/
def fillUsers (j p : Nat) (m : Mach) : Mach :=
  match rollOf m j p, (pipeOf m j p).pub, stageEntry m j p 0 with
  | some r, some v, some e0 =>
    if !slotAllowed m e0.facet j || takesNothing m j e0 then m
    else forAll (List.range r.users) (fun m u =>
      if (userOf m j p u).isSome then m else fillUser j p u v e0 r ((pipeOf m j p).queue.length + 1) m) m
  | _, _, _ => m

/-! ### Prefill time (R417) -/

/-- Intervals of the current tick that the stage keeps for the steps of live users. -/
def reservedAt (m : Mach) (j p : Nat) (r : Rollout) (s : Nat) : List (Nat × Nat) :=
  (List.range r.slots.length).filterMap fun u =>
    match userOf m j p u with
    | some x =>
      match x.decodeFrom with
      | some d =>
        if d ≤ m.tick.tickNo then some (positionStart m r u s, positionStart m r u s + r.tau) else none
      | none => none
    | none => none

/-- Does a prefill command of the stage fit now: before the next kept interval and the end of the tick, within the
budget? -/
def prefillFits (m : Mach) (j : Nat) (e : MapSc) (t : Nat) : Bool :=
  match rollOf m j e.pipe with
  | none => true
  | some r =>
    decide (m.now + t ≤ m.tick.edgeAt + admitLen m)
      && (r.prefillBudget == 0 || decide ((scOf m e.facet e.sc).prefill + t ≤ r.prefillBudget))
      && (reservedAt m j e.pipe r e.stage).all fun i => decide (m.now + t ≤ i.1) || decide (i.2 ≤ m.now)

/-- The gate of R417 on the next record, and the time it takes. -/
def prefillGate (f c : Nat) (r : Rec) (m : Mach) : Bool :=
  match (scOf m f c).owner, (scOf m f c).run with
  | some (j, e), some run =>
    match run.units[run.unitIdx]? with
    | some u => u.dir != 2 || prefillFits m j e (recTime m r)
    | none => true
  | _, _ => true

/-- Counts the time of a prefill command that was issued. -/
def countPrefill (f c : Nat) (r : Rec) (m : Mach) : Mach :=
  let t := recTime m r
  modSc m f c fun x =>
    match x.run.bind fun run => run.units[run.unitIdx]? with
    | some u => if u.dir = 2 then { x with prefill := x.prefill + t } else x
    | none => x

def execDecodePosition (j p u st : Nat) (s : State) : Res :=
  actReady (decide (j < 16 ∧ p < 4 ∧ u < 255)) (decodePositionOp j p u st) s
def execWaveMiss (j p u st : Nat) (s : State) : Res :=
  actReady (decide (j < 16 ∧ p < 4 ∧ u < 255)) (waveMissOp j p u st) s
end Sys2Proof.Machine
end

