-- ==== Sys2Proof/Machine/Remote.lean ====
section
/-!
DEFINITION. Remote operations (R276–R290): what a target does with an operation, tallies and those that wait on them,
barriers (R285, R286), and the checks and issue of operations.
-/
namespace Sys2Proof.Machine

/-! ### Kinds (Tables 9.3, 9.4) -/

/-- Spaces that an operation accepts. -/
def opSpaces (op : Nat) : List Nat :=
  if op = 0x30 ∨ op = 0x32 then [0, 1, 3, 4]
  else if op = 0x31 ∨ op = 0x33 then [0, 1, 3]
  else if op = 0x34 ∨ op = 0x35 then [0, 1]
  else [2]

def opPerm (op : Nat) : Perm :=
  if op = 0x30 ∨ op = 0x32 then .read
  else if op = 0x31 ∨ op = 0x33 then .write
  else if op = 0x34 ∨ op = 0x35 then .atomic
  else .tally

/-- PUT, PUTB, RED and TADD are acknowledged, the others answered (R279). -/
def opIsWrite (op : Nat) : Bool := op == 0x31 || op == 0x33 || op == 0x35 || op == 0x38

/-! ### Tallies (R282, R283) -/

/-- Is a wait's condition met? -/
def tallyMet (v target : W32) (eq : Bool) : Bool := if eq then v == target else decide (0 ≤ sInt 32 (v - target).toNat)

def modStrand (m : Mach) (f i : Nat) (g : Strand → Strand) : Mach :=
  modFacet m f fun x => { x with strands := x.strands.map fun s => if s.idx == i then g s else s }

def strandOf (m : Mach) (f i : Nat) : Option Strand := (facetOf m f).strands.find? fun s => s.idx == i

/-- Register write of a strand: s0 discards (R266). -/
def setReg (s : Strand) (r : Nat) (v : Word) : Strand := if r = 0 then s else { s with regs := s.regs.set r v }

def getReg (s : Strand) (r : Nat) : Word := if r = 0 then 0 else s.regs.getD r 0

/-- A TALLY_WAIT record ends with a status; the program goes on (R287). -/
def endTallyWait (f c tag status : Nat) (m : Mach) : Mach :=
  let m := giveWord f c tag 0 status 0x04 m
  poke f c (modRun m f c fun r => { r with wait := .none })

/-- A tally of the facet changed: waits whose condition it meets end (R282). -/
def tallyWake (f t : Nat) (m : Mach) : Mach :=
  let v := tallyGet m f t
  let m := modFacet m f fun x => { x with strands := x.strands.map fun s =>
    match s.wait with
    | .tally n target eq _ rd => if n = t ∧ tallyMet v target eq then setReg { s with wait := .run } rd 0 else s
    | _ => s }
  forAll (List.range 4) (fun m c =>
    match (scOf m f c).run with
    | some r =>
      match r.wait with
      | .tally n target eq _ tag => if n = t ∧ tallyMet v target eq then endTallyWait f c tag 0 m else m
      | .none => m
    | none => m) m

/-- A tally operation takes effect: add, or set with MOD bit 0. -/
def tallyOp (f t mod : Nat) (v : W32) (m : Mach) : Mach :=
  let m := if tb mod 0 then tallySet m f t v else tallyAddN m f t v.toNat
  if f < 104 then tallyWake f t m else m

/-- CREDIT arrives: the producer's tally rises, and a wait for it may end. -/
def creditOp (n cnt : Nat) (m : Mach) : Mach :=
  match chordBy m n with
  | none => m
  | some c =>
    if !chordOpen c || !hasProducer c.e then m else tallyWake c.e.srcFacet c.e.creditTally (addCredit n cnt m)

/-! ### Barriers (R285, R286) -/

/-- Is facet `f` a member of barrier `b` of job `j`? -/
def barMember (m : Mach) (j b f : Nat) : Bool :=
  if f < 64 then tb (regN m (offJobMask j b)) f else tb (regN m (offJobMask j b + 8)) (f - 64)

/-- A facet arrives; the last arrival releases every member. -/
def barArrive (j b f : Nat) (m : Mach) : Mach :=
  let ctl := regN m (offJobBar j b)
  let bar := ((jobOf m j).bars[b]?).getD ⟨[]⟩
  if !tb ctl 0 || !barMember m j b f || bar.arrived.contains f then raise m barErr (srcJob j) (some j) [j, b, f]
  else
    let now := bar.arrived ++ [f]
    let members := (List.range 96).filter (barMember m j b)
    let setBar (l : List Nat) (m : Mach) : Mach := modJob m j fun x => { x with bars := x.bars.set b ⟨l⟩ }
    if members.all now.contains then
      forAll members (fun m g => tallyOp g (bf ctl 15 4) 0 1 m) (setBar [] m)
    else setBar now m

/-! ### The target (R278, R279, R289) -/

/-- Table 9.4 operation on integers of `n` bytes, or FP32. -/
def atomValue (mod n old x cmp : Nat) : Nat :=
  let w := 8 * n
  let s := sInt w
  match mod with
  | 0 => (old + x) % 2 ^ w
  | 1 => old &&& x
  | 2 => old ||| x
  | 3 => old ^^^ x
  | 4 => if s x < s old then x else old
  | 5 => if s old < s x then x else old
  | 6 => min old x
  | 7 => max old x
  | 8 => x
  | 9 => if old = cmp then x else old
  | 10 => (add32 old x).1
  | _ => (fpEnc f32 (fpMax (v32 old) (v32 x))).1

/-- Bytes of a space as an operation reads them; space 4 holds the locus tables (R146). -/
def readSpace (m : Mach) (l : Lat) (n : Nat) : List Byte × Bool × Mach :=
  if l.space = 4 then
    let tables := (List.range 4).drop (l.off / 4096)
    (((tables.flatMap fun c => locusBytes (locusOf m l.facet c)).drop (l.off % 4096)).take n, false, m)
  else readChecked m l.facet (realSpace l.space) l.off n

/-- What an entry committed through the window starts: waits for the ready tally end (R282), and a WAVE consumer takes it. -/
def afterCommit (n : Nat) (m : Mach) : Mach :=
  match chordBy m n with
  | none => m
  | some c =>
    let m := tallyWake c.e.dstFacet c.e.readyTally m
    if c.e.mode ≠ 1 then m
    else
      let e := stageAt m c.job c.e.dstFacet c.e.dstSc
      let roll := match e with | some e => (rollOf m c.job e.pipe).isSome | none => false
      if decide (c.e.kind < 2) && roll then rollArrive n m
      else if c.e.kind < 2 then waveArrive c.e.dstFacet c.e.dstSc c.e.kind m
      else expertArrive c.e.dstFacet c.e.dstSc c.e.kind m

/-- What follows a write through a facet's arc-queue window: a committed entry starts work, and a slot whose WAVE side a dropped
entry made a bubble goes on. -/
def afterWindow (f off : Nat) (w : Option Nat × Mach) : Mach :=
  match w.1, ringChord w.2 f off with
  | some n, _ => afterCommit n w.2
  | none, some c => poke c.e.dstFacet c.e.dstSc w.2
  | none, none => w.2

/-- Is the target refused (R24, R289): its die has failed and no takeover refills its reserve, no die holds the reserve index,
or this module is frozen or detached and the operation comes from outside? -/
def targetMissing (m : Mach) (l : Lat) (far : Bool) : Bool :=
  (decide (l.facet < 96) && (facetOf m l.facet).failed && !(facetOf m l.facet).holding)
    || (decide (96 ≤ l.facet) && decide (l.facet < 104) && (siteOf m l.facet).isNone)
    || (far && (m.twin.frozen || m.twin.detached))

/-- Is the operation held at its target while a site refills or is under test (R289, R519, R526)? -/
def targetHeld (m : Mach) (l : Lat) : Bool := decide (l.facet < 104) && (facetOf m l.facet).holding

/-- A write through an arc-queue window by another writer than the chord's producer counts against the queue's credit tally (R36):
an entry that it commits lowers the tally of a producer on this module by one, unless it is 0.  Log entry 80. -/
def countForeign (n : Option Nat) (m : Mach) : Mach :=
  match n.bind (chordBy m) with
  | none => m
  | some c =>
    if producesHere m c.e && hasCredit m c.e then
      tallySet m c.e.srcFacet c.e.creditTally (tallyGet m c.e.srcFacet c.e.creditTally - 1)
    else m

/-- An operation takes effect at its target: status and data of the reply. -/
def perform (r : RemoteReq) (far : Bool) (m : Mach) : Nat × List Byte × Mach :=
  let l := latOf r.laddr.toNat
  let op := r.op.toNat
  let f := l.facet
  if targetMissing m l far then (0x5E, [], m)
  else if op = 0x30 ∨ op = 0x32 then
    let x := readSpace m l r.bytes
    (if x.2.1 then 0x0F else 0, x.1, x.2.2)
  else if op = 0x31 ∨ op = 0x33 then
    if l.space = 3 then
      let w := windowWrite f l.off r.data m
      (0, [], afterWindow f l.off (w.1, countForeign w.1 w.2))
    else (0, [], writeChecked m f l.space l.off r.data)
  else if op = 0x34 ∨ op = 0x35 then
    let x := readChecked m f l.space l.off r.bytes
    let new := atomValue r.mod r.bytes (leNat x.1) (leNat r.data % 2 ^ (8 * r.bytes)) (r.compare.toNat % 2 ^ (8 * r.bytes))
    (if x.2.1 then 0x0F else 0, if op = 0x34 then x.1 else [], writeChecked x.2.2 f l.space l.off (leBytes r.bytes new))
  else if op = 0x38 then (0, [], tallyOp f (l.off / 4) r.mod (BitVec.ofNat 32 (leNat r.data)) m)
  else (0, leBytes 4 (tallyGet m f (l.off / 4)).toNat, m)

/-! ### Issue -/

/-- Status of an operation's checks: STRAND_BAD for the space and the alignment (R275, R276), then R38, then the route
(R289). -/
def remoteStatus (m : Mach) (j op align bytes : Nat) (a : Word) : Nat :=
  let l := latOf a.toNat
  if !(opSpaces op).contains l.space || l.off % align != 0 then 0x5C
  else
    let st := latStatus m j l bytes (opPerm op)
    if st ≠ 0 then st
    else if l.mod ≠ self m ∧ (routeOf m l.mod).isNone then 0x5F
    else 0

/-- Status of a local access (R275): space 0 of the issuing facet. -/
def localStatus (m : Mach) (j f off bytes : Nat) (p : Perm) : Nat := latStatus m j ⟨self m, f, 0, off⟩ bytes p

/-- Has an earlier operation of the same issuer to the same die still to take effect (R280)? -/
def earlierOp (m : Mach) (fl : Flight) : Bool :=
  let l := latOf fl.req.laddr.toNat
  m.flights.any fun g => decide (g.opid < fl.opid) && g.issuer == fl.issuer
    && g.state == .requested
    && (latOf g.req.laddr.toNat).mod == l.mod && (latOf g.req.laddr.toNat).facet == l.facet

/-- HBM offset of a stage context's own access: the activation range of its policy goes to the slot of the unit that runs
(R312). -/
def actRedirect (m : Mach) (f c : Nat) (l : Lat) : Lat :=
  match (scOf m f c).owner, (scOf m f c).run with
  | some (j, e), some r =>
    match actPolicyOf m j e, r.units[r.unitIdx]? with
    | some a, some u =>
      if l.mod = self m ∧ l.facet = f ∧ l.space = 1 ∧ a.base * 4096 ≤ l.off ∧ l.off < a.base * 4096 + a.bytes then
        match actOf (scOf m f c) (actKey u.mb) with
        | some s => { l with off := l.off + s.slot * a.bytes }
        | none => l
      else l
    | _, _ => l
  | _, _ => l

end Sys2Proof.Machine
end

