-- ==== Sys2Proof/Machine/Strands.lean ====
section
/-!
DEFINITION. Strands (R266–R283, R291): launch, start, the strand instructions, and the end of a launch group.
-/
namespace Sys2Proof.Machine

/-! ### Issuing a record -/

/-- Issues the next record of a stage context when it is of the kind `ok`; a record that was issued counts toward the
prefill budget (R417) and the slot goes on.  A record that must wait leaves the state unchanged (R561). -/
def takeRecord (f c : Nat) (ok : Nat → Bool) (k : Rec → Nat → Mach → Mach) (m : Mach) : Mach :=
  match issuable m f c with
  | none => m
  | some (r, j) =>
    if ok (recOp r) && prefillGate f c r m then
      let m2 := k r j m
      let idx (m : Mach) : Option Nat := (scOf m f c).run.map (·.recIdx)
      if idx m2 == idx m then m2 else poke f c (countPrefill f c r m2)
    else m

/-! ### Groups and their strands -/

def launchGroup (m : Mach) (f g : Nat) : Option Group := (facetOf m f).groups.find? fun x => x.gid == g

def modGroup (m : Mach) (f g : Nat) (h : Group → Group) : Mach :=
  modFacet m f fun x => { x with groups := x.groups.map fun y => if y.gid == g then h y else y }

def gCount (g : Group) : Nat := rb g.cmd 46 32
def gArg (g : Group) : Nat := rb g.cmd 89 64
def gSteps (g : Group) : Nat := rb g.cmd 119 96
def gWaits (g : Group) : Nat := rb g.cmd 135 120
def gBytes (g : Group) : Nat := rb g.cmd 183 152
def gDoneTally (g : Group) : Nat := rb g.cmd 195 184
def gDoneEn (g : Group) : Bool := tb g.cmd.toNat 196
def gAsync (g : Group) : Bool := tb g.cmd.toNat 197

/-- Instructions of an image: eight to a 64-byte record. -/
def strandWords (l : List Rec) : List Word :=
  l.flatMap fun r => (List.range 8).map fun i => word (rb r (64 * i + 63) (64 * i))

/-- Operations of a strand that have not been settled. -/
def strandFlights (m : Mach) (f i : Nat) : List Flight := m.flights.filter fun fl => !fl.orphan && fl.issuer == .strand f i

/-- A strand that has halted or faulted leaves its slot once its operations are settled (R269). -/
def reapStrand (f i : Nat) (m : Mach) : Mach :=
  match strandOf m f i with
  | none => m
  | some s =>
    if (s.wait == .done || s.wait == .halting) && (strandFlights m f i).isEmpty then
      let m := modFacet m f fun x => { x with strands := x.strands.filter fun t => t.idx != i }
      modGroup m f s.group fun g => { g with ended := g.ended + 1, flags := g.flags ||| s.flags }
    else m

/-- A strand faults: it stops, and the group keeps its first fault (R269, R291). -/
def strandFaultAt (f i pc st : Nat) (m : Mach) : Mach :=
  match strandOf m f i with
  | none => m
  | some s =>
    if s.wait == .done then m
    else
      let m := modStrand m f i fun s => { s with wait := .done }
      reapStrand f i (modGroup m f s.group fun g => { g with
        fault := some (g.fault.getD (st, s.member, pc)), nFault := g.nFault + 1 })

/-- Enters a blocking point (R270), unless the strand is in one already. -/
def blockStrand (f : Nat) (s : Strand) (g : Group) (w : StrandWait) (m : Mach) : Mach :=
  if s.wait != .run then m
  else if gWaits g ≤ s.waits then strandFaultAt f s.idx s.pc 0x5D m
  else modStrand m f s.idx fun t => { t with wait := w, waits := t.waits + 1 }

/-- The instruction has executed: step count and program counter move on. -/
def retireInstr (f i : Nat) (h : Strand → Strand) (m : Mach) : Mach :=
  modStrand m f i fun s => h { s with steps := s.steps + 1, pc := s.pc + 1, wait := .run }

/-! ### Launch (R267, R268, R272) -/

/-- Strand handles that the launch records of a facet's stage programs name, of running and suspended jobs, in increasing order. -/
def strandHandles (m : Mach) (f : Nat) : List Nat :=
  let of (j : Nat) (e : MapSc) : List Nat :=
    ((stageHandles m j e).flatMap (imageOf m)).filterMap fun r => if recOp r = 3 then some (rb r 31 16) else none
  let named := (List.range 16).flatMap fun j => (List.range 4).flatMap fun c => ((stageAt m j f c).map (of j)).getD []
  (List.range 4096).filter named.contains

/-- Installs the strand programs of a facet in its 256 KiB of program memory; a handle that does not fit, or names no
strand program, is left out (R272). -/
def installStrands (f : Nat) (m : Mach) : Mach :=
  let l := (strandHandles m f).foldl (fun (acc : List (Nat × List Rec) × Nat) h =>
    match progImage m h with
    | some p =>
      if p.strand && decide (acc.2 + 64 * p.image.length ≤ 262144) then
        (acc.1 ++ [(h, p.image)], acc.2 + 64 * p.image.length)
      else acc
    | none => acc) (([] : List (Nat × List Rec)), 0)
  modFacet m f fun x => { x with strandProgs := l.1 }

/-- STRAND_LAUNCH: a launch group opens, or the record completes STRAND_NOPROG. -/
def strandLaunchOp (f c : Nat) (r : Rec) (j : Nat) (m : Mach) : Mach :=
  let x := facetOf m f
  let h := rb r 31 16
  match x.strandProgs.find? fun p => p.1 == h with
  | none =>
    let m := stepRec f c 0 m
    let m :=
      if x.scs.any fun y => y.missing.contains h then m
      else raise (modSc m f c fun y => { y with missing := h :: y.missing }) progMissing (srcFacet f 4) (some j) [j, f, c, h]
    giveWord f c (recTag r) 0 0x62 3 m
  | some p =>
    let g : Group :=
      { gid := x.nextGroup, sc := c, job := j, cmd := r, prog := strandWords p.2, started := 0, ended := 0, flags := 0,
        fault := none, nFault := 0, asyncDone := false, touched := [] }
    stepRec f c 1 (modFacet m f fun x => { x with groups := x.groups ++ [g], nextGroup := x.nextGroup + 1 })

/-- Lowest free strand of pipe `p` (R266, R267). -/
def freeStrand (x : Facet) (p : Nat) : Option Nat :=
  ((List.range 2048).map fun k => 8 * k + p).find? fun i => !(x.strands.any fun s => s.idx == i)

/-- STRAND_START: the next strand of the group starts in its pipe; the last one completes an ASYNC record. -/
def strandStartOp (f gid : Nat) (m : Mach) : Mach :=
  match launchGroup m f gid with
  | none => m
  | some g =>
    if gCount g ≤ g.started || (facetOf m f).failed then m
    else
      match freeStrand (facetOf m f) (g.started % 8) with
      | none => m
      | some i =>
        let s : Strand :=
          { idx := i, group := gid, member := g.started
            regs := [0, word g.started, word (gCount g), word (gArg g)] ++ List.replicate 12 0
            pc := 0, flags := 0, steps := 0, waits := 0, bytes := 0, wait := .run }
        let m := modFacet m f fun x => { x with strands := x.strands ++ [s] }
        let m := modGroup m f gid fun g => { g with started := g.started + 1 }
        if gAsync g && g.started + 1 == gCount g then
          let m := modGroup m f gid fun g => { g with asyncDone := true }
          poke f g.sc (modRun m f g.sc fun r => { r with inFlight := r.inFlight - 1 })
        else m

/-- The unit that a stage context runs. -/
def currentUnit (m : Mach) (f c : Nat) : Option WorkUnit := (scOf m f c).run.bind fun r => r.units[r.unitIdx]?

/-- GROUP_END (R269): DONE_TALLY, the completion word, STRAND_FAULT, and one entry on every expert dispatch chord into
whose payload slots the group wrote (R138): when and how many entries is the model's choice (DESIGN CHOICE, log entry 75). -/
def groupEndOp (f gid : Nat) (m : Mach) : Mach :=
  match launchGroup m f gid with
  | none => m
  | some g =>
    if g.started < gCount g || g.ended < g.started then m
    else
      let m := modFacet m f fun x => { x with groups := x.groups.filter fun y => y.gid != gid }
      let m := if gDoneEn g then tallyOp f (gDoneTally g) 0 1 m else m
      let st := (g.fault.map (·.1)).getD 0
      let m := match g.fault with
        | some (st, k, pc) => raise m strandFault (srcFacet f 3) (some g.job) [f, g.sc, k, pc, st, g.nFault]
        | none => m
      let m := match currentUnit m f g.sc with
        | some u => forAll g.touched (fun m n =>
            sendEntry n u.mb (modRun m f g.sc fun r => { r with away := r.away + 1 })) m
        | none => m
      let m := giveWord f g.sc (recTag g.cmd) g.flags st 3 m
      poke f g.sc (countDebt f g.job (if g.asyncDone then m else modRun m f g.sc fun r => { r with inFlight := r.inFlight - 1 }))

/-! ### Instructions (Tables 9.2, 9.3) -/

def iOp (w : Word) : Nat := wf w 63 56
def iRd (w : Word) : Nat := wf w 55 52
def iRa (w : Word) : Nat := wf w 51 48
def iRb (w : Word) : Nat := wf w 47 44
def iRc (w : Word) : Nat := wf w 43 40
def iSize (w : Word) : Nat := wf w 39 36
def iMod (w : Word) : Nat := wf w 35 32
/-- IMM, sign-extended. -/
def iImm (w : Word) : Word := (w.setWidth 32).signExtend 64

/-- Registers that an instruction reads or writes. -/
def iRegs (w : Word) : List Nat :=
  let op := iOp w
  let d := iRd w
  let a := iRa w
  let b := iRb w
  let c := iRc w
  if op ≤ 1 ∨ op = 0x26 ∨ op = 0x3B ∨ op = 0x3C then []
  else if op = 0x1B ∨ op = 0x3A ∨ (op = 0x34 ∧ iMod w = 9) then [d, a, b, c]
  else if op = 0x1E ∨ op = 0x28 ∨ op = 0x30 ∨ op = 0x39 then [d, a]
  else if (0x20 ≤ op ∧ op ≤ 0x25) ∨ op = 0x29 ∨ (0x31 ≤ op ∧ op ≤ 0x33) ∨ op = 0x35 ∨ op = 0x38 then [a, b]
  else [d, a, b]

/-- Does a register of the instruction wait for a reply (R277)?  s0 receives none. -/
def regsBusy (m : Mach) (f i : Nat) (w : Word) : Bool :=
  (strandFlights m f i).any fun fl => match fl.dest with
    | some r => r != 0 && (iRegs w).contains r
    | none => false

/-- Runs `body` when the strand's next instruction is of the row's kind and its registers are free; an instruction beyond
STEPS faults (R270). -/
def strandStep (f i : Nat) (ok : Nat → Bool) (body : Strand → Group → Word → Mach → Mach) (m : Mach) : Mach :=
  match strandOf m f i with
  | none => m
  | some s =>
    match launchGroup m f s.group with
    | none => m
    | some g =>
      match g.prog[s.pc]? with
      | none => m
      | some w =>
        if !(s.wait == .run || s.wait == .blocked) || (facetOf m f).failed || !ok (iOp w) then m
        else if regsBusy m f i w then blockStrand f s g .blocked m
        else if gSteps g ≤ s.steps then strandFaultAt f i s.pc 0x5D m
        else body s g w m

/-- b of Table 9.3. -/
def iB (s : Strand) (w : Word) : Word := getReg s (iRb w) + iImm w

/-- Integer operations: code, s[RA], b. -/
def strandInt (op : Nat) (a b : Word) : Word :=
  let k := b.toNat % 64
  match op with
  | 0x02 => a + b
  | 0x03 => a - b
  | 0x04 => a * b
  | 0x05 => a &&& b
  | 0x06 => a ||| b
  | 0x07 => a ^^^ b
  | 0x08 => a <<< k
  | 0x09 => a >>> k
  | 0x0A => a.sshiftRight k
  | 0x0B => if a.slt b then 1 else 0
  | 0x0C => if a.ult b then 1 else 0
  | 0x0D => if b.slt a then b else a
  | 0x0E => if a.slt b then b else a
  | 0x0F => if b.ult a then b else a
  | _ => if a.ult b then b else a

/-- FP32 operations: code and the low 32 bits of the operands (R274). -/
def strandFp (op a b c : Nat) : Fl Nat :=
  match op with
  | 0x18 => add32 a b
  | 0x19 => sub32 a b
  | 0x1A => mul32 a b
  | 0x1B => fma32 a b c
  | 0x1C => r32 (fpMin (v32 a) (v32 b), 0)
  | _ => r32 (fpMax (v32 a) (v32 b), 0)

/-- Conversions of FCVT. -/
def strandCvt (mod : Nat) (a : Word) : Fl Word :=
  let x := a.toNat
  let up (r : Fl Nat) : Fl Word := (word r.1, r.2)
  match mod with
  | 0 => up (fpEnc fBf16 (v32 (x % 2 ^ 32)))
  | 1 => up (fpEnc f32 (fpDec fBf16 (x % 2 ^ 16)))
  | 2 => up (fpEnc f32 (fpInt (sInt 32 (x % 2 ^ 32))))
  | 3 => let r := fpToInt 32 (v32 (x % 2 ^ 32)); (word (uBits 64 r.1), r.2)
  | 4 => up (fpEnc f32 (fpDec fF16 (x % 2 ^ 16)))
  | _ => up (fpEnc fF16 (v32 (x % 2 ^ 32)))

/-- Branch conditions of Table 9.3. -/
def strandTaken (op : Nat) (a b : Word) : Bool :=
  match op with
  | 0x20 => a == b
  | 0x21 => a != b
  | 0x22 => a.slt b
  | 0x23 => !a.slt b
  | 0x24 => a.ult b
  | 0x25 => !a.ult b
  | _ => true

/-- Writes a result and ORs flags. -/
def putResult (w : Word) (v : Word) (fl : Nat) (s : Strand) : Strand :=
  setReg { s with flags := s.flags ||| fl } (iRd w) v

def strandNopOp (f i : Nat) (m : Mach) : Mach := strandStep f i (· == 0) (fun _ _ _ m => retireInstr f i id m) m

/-- HALT ends the strand once its operations are acknowledged; a wait for them is a blocking point. -/
def haltOp (f i : Nat) (m : Mach) : Mach :=
  strandStep f i (· == 1) (fun s g _ m =>
    if (strandFlights m f i).isEmpty then reapStrand f i (modStrand m f i fun t => { t with wait := .done })
    else blockStrand f { s with wait := .run } g .halting m) m

def strandIntOp (f i : Nat) (m : Mach) : Mach :=
  strandStep f i (fun o => decide (2 ≤ o ∧ o ≤ 0x10)) (fun s _ w m =>
    retireInstr f i (putResult w (strandInt (iOp w) (getReg s (iRa w)) (iB s w)) 0) m) m

def strandFpOp (f i : Nat) (m : Mach) : Mach :=
  strandStep f i (fun o => decide (0x18 ≤ o ∧ o ≤ 0x1D)) (fun s _ w m =>
    let lo (r : Nat) : Nat := (getReg s r).toNat % 2 ^ 32
    let v := strandFp (iOp w) (lo (iRa w)) (lo (iRb w)) (lo (iRc w))
    retireInstr f i (putResult w (word v.1) v.2) m) m

def fcvtOp (f i : Nat) (m : Mach) : Mach :=
  strandStep f i (· == 0x1E) (fun s _ w m =>
    let v := strandCvt (iMod w) (getReg s (iRa w))
    retireInstr f i (putResult w v.1 v.2) m) m

def fcmpOp (f i : Nat) (m : Mach) : Mach :=
  strandStep f i (· == 0x1F) (fun s _ w m =>
    let a := v32 ((getReg s (iRa w)).toNat % 2 ^ 32)
    let b := v32 ((getReg s (iRb w)).toNat % 2 ^ 32)
    let v := match iMod w with
      | 0 => fpEq a b
      | 1 => fpLt false a b
      | _ => fpLt false a b || fpEq a b
    retireInstr f i (putResult w (word (b2n v)) 0) m) m

/-- A branch compares s[RA] with s[RB]; the target counts instructions from the branch itself. -/
def strandBranchOp (f i : Nat) (m : Mach) : Mach :=
  strandStep f i (fun o => decide (0x20 ≤ o ∧ o ≤ 0x26)) (fun s _ w m =>
    let go := strandTaken (iOp w) (getReg s (iRa w)) (getReg s (iRb w))
    let pc := if go then (word s.pc + iImm w).toNat else s.pc + 1
    modStrand m f i fun s => { s with steps := s.steps + 1, pc := pc, wait := .run }) m

/-- Status of a local access of 2^SIZE bytes (R275). -/
def strandLocal (m : Mach) (j f off n al : Nat) (p : Perm) : Nat :=
  if off % al ≠ 0 then 0x5C else localStatus m j f off n p

/-- Address s[RA] + IMM. -/
def iAddr (s : Strand) (w : Word) : Word := getReg s (iRa w) + iImm w

def ldlOp (f i : Nat) (m : Mach) : Mach :=
  strandStep f i (· == 0x28) (fun s g w m =>
    let n := 2 ^ iSize w
    let a := (iAddr s w).toNat
    let st := strandLocal m g.job f a n n .read
    if st ≠ 0 then strandFaultAt f i s.pc st m
    else
      let x := readChecked m f 0 a n
      if x.2.1 then strandFaultAt f i s.pc 0x0F x.2.2
      else retireInstr f i (putResult w (word (leNat x.1)) 0) x.2.2) m

def stlOp (f i : Nat) (m : Mach) : Mach :=
  strandStep f i (· == 0x29) (fun s g w m =>
    let n := 2 ^ iSize w
    let a := (iAddr s w).toNat
    let st := strandLocal m g.job f a n n .write
    if st ≠ 0 then strandFaultAt f i s.pc st m
    else match payloadWrite m f g.sc ⟨self m, f, 0, a⟩ n with
      | .wait k => blockStrand f s g .blocked (beginWait k m)
      | .go l _ m => retireInstr f i id (writeChecked m f 0 l.off (leBytes n (getReg s (iRb w)).toNat))) m

/-! ### Remote operations of strands (R276–R281) -/

/-- The expert dispatch chord of a stage context into whose payload ring an operation writes (R138). -/
def payloadChord (m : Mach) (f c : Nat) (a : Word) : Option Nat :=
  let l := latOf a.toNat
  ((outChords m f c 2 false).find? fun x =>
    x.e.dstModule == l.mod && x.e.dstFacet == l.facet && x.e.payloadSpace == l.space
      && decide (x.e.payloadBase * 4096 ≤ l.off)
      && decide (l.off < x.e.payloadBase * 4096 + x.e.payloadSize * chordDepth x.e)).map (·.e.chord)

/-- Tokens that the current unit has sent on a dispatch chord, and those that the replicas it leads to take (R138). -/
def sentTokens (r : SlotRun) (k : Nat) : Nat := ((r.tokens.find? fun t => t.1 == k).map (·.2)).getD 0
def tokenRoom (pm : PlaceMap) (k : Nat) : Nat := ((pm.experts.filter fun x => x.chord == k).map (·.capacity)).foldl (· + ·) 0

/-- Replica that takes a token which a strand writes for the replica behind chord `k` (R138): that one, or, when it is full, the
next of its expert in cyclic order with room; none when every replica is full.  Log entry 75. -/
def routeToken (pm : PlaceMap) (r : SlotRun) (k : Nat) : Option Nat :=
  let full (n : Nat) : Bool := decide (tokenRoom pm n ≤ sentTokens r n)
  match pm.experts.find? fun x => x.chord == k with
  | none => some k
  | some x =>
    let reps := (pm.experts.filter fun y => y.expert == x.expert).mergeSort fun a b => decide (a.replica ≤ b.replica)
    let turn := (reps.filter fun y => decide (x.replica ≤ y.replica)) ++ reps.filter fun y => decide (y.replica < x.replica)
    (turn.map (·.chord)).find? fun n => !full n

/-- A strand's block write into the payload ring of a dispatch chord carries a token (R138): it goes to the same place of the
ring of the replica that takes it; with every replica full it goes nowhere and is counted in EXPERT_OVERFLOW. -/
inductive TokenCase where
  | go (l : Lat) (m : Mach)
  | lost (m : Mach)

def placeToken (m : Mach) (f c op : Nat) (l : Lat) : TokenCase :=
  match payloadChord m f c (word (latAddr l)), (scOf m f c).owner, (scOf m f c).run with
  | some k, some (j, e), some r =>
    match fillMap m j with
    | none => .go l m
    | some pm =>
      if op ≠ 0x33 then .go l m
      else
        match routeToken pm r k with
        | none => .lost (modPipe m j e.pipe fun p => { p with stats := { p.stats with overflow := p.stats.overflow + 1 } })
        | some n =>
          let m := modRun m f c fun r => { r with tokens := (r.tokens.filter fun t => t.1 != n) ++ [(n, sentTokens r n + 1)] }
          match chordBy m k, chordBy m n with
          | some a, some b =>
            if n = k then .go l m
            else .go ⟨b.e.dstModule, b.e.dstFacet, b.e.payloadSpace,
              b.e.payloadBase * 4096 + (l.off - a.e.payloadBase * 4096) % b.e.payloadSize⟩ m
          | _, _ => .go l m
  | _, _, _ => .go l m

/-- A block operation that has gone counts its bytes against BYTES (R270). -/
def addMoved (w : Word) (n : Nat) (s : Strand) : Strand :=
  { s with bytes := s.bytes + if iOp w = 0x32 ∨ iOp w = 0x33 then n else 0 }

/-- Issues a remote operation of a strand: its checks, a ninth operation waits (R277), and it sets out; a write into a payload
ring goes to the slot of the next entry once its credit is taken (R117). -/
def strandRemote (f i : Nat) (s : Strand) (g : Group) (w : Word) (n al : Nat) (data : List Byte) (dest : Option Nat)
    (m : Mach) : Mach :=
  let a := iAddr s w
  let st := remoteStatus m g.job (iOp w) al n a
  if st ≠ 0 then strandFaultAt f i s.pc st m
  else if 8 ≤ (strandFlights m f i).length then blockStrand f s g .blocked m
  else
    let send (l : Lat) (chord : Option Nat) (m : Mach) : Mach :=
      let req : RemoteReq := ⟨word (latAddr l), BitVec.ofNat 8 (iOp w), iMod w, n, data, getReg s (iRc w)⟩
      let fl : Flight :=
        { opid := m.nextOp, issuer := .strand f i, job := g.job, req := req, dest := dest
          localOfs := (getReg s (iRb w)).toNat, isWrite := opIsWrite (iOp w), sentAt := m.now, state := .requested
          word := none, via := none, chord := chord, pc := s.pc, orphan := false, ue := false, stale := false }
      sendFlight fl (retireInstr f i (addMoved w n) { m with nextOp := m.nextOp + 1 })
    if iOp w ≠ 0x31 ∧ iOp w ≠ 0x33 then send (latOf a.toNat) none m
    else
      match placeToken m f g.sc (iOp w) (latOf a.toNat) with
      | .lost m => retireInstr f i (addMoved w n) m
      | .go l m1 =>
        match payloadWrite m1 f g.sc l n with
        | .wait k => blockStrand f s g .blocked (beginWait k m)
        | .go l k m =>
          let m := match payloadChord m f g.sc (word (latAddr l)) with
            | some k => modGroup m f s.group fun g => { g with
                touched := if g.touched.contains k then g.touched else g.touched ++ [k] }
            | none => m
          send l k m

/-- The low `n` bytes of s[RB]. -/
def iData (s : Strand) (w : Word) (n : Nat) : List Byte := leBytes n (getReg s (iRb w)).toNat

def getOp (f i : Nat) (m : Mach) : Mach :=
  strandStep f i (· == 0x30) (fun s g w m => strandRemote f i s g w (2 ^ iSize w) (2 ^ iSize w) [] (some (iRd w)) m) m

def putOp (f i : Nat) (m : Mach) : Mach :=
  strandStep f i (· == 0x31) (fun s g w m =>
    strandRemote f i s g w (2 ^ iSize w) (2 ^ iSize w) (iData s w (2 ^ iSize w)) none m) m

/-- A block operation: its local side is checked too, and it may not take the strand beyond BYTES (R270). -/
def strandBlock (f i : Nat) (s : Strand) (g : Group) (w : Word) (p : Perm) (m : Mach) : Mach :=
  let n := 2 ^ iSize w
  let off := (getReg s (iRb w)).toNat
  let st0 := remoteStatus m g.job (iOp w) 64 n (iAddr s w)
  let st := if st0 ≠ 0 then st0 else strandLocal m g.job f off n 64 p
  if st ≠ 0 then strandFaultAt f i s.pc st m
  else if gBytes g < s.bytes + n then strandFaultAt f i s.pc 0x5D m
  else if 8 ≤ (strandFlights m f i).length then blockStrand f s g .blocked m
  else if p == .write then strandRemote f i s g w n 64 [] none m
  else
    let x := readChecked m f 0 off n
    if x.2.1 then strandFaultAt f i s.pc 0x0F x.2.2
    else strandRemote f i s g w n 64 x.1 none x.2.2

def getbOp (f i : Nat) (m : Mach) : Mach := strandStep f i (· == 0x32) (fun s g w m => strandBlock f i s g w .write m) m
def putbOp (f i : Nat) (m : Mach) : Mach := strandStep f i (· == 0x33) (fun s g w m => strandBlock f i s g w .read m) m

def atomOp (f i : Nat) (m : Mach) : Mach :=
  strandStep f i (· == 0x34) (fun s g w m =>
    strandRemote f i s g w (2 ^ iSize w) (2 ^ iSize w) (iData s w (2 ^ iSize w)) (some (iRd w)) m) m

def redOp (f i : Nat) (m : Mach) : Mach :=
  strandStep f i (· == 0x35) (fun s g w m =>
    strandRemote f i s g w (2 ^ iSize w) (2 ^ iSize w) (iData s w (2 ^ iSize w)) none m) m

/-- Does a strand wait for acknowledgements (`wr`) or replies (`rd`)? -/
def strandOpen (m : Mach) (f i : Nat) (rd wr : Bool) : Bool :=
  (strandFlights m f i).any fun fl => if fl.isWrite then wr else rd

/-- TADD with REL waits for every earlier write (R281). -/
def taddOp (f i : Nat) (m : Mach) : Mach :=
  strandStep f i (· == 0x38) (fun s g w m =>
    if tb (iMod w) 1 && strandOpen m f i false true then blockStrand f s g .blocked m
    else strandRemote f i s g w 4 4 (iData s w 4) none m) m

def treadOp (f i : Nat) (m : Mach) : Mach :=
  strandStep f i (· == 0x39) (fun s g w m => strandRemote f i s g w 4 4 [] (some (iRd w)) m) m

/-- Status of a wait's check: its tally as a tally operation of the job (R283). -/
def waitStatus (m : Mach) (j f t : Nat) : Nat := latStatus m j ⟨self m, f, 2, 4 * t⟩ 4 .tally

def twaitOp (f i : Nat) (m : Mach) : Mach :=
  strandStep f i (· == 0x3A) (fun s g w m =>
    let t := (iAddr s w).toNat
    let st := waitStatus m g.job f t
    let target : W32 := (getReg s (iRb w)).setWidth 32
    let eq := iMod w == 1
    if st ≠ 0 then strandFaultAt f i s.pc st m
    else if tallyMet (tallyGet m f t) target eq then retireInstr f i (putResult w 0 0) m
    else
      let lim := (getReg s (iRc w)).toNat
      let dl := if lim = 0 then none else some (m.now + lim)
      if gWaits g ≤ s.waits then strandFaultAt f i s.pc 0x5D m
      else retireInstr f i (fun s => { s with waits := s.waits + 1, wait := .tally t target eq dl (iRd w) }) m) m

def barOp (f i : Nat) (m : Mach) : Mach :=
  strandStep f i (· == 0x3B) (fun _ g w m => barArrive g.job (iMod w) f (retireInstr f i id m)) m

def fenceOp (f i : Nat) (m : Mach) : Mach :=
  strandStep f i (· == 0x3C) (fun s g w m =>
    if strandOpen m f i (tb (iMod w) 0) (tb (iMod w) 1) then blockStrand f s g .blocked m
    else retireInstr f i id m) m

/-! ### The rows -/

def okSc (f c : Nat) : Bool := decide (f < 96 ∧ c < 4)
def okStrand (f i : Nat) : Bool := decide (f < 96 ∧ i < 16384)

def execStrandStart (f g : Nat) (s : State) : Res := actReady (decide (f < 96)) (strandStartOp f g) s
def execGroupEnd (f g : Nat) (s : State) : Res := actReady (decide (f < 96)) (groupEndOp f g) s
def execStrandNop (f i : Nat) (s : State) : Res := actReady (okStrand f i) (strandNopOp f i) s
def execHalt (f i : Nat) (s : State) : Res := actReady (okStrand f i) (haltOp f i) s
def execStrandIntegerOp (f i : Nat) (s : State) : Res := actReady (okStrand f i) (strandIntOp f i) s
def execStrandFloatOp (f i : Nat) (s : State) : Res := actReady (okStrand f i) (strandFpOp f i) s
def execFcvt (f i : Nat) (s : State) : Res := actReady (okStrand f i) (fcvtOp f i) s
def execFcmp (f i : Nat) (s : State) : Res := actReady (okStrand f i) (fcmpOp f i) s
def execStrandBranch (f i : Nat) (s : State) : Res := actReady (okStrand f i) (strandBranchOp f i) s
def execLdl (f i : Nat) (s : State) : Res := actReady (okStrand f i) (ldlOp f i) s
def execStl (f i : Nat) (s : State) : Res := actReady (okStrand f i) (stlOp f i) s
def execGet (f i : Nat) (s : State) : Res := actReady (okStrand f i) (getOp f i) s
def execPut (f i : Nat) (s : State) : Res := actReady (okStrand f i) (putOp f i) s
def execGetb (f i : Nat) (s : State) : Res := actReady (okStrand f i) (getbOp f i) s
def execPutb (f i : Nat) (s : State) : Res := actReady (okStrand f i) (putbOp f i) s
def execAtom (f i : Nat) (s : State) : Res := actReady (okStrand f i) (atomOp f i) s
def execRed (f i : Nat) (s : State) : Res := actReady (okStrand f i) (redOp f i) s
def execTadd (f i : Nat) (s : State) : Res := actReady (okStrand f i) (taddOp f i) s
def execTread (f i : Nat) (s : State) : Res := actReady (okStrand f i) (treadOp f i) s
def execTwait (f i : Nat) (s : State) : Res := actReady (okStrand f i) (twaitOp f i) s
def execBar (f i : Nat) (s : State) : Res := actReady (okStrand f i) (barOp f i) s
def execFence (f i : Nat) (s : State) : Res := actReady (okStrand f i) (fenceOp f i) s

end Sys2Proof.Machine
end

