-- ==== Sys2Proof/Machine/Records.lean ====
section
/-!
DEFINITION. Records of stage programs other than strand launches and gradients: prism and ray commands, tally waits,
remote copies, barriers and fences (R196–R204, R257–R260, R287), and the remote operations on their way: requests,
replies, tallies, timeouts and chord writes (R117, R278–R282, R289, R290).
-/
namespace Sys2Proof.Machine

/-! ### Footprints of everything a stage context has in flight (R201) -/

/-- Local sides of remote copies, and sources of gradient records. -/
def sideFeet (m : Mach) (f c : Nat) : List Footprint :=
  ((m.flights.filter fun fl => fl.issuer == .sc f c && !isHeader fl && !fl.orphan).filterMap fun fl =>
      if fl.req.op = 0x32 then some ⟨[], [(fl.localOfs, fl.req.bytes)]⟩
      else if fl.req.op = 0x33 then some ⟨[(fl.localOfs, fl.req.bytes)], []⟩
      else none)
    ++ ((facetOf m f).grads.filter fun g => g.1 == c).map fun g => ⟨[(rb g.2.2 153 128, rb g.2.2 223 192)], []⟩

def allFeet (m : Mach) (f c : Nat) : List Footprint := prismFeet (facetOf m f) c ++ rayFeet m f c ++ sideFeet m f c

/-- Does a record's footprint meet a hazard with what is in flight? -/
def heldByHazard (m : Mach) (f c : Nat) (foot : Footprint) : Bool := (allFeet m f c).any fun e => hazard e foot

/-! ### Prism and ray commands -/

/-- A result of a command: the record's address field, bits `hi`:`lo`, its span, and the bytes that it holds. -/
structure ResultSpan where
  hi    : Nat
  lo    : Nat
  span  : Span
  bytes : Nat

def prismResults (r : Rec) : List ResultSpan :=
  let n (rowBytes : Nat) : Nat := pM r * rowBytes
  whenB (pOut r != 0) ⟨315, 290, spanD r, n (ceilDiv (pN r * outHalf (pOut r)) 2)⟩
    ++ whenB (outBlock (pOut r)) ⟨419, 394, spanSd r, n (pN r / 32)⟩

def rayResults (r : Rec) : List ResultSpan :=
  let z := if perRow (yOp r) then (zSpan r).2 else yRows r * rayRowBytes (yFz r) (yN r)
  [⟨277, 252, zSpan r, z⟩] ++ whenB (rayBlock (yFz r) && !perRow (yOp r))
    ⟨381, 356, spanMat (ySzA r) (yLdsz r) (yRows r) (yN r / 32), yRows r * (yN r / 32)⟩

/-- A record with an address field changed. -/
def setField (r : Rec) (hi lo v : Nat) : Rec := BitVec.ofNat 512 (r.toNat - rb r hi lo * 2 ^ lo + v % 2 ^ (hi + 1 - lo) * 2 ^ lo)

/-- A command whose results go into the payload ring of a chord: the record with the addresses of the next entry's slot, or a wait
for credit (R117). -/
inductive ResultCase where
  | go (r : Rec) (m : Mach)
  | wait (chord : Nat)

def placeResults (f c : Nat) : List ResultSpan → Rec → Mach → ResultCase
  | [], r, m => .go r m
  | x :: t, r, m =>
    match payloadTarget m f c ⟨self m, f, 0, x.span.1⟩ x.span.2 with
    | none => placeResults f c t r m
    | some (n, l) =>
      match takeCredit n m with
      | none => .wait n
      | some m => placeResults f c t (setField r x.hi x.lo l.off) (modChord m n fun c => { c with paid := c.paid + x.bytes })

/-- Issues a command.  Its checks name the record's own addresses; one that they let issue takes the credit of a chord into whose
payload ring it writes, and its results go to the slot of the next entry. -/
def issueResults (f c : Nat) (outs : Rec → List ResultSpan) (issue : Rec → Mach → Mach) (r : Rec) (m : Mach) : Mach :=
  let flying (m : Mach) : Option Nat := (scOf m f c).run.map (·.inFlight)
  let m0 := issue r m
  if flying m0 == flying m then m0
  else match placeResults f c (outs r) r m with
    | .wait n => beginWait n m
    | .go r m1 =>
      let m2 := issue r m1
      if flying m2 == flying m1 then m else m2

/-- A command of a stage context has ended. -/
def endCommand (f c j : Nat) (m : Mach) : Mach :=
  poke f c (countDebt f j (modRun m f c fun r => { r with inFlight := r.inFlight - 1 }))

def prismCompleteOp (f i : Nat) (m : Mach) : Mach :=
  match ((facetOf m f).prisms.getD i ⟨[], []⟩).queue with
  | [] => m
  | q :: _ => if (facetOf m f).failed then m else endCommand f q.sc q.job (prismFinish f i m)

/-- Token losses of a LOSS command (R254): the FP32 value of every row that has one. -/
def lossValues (m : Mach) (f : Nat) (r : Rec) : List Nat :=
  if yOp r = 0x3B then
    (flMap (rayRow m f r) (List.range (yRows r))).1.filterMap fun row => match row with
      | some (.f32 b) :: _ => some b
      | _ => none
  else []

/-- Token losses join those of the forward unit that runs, unless its micro-batch is abandoned (R229); what a backward or
recompute unit computes again is not counted again. -/
def noteLosses (f c : Nat) (l : List Nat) (m : Mach) : Mach :=
  match currentUnit m f c, (scOf m f c).owner with
  | some u, some (j, e) =>
    if l.isEmpty || u.dir != 0 || (pipeOf m j e.pipe).abandoned.contains u.mb.mbId then m
    else modSc m f c fun x => { x with tokLoss := x.tokLoss ++ [(actKey u.mb, l)] }
  | _, _ => m

def rayCompleteOp (f : Nat) (m : Mach) : Mach :=
  match (facetOf m f).ray with
  | [] => m
  | q :: _ =>
    if (facetOf m f).failed then m
    else
      let l := lossValues m f q.cmd
      endCommand f q.sc q.job (noteLosses f q.sc l (rayFinish f m))

def execPrismComplete (f i : Nat) (s : State) : Res := actReady (decide (f < 96 ∧ i < 4)) (prismCompleteOp f i) s
def execRayComplete (f : Nat) (s : State) : Res := actReady (decide (f < 96)) (rayCompleteOp f) s

/-! ### Records 0x04–0x08 (Table 9.6) -/

def sTimeout (r : Rec) : Nat := rb r 223 192
def sLength (r : Rec) : Nat := rb r 191 160
def sLocal (r : Rec) : Nat := rb r 153 128
def sLaddr (r : Rec) : Word := word (rb r 127 64)
def sValue (r : Rec) : W32 := BitVec.ofNat 32 (rb r 63 32)
def sBar (r : Rec) : Nat := rb r 31 30
def sTally (r : Rec) : Nat := rb r 27 16
def sMod (r : Rec) : Nat := rb r 11 8

/-- A record that ends at once. -/
def endRecord (f c : Nat) (r : Rec) (m : Mach) : Mach := giveWord f c (recTag r) 0 0 (recOp r) (stepRec f c 0 m)

/-- A record that a check refuses (R287). -/
def badRecord (f c : Nat) (r : Rec) (st : Nat) (m : Mach) : Mach :=
  failRecord f c (recTag r) st (recOp r) seqFault (stepRec f c 0 m)

def tallyWaitRec (f c : Nat) (r : Rec) (j : Nat) (m : Mach) : Mach :=
  let t := sTally r
  let st := waitStatus m j f t
  let eq := sMod r == 1
  if st ≠ 0 then badRecord f c r st m
  else if tallyMet (tallyGet m f t) (sValue r) eq then endRecord f c r m
  else
    let dl := if sTimeout r = 0 then none else some (m.now + sTimeout r)
    modRun (stepRec f c 0 m) f c fun x => { x with wait := .tally t (sValue r) eq dl (recTag r) }

/-- Operations of a stage context's records that are not settled: reads, writes (R281). -/
def scOpen (m : Mach) (f c : Nat) (rd wr : Bool) : Bool :=
  m.flights.any fun fl => fl.issuer == .sc f c && !isHeader fl && !fl.orphan && (if fl.isWrite then wr else rd)

/-- A remote operation of a record sets out; `chord` is one whose payload it writes. -/
def sendRecord (f c j : Nat) (r : Rec) (req : RemoteReq) (localOfs : Nat) (ue : Bool) (chord : Option Nat) (m : Mach) : Mach :=
  let fl : Flight :=
    { opid := m.nextOp, issuer := .sc f c, job := j, req := req, dest := none, localOfs := localOfs,
      isWrite := opIsWrite req.op.toNat, sentAt := m.now, state := .requested, word := some (recOp r, recTag r)
      via := none, chord := chord, pc := 0, orphan := false, ue := ue, stale := false }
  sendFlight fl (stepRec f c 1 { m with nextOp := m.nextOp + 1 })

def tallyAddRec (f c : Nat) (r : Rec) (j : Nat) (m : Mach) : Mach :=
  let st := remoteStatus m j 0x38 4 4 (sLaddr r)
  if st ≠ 0 then badRecord f c r st m
  else if tb (sMod r) 1 && scOpen m f c false true then m
  else sendRecord f c j r ⟨sLaddr r, 0x38, sMod r, 4, leBytes 4 (sValue r).toNat, 0⟩ 0 false none m

/-- REMOTE_COPY: its checks name the record's own address; an activation range is redirected after them (R312), and a put into a
payload ring goes to the slot of the next entry once its credit is taken (R117). -/
def remoteCopyRec (f c : Nat) (r : Rec) (j : Nat) (m : Mach) : Mach :=
  let isGet := sMod r == 1
  let op := if isGet then 0x32 else 0x33
  let n := sLength r
  let st0 := remoteStatus m j op 64 n (sLaddr r)
  let st := if st0 ≠ 0 then st0 else strandLocal m j f (sLocal r) n 64 (if isGet then .write else .read)
  let span : Span := (sLocal r, n)
  if st ≠ 0 then badRecord f c r st m
  else if heldByHazard m f c (if isGet then ⟨[], [span]⟩ else ⟨[span], []⟩) then m
  else
    let l := actRedirect m f c (latOf (sLaddr r).toNat)
    if isGet then sendRecord f c j r ⟨word (latAddr l), 0x32, 0, n, [], 0⟩ (sLocal r) false none m
    else
      match payloadWrite m f c l n with
      | .wait k => beginWait k m
      | .go l k m =>
        let x := readChecked m f 0 (sLocal r) n
        sendRecord f c j r ⟨word (latAddr l), 0x33, 0, n, x.1, 0⟩ (sLocal r) x.2.1 k x.2.2

def barrierRec (f c : Nat) (r : Rec) (j : Nat) (m : Mach) : Mach := barArrive j (sBar r) f (endRecord f c r m)

/-- FENCE holds the program until the operations it names are settled. -/
def fenceRec (f c : Nat) (r : Rec) (_j : Nat) (m : Mach) : Mach :=
  if scOpen m f c (tb (sMod r) 0) (tb (sMod r) 1) then m else endRecord f c r m

def execTallyWait (f c : Nat) (s : State) : Res := actReady (okSc f c) (takeRecord f c (· == 4) (tallyWaitRec f c)) s
def execTallyAdd (f c : Nat) (s : State) : Res := actReady (okSc f c) (takeRecord f c (· == 5) (tallyAddRec f c)) s
def execRemoteCopy (f c : Nat) (s : State) : Res := actReady (okSc f c) (takeRecord f c (· == 6) (remoteCopyRec f c)) s
def execBarrierArrive (f c : Nat) (s : State) : Res := actReady (okSc f c) (takeRecord f c (· == 7) (barrierRec f c)) s
def execFenceRecord (f c : Nat) (s : State) : Res := actReady (okSc f c) (takeRecord f c (· == 8) (fenceRec f c)) s

/-- TALLY_TIMEOUT: the wait ends at its deadline; a condition met in that cycle has ended it as met (R53, R282). -/
def tallyTimeoutOp (f : Nat) (isStrand : Bool) (k : Nat) (m : Mach) : Mach :=
  let ev (t : Nat) (j : Option Nat) (m : Mach) : Mach := raise m tallyTimeoutEv (srcFacet f 3) j [f, k, t]
  let met (t : Nat) (target : W32) (eq : Bool) : Bool := tallyMet (tallyGet m f t) target eq
  if isStrand then
    match strandOf m f k with
    | none => m
    | some s =>
      match s.wait with
      | .tally t target eq (some d) rd =>
        byTime d (fun m =>
          if met t target eq then modStrand m f k fun s => setReg { s with wait := .run } rd 0
          else ev t ((launchGroup m f s.group).map (·.job)) (modStrand m f k fun s => setReg { s with wait := .run } rd 1)) m
      | _ => m
  else
    match (scOf m f k).run with
    | none => m
    | some r =>
      match r.wait with
      | .tally t target eq (some d) tag =>
        byTime d (fun m =>
          if met t target eq then endTallyWait f k tag 0 m else endTallyWait f k tag 0x61 (ev t (scJob m f k) m)) m
      | _ => m

def execTallyTimeout (f : Nat) (isStrand : Bool) (k : Nat) (s : State) : Res :=
  actReady (decide (f < 96)) (tallyTimeoutOp f isStrand k) s

/-! ### Requests at their target (R278, R279, R289) -/

/-- A local operation reaches its die, when those before it have (R280) and its target serves (R289). -/
def reqLocal (opid : Nat) (m : Mach) : Mach :=
  match m.flights.find? fun fl => fl.opid == opid with
  | none => m
  | some fl =>
    let l := latOf fl.req.laddr.toNat
    if l.mod ≠ self m ∨ fl.state ≠ .requested then m
    else if earlierOp m fl || targetHeld m l then m
    else
      let x := if fl.stale then (0, [], m) else perform fl.req false m
      { x.2.2 with flights :=
          if fl.orphan then x.2.2.flights.filter fun g => g.opid != opid
          else x.2.2.flights.map fun g => if g.opid == opid then { g with state := .replied x.1 x.2.1 } else g }

/-- A message that is not for this module is dropped (R432); it came on the link toward its sender. -/
def misrouted (m : Mach) (src kind dst : Nat) : Mach :=
  let l := (routeOf m src).getD 0
  raise m linkMisroute (srcLink l) none [l, kind, src, dst]

/-- A request from another module takes effect and is answered (Table 14.6), once its target's refill or test has ended
(R289). -/
def reqFar (src opid : Nat) (r : RemoteReq) (m : Mach) : Mach :=
  let l := latOf r.laddr.toNat
  if l.mod ≠ self m then misrouted m src 0x10 l.mod
  else if targetHeld m l then { m with heldReqs := m.heldReqs ++ [(src, opid, r)] }
  else
    let x := perform r true m
    sendMsg x.2.2 src (.resp opid (some (x.1, x.2.1)))

/-- Requests that were held go on, in order, where their target serves again. -/
def releaseHeld (m : Mach) : Mach := forAll m.heldReqs (fun m x => reqFar x.1 x.2.1 x.2.2 m) { m with heldReqs := [] }

def reqOp (opid : Nat) (src : Option (Nat × RemoteReq)) (m : Mach) : Mach :=
  match src with
  | none => reqLocal opid m
  | some (n, r) => reqFar n opid r m

/-- TALLY: a tally operation of this module's flight on the panel, or one that another module sent. -/
def tallyMsgOp (src opid : Nat) (laddr : Word) (mod : Nat) (v : Option W32) (m : Mach) : Mach :=
  if src = self m then reqLocal opid m
  else match v with
    | some v => reqFar src opid ⟨laddr, 0x38, mod, 4, leBytes 4 v.toNat, 0⟩ m
    | none => reqFar src opid ⟨laddr, 0x39, mod, 4, [], 0⟩ m

def execReq (opid : Nat) (src : Option (Nat × RemoteReq)) (s : State) : Res := actReady true (reqOp opid src) s
def execTally (src opid : Nat) (laddr : Word) (mod : Nat) (v : Option W32) (s : State) : Res :=
  actReady true (tallyMsgOp src opid laddr mod v) s

/-! ### Replies (R279, R290) -/

/-- The reply of a strand's operation: a register, a block of local scratchpad, or a fault. -/
def settleStrand (fl : Flight) (f i st : Nat) (data : List Byte) (m : Mach) : Mach :=
  match strandOf m f i with
  | none => m
  | some s =>
    if s.wait == .done then reapStrand f i m
    else if st ≠ 0 then strandFaultAt f i fl.pc st m
    else
      let m := match fl.dest with
        | some r => modStrand m f i fun s => setReg s r (word (leNat data))
        | none => if fl.req.op = 0x32 then writeChecked m f 0 fl.localOfs data else m
      reapStrand f i m

/-- The reply of a record's operation: its completion word, and the data of a get (R287, R461). -/
def settleSc (fl : Flight) (f c st : Nat) (data : List Byte) (m : Mach) : Mach :=
  let st := if st = 0 ∧ fl.ue then 0x0F else st
  let m := if fl.req.op = 0x32 ∧ (st = 0 ∨ st = 0x0F) then writeChecked m f 0 fl.localOfs data else m
  let m := match fl.word with
    | some (op, tag) =>
      let m := giveWord f c tag (if st = 0x0F then flInvalid else 0) st op m
      if st = 0 ∨ st = 0x0F ∨ st = 0x60 then m else raise m seqFault (srcFacet f 3) (some fl.job) [f, c, tag, st]
    | none => m
  endCommand f c fl.job m

/-- A chord's header write is acknowledged: the slot no longer waits for it (R105, R117). -/
def settleHeader (f c n : Nat) (m : Mach) : Mach := poke f c (modRun m f c fun r => { r with sends := r.sends.erase n })

/-- An operation is settled: operations that waited for its route may go on (R433). -/
def settle (fl : Flight) (st : Nat) (data : List Byte) (m : Mach) : Mach :=
  let m := { m with flights := m.flights.filter fun g => g.opid != fl.opid }
  let m :=
    if fl.orphan then m
    else match fl.issuer with
      | .strand f i => settleStrand fl f i st data m
      | .fold _ => m
      | .gather f c => settleGather fl f c st data m
      | .sc f c =>
        match fl.dest with
        | some n => settleHeader f c n m
        | none => settleSc fl f c st data m
  flushWaiting m

/-- RESP: a reply reaches its issuer; one that comes after the timeout is discarded (R290). -/
def respOp (opid : Nat) (far : Option (Nat × List Byte)) (m : Mach) : Mach :=
  match m.flights.find? fun fl => fl.opid == opid with
  | none => m
  | some fl =>
    match far, fl.state with
    | none, .replied st data => settle fl st data m
    | some (st, data), .requested => if (latOf fl.req.laddr.toNat).mod = self m then m else settle fl st data m
    | _, _ => m

/-- REMOTE_TIMEOUT (R290): the issuer gives the operation up; what is still on its way takes effect unseen. -/
def remoteTimeoutOp (opid : Nat) (m : Mach) : Mach :=
  match m.flights.find? fun fl => fl.opid == opid with
  | none => m
  | some fl =>
    if fl.orphan || isHeader fl then m
    else byTime (fl.sentAt + 100 * regN m offRemoteTimeout) (fun m =>
      let f := match fl.issuer with
        | .strand f _ => f
        | .sc f _ => f
        | .fold _ => fl.pc
        | .gather f _ => f
      let m := raise m remoteTimeoutEv (srcFacet f 3) (some fl.job) [f, fl.req.laddr.toNat]
      let onPanel := decide ((latOf fl.req.laddr.toNat).mod = self m)
      let lives := fl.state == .waiting || (onPanel && fl.state == .requested)
      let m := settle fl 0x60 [] m
      if lives then { m with flights := m.flights ++ [{ fl with orphan := true }] } else m) m

/-! ### Chord writes (R117, R121) -/

/-- Chord number of a header on its way on the panel. -/
def headerChord (e : HeaderMsg) : Nat := bf e.header.toNat 105 96

/-- Does a write of an entry's payload that was issued before its header still have to take effect (R111)? -/
def payloadBehind (m : Mach) (e : HeaderMsg) : Bool :=
  m.flights.any fun g => g.chord == some (headerChord e) && decide (g.opid < e.op) && (g.state == .requested || g.state == .waiting)

/-- The header write on its way that a CHORD_WRITE on the panel delivers: the oldest of its chord, after every payload write issued
before it (R111). -/
def nextHeader (m : Mach) (f off : Nat) (data : List Byte) : Option HeaderMsg :=
  match m.chordNet.find? fun e => e.facet == f && e.ofs == off && leBytes 64 e.header.toNat == data with
  | none => none
  | some e =>
    if (m.chordNet.find? fun x => headerChord x == headerChord e) = some e ∧ !payloadBehind m e then some e else none

/-- A header write of this module on the panel arrives: the entry is committed, or dropped, and the producer has its
acknowledgement. -/
def chordWriteLocal (f off : Nat) (data : List Byte) (m : Mach) : Mach :=
  match nextHeader m f off data with
  | none => m
  | some e =>
    let m := { m with chordNet := m.chordNet.erase e }
    settleHeader e.srcFacet e.srcSc (headerChord e) (if e.stale then m else afterWindow f off (windowWrite f off data m))

/-- Is a write that a link delivers one of an entry of a chord that a map change removed or restarted (R123)?  No chord of its
number stands, or one whose ends have not compared themselves yet, of which no entry can come (log entries 74 and 80). -/
def lateWrite (m : Mach) (n : Nat) : Bool := match chordBy m n with | some c => !chordOpen c && !c.closed | none => true

/-- A write of a chord's entry that a link delivers: a header through the window, or payload bytes; it is answered whether it takes
effect or is dropped (R279). -/
def chordWriteFar (f off : Nat) (data : List Byte) (w : ChordFar) (m : Mach) : Mach :=
  if w.space = 3 then
    sendMsg (if lateWrite m w.chord then m else afterWindow f off (windowWrite f off data m)) w.src (.resp w.opid (some (0, [])))
  else if lateWrite m w.chord then sendMsg m w.src (.resp w.opid (some (0, [])))
  else reqFar w.src w.opid ⟨word (latAddr ⟨self m, f, w.space, off⟩), 0x33, 0, data.length, data, 0⟩ m

def chordWriteOp (f off : Nat) (data : List Byte) (far : Option ChordFar) (m : Mach) : Mach :=
  match far with
  | none => chordWriteLocal f off data m
  | some w => chordWriteFar f off data w m

end Sys2Proof.Machine
end

