-- ==== Sys2Proof/Machine/Gradients.lean ====
section
/-!
DEFINITION. Gradient areas (R293–R299): the places of a stage's layers, the GRAD_ACC record, and the norms of R317.
-/
namespace Sys2Proof.Machine

/-! ### Layers of a stage context -/

/-- Is the pipeline updated: a training schedule and an enabled UPDATE_SETUP (R296)? -/
def updEnabled (m : Mach) (j p : Nat) : Bool :=
  training m j p && (match (pipeOf m j p).setup with | some u => u.en | none => false)

/-- SIZE of a map layer of a stage context, in 4 KiB units (R148): its layout comes from the locus. -/
def layerUnits (m : Mach) (e : MapSc) (layer : Nat) : Nat :=
  (((locusOf m e.facet e.sc).layers[layer - e.firstLayer]?).map (·.size)).getD 0

/-- Offset of a layer's gradient within the area, in 4 KiB units (R293). -/
def gradUnits (m : Mach) (e : MapSc) (layer : Nat) : Nat :=
  2 * ((List.range (layer - e.firstLayer)).map fun i => layerUnits m e (e.firstLayer + i)).foldl (· + ·) 0

/-- HBM offset of a layer's gradient, where the stage context has an area. -/
def gradAddr (m : Mach) (e : MapSc) (layer : Nat) : Option Nat :=
  (scOf m e.facet e.sc).gradBase.map fun b => (b + gradUnits m e layer) * 4096

/-- The stage context of the pipeline that holds a layer on this module (R322). -/
def layerHolder (m : Mach) (j p layer : Nat) : Option MapSc :=
  (fillMap m j).bind fun pm => (mapStages pm p).find? fun e => decide (e.firstLayer ≤ layer) && decide (layer ≤ e.lastLayer)

/-- FP32 elements of a layer. -/
def layerElems (m : Mach) (e : MapSc) (layer : Nat) : Nat := 2048 * layerUnits m e layer

/-- FP32 patterns from an HBM offset. -/
def read32s (m : Mach) (f a n : Nat) : List Nat := (List.range n).map fun i => readNat m f 1 (a + 4 * i) 4

/-- FP32 patterns of a layer's gradient; without an area they are +0. -/
def gradVals (m : Mach) (e : MapSc) (layer first n : Nat) : List Nat :=
  match gradAddr m e layer with
  | some a => read32s m e.facet (a + 4 * first) n
  | none => List.replicate n 0

/-- Squared norm in the order of R223 and R224, non-finite elements entering as +0 (R317). -/
def sqNorm (vals : List Nat) : Word :=
  let terms := vals.map fun v => if isFin (v32 v) then (mulPair (v32 v) (v32 v)).1 else pairOf 0
  word (pairWord (reduceP terms).1)

/-- NONFINITE of a list of values. -/
def nonFinite (vals : List Nat) : Nat := (vals.filter fun v => !isFin (v32 v)).length

/-! ### GRAD_ACC (Table 10.1) -/

def gLength (r : Rec) : Nat := rb r 223 192
def gSrc (r : Rec) : Nat := rb r 153 128
def gOfs (r : Rec) : Nat := rb r 87 48
def gLayer (r : Rec) : Nat := rb r 47 36
def gEnd (r : Rec) : Bool := tb r.toNat 9

/-- Status of the checks of R296. -/
def gradStatus (m : Mach) (f c j : Nat) (e : MapSc) (r : Rec) : Nat :=
  if !updEnabled m j e.pipe || decide (gLayer r < e.firstLayer) || decide (e.lastLayer < gLayer r)
      || decide (8192 * layerUnits m e (gLayer r) < gOfs r + gLength r)
      || localStatus m j f (gSrc r) (gLength r) .read != 0 then 0x64
  else if (scOf m f c).handed.contains (gLayer r) then 0x65
  else 0

/-- GRAD_ACC joins the queue of the facet's update unit. -/
def gradAccRec (f c : Nat) (r : Rec) (j : Nat) (m : Mach) : Mach :=
  match (scOf m f c).owner with
  | none => m
  | some (_, e) =>
    let st := gradStatus m f c j e r
    if st ≠ 0 then badRecord f c r st m
    else if heldByHazard m f c ⟨[(gSrc r, gLength r)], []⟩ then m
    else stepRec f c 1 (modFacet m f fun x => { x with grads := x.grads ++ [(c, j, r)] })


/-- Adds values into an area from HBM offset `a` (R295): a value in an empty block is stored as it is.  Answers the flags
and whether a read met an uncorrectable unit. -/
def addGrad (f c a src n : Nat) (m : Mach) : Nat × Bool × Mach :=
  let d := readChecked m f 0 src n
  let m := d.2.2
  let done := (scOf m f c).written
  let hits := (ueHit m f 1 a n).filter fun u => done.contains ((a + u - locate m f 1 a) / 4096)
  let m := raiseUe m hits
  let vals : List (Fl Nat) := (List.range (n / 4)).map fun k =>
    let x := leNat ((d.1.drop (4 * k)).take 4)
    if done.contains ((a + 4 * k) / 4096) then add32 (readNat m f 1 (a + 4 * k) 4) x else (x, 0)
  let m := writeChecked m f 1 a (vals.flatMap fun v => leBytes 4 v.1)
  let blocks := (List.range (n / 64)).map fun k => (a + 64 * k) / 4096
  let m := modSc m f c fun x => { x with written := (x.written ++ blocks).eraseDups }
  (vals.foldl (fun s v => s ||| v.2) 0 ||| (if d.2.1 || !hits.isEmpty then flInvalid else 0), d.2.1 || !hits.isEmpty, m)

/-- Blocks still empty read as +0 at hand-off (R295). -/
def fillEmpty (e : MapSc) (layer : Nat) (m : Mach) : Mach :=
  match gradAddr m e layer with
  | none => m
  | some a =>
    let blocks := (List.range (2 * layerUnits m e layer)).map fun k => a / 4096 + k
    let empty := blocks.filter fun b => !(scOf m e.facet e.sc).written.contains b
    forAll empty (fun m b => writeMem m e.facet 1 (4096 * b) (List.replicate 4096 0)) m

/-- Micro-batches and tokens of the replica's sweep as the stage context has completed them, abandoned ones left out; `own` is
the one whose final unit hands the layer off (R299; DEDUCED: that one counts, log entry 31). -/
def completedCounts (m : Mach) (j : Nat) (e : MapSc) (own : List (Nat × Nat)) : Nat × Nat :=
  let l := ((scOf m e.facet e.sc).backMbs ++ own).filter fun b => !(pipeOf m j e.pipe).abandoned.contains b.1
  (l.length, l.foldl (fun a b => a + b.2) 0)

/-- The counts that a layer was handed off with (R299). -/
def replicaCounts (m : Mach) (e : MapSc) (layer : Nat) : Nat × Nat :=
  (((scOf m e.facet e.sc).handCnt.find? fun x => x.1 == layer).map (·.2)).getD (0, 0)

/-- Are the sweep's admission slots over? -/
def admissionOver (m : Mach) (j p : Nat) : Bool :=
  let x := pipeOf m j p
  match x.sched, stageEntry m j p 0 with
  | some s, some e => (match ordinal m j e with | some o => decide (s.m ≤ o) | none => false) || (x.sweepClosed && x.slicing.isNone)
  | _, _ => false

/-- Is a slice-0 backward unit the final one of the sweep (R298)?  The home knows what was admitted last.  Another module knows that
it is not where a later micro-batch has run forward there, and that it is where the micro-batches run there took every admission slot;
else it is a free bit (log entry 31). -/
def finalBack (m : Mach) (j : Nat) (e : MapSc) (u : WorkUnit) : Option Bool :=
  let x := pipeOf m j e.pipe
  if isHome m j e.pipe then
    some (admissionOver m j e.pipe && (match x.admitted.getLast? with | some a => a.1 == u.mb.mbId | none => false))
  else
    let run := (scOf m e.facet e.sc).fwdMbs
    let last := match run.getLast? with | some b => b.1 == u.mb.mbId | none => false
    match x.sched with
    | some s => if !last then some false else if s.m ≤ (run.map (·.2)).foldl (· + ·) 0 then some true else none
    | none => none

end Sys2Proof.Machine
end

