-- ==== Sys2Proof/Machine/FoldMath.lean ====
section
/-!
DEFINITION. The arithmetic of fold (R336–R342), the agreed scales (R235, R237), and projection (R354–R358).
-/
namespace Sys2Proof.Machine

/-! ### Segments -/

def foldChunk : Nat := 1024

/-- An empty segment of a fold. -/
def segOf (sub leg chunk index : Nat) (elems : List W32) (scales : List Byte) (wide : List Bool) : FoldSegIn :=
  ⟨sub, leg, chunk, index, elems, scales, wide, 0, 0, [], []⟩

def w32s (l : List Nat) : List W32 := l.map (BitVec.ofNat 32)

/-! ### BLK8 blocks (R336, R338, R339) -/

/-- A block of 32: scale byte, patterns, WIDE. -/
abbrev Blk := Nat × List Nat × Bool

def nanBlk : Blk := (0xFF, List.replicate 32 0, false)

/-- A NaN block in place of a join; a widened input leaves it widened (R338). -/
def nanJoin (a b : Blk) : Blk := (0xFF, List.replicate 32 0, a.2.2 || b.2.2)

/-- Largest magnitude that E4M3 holds at exponent `x`. -/
def blkLimit (x : Int) : Fp := fpScale (fpInt 448) x

/-- Does any value exceed the limit? -/
def beyond (x : Int) (vs : List Fp) : Bool := vs.any fun v => fpLt false (blkLimit x) (fpAbs v)

/-- A block of exact values at exponent `x`: E4M3 when it fits, widened to BF16 otherwise. -/
def blkOf (x : Int) (vs : List Fp) : Fl Blk :=
  if !(vs.all isFin) then (nanBlk, 0)
  else if beyond x vs then flBind (flMap (fun v => fpEnc fBf16 v) vs) fun es => (((x + 127).toNat, es, true), 0)
  else flBind (blockElems fE4m3 0 x vs) fun es => (((x + 127).toNat, es, false), 0)

/-- Values of a block. -/
def blkVals (b : Blk) : List Fp :=
  if b.2.2 then b.2.1.map (fpDec fBf16) else b.2.1.map (blockVal fE4m3 b.1)

/-- Does the check of R339 refuse a block's scale? -/
def blkBad (x : Int) (b : Blk) : Bool := !b.2.2 && b.1 != 0xFF && decide (Int.ofNat b.1 ≠ x + 127)

/-- Join of two blocks that passed the check. -/
def blkJoin (x : Int) (a b : Blk) : Fl Blk :=
  if a.1 = 0xFF ∨ b.1 = 0xFF then (nanJoin a b, 0)
  else
    let s := ((blkVals a).zip (blkVals b)).map fun p => fpAdd p.1 p.2
    let fl := s.foldl (fun f v => f ||| v.2) 0
    let vs := s.map (·.1)
    if !a.2.2 && !b.2.2 && !beyond x vs then flOr (blkOf x vs) fl
    else flOr (flBind (flMap (fun v => fpEnc fBf16 v) vs) fun es => (((x + 127).toNat, es, true), 0)) fl

/-- Blocks of a segment. -/
def segBlks (s : FoldSegIn) : List Blk :=
  let es := chunks 32 (s.elems.map (·.toNat))
  (List.range es.length).map fun i =>
    ((s.scales.getD i 0).toNat, es.getD i [], s.wide.getD i false)

/-- A segment with given blocks in place of its own. -/
def withBlks (s : FoldSegIn) (bs : List Blk) : FoldSegIn :=
  { s with elems := w32s (bs.flatMap (·.2.1)), scales := bs.map (fun b => BitVec.ofNat 8 b.1), wide := bs.map (·.2.2) }

/-! ### Joins by format: 0 FP32, 1 BF16, 2 BLK8, 3 the codes of the pre-pass (R237, R337, R338) -/

/-- Scalars of two contributions (R343). -/
def joinScalars (a b : FoldSegIn) (s : FoldSegIn) : FoldSegIn :=
  { s with mb := a.mb + b.mb, tokens := a.tokens + b.tokens, locals := a.locals ++ b.locals, losses := a.losses ++ b.losses }

/-- Sum of a partial and a contribution; `xs` are the exponents of the blocks. -/
def segJoin (fmt : Nat) (xs : List Int) (a b : FoldSegIn) : Fl FoldSegIn :=
  let pairs := (a.elems.map (·.toNat)).zip (b.elems.map (·.toNat))
  let r : Fl FoldSegIn :=
    match fmt with
    | 0 => flBind (flMap (fun (p : Nat × Nat) => add32 p.1 p.2) pairs) fun es => ({ a with elems := w32s es }, 0)
    | 1 => flBind (flMap (fun (p : Nat × Nat) =>
        flBind (fpAdd (fpDec fBf16 p.1) (fpDec fBf16 p.2)) (fpEnc fBf16)) pairs) fun es => ({ a with elems := w32s es }, 0)
    | 2 =>
      let check (i : Nat) (b : Blk) : Blk := if blkBad (xs.getD i 0) b then nanBlk else b
      let l := (segBlks a).zip (segBlks b)
      flBind (flMap (fun (e : Nat × Blk × Blk) =>
          blkJoin (xs.getD e.1 0) (check e.1 e.2.1) (check e.1 e.2.2)) ((List.range l.length).zip l)) fun bs =>
        (withBlks a bs, 0)
    | _ => ({ a with elems := w32s (pairs.map fun p => max p.1 p.2) }, 0)
  (joinScalars a b r.1, r.2)

/-- Blocks of a segment whose scale R339 refuses: index in the segment and the scale. -/
def badScales (xs : List Int) (s : FoldSegIn) : List (Nat × Nat) :=
  let bs := segBlks s
  ((List.range bs.length).zip bs).filterMap fun e => if blkBad (xs.getD e.1 0) e.2 then some (e.1, e.2.1) else none

/-- Values of a shared segment as FP32 (R341). -/
def segTo32 (fmt : Nat) (s : FoldSegIn) : Fl (List Nat) :=
  match fmt with
  | 0 => (s.elems.map (·.toNat), 0)
  | 1 => flMap (fun (e : W32) => fpEnc f32 (fpDec fBf16 e.toNat)) s.elems
  | _ => flBind (flMap (fun (b : Blk) =>
      if b.1 = 0xFF then (List.replicate b.2.1.length nan32, 0) else flMap (fun v => fpEnc f32 v) (blkVals b)) (segBlks s)) fun l =>
        (l.flatten, 0)

/-! ### Agreed scales -/

def amaxOf (m : Mach) (j t : Nat) : List W32 :=
  (((jobOf m j).amax.find? fun a => a.tensor == t).map (·.entries)).getD []

/-- Is the tensor cold: fewer than 16 entries (R237)? -/
def isCold (m : Mach) (j t : Nat) : Bool := decide ((amaxOf m j t).length < 16)

def headroom (m : Mach) : Int := Int.ofNat (wf (regGet m offScaleCtl) 1 0)

/-- ⌊log2⌋ of a finite non-zero FP32 pattern. -/
def log2Of (b : Nat) : Option Int :=
  match v32 b with
  | .fin _ m e => if m = 0 then none else some (fpLog2 m e)
  | _ => none

/-- The agreed exponent of R235. -/
def agreedX (m : Mach) (j t : Nat) : Int :=
  let h := (amaxOf m j t).foldl (fun a e => if fpLt false (v32 a) (v32 e.toNat) then e.toNat else a) 0
  match log2Of h with
  | some l => clampX (l - 8 + headroom m)
  | none => -127

/-- Exponents of the blocks from block `b` on: the just-in-time codes of R237 where the pre-pass gave them. -/
def blockXs (m : Mach) (j t : Nat) (codes : List Nat) (b n : Nat) : List Int :=
  (List.range n).map fun i =>
    if codes.isEmpty then agreedX m j t
    else clampX (Int.ofNat (codes.getD (b + i) 0) - 127 - 8 + headroom m)

/-- Code of a block for the pre-pass: 0 for a zero block; a block with a NaN or infinity gives 0xFF. -/
def blockCode (vs : List Nat) : Nat :=
  if vs.any fun v => !isFin (v32 v) then 0xFF
  else match vs.filterMap log2Of with
    | [] => 0
    | t :: ts => (ts.foldl max t + 127).toNat

/-! ### Projection (R354–R358) -/

def roundUp4k (n : Nat) : Nat := (n + 4095) / 4096 * 4096

/-- HBM offsets of the parts of Table 11.9: residual, M_b, its transpose, Q, Q_loc, P, P̂. -/
structure ProjParts where
  res : Nat
  mb  : Nat
  mbT : Nat
  q   : Nat
  ql  : Nat
  p   : Nat
  ph  : Nat

/-- The workspace at PROJ_BASE `base` of a layer of ROWS × COLS. -/
def workspaceAt (base rows cols : Nat) : ProjParts :=
  let b := base * 4096
  let n := rows * cols
  let mb := b + roundUp4k (4 * n)
  let mbT := mb + roundUp4k (2 * n)
  let q := mbT + roundUp4k (2 * n)
  let p := q + roundUp4k (8 * cols * 64)
  ⟨b, mb, mbT, q, q + 4 * cols * 64, p, p + 4 * rows * 64⟩

def projParts (y : FoldLayer) : ProjParts := workspaceAt y.projBase y.rows y.cols

def write32s (f a : Nat) (l : List Nat) (m : Mach) : Mach := writeChecked m f 1 a (l.flatMap (leBytes 4))
def write16s (f a : Nat) (l : List Nat) (m : Mach) : Mach := writeChecked m f 1 a (l.flatMap (leBytes 2))

/-- One rounding to BF16. -/
def toBf (v : Nat) : Fl Nat := fpEnc fBf16 (v32 v)

/-- Rows of a row-major matrix. -/
def matRows (cols : Nat) (l : List Nat) : List (List Nat) := if cols = 0 then [] else chunks cols l

/-- Transpose of a row-major matrix of `rows` × `cols`. -/
def matT (rows cols : Nat) (l : List Nat) : List Nat :=
  (List.range cols).flatMap fun c => (List.range rows).map fun r => l.getD (r * cols + c) 0

/-- D = A · Bᵀ of BF16 matrices in the prism's order with FP32 accumulation; `start` is C, if any (R189, R192). -/
def bfMul (a b : List (List Nat)) (start : Option (List (List Nat))) : Fl (List (List Nat)) :=
  flMap (fun (e : Nat × List Nat) =>
    flMap (fun (g : Nat × List Nat) =>
      let c := start.map fun s => word ((s.getD e.1 []).getD g.1 0)
      flBind (prismElement 0 16 c (e.2.map (fpDec fBf16)) (g.2.map (fpDec fBf16))) (accTo32 0))
      ((List.range b.length).zip b)) ((List.range a.length).zip a)

/-- Q made afresh (R356). -/
def freshQ (m : Mach) (j p layer n : Nat) : List Nat :=
  (List.range n).map fun e =>
    let s := sInt 16 (srBits (jobOf m j).srKey m.tick.sweepNo p layer (2 * e) 3)
    (fpEnc f32 (fpScale (fpInt s) (-15))).1

/-- What the job folded by projection in the last sweep. -/
def projRec (m : Mach) (j p layer : Nat) : Option ProjRec :=
  (jobOf m j).proj.find? fun r => r.pipe == p && r.layer == layer

/-- M = rne32(g + E) of a projected layer. -/
def projM (m : Mach) (e : MapSc) (y : FoldLayer) (first : Bool) : Fl (List Nat) :=
  let n := y.rows * y.cols
  let g := gradVals m e y.layer 0 n
  let r := if first then List.replicate n 0 else read32s m e.facet (projParts y).res n
  flMap (fun (p : Nat × Nat) => add32 p.1 p.2) (g.zip r)

/-- Steps 1 and 2 of Table 11.8. -/
def projStart (j p : Nat) (e : MapSc) (y : FoldLayer) (m : Mach) : Nat × Mach :=
  let w := projParts y
  let f := e.facet
  let old := projRec m j p y.layer
  let mm := projM m e y old.isNone
  let mb := flMap toBf mm.1
  let q := match old with
    | some r => if r.rank = y.rank then read32s m f w.q (y.cols * y.rank) else freshQ m j p y.layer (y.cols * y.rank)
    | none => freshQ m j p y.layer (y.cols * y.rank)
  let qb := flMap toBf q
  let pl := bfMul (matRows y.cols mb.1) (matRows y.cols (matT y.cols y.rank qb.1)) none
  let m := if old.isNone then write32s f w.res (List.replicate (y.rows * y.cols) 0) m else m
  let m := write16s f w.mbT (matT y.rows y.cols mb.1) (write16s f w.mb mb.1 m)
  let m := write32s f w.p pl.1.flatten (write32s f w.q q m)
  let rec_ : ProjRec := ⟨p, y.layer, y.rank, f, y.projBase, y.rows, y.cols⟩
  let m := modJob m j fun x => { x with proj := (x.proj.filter fun r => !(r.pipe == p && r.layer == y.layer)) ++ [rec_] }
  (mm.2 ||| mb.2 ||| qb.2 ||| pl.2, m)

/-- Inner product of two columns, rounded once (R252, R355). -/
def colDot (a b : List Nat) : Fl Nat :=
  flBind (flMap (fun (p : Nat × Nat) => mulPair (v32 p.1) (v32 p.2)) (a.zip b)) fun l => flBind (reduceP l) pairTo32

def negBits (b : Nat) : Nat := b ^^^ 0x80000000

/-- Orthonormalises the columns in increasing order (R355); `done` holds those of P̂ so far. -/
def orthoCols : List (List Nat) → List (List Nat) → Fl (List (List Nat))
  | [], done => (done, 0)
  | c :: t, done =>
    let c1 := flFold (fun (c : List Nat) (q : List Nat) =>
      flBind (colDot q c) fun d => flMap (fun (p : Nat × Nat) => fma32 (negBits d) p.1 p.2) (q.zip c)) c done
    let c2 := flBind c1 fun c => flBind (colDot c c) fun s =>
      if s % 2 ^ 31 = 0 then (c.map fun _ => 0, 0)
      else flBind (elem 1 (word s) (v32 s)) fun r => flMap (fun x => mul32 x r) c
    flBind c2 fun c => orthoCols t (done ++ [c])

/-- Steps 4 to 6: P̂ from the folded P, Q_loc and the new residual. -/
def projMiddle (e : MapSc) (y : FoldLayer) (m : Mach) : Nat × Mach :=
  let w := projParts y
  let f := e.facet
  let p := read32s m f w.p (y.rows * y.rank)
  let ph := orthoCols (matRows y.rows (matT y.rows y.rank p)) []
  let phT := ph.1.flatten
  let phRows := matT y.rank y.rows phT
  let phb := flMap toBf phT
  let mb := (List.range (y.rows * y.cols)).map fun i => readNat m f 1 (w.mb + 2 * i) 2
  -- one row per column of M, so that Q_loc stands row-major over COLS × r
  let ql := bfMul (matRows y.rows (matT y.rows y.cols mb)) (matRows y.rows phb.1) none
  let qlb := flMap toBf (ql.1.flatten)
  let mm := projM m e y false
  let neg := qlb.1.map fun b => b ^^^ 0x8000
  let res := bfMul (matRows y.rank (matT y.rank y.rows phb.1)) (matRows y.rank neg) (some (matRows y.cols mm.1))
  let m := write32s f w.ql ql.1.flatten (write32s f w.ph phRows m)
  let m := write32s f w.res res.1.flatten m
  (ph.2 ||| phb.2 ||| ql.2 ||| qlb.2 ||| res.2, m)

/-- Step 8: the gradient area from P̂ and the folded Q. -/
def projEnd (e : MapSc) (y : FoldLayer) (m : Mach) : Nat × Mach :=
  let w := projParts y
  let f := e.facet
  let ph := flMap toBf (read32s m f w.ph (y.rows * y.rank))
  let q := flMap toBf (read32s m f w.q (y.cols * y.rank))
  let g := bfMul (matRows y.rank ph.1) (matRows y.rank q.1) none
  let m := match gradAddr m e y.layer with
    | some a => write32s f a g.1.flatten m
    | none => m
  (ph.2 ||| q.2 ||| g.2, m)

/-- The first sweep in which a layer is no longer projected: E joins the gradient area once (R357). -/
def dropResidual (j p : Nat) (e : MapSc) (layer : Nat) (m : Mach) : Nat × Mach :=
  match projRec m j p layer with
  | none => (0, m)
  | some r =>
    let n := r.rows * r.cols
    let s := flMap (fun (p : Nat × Nat) => add32 p.1 p.2) ((gradVals m e layer 0 n).zip (read32s m r.facet (r.base * 4096) n))
    let m := match gradAddr m e layer with
      | some a => write32s e.facet a s.1 m
      | none => m
    (s.2, modJob m j fun x => { x with proj := x.proj.filter fun q => !(q.pipe == p && q.layer == layer) })

end Sys2Proof.Machine
end

