-- ==== Sys2Proof/Machine/Fold.lean ====
section
/-!
DEFINITION. Fold channels (R322–R353): the passes over rings, tori and trees, completion of layers, the hand-off of
R298 and R299, and the commands FOLD_SEG, FOLD_LAYER_DONE, FOLD_STALL, FOLD_CHECK and FOLD_TOTALS.
-/
namespace Sys2Proof.Machine

/-! ### The layer in flight -/

def chanLayer (ch : Channel) (k : Nat) : Option FoldLayer := ch.layers[k]?

/-- Elements of a fold of a layer. -/
def foldElems (m : Mach) (ch : Channel) (y : FoldLayer) (sub : Nat) : Nat :=
  if 0 < y.rank then (if sub = 0 then y.rows else y.cols) * y.rank
  else
    let n := match layerHolder m ch.job ch.pipe y.layer with | some e => layerElems m e y.layer | none => 0
    if sub = 0 then n / 32 else n

/-- First fold of a layer: the pre-pass of a cold tensor or P, else the data. -/
def firstSub (m : Mach) (ch : Channel) (y : FoldLayer) : Nat :=
  if 0 < y.rank ∨ (ch.fmt = 2 ∧ isCold m ch.job y.tensor) then 0 else 1

/-- Exponents of the blocks of a segment that starts at element `at_`. -/
def segXs (m : Mach) (ch : Channel) (y : FoldLayer) (at_ n : Nat) : List Int :=
  if ch.fmt = 2 ∧ y.rank = 0 then blockXs m ch.job y.tensor ch.codes (at_ / 32) (n / 32) else []

/-- This member's scalars for the layer that fold takes up, before any value of its area changes (R299, R317, R344). -/
def noteScalars (n : Nat) (e : MapSc) (y : FoldLayer) (m : Mach) : Mach :=
  let ch := chanOf m n
  let c := replicaCounts m e y.layer
  let sq := sqNorm (gradVals m e y.layer 0 (layerElems m e y.layer))
  let loss := if ch.lossEn && (pipeScs m ch.job ch.pipe).any fun s =>
        (match stageAt m ch.job s.1 s.2 with | some e => isLast m ch.job e | none => false) then
      [(self m, sweepLoss (pipeOf m ch.job ch.pipe))] else []
  modChan m n fun x => { x with mb := c.1, tokens := c.2, locals := [(self m, sq)], losses := loss }

/-- This member's contribution to the `n` elements from `at_` (R336, R343). -/
def contribution (m : Mach) (ch : Channel) (y : FoldLayer) (sub at_ n : Nat) : Fl FoldSegIn :=
  match layerHolder m ch.job ch.pipe y.layer with
  | none => (segOf sub 0 0 0 [] [] [], 0)
  | some e =>
    let w := projParts y
    let base : FoldSegIn := segOf sub 0 0 0 [] [] []
    let r : Fl FoldSegIn :=
      if 0 < y.rank then
        ({ base with elems := w32s (read32s m e.facet ((if sub = 0 then w.p else w.ql) + 4 * at_) n) }, 0)
      else if sub = 0 then
        ({ base with elems := w32s ((List.range n).map fun b => blockCode (gradVals m e y.layer (32 * (at_ + b)) 32)) }, 0)
      else
        let vals := gradVals m e y.layer at_ n
        match ch.fmt with
        | 0 => ({ base with elems := w32s vals }, 0)
        | 1 => flBind (flMap toBf vals) fun es => ({ base with elems := w32s es }, 0)
        | _ =>
          let xs := segXs m ch y at_ n
          let bl := chunks 32 vals
          flBind (flMap (fun (p : Nat × List Nat) => blkOf (xs.getD p.1 0) (p.2.map v32)) ((List.range bl.length).zip bl))
            fun bs => (withBlks base bs, 0)
    if at_ = 0 ∧ sub = 1 then
      ({ r.1 with mb := ch.mb, tokens := ch.tokens, locals := ch.locals, losses := ch.losses }, r.2)
    else r

/-! ### Geometry (R331, R332) -/

/-- Ring length, own index, and the position at an index, for a leg. -/
structure Ring1 where
  len : Nat
  idx : Nat
  pos : Nat → Nat

def legRing (ch : Channel) (leg : Nat) : Ring1 :=
  let n := ch.members.length
  if ch.topo = 1 then
    let tx := max 1 ch.torusX
    let x := ch.self % tx
    let y := ch.self / tx
    if leg = 2 ∨ leg = 3 then ⟨n / tx, y, fun k => k * tx + x⟩ else ⟨tx, x, fun k => y * tx + k⟩
  else ⟨n, ch.self, id⟩

/-- Chunk length of `n` elements over a ring of `len` members. -/
def chunkLen (n len : Nat) : Nat := 1024 * ceilDiv n (1024 * max 1 len)

/-- Elements that a leg's ring splits: first element and count.  The Y ring splits the X chunk of its column. -/
def legRange (ch : Channel) (total leg : Nat) : Nat × Nat :=
  if ch.topo = 1 ∧ (leg = 2 ∨ leg = 3) then
    let tx := max 1 ch.torusX
    let h := chunkLen total tx
    let a := (ch.self % tx) * h
    (a, min total (a + h) - a)
  else (0, total)

/-- First element of a segment. -/
def segStart (ch : Channel) (total : Nat) (s : FoldSegIn) : Nat :=
  if ch.topo = 2 then 1024 * s.index
  else
    let r := legRange ch total s.leg
    r.1 + s.chunk * chunkLen r.2 (legRing ch s.leg).len + 1024 * s.index

/-- Elements of the segment that starts at `at_` within a chunk's end. -/
def segLen (ch : Channel) (total leg at_ : Nat) : Nat :=
  if ch.topo = 2 then min 1024 (total - at_)
  else
    let r := legRange ch total leg
    let h := chunkLen r.2 (legRing ch leg).len
    let e := min (r.1 + r.2) (r.1 + ((at_ - r.1) / max 1 h + 1) * h)
    min 1024 (e - at_)

/-- Chunk and index of the segment at `at_` on a leg. -/
def segPlace (ch : Channel) (total leg at_ : Nat) : Nat × Nat :=
  if ch.topo = 2 then (0, at_ / 1024)
  else
    let r := legRange ch total leg
    let h := max 1 (chunkLen r.2 (legRing ch leg).len)
    ((at_ - r.1) / h, ((at_ - r.1) % h) / 1024)

/-- Starts of the segments of chunk `c` of a leg; of the whole layer in a tree. -/
def chunkStarts (ch : Channel) (total leg c : Nat) : List Nat :=
  if ch.topo = 2 then (List.range (ceilDiv total 1024)).map (1024 * ·)
  else
    let r := legRange ch total leg
    let h := chunkLen r.2 (legRing ch leg).len
    let a := r.1 + c * h
    let e := min (r.1 + r.2) (a + h)
    (List.range (ceilDiv (e - a) 1024)).map fun i => a + 1024 * i

/-- Ring index of the member that holds a chunk's sum. -/
def reducerIdx (ch : Channel) (leg c : Nat) : Nat := if ch.ordered then (legRing ch leg).len - 1 else c

/-- Tree: parent, and children in increasing position. -/
def treeParent (ch : Channel) (p : Nat) : Nat := ((ch.members[p]?).map (·.2.2)).getD p
def treeChildren (ch : Channel) : List Nat :=
  (List.range ch.members.length).filter fun q => q != ch.self && treeParent ch q == ch.self && q != treeParent ch q

/-- Positions next to this member (R326). -/
def neighbours (ch : Channel) : List Nat :=
  let ring (leg : Nat) : List Nat :=
    let r := legRing ch leg
    [r.pos ((r.idx + 1) % max 1 r.len), r.pos ((r.idx + r.len - 1) % max 1 r.len)]
  let l := if ch.topo = 0 then ring 0 else if ch.topo = 1 then ring 0 ++ ring 2
    else (if treeParent ch ch.self = ch.self then [] else [treeParent ch ch.self]) ++ treeChildren ch
  (l.filter fun q => q != ch.self).eraseDups

/-- Position of a module. -/
def memberPos (ch : Channel) (md : Nat) : Option Nat := ch.members.findIdx? fun x => x.1 == md

/-! ### Sending (R324, R325, R347) -/

/-- Sends what waits for links that are up. -/
def flushFold (n : Nat) (m : Mach) : Mach :=
  let ch := chanOf m n
  let up (d : Nat) : Bool := match ch.members[d]? with | some x => linkIsUp m x.2.1 | none => false
  let go := ch.outq.filter fun o => up o.dst
  let m := modChan m n fun c => { c with outq := c.outq.filter fun o => !up o.dst }
  forAll go (fun m o =>
    match ch.members[o.dst]? with
    | some x => sendOn m x.2.1 x.1 (.foldSeg (linkOf m x.2.1).farLink n o.entry o.pass o.seq (self m) o.segs)
    | none => m) m

/-- One segment to a neighbour, numbered on its hop direction. -/
def sendSeg (n dst entry pass : Nat) (s : FoldSegIn) (m : Mach) : Mach :=
  let ch := chanOf m n
  let seq := ((ch.txSeq.find? fun t => t.1 == dst).map (·.2)).getD 0
  let tx := (ch.txSeq.filter fun t => t.1 != dst) ++ [(dst, (seq + 1) % 65536)]
  flushFold n (modChan m n fun c => { c with txSeq := tx, outq := c.outq ++ [⟨dst, entry, pass, seq, [s]⟩] })

/-- An ABORT marker for a layer to a neighbour (R351). -/
def sendAbort (n dst entry : Nat) (m : Mach) : Mach :=
  flushFold n (modChan m n fun c => { c with outq := c.outq ++ [⟨dst, entry, 2, 0, []⟩] })

/-! ### The shares (R335, R341) -/

def orFold (n fl : Nat) (m : Mach) : Mach := modChan m n fun c => { c with flags := c.flags ||| fl }

/-- Values at a place of a list, which grows with zeros up to it. -/
def splice (l : List Nat) (at_ : Nat) (vs : List Nat) : List Nat :=
  l.take at_ ++ List.replicate (at_ - l.length) 0 ++ vs ++ l.drop (at_ + vs.length)

/-- Writes a shared segment on this member. -/
def writeShare (n : Nat) (y : FoldLayer) (s : FoldSegIn) (at_ : Nat) (m : Mach) : Mach :=
  let ch := chanOf m n
  match layerHolder m ch.job ch.pipe y.layer with
  | none => m
  | some e =>
    let w := projParts y
    let fmt := foldFmt ch y s.sub
    let m := modChan m n fun c => { c with written := c.written + s.elems.length }
    let m := if at_ = 0 ∧ s.sub = 1 then modChan m n fun c => { c with
        mb := s.mb, tokens := s.tokens, locals := s.locals, losses := s.losses } else m
    if fmt = 3 then modChan m n fun c => { c with codes := splice c.codes at_ (s.elems.map (·.toNat)) }
    else
      let v := segTo32 fmt s
      let wide := (s.wide.filter id).length
      let m := orFold n v.2 (modChan m n fun c => { c with widened := sat32 (c.widened + (if fmt = 2 then wide else 0)) })
      if 0 < y.rank then write32s e.facet ((if s.sub = 0 then w.p else w.q) + 4 * at_) v.1 m
      else match gradAddr m e y.layer with
        | some a => write32s e.facet (a + 4 * at_) v.1 m
        | none => m

/-- Puts a segment on a leg from its start. -/
def onLeg (ch : Channel) (total leg at_ : Nat) (s : FoldSegIn) : FoldSegIn :=
  let p := segPlace ch total leg at_
  { s with leg := leg, chunk := p.1, index := p.2 }

/-- A shared segment on this member: it is written and carried on (R332). -/
def shareStep (n : Nat) (y : FoldLayer) (total : Nat) (write : Bool) (s : FoldSegIn) (at_ : Nat) (m : Mach) : Mach :=
  let ch := chanOf m n
  let m := if write then writeShare n y s at_ m else m
  if ch.topo = 2 then forAll (treeChildren ch) (fun m d => sendSeg n d ch.cur 1 s m) m
  else
    let r := legRing ch s.leg
    let nx := (r.idx + 1) % max 1 r.len
    let stop := if s.leg = 4 ∧ ch.topo = 1 then s.chunk else reducerIdx ch s.leg s.chunk
    let m := if nx = stop then m else sendSeg n (r.pos nx) ch.cur 1 s m
    if s.leg = 3 then
      let x := legRing ch 4
      if x.len ≤ 1 then m else sendSeg n (x.pos ((x.idx + 1) % x.len)) ch.cur 1 (onLeg ch total 4 at_ s) m
    else m

/-! ### The reduce pass -/

/-- A sum that this member's Y ring takes up: it starts the Y pass or waits for the Y partial. -/
def enterY (n total at_ : Nat) (s : FoldSegIn) (m : Mach) : Mach :=
  let ch := chanOf m n
  modChan m n fun c => { c with accs := c.accs ++ [⟨at_, onLeg ch total 2 at_ s, []⟩] }

/-- A partial to which this member has added its part goes on, or is the sum. -/
def passOn (n : Nat) (y : FoldLayer) (total : Nat) (s : FoldSegIn) (at_ : Nat) (m : Mach) : Mach :=
  let ch := chanOf m n
  if ch.topo = 2 then
    if treeParent ch ch.self = ch.self then shareStep n y total true (onLeg ch total 4 at_ s) at_ m
    else sendSeg n (treeParent ch ch.self) ch.cur 0 s m
  else
    let r := legRing ch s.leg
    if r.idx = reducerIdx ch s.leg s.chunk then
      if s.leg = 2 then shareStep n y total true (onLeg ch total 3 at_ s) at_ m
      else if ch.topo = 0 then shareStep n y total true (onLeg ch total 4 at_ s) at_ m
      else if r.idx = s.chunk then enterY n total at_ s m
      else sendSeg n (r.pos ((r.idx + 1) % max 1 r.len)) ch.cur 0 { s with leg := 1 } m
    else sendSeg n (r.pos ((r.idx + 1) % max 1 r.len)) ch.cur 0 s m

/-- Joins a partial with this member's part; a refused scale is reported (R339). -/
def joinIn (n : Nat) (y : FoldLayer) (a b : FoldSegIn) (at_ : Nat) (m : Mach) : FoldSegIn × Mach :=
  let ch := chanOf m n
  let fmt := foldFmt ch y a.sub
  let xs := segXs m ch y at_ a.elems.length
  let bad := if fmt = 2 then badScales xs a ++ badScales xs b else []
  let f := ((layerHolder m ch.job ch.pipe y.layer).map (·.facet)).getD 0
  let m := forAll bad (fun m e =>
    raise m foldScaleErr (srcFacet f 8) (some ch.job) [n, y.layer, y.tensor, at_ / 32 + e.1, e.2]) m
  let r := segJoin fmt xs a b
  (r.1, orFold n r.2 m)

/-- A tree node's join is complete when every child has joined. -/
def treeReady (ch : Channel) (a : FoldAcc) : Bool := (treeChildren ch).all a.joined.contains

/-- The sums that the member can pass on without a further input: a leaf's, a root's of its own, and the X sums with
which it starts the Y pass. -/
def startY (ch : Channel) (a : FoldAcc) : Bool :=
  let r := legRing ch 2
  a.seg.leg == 2 && (if ch.ordered then r.idx == 0 else r.idx == (a.seg.chunk + 1) % max 1 r.len)

/-- Passes on what needs no further input. -/
def passReady (n : Nat) (y : FoldLayer) (total : Nat) (m : Mach) : Mach :=
  let ch := chanOf m n
  let go (a : FoldAcc) : Bool := if ch.topo = 2 then treeReady ch a else startY ch a
  let l := ch.accs.filter go
  forAll l (fun m a => passOn n y total a.seg a.start m) (modChan m n fun c => { c with accs := c.accs.filter fun a => !go a })

/-- Begins this member's contribution to a fold of the layer in flight (R332, R334). -/
def beginFold (n : Nat) (y : FoldLayer) (m : Mach) : Mach :=
  let ch := chanOf m n
  let total := foldElems m ch y ch.sub
  let m := modChan m n fun c => { c with began := true, written := 0, accs := [] }
  let own (at_ : Nat) (m : Mach) : FoldSegIn × Mach :=
    let r := contribution m ch y ch.sub at_ (segLen ch total 0 at_)
    (onLeg ch total 0 at_ r.1, orFold n r.2 m)
  let m :=
    if ch.topo = 2 then
      forAll (chunkStarts ch total 0 0) (fun m at_ =>
        let r := own at_ m
        modChan r.2 n fun c => { c with accs := c.accs ++ [⟨at_, r.1, [ch.self]⟩] }) m
    else
      let r := legRing ch 0
      let cs := if ch.ordered then (if r.idx = 0 then List.range r.len else []) else [(r.idx + r.len - 1) % max 1 r.len]
      forAll (cs.flatMap (chunkStarts ch total 0)) (fun m at_ =>
        let s := own at_ m
        passOn n y total s.1 at_ s.2) m
  passReady n y total m

/-! ### Parts that arrived -/

/-- Can a part be taken up now? -/
def partReady (ch : Channel) (total : Nat) (p : FoldPart) : Bool :=
  p.entry == ch.cur && ch.began && p.seg.sub == ch.sub &&
    (if ch.topo = 2 ∧ p.seg.leg = 0 then
      match ch.accs.find? fun a => a.start == segStart ch total p.seg with
      | some a => !ch.ordered || (treeChildren ch).find? (fun q => !a.joined.contains q) == some p.src
      | none => false
    else if p.seg.leg = 2 then ch.accs.any fun a => a.start == segStart ch total p.seg
    else true)

/-- Is a part's layer over: completed, or ended by an ABORT? -/
def partDead (ch : Channel) (p : FoldPart) : Bool := decide (p.entry < ch.cur) || ch.aborted.contains p.entry

/-- Credit of the flits that hold parts is returned (R334). -/
def freeParts (ps : List FoldPart) (m : Mach) : Mach := forAll ps (fun m p => freeRx p.link 1 p.flits m) m

/-- Parts that arrived before their turn move from the receive buffers into the window of `cap` bytes, while it has room (R333). -/
def toWindow (cap : Nat) : Nat → List FoldPart → List FoldPart
  | _, [] => []
  | used, p :: t =>
    if p.flits ≠ 0 ∧ p.seg.leg = 0 ∧ used + p.bytes ≤ cap then { p with flits := 0 } :: toWindow cap (used + p.bytes) t
    else p :: toWindow cap used t

/-- The reorder window of an ORDERED tree node takes what it has room for, and the credit of those flits is returned; no other
channel has one (R333, R334). -/
def fillWindow (n : Nat) (m : Mach) : Mach :=
  let ch := chanOf m n
  if ch.topo ≠ 2 ∨ !ch.ordered then m
  else
    let used := ((ch.parts.filter fun p => p.flits == 0 && p.seg.leg == 0).map (·.bytes)).foldl (· + ·) 0
    let ps := toWindow (65536 * regN m (offFoldWindow n)) used ch.parts
    let moved := ((ch.parts.zip ps).filter fun e => e.1.flits != e.2.flits).map (·.1)
    freeParts moved (modChan m n fun c => { c with parts := ps })

/-- Parts of an arriving message, and the flits of the receive buffer that hold each; the header's belong to the first. -/
def partsOf (m : Mach) (n entry src link : Nat) : Nat → List FoldSegIn → List FoldPart
  | _, [] => []
  | at_, s :: t =>
    let ch := chanOf m n
    let b := (segWire (match ch.layers[entry]? with | some y => foldFmt ch y s.sub | none => ch.fmt) s).length
    ⟨entry, src, s, link, ceilDiv (at_ + b) 256 - (if at_ = 32 then 0 else ceilDiv at_ 256), b⟩ :: partsOf m n entry src link (at_ + b) t

/-- Takes up one part. -/
def takePart (n : Nat) (y : FoldLayer) (p : FoldPart) (m : Mach) : Mach :=
  let ch := chanOf m n
  let total := foldElems m ch y ch.sub
  let at_ := segStart ch total p.seg
  let s := p.seg
  if s.leg = 3 ∨ s.leg = 4 then shareStep n y total true s at_ m
  else if s.leg = 1 then
    let r := legRing ch 1
    if r.idx = s.chunk then passReady n y total (enterY n total at_ { s with leg := 0 } m)
    else sendSeg n (r.pos ((r.idx + 1) % max 1 r.len)) ch.cur 0 s m
  else if ch.topo = 2 ∨ s.leg = 2 then
    match ch.accs.find? fun a => a.start == at_ with
    | none => m
    | some a =>
      if ch.topo = 2 then
        let r := joinIn n y a.seg s at_ m
        let m := modChan r.2 n fun c => { c with accs := c.accs.map fun b =>
          if b.start == at_ then ⟨at_, { r.1 with leg := 0, chunk := 0, index := at_ / 1024 }, b.joined ++ [p.src]⟩ else b }
        passReady n y total m
      else
        let r := joinIn n y s a.seg at_ m
        passOn n y total { r.1 with leg := 2, chunk := s.chunk, index := s.index } at_
          (modChan r.2 n fun c => { c with accs := c.accs.filter fun b => b.start != at_ })
  else
    let own := contribution m ch y ch.sub at_ s.elems.length
    let r := joinIn n y s (onLeg ch total 0 at_ own.1) at_ (orFold n own.2 m)
    passReady n y total (passOn n y total { r.1 with leg := 0, chunk := s.chunk, index := s.index } at_ r.2)

/-! ### The end of a layer's fold -/

/-- Writes shards to the gather members (R346). -/
def deliverShards (n : Nat) (y : FoldLayer) (m : Mach) : Mach :=
  let ch := chanOf m n
  match layerHolder m ch.job ch.pipe y.layer with
  | none => m
  | some e =>
    let l := locusOf m e.facet e.sc
    match l.layers[y.layer - e.firstLayer]? with
    | none => m
    | some ly =>
      if !ly.gathered then m
      else
        let k := max 1 l.gather.length
        let h := ceilDiv ly.size k
        forAll ((List.range l.gather.length).zip l.gather) (fun m g =>
          let a := g.1 * h
          let b := min ly.size ((g.1 + 1) * h)
          let bytes := (gradVals m e y.layer (2048 * a) (2048 * (b - a))).flatMap (leBytes 4)
          let dstOfs := y.shardBase * 4096
          if b ≤ a then m
          else if g.2.1 = self m then writeChecked m g.2.2.1 1 dstOfs bytes
          else
            let addr := word (latAddr ⟨g.2.1, g.2.2.1, 1, dstOfs⟩)
            let fl : Flight :=
              { opid := m.nextOp, issuer := .fold n, job := ch.job, req := ⟨addr, 0x33, 0, bytes.length, bytes, 0⟩
                dest := some ch.cur, localOfs := 0, isWrite := true, sentAt := m.now, state := .requested, word := none
                via := none, chord := none, pc := e.facet, orphan := false, ue := false, stale := false }
            sendFlight fl { m with nextOp := m.nextOp + 1 }) m

/-- The layer in flight ends on this member; its completion waits for FOLD_LAYER_DONE. -/
def endLayer (n : Nat) (failed : Bool) (m : Mach) : Mach :=
  modChan m n fun c => { c with
    done := c.done ++ [⟨c.cur, c.mb, c.tokens, c.locals, c.losses, c.flags, failed⟩]
    foldTime := c.foldTime + (match c.foldFrom with | some t => m.now - t | none => 0), foldFrom := none
    totals := if failed then c.totals else some (c.mb, c.tokens, c.losses)
    cur := c.cur + 1, sub := 0, began := false, codes := [], accs := [], written := 0
    mb := 0, tokens := 0, locals := [], losses := [], flags := 0 }

/-- The gradient area of a layer that fails becomes NaN (R352). -/
def fillNan (j p layer : Nat) (m : Mach) : Mach :=
  match layerHolder m j p layer with
  | some e =>
    (match gradAddr m e layer with
      | some a => write32s e.facet a (List.replicate (layerElems m e layer) nan32) m
      | none => m)
  | none => m

/-- A layer fails (R352): its area is filled with NaN, and a GATHERED layer's shards with it, where the update reads (R346). -/
def failLayer (n : Nat) (y : FoldLayer) (m : Mach) : Mach :=
  let ch := chanOf m n
  endLayer n true (deliverShards n y (fillNan ch.job ch.pipe y.layer m))

/-- Every share of the fold in progress has been written. -/
def subDone (n : Nat) (y : FoldLayer) (m : Mach) : Mach :=
  let ch := chanOf m n
  match layerHolder m ch.job ch.pipe y.layer with
  | none => endLayer n false m
  | some e =>
    if ch.sub = 0 then
      let r := if 0 < y.rank then projMiddle e y m else (0, m)
      beginFold n y (orFold n r.1 (modChan r.2 n fun c => { c with sub := 1 }))
    else
      let r := if 0 < y.rank then projEnd e y m else (0, m)
      endLayer n false (deliverShards n y (orFold n r.1 r.2))

/-- Has the layer been handed off on this member, and, for a projected one, has FOLD begun (R334, R359)? -/
def layerReady (m : Mach) (ch : Channel) (y : FoldLayer) : Bool :=
  match layerHolder m ch.job ch.pipe y.layer with
  | some e => (scOf m e.facet e.sc).handed.contains y.layer && (y.rank == 0 || decide (3 ≤ m.tick.phase))
  | none => false

/-- Starts the layer in flight. -/
def startLayer (n : Nat) (y : FoldLayer) (m : Mach) : Mach :=
  let ch := chanOf m n
  let over_ := ch.closed || ch.aborted.contains ch.cur
  match layerHolder m ch.job ch.pipe y.layer with
  | none => if over_ then failLayer n y m else m
  | some e =>
    if over_ then
      -- R357: the residual of a layer no longer projected is added once, whether its fold succeeds or not
      let r := if 0 < y.rank then (0, m) else dropResidual ch.job ch.pipe e y.layer m
      failLayer n y (orFold n r.1 r.2)
    else
      let s := firstSub m ch y
      let m := noteScalars n e y m
      let r := if 0 < y.rank then projStart ch.job ch.pipe e y m else dropResidual ch.job ch.pipe e y.layer m
      let m := orFold n r.1 (modChan r.2 n fun c => { c with sub := s, lastMove := m.edges, stalled := false, foldFrom := some m.now })
      beginFold n y m

/-- Lets a channel go on until it waits for another member. -/
def pumpFold (fuel n : Nat) (m : Mach) : Mach :=
  match fuel with
  | 0 => m
  | k + 1 =>
    let ch := chanOf m n
    let dead := ch.parts.filter (partDead ch)
    let ch := { ch with parts := ch.parts.filter fun p => !partDead ch p }
    let m := fillWindow n (freeParts dead (modChan m n fun c => { c with parts := ch.parts }))
    match chanLayer ch ch.cur with
    | none => m
    | some y =>
      if !ch.began then (if layerReady m ch y then pumpFold k n (startLayer n y m) else m)
      else if ch.aborted.contains ch.cur then pumpFold k n (failLayer n y m)
      else
        let total := foldElems m ch y ch.sub
        if total ≤ ch.written then pumpFold k n (subDone n y m)
        else
          match (chanOf m n).parts.find? (partReady ch total) with
          | none => m
          | some p => pumpFold k n (takePart n y p (freeParts [p] (modChan m n fun c => { c with parts := c.parts.erase p })))

def runFold (n : Nat) (m : Mach) : Mach :=
  let ch := chanOf m n
  pumpFold (4 * (ch.parts.length + ch.layers.length) + 16) n m

/-! ### Reports to the home (R305, R344, R345) -/

/-- UPD_REPORT at the home: the last report of a layer stands. -/
def updReportOp (_src j p layer nonf : Nat) (gsq : Word) (m : Mach) : Mach :=
  modPipe m j p fun x =>
    { x with gather := { x.gather with layers := (x.gather.layers.filter fun l => l.1 != layer) ++ [(layer, nonf, gsq)] } }

def atHome (j p : Nat) (here : Mach → Mach) (c : Instr) (m : Mach) : Mach :=
  if isHome m j p then here m
  else match homeModule m j p with
    | some d => sendMsg m d c
    | none => m

/-- add_p over scalars in increasing module number (R317, R344). -/
def sumByModule (l : List (Nat × Word)) : Word :=
  match l.mergeSort fun a b => decide (a.1 ≤ b.1) with
  | [] => 0
  | a :: t => word (pairWord (t.foldl (fun s b => (addP s (wordPair b.2.toNat)).1) (wordPair a.2.toNat)))

/-- The payload of Table 10.11. -/
structure GradStat where
  global   : Nat
  local_   : Nat
  tokens   : Nat
  mb       : Nat
  bnoise   : Nat
  ema      : Nat
  nonf     : Nat
  layer    : Nat
  replicas : Nat
  empty    : Bool
  skipped  : Bool
  poisoned : Bool
  scale    : Nat

def putGradStat (j p : Nat) (g : GradStat) (m : Mach) : Mach :=
  let v := g.scale + b2n g.poisoned * 2 ^ 32 + b2n g.skipped * 2 ^ 33 + b2n g.empty * 2 ^ 34 + (g.replicas % 2 ^ 11) * 2 ^ 35
    + p * 2 ^ 46 + j * 2 ^ 48 + g.layer * 2 ^ 52 + (m.tick.sweepNo % 2 ^ 32) * 2 ^ 64 + sat32 g.nonf * 2 ^ 96
    + g.ema * 2 ^ 128 + g.bnoise * 2 ^ 160 + (g.mb % 2 ^ 24) * 2 ^ 192 + (g.tokens % 2 ^ 40) * 2 ^ 216
    + g.local_ * 2 ^ 256 + g.global * 2 ^ 320
  putStat m ⟨1, BitVec.ofNat 384 v, (stamp m).1, (stamp m).2⟩

/-! ### Replay verification (R389, R390) -/

/-- A pipeline's fold channels on this module. -/
def pipeChans (m : Mach) (j p : Nat) : List Nat :=
  (List.range 32).filter fun n => (chanOf m n).en && (chanOf m n).job == j && (chanOf m n).pipe == p

/-- Does the replayed loss match the recorded one? -/
def lossMatches (m : Mach) (j p : Nat) (rec_ rep : Word) : Bool :=
  let ordered := (List.range 32).all fun n => !((chanOf m n).en && (chanOf m n).job == j) || (chanOf m n).ordered
  let single := (pipeChans m j p).all fun n => (chanOf m n).members.length ≤ 1
  let a := pairVal (wordPair rec_.toNat)
  let b := pairVal (wordPair rep.toNat)
  if ordered || single then rec_ == rep || (a == .nan && b == .nan)
  else
    let tol := sInt 8 (regN m offVerifyTol % 256)
    let r (v : Fp) : Fp := fpDec f64 (fpEnc f64 v).1
    let d := r (fpAbs (fpSub (r b) (r a)).1)
    let lim := r (fpScale (fpAbs (r a)) tol)
    fpLt false d lim || fpEq d lim

/-- The fold of a restored pipeline is complete: its loss is compared. -/
def verifyLoss (j p : Nat) (m : Mach) : Mach :=
  match (snapOf m j).verify with
  | none => m
  | some (g, losses) =>
    if m.tick.sweepNo ≠ g then m
    else
      let rec_ := losses.getD p 0
      let rep := (pipeOf m j p).foldLoss
      let lead := (snapOf m j).leader == (snapOf m j).self
      let det := [j, g, p, rec_.toNat, rep.toNat]
      if lossMatches m j p rec_ rep then (if lead then raise m snapVerified (srcUnit 5) (some j) det else m)
      else
        let m := raise m restoreMismatch (srcUnit 5) (some j) det
        let m := modJob m j fun x => { x with halted := true }
        if lead then modSnap m j fun s => { s with bad := if s.bad.contains g then s.bad else s.bad ++ [g] } else m

/-- Have all layers of the pipeline on this module folded? -/
def pipeFolded (m : Mach) (j p : Nat) : Bool :=
  let es := match fillMap m j with | some pm => mapStages pm p | none => []
  (es.all fun e => ((List.range (e.lastLayer + 1 - e.firstLayer)).map (e.firstLayer + ·)).all
      (scOf m e.facet e.sc).handed.contains)
    && (pipeChans m j p).all fun n =>
      let ch := chanOf m n
      decide (ch.members.length ≤ 1) || (decide (ch.layers.length ≤ ch.cur) && ch.done.isEmpty)

/-- Does a LOSS_EN channel of this module carry the pipeline's loss and totals (R344)? -/
def localTotals (m : Mach) (j p : Nat) : Bool :=
  (pipeChans m j p).any fun n => (chanOf m n).lossEn && decide (1 < (chanOf m n).members.length)

/-- Does the pipeline's last stage lie on this module? -/
def lastHere (m : Mach) (j p : Nat) : Bool :=
  match fillMap m j with
  | some pm => !(mapStages pm p).isEmpty && !goesOn m j pm p
  | none => false

/-- The last layer of the pipeline on this module has folded: a pipeline without a LOSS_EN channel takes its own loss, which the
module of its last stage has; where that is another one, the loss that FOLD_TOTALS brings is compared when it has come. -/
def checkPipeFolded (j p : Nat) (m : Mach) : Mach :=
  if !pipeFolded m j p then m
  else if localTotals m j p then verifyLoss j p m
  else if lastHere m j p then verifyLoss j p (noteLoss j p (modPipe m j p fun x => { x with foldLoss := sweepLoss x }))
  else if (pipeOf m j p).gather.totalsIn then verifyLoss j p m
  else m

/-- FOLD_TOTALS at the home: the values of another module's LOSS_EN channel may be the last that the comparison of R389 waits for. -/
def foldTotalsOp (src j p sweep mb tokens : Nat) (loss : Word) (m : Mach) : Mach :=
  if sweep ≠ m.tick.sweepNo then m
  else
    let m := noteLoss j p (modPipe m j p fun x => { x with
      gather := { x.gather with mb := mb, tokens := tokens, totalsIn := true, loss := loss }, foldLoss := loss })
    if src ≠ self m && pipeFolded m j p then verifyLoss j p m else m

/-! ### Completion (R345) -/

/-- Largest magnitude of folded values (R236). -/
def maxMag (vals : List Nat) : Nat :=
  vals.foldl (fun a v => if fpLt false (v32 a) (fpAbs (v32 v)) then v % 2 ^ 31 else a) 0

/-- A layer completes on this member: its norm and counts, its flags, statistics, and the report to the home.  The
spec gives no LOCAL_SQ, TOKENS and MB of a layer that failed: free values. -/
def completeLayer (j p layer : Nat) (replicas : Nat) (d : FoldDone) (m : Mach) : Mach :=
  match layerHolder m j p layer with
  | none => m
  | some e =>
    let n := layerElems m e layer
    let vals := gradVals m e layer 0 n
    let nonf := if d.failed then n else nonFinite vals
    let gsq := sqNorm vals
    let m := modSc m e.facet e.sc fun x => { x with flags := x.flags ||| d.flags }
    let lsq := sumByModule d.locals
    let m :=
      if regN m offStatMode ≠ 2 then m
      else if d.failed then
        putGradStat j p ⟨gsq.toNat, (freeVal m 64).toNat, (Config.free 40 m.free 1).toNat, (Config.free 24 m.free 2).toNat,
          0, 0, nonf, layer, replicas, false, false, false, 0⟩ (spendFree m)
      else putGradStat j p ⟨gsq.toNat, lsq.toNat, d.tokens, d.mb, 0, 0, nonf, layer, replicas, false, false, false, 0⟩ m
    atHome j p (updReportOp (self m) j p layer nonf gsq) (.updReport (self m) j p layer nonf gsq)
      (modPipe m j p fun x => { x with gather := { x.gather with
        locals := if d.failed then x.gather.locals else x.gather.locals ++ [(layer, lsq)]
        ownTokens := if d.failed then x.gather.ownTokens else x.gather.ownTokens ++ [d.tokens]
        ownNonf := x.gather.ownNonf + nonf } })

/-- Folded count, token total and loss of the LOSS_EN channel: those of its last layer that did not fail.  Where every
layer failed the spec gives none: free values, the tokens not 0, so that R311 does not undo the verdict of R352. -/
def chanTotals (m : Mach) (ch : Channel) : Nat × Nat × Word :=
  match ch.totals with
  | some t => (t.1, t.2.1, sumByModule t.2.2)
  | none => ((Config.free 24 m.free 1).toNat, (Config.free 39 m.free 2).toNat + 1, freeVal m 64)

/-- The folded scalars of the LOSS_EN channel, once its last layer has folded (R344). -/
def shareTotals (n : Nat) (d : FoldDone) (m : Mach) : Mach :=
  let ch := chanOf m n
  if !ch.lossEn || decide (d.entry + 1 ≠ ch.layers.length) then m
  else
    let t := chanTotals m ch
    let m := if ch.totals.isNone then spendFree m else m
    let m := noteLoss ch.job ch.pipe (modPipe m ch.job ch.pipe fun x => { x with foldLoss := t.2.2 })
    atHome ch.job ch.pipe (foldTotalsOp (self m) ch.job ch.pipe m.tick.sweepNo t.1 t.2.1 t.2.2)
      (.foldTotals (self m) ch.job ch.pipe m.tick.sweepNo t.1 t.2.1 t.2.2) m

/-- FOLD_LAYER_DONE: the oldest finished layer of a channel completes once its shard deliveries are acknowledged. -/
def foldLayerDoneOp (n : Nat) (m : Mach) : Mach :=
  let ch := chanOf m n
  match ch.done with
  | [] => m
  | d :: t =>
    if m.flights.any fun fl => fl.issuer == .fold n && fl.dest == some d.entry && !fl.orphan then m
    else
      match chanLayer ch d.entry with
      | none => m
      | some y =>
        let m := modChan m n fun c => { c with done := t }
        let m :=
          if ch.fmt = 2 ∧ y.rank = 0 ∧ !d.failed then
            match layerHolder m ch.job ch.pipe y.layer with
            | some e =>
              let top := maxMag (gradVals m e y.layer 0 (layerElems m e y.layer))
              modJob m ch.job fun x => { x with amaxPend := x.amaxPend ++ [(ch.pipe, y.tensor, BitVec.ofNat 32 top)] }
            | none => m
          else m
        let m := completeLayer ch.job ch.pipe y.layer ch.members.length d m
        checkPipeFolded ch.job ch.pipe (shareTotals n d m)

/-! ### The hand-off (R298, R299, R329, R330) -/

/-- Channel that folds a layer, and its place in the table. -/
def layerChan (m : Mach) (j p layer : Nat) : Option Nat :=
  (pipeChans m j p).find? fun n => decide (1 < (chanOf m n).members.length) && (chanOf m n).layers.any fun y => y.layer == layer

/-- Hands a layer off to fold; `own` is the micro-batch whose final unit does. -/
def handOff (j : Nat) (e : MapSc) (layer : Nat) (own : List (Nat × Nat)) (m : Mach) : Mach :=
  if (scOf m e.facet e.sc).handed.contains layer then m
  else
    let m := fillEmpty e layer m
    let c := completedCounts m j e own
    let m := modSc m e.facet e.sc fun x => { x with handed := x.handed ++ [layer], handCnt := x.handCnt ++ [(layer, c)] }
    match layerChan m j e.pipe layer with
    | some n => runFold n m
    | none =>
      let sq := sqNorm (gradVals m e layer 0 (layerElems m e layer))
      checkPipeFolded j e.pipe (completeLayer j e.pipe layer 1 ⟨0, c.1, c.2, [(self m, sq)], [], 0, false⟩ m)

/-- At the first edge of FOLD every layer not yet handed off is (R298), and projected layers may begin (R359). -/
def foldEdge (m : Mach) : Mach :=
  let all : List (Nat × MapSc) := (List.range 16).flatMap fun j =>
    match fillMap m j with
    | some pm => (pm.scs.filter fun e => training m j e.pipe).map fun e => (j, e)
    | none => []
  let m := forAll all (fun m je =>
    forAll ((List.range (je.2.lastLayer + 1 - je.2.firstLayer)).map (je.2.firstLayer + ·)) (fun m l => handOff je.1 je.2 l [] m) m) m
  forAll (List.range 32) (fun m n => if (chanOf m n).en && decide (1 < (chanOf m n).members.length) then runFold n m else m) m

/-- A GRAD_ACC with LAYER_END has completed: in the final backward unit it hands its layer off (R298). -/
def endLayerAcc (f c j : Nat) (e : MapSc) (layer : Nat) (m : Mach) : Mach :=
  match currentUnit m f c with
  | none => m
  | some u =>
    if u.dir != 1 || u.mb.slice != 0 then m
    else
      let own := [(u.mb.mbId, u.mb.len)]
      match finalBack m j e u with
      | some b => if b then handOff j e layer own m else m
      | none => if freeVal m 1 = 1 then handOff j e layer own (spendFree m) else spendFree m

/-- GRAD_ACC_COMPLETE: the record at the head of the update unit's queue takes effect; its layer is handed off when it
is the layer's last in the final unit (R295, R298). -/
def gradAccCompleteOp (f : Nat) (m : Mach) : Mach :=
  match (facetOf m f).grads with
  | [] => m
  | (c, j, r) :: t =>
    if (facetOf m f).failed then m
    else
      let m := modFacet m f fun x => { x with grads := t }
      match (scOf m f c).owner with
      | none => endCommand f c j m
      | some (_, e) =>
        if (scOf m f c).handed.contains (gLayer r) then
          endCommand f c j (raise (giveWord f c (recTag r) 0 0x65 0x10 m) seqFault (srcFacet f 3) (some j) [f, c, recTag r, 0x65])
        else
          let a := match gradAddr m e (gLayer r) with
            | some a => addGrad f c (a + gOfs r) (gSrc r) (gLength r) m
            | none => (0, false, m)
          let m := giveWord f c (recTag r) a.1 (if a.2.1 then 0x0F else 0) 0x10 a.2.2
          endCommand f c j (if gEnd r then endLayerAcc f c j e (gLayer r) m else m)

/-! ### Segments and aborts on arrival (R349, R351, R352) -/

/-- An ABORT of a layer whose shares this member has all written: the layer fails here too, before or after its
completion (R352). -/
def failLate (n entry : Nat) (y : FoldLayer) (m : Mach) : Mach :=
  let ch := chanOf m n
  let m := deliverShards n y (fillNan ch.job ch.pipe y.layer m)
  if ch.done.any fun d => d.entry == entry then
    modChan m n fun c => { c with done := c.done.map fun d => if d.entry == entry then { d with failed := true } else d }
  else
    match layerHolder m ch.job ch.pipe y.layer with
    | none => m
    | some e =>
      let nonf := layerElems m e y.layer
      let m := modPipe m ch.job ch.pipe fun x => { x with gather := { x.gather with ownNonf := x.gather.ownNonf + nonf } }
      let gsq := sqNorm (gradVals m e y.layer 0 nonf)
      atHome ch.job ch.pipe (updReportOp (self m) ch.job ch.pipe y.layer nonf gsq)
        (.updReport (self m) ch.job ch.pipe y.layer nonf gsq) m

/-- A layer is ended by an ABORT, which goes on to every other neighbour (R351). -/
def abortLayer (n entry : Nat) (from_ : Option Nat) (m : Mach) : Mach :=
  let ch := chanOf m n
  if ch.aborted.contains entry then m
  else
    let m := modChan m n fun c => { c with aborted := c.aborted ++ [entry] }
    let m := forAll ((neighbours ch).filter fun q => some q != from_) (fun m q => sendAbort n q entry m) m
    if entry < ch.cur then
      match chanLayer ch entry with
      | some y => failLate n entry y m
      | none => m
    else runFold n m

/-- FOLD_SEG (R349, R351).  What is dropped leaves the receive buffer at once; the rest leaves it as R333 and R334 say. -/
def foldSegOp (link n entry pass seq src : Nat) (segs : List FoldSegIn) (m : Mach) : Mach :=
  let ch := chanOf m n
  let drop (m : Mach) : Mach := freeRx link 1 (msgFlits m (.foldSeg link n entry pass seq src segs)) m
  match if ch.en then memberPos ch src else none with
  | none => drop m
  | some p =>
    let m := modChan m n fun c => { c with lastMove := m.edges, stalled := false }
    if pass = 2 then abortLayer n entry (some p) (drop m)
    else
      let want := ((ch.rxSeq.find? fun t => t.1 == p).map (·.2)).getD 0
      let rx := (ch.rxSeq.filter fun t => t.1 != p) ++ [(p, (seq + segs.length) % 65536)]
      let m := modChan m n fun c => { c with rxSeq := rx }
      if seq ≠ want then
        let y := chanLayer ch entry
        let f := ((y.bind fun y => layerHolder m ch.job ch.pipe y.layer).map (·.facet)).getD 0
        let m := raise m foldSeqEv (srcFacet f 8) (some ch.job) [n, src, want, seq, (y.map (·.layer)).getD 0]
        abortLayer n entry none (drop m)
      else
        runFold n (modChan m n fun c => { c with parts := c.parts ++ partsOf m n entry p link 32 segs })

/-- FOLD_STALL (R353). -/
def foldStallOp (n : Nat) (m : Mach) : Mach :=
  let ch := chanOf m n
  match chanLayer ch ch.cur with
  | none => m
  | some y =>
    if ch.en && (ch.began || !ch.parts.isEmpty) && !ch.stalled && expired m ch.lastMove (regN m offFoldTimeout) then
      let q := if ch.topo = 2 then treeParent ch ch.self else
        let r := legRing ch 0
        r.pos ((r.idx + r.len - 1) % max 1 r.len)
      let l := ((ch.members[q]?).map (·.2.1)).getD 63
      let f := ((layerHolder m ch.job ch.pipe y.layer).map (·.facet)).getD 0
      raise (modChan m n fun c => { c with stalled := true }) foldStallEv (srcFacet f 8) (some ch.job)
        [n, y.layer, l, m.edges - ch.lastMove]
    else m

/-! ### The exchange of settings (R328) -/

/-- This member's settings. -/
def foldSettings (ch : Channel) : FoldSettings := ⟨ch.topo, b2n ch.ordered, ch.fmt, ch.torusX, ch.lossEn, ch.crc⟩

/-- First setting that differs, in the order of FOLD_CHECK's fields, from 1. -/
def settingsDiffer (a b : FoldSettings) : Option Nat :=
  if a.topo ≠ b.topo then some 1 else if a.mode ≠ b.mode then some 2 else if a.fmt ≠ b.fmt then some 3
  else if a.torusX ≠ b.torusX then some 4 else if a.lossEn ≠ b.lossEn then some 5 else if a.crc ≠ b.crc then some 6 else none

/-- Compares a neighbour's settings with ours. -/
def compareFold (n md : Nat) (s : FoldSettings) (m : Mach) : Mach :=
  let ch := chanOf m n
  match settingsDiffer (foldSettings ch) s with
  | none => m
  | some k =>
    let m := raise (modChan m n fun c => { c with closed := true }) foldMismatch (srcChan n) (some ch.job) [n, md, k]
    if ch.began then runFold n (modChan m n fun c => { c with aborted := c.aborted ++ [c.cur] }) else m

/-- FOLD_CHECK: it is compared at once, or when our own setup takes effect. -/
def foldCheckOp (link n : Nat) (s : FoldSettings) (m : Mach) : Mach :=
  let ch := chanOf m n
  let md := (linkOf m link).farModule
  if ch.en && (memberPos ch md).isSome then compareFold n md s m
  else modChan m n fun c => { c with early := (c.early.filter fun e => e.1 != md) ++ [(md, s)] }

/-- The exchange at the sweep edge at which a setup takes effect. -/
def openChannel (n : Nat) (m : Mach) : Mach :=
  let ch := chanOf m n
  let mods := (neighbours ch).filterMap fun q => (ch.members[q]?).map (·.1)
  let m := forAll (neighbours ch) (fun m q =>
    match ch.members[q]? with
    | some x => sendOn m x.2.1 x.1 (.foldCheck (linkOf m x.2.1).farLink n (foldSettings ch))
    | none => m) m
  let early := ch.early.filter fun e => mods.contains e.1
  forAll early (fun m e => compareFold n e.1 e.2 m) (modChan m n fun c => { c with early := [] })

/-- The state of a channel at a sweep edge: a new sweep folds its layers anew. -/
def foldSweepEdge (m : Mach) : Mach :=
  { m with chans := m.chans.map fun c => { c with
      cur := 0, sub := 0, began := false, codes := [], accs := [], written := 0, aborted := [], closed := false
      done := [], totals := none, stalled := false } }

def execFoldCheck (link n : Nat) (st : FoldSettings) (s : State) : Res :=
  actReady (decide (link < 36 ∧ n < 32)) (foldCheckOp link n st) s
def execUpdReport (src j p layer nonf : Nat) (gsq : Word) (s : State) : Res :=
  actReady (decide (j < 16 ∧ p < 4)) (updReportOp src j p layer nonf gsq) s

end Sys2Proof.Machine
end

