-- ==== Sys2Proof/Machine/Turns.lean ====
section
/-!
DEFINITION. Turns of a facet's engines among the jobs whose stage contexts hold ready commands (R406), and the records that take
them: prism and ray commands and strand launches.
-/
namespace Sys2Proof.Machine

/-- Engine of a record: prisms 0 to 3, the ray 4, strand launches 5, the update unit 6. -/
def engineOf (m : Mach) (f : Nat) (r : Rec) : Option Nat :=
  match recOp r with
  | 1 => some (pickPrism (facetOf m f) r)
  | 2 => some 4
  | 3 => some 5
  | 0x10 => some 6
  | _ => none

/-- Does an engine command of a stage context meet a hazard with what it has in flight (R201)? -/
def recordHeld (m : Mach) (f c : Nat) (r : Rec) : Bool :=
  match recOp r with
  | 1 => heldByHazard m f c (prismFoot r)
  | 2 => maskHeld r (allFeet m f c) || heldByHazard m f c (rayFoot m f r)
  | 0x10 => heldByHazard m f c ⟨[(gSrc r, gLength r)], []⟩
  | _ => false

/-- Engine for which a stage context holds a ready command, and its job. -/
def readyRecord (m : Mach) (f c : Nat) : Option (Nat × Nat) :=
  (issuable m f c).bind fun x =>
    if prefillGate f c x.1 m && !recordHeld m f c x.1 then (engineOf m f x.1).map fun e => (e, x.2) else none

/-- Jobs whose stage contexts hold ready records for an engine. -/
def readyJobs (m : Mach) (f e : Nat) : List Nat :=
  ((List.range 4).filterMap fun c => (readyRecord m f c).bind fun x => if x.1 == e then some x.2 else none).eraseDups

/-- WEIGHT of a job (Table 13.1). -/
def jobWeight (m : Mach) (j : Nat) : Nat := bf (regN m (offJob j)) 15 8

def turnsOf (m : Mach) (f e : Nat) : Turns :=
  let t := ((facetOf m f).turns[e]?).getD ⟨none, 0, []⟩
  if t.edge = m.edges then t else { t with used := [] }

def turnsUsed (t : Turns) (j : Nat) : Nat := ((t.used.find? fun x => x.1 == j).map (·.2)).getD 0

/-- The job that has the next turn on an engine, among the ready ones: the one that took the last turn while its WEIGHT of the round
lasts, or else the next in cyclic order of job numbers with turns left, of this round or, when none has any, of the next.  Each
edge restarts the counts, and the first turn of a tick is the next job's.  Log entry 87. -/
def nextTurn (m : Mach) (f e : Nat) (ready : List Nat) : Option Nat :=
  let t := turnsOf m f e
  let left (j : Nat) : Bool := decide (turnsUsed t j < jobWeight m j)
  let order := (List.range 16).map fun k => (t.last.getD 15 + 1 + k) % 16
  match t.last with
  | some j =>
    if ready.contains j && turnsUsed t j != 0 && left j then some j
    else (order.find? fun k => ready.contains k && left k).or (order.find? ready.contains)
  | none => (order.find? fun k => ready.contains k && left k).or (order.find? ready.contains)

/-- Is the next turn the job's own? -/
def hasTurn (m : Mach) (f e j : Nat) (ready : List Nat) : Bool :=
  match nextTurn m f e ready with
  | some k => k == j
  | none => true

/-- A job takes a turn. -/
def noteTurn (f e j : Nat) (m : Mach) : Mach :=
  let t := turnsOf m f e
  let used := if turnsUsed t j < jobWeight m j then t.used else []
  let n := ((used.find? fun x => x.1 == j).map (·.2)).getD 0
  let t : Turns := ⟨some j, m.edges, (j, n + 1) :: used.filter fun x => x.1 != j⟩
  modFacet m f fun x => { x with turns := x.turns.set e t }

/-- Issues a record when the turn is its job's: `ready` gives the jobs with ready commands for an engine. -/
def inTurn (f c : Nat) (ready : Mach → Nat → List Nat) (k : Rec → Nat → Mach → Mach) (r : Rec) (j : Nat) (m : Mach) : Mach :=
  match engineOf m f r with
  | none => k r j m
  | some e =>
    if !hasTurn m f e j (ready m e) then m
    else
      let m2 := k r j m
      let idx (m : Mach) : Option Nat := (scOf m f c).run.map (·.recIdx)
      if idx m2 == idx m then m2 else noteTurn f e j m2

def prismCommandOp (f c : Nat) (r : Rec) (j : Nat) (m : Mach) : Mach :=
  issueResults f c prismResults (fun r m => prismIssue f c r j (rayFeet m f c ++ sideFeet m f c) m) r m

def rayCommandOp (f c : Nat) (r : Rec) (j : Nat) (m : Mach) : Mach :=
  issueResults f c rayResults (fun r m => rayIssue f c r j (prismFeet (facetOf m f) c ++ sideFeet m f c) m) r m

def recordTurn (f c : Nat) (k : Rec → Nat → Mach → Mach) : Rec → Nat → Mach → Mach := inTurn f c (fun m e => readyJobs m f e) k

def execPrismCommand (f c : Nat) (s : State) : Res :=
  actReady (okSc f c) (takeRecord f c (· == 1) (recordTurn f c (prismCommandOp f c))) s

def execRayCommand (f c : Nat) (s : State) : Res :=
  actReady (okSc f c) (takeRecord f c (· == 2) (recordTurn f c (rayCommandOp f c))) s

def execStrandLaunch (f c : Nat) (s : State) : Res :=
  actReady (okSc f c) (takeRecord f c (· == 3) (recordTurn f c (strandLaunchOp f c))) s

end Sys2Proof.Machine
end

