-- ==== Sys2Proof/Machine/Training.lean ====
section
/-!
DEFINITION. The step verdict and its scalars (R305, R306, R310, R311), gradient-noise statistics and steering
(R318–R321), automatic versions (R167, R168), and the update units (R300–R309).
-/
namespace Sys2Proof.Machine

/-! ### First edges of phases (R48) -/

/-- First tick offset of phase `k` in a sweep. -/
def phaseStart (t : Timing) (k : Nat) : Nat :=
  match k with
  | 0 => 0
  | 1 => t.fill
  | 2 => t.fill + t.steady
  | 3 => t.fill + t.steady + t.drain
  | 4 => t.fill + t.steady + t.drain + t.fold
  | _ => t.used

/-- The tick that just began is the first of phase `k`; a phase of length 0 is skipped. -/
def phaseFirst (m : Mach) (k : Nat) : Bool :=
  m.tick.phase == k && m.tick.tickNo == m.tick.sweepFirst + phaseStart (timing m) k

/-! ### Scalars of a step (R305, R306) -/

def one32 : Nat := 0x3F800000

/-- Learning rate from the entry whose STEP is at most `t` on: the last entry's, or interpolated to the next (R306). -/
def lrFrom (t : Nat) : List (Nat × W32) → Nat
  | [] => 0
  | [e] => e.2.toNat
  | a :: b :: rest =>
    if t < b.1 then
      let num := (fpEnc f32 (fpInt (Int.ofNat t - Int.ofNat a.1))).1
      let den := (fpEnc f32 (fpInt (Int.ofNat b.1 - Int.ofNat a.1))).1
      let f := (div32 num den).1
      (fma32 f (sub32 b.2.toNat a.2.toNat).1 a.2.toNat).1
    else lrFrom t (b :: rest)

/-- Learning rate of a group at step `t` (R306). -/
def lrAt (t : Nat) (l : List (Nat × W32)) : Nat :=
  match l with
  | [] => 0
  | a :: _ => if t ≤ a.1 then a.2.toNat else lrFrom t l

/-- 1 / (1 − β^t) in the steps of R305. -/
def biasTerm (beta t : Nat) : Nat :=
  let lg := (elem 5 (word beta) (v32 beta)).1
  let x := (mul32 (fpEnc f32 (fpInt (Int.ofNat t))).1 lg).1
  let p := (elem 3 (word x) (v32 x)).1
  (div32 one32 (sub32 one32 p).1).1

/-- a, d, o1, o2, r1, r2 of a layer group (R305). -/
def groupValues (u : UpdSetup) (t : Nat) (g : UpdGroup) : List W32 :=
  let a := lrAt t g.sched
  let r1 := if u.biasCorr then biasTerm g.beta1.toNat t else one32
  let r2 := if u.biasCorr then biasTerm g.beta2.toNat t else one32
  w32s [a, (mul32 a g.decay.toNat).1, (sub32 one32 g.beta1.toNat).1, (sub32 one32 g.beta2.toNat).1, r1, r2]

/-- c of R305: the clipping factor. -/
def clipFactor (clip g : Nat) : Nat :=
  if clip % 2 ^ 31 = 0 then one32
  else
    let lim := v32 (mul32 clip clip).1
    if fpLt false (v32 g) lim || fpEq (v32 g) lim then one32
    else (mul32 clip (elem 1 (word g) (v32 g)).1).1

/-- Layers of the pipeline's stages on this module. -/
def ownLayers (m : Mach) (j p : Nat) : List Nat :=
  match fillMap m j with
  | none => []
  | some pm => (mapStages pm p).flatMap fun e => (List.range (e.lastLayer + 1 - e.firstLayer)).map (e.firstLayer + ·)

/-- Does a LOSS_EN channel carry the pipeline's folded totals: one of this module, or, where the last stage lies elsewhere, one there
(R344; log entry 82)? -/
def totalsFold (m : Mach) (j p : Nat) : Bool :=
  localTotals m j p || (!lastHere m j p && Config.totalsBeyond j p (fillId m j))

/-- B and MB of the fold group: the folded totals, or the replica's own where no LOSS_EN channel carries them (R344). -/
def groupTotals (m : Mach) (j p : Nat) : Nat × Nat :=
  let x := pipeOf m j p
  if x.gather.totalsIn then (x.gather.tokens, x.gather.mb) else (x.tokensDone, x.mbDone)

/-- R of the fold group: members of the pipeline's channels. -/
def replicas (m : Mach) (j p : Nat) : Nat :=
  ((pipeChans m j p).map fun n => (chanOf m n).members.length).foldl max 1

/-- Has everything that the home gathers come in (R305)?  Its own layers, the layers of other modules where the pipeline
has any, and the folded totals of a LOSS_EN channel. -/
def gathered (m : Mach) (j p : Nat) : Bool :=
  let x := pipeOf m j p
  let own := ownLayers m j p
  let reported := x.gather.layers.map (·.1)
  own.all reported.contains
    && ((farModules m j p).isEmpty || (Config.otherLayers j p (fillId m j)).all reported.contains)
    && (x.gather.totalsIn || !totalsFold m j p)

/-- A sum of FP32P values in the order given (add_p). -/
def sumP (l : List Word) : Word :=
  match l with
  | [] => 0
  | a :: t => word (pairWord (t.foldl (fun s b => (addP s (wordPair b.toNat)).1) (wordPair a.toNat)))

/-- The gathered layers in increasing order. -/
def layersInOrder (m : Mach) (j p : Nat) : List (Nat × Nat × Word) :=
  (pipeOf m j p).gather.layers.mergeSort fun a b => decide (a.1 ≤ b.1)

/-! ### Verdict on each module of the pipeline -/

/-- Is the pipeline given automatic versions (R167)? -/
def autoOn (m : Mach) (j p : Nat) : Bool := tb (regN m (offVerAuto j)) p

/-- Tag that the stage context's locus holds PUBLISHED for the pipeline. -/
def publishedOf (m : Mach) (f c j p : Nat) : Option VerEntry :=
  (locusOf m f c).entries.find? fun e => e.state == 3 && e.job == j && e.pipe == p

/-- Index of the automatic version of the sweep in a locus: SOURCE UPDATE, made from the published tag. -/
def autoIdx (m : Mach) (f c j p : Nat) : Option Nat :=
  match publishedOf m f c j p with
  | none => none
  | some y =>
    let l := (locusOf m f c).entries
    (List.range l.length).find? fun i =>
      match l[i]? with
      | some e => e.source == 2 && e.job == j && e.pipe == p && e.srcTag == y.vtag
          && (e.state == 1 || (e.state == 2 && decide (m.tick.sweepFirst ≤ e.sealTick)))
      | none => false

/-- Under SKIP_SWEEP the automatic version becomes FREE (R168, R310). -/
def skipAuto (j p : Nat) (m : Mach) : Mach :=
  forAll (pipeScs m j p) (fun m (f, c) =>
    match autoIdx m f c j p with
    | none => m
    | some i =>
      let tag := (((locusOf m f c).entries[i]?).map (·.vtag)).getD 0
      raise (freeEntry f c i m) verAutoSkipped (srcUnit 4) (some j) [p, f, c, tag]) m

/-- Appends a value to an amax history of 16 entries (R236). -/
def pushAmax (j t : Nat) (v : W32) (m : Mach) : Mach :=
  modJob m j fun x => { x with amax := x.amax.map fun a =>
    if a.tensor = t then { a with entries := (a.entries ++ [v]).drop (a.entries.length - 15) } else a }

/-- The entries that a sweep's folds made for a pipeline join the histories, or are dropped (R236). -/
def settleAmax (j p : Nat) (keep : Bool) (m : Mach) : Mach :=
  let mine := (jobOf m j).amaxPend.filter fun e => e.1 == p
  let m := modJob m j fun x => { x with amaxPend := x.amaxPend.filter fun e => e.1 != p }
  if keep then forAll mine (fun m e => pushAmax j e.2.1 e.2.2 m) m else m

/-- The values of a step reach this module (R305): UPD_STEP counts an applied step, and a skipped sweep leaves no
version. -/
def takeValues (j p : Nat) (v : UpdValues) (keepAmax : Bool) (m : Mach) : Mach :=
  let auto := autoOn m j p
  let m := modPipe m j p fun x => { x with
    values := some v, verdict := some v.verdict, step := if v.verdict ≠ 1 ∧ auto then v.t.toNat else x.step }
  let m := settleAmax j p keepAmax m
  if v.verdict = 1 ∧ m.tick.phase = 5 then skipAuto j p m else m

/-- Was the token total that the home judges 0 (R311, R344): that of the fold group, as the layers folded here show it, or the
replica's own, with which they were handed off? -/
def tokenless (m : Mach) (j p : Nat) : Bool :=
  let l := if totalsFold m j p then (pipeOf m j p).gather.ownTokens
    else (pipeScs m j p).flatMap fun (f, c) => (scOf m f c).handCnt.map fun x => x.2.2
  !l.isEmpty && l.all (· == 0)

/-- A poisoned sweep counts and is reported on every module of the pipeline (R310); `nonf` are the non-finite elements that the module
knows: all of them on the home, those of its own layers elsewhere (log entry 82). -/
def notePoisoned (j p policy nonf : Nat) (m : Mach) : Mach :=
  let m := modPipe m j p fun y => { y with
    poisoned := sat32 (y.poisoned + 1)
    skipped := if policy = 0 then sat32 (y.skipped + 1) else y.skipped
    zeroed := if policy = 1 then min (y.zeroed + nonf) (2 ^ 64 - 1) else y.zeroed }
  raise m sweepPoisoned (srcJob j) (some j) [j, p, m.tick.sweepNo, policy, nonf]

/-- UPD_VALUES arrives.  Verdict 0 is UPDATE; a poisoned sweep's amax entries are dropped, and an empty sweep is not poisoned
(R236, R311).  A halted job takes none (R390). -/
def updValuesOp (j p : Nat) (v : UpdValues) (m : Mach) : Mach :=
  if v.sweep ≠ m.tick.sweepNo || (pipeOf m j p).verdict.isSome || (jobOf m j).halted then m
  else
    let fine := v.verdict == 0 || (v.verdict == 1 && tokenless m j p)
    let m := takeValues j p v fine m
    if fine then m else notePoisoned j p (v.verdict - 1) (pipeOf m j p).gather.ownNonf m

/-- Has a layer of the sweep that the module knows of reported non-finite elements, or the home a G that is not finite (R310)? -/
def seenPoisoned (m : Mach) (j p : Nat) : Bool :=
  let x := pipeOf m j p
  x.gather.ownNonf != 0 || (isHome m j p && (x.gather.layers.any (fun l => l.2.1 != 0)
    || !isFin (v32 (pairTo32 (wordPair (sumP ((layersInOrder m j p).map fun l => l.2.2)).toNat)).1)))

/-! ### Gradient-noise estimate and steering (R319–R321) -/

/-- binary64 rounding of one operation. -/
def r64 (v : Fl Fp) : Fp := fpDec f64 (fpEnc f64 v.1).1

def pos (v : Fp) : Bool := fpLt false (fpInt 0) v

/-- BNOISE as an FP32 pattern (R319). -/
def bnoiseOf (l g : Word) (r b : Nat) : Nat :=
  let lv := r64 (pairVal (wordPair l.toNat), 0)
  let gv := r64 (pairVal (wordPair g.toNat), 0)
  let rv := r64 (fpInt (Int.ofNat r), 0)
  let big := r64 (fpInt (Int.ofNat b), 0)
  let sm := r64 (fpDiv big rv)
  let one := fpInt 1
  let s1 := r64 (fpSub (r64 (fpDiv lv (r64 (fpMul (r64 (fpMul rv sm)) sm)))) (r64 (fpDiv gv (r64 (fpMul big big)))))
  let s := r64 (fpDiv s1 (r64 (fpSub (r64 (fpDiv one sm)) (r64 (fpDiv one big)))))
  let g1 := r64 (fpSub (r64 (fpDiv gv big)) (r64 (fpDiv lv (r64 (fpMul rv sm)))))
  let g2 := r64 (fpDiv g1 (r64 (fpSub big sm)))
  if r = 1 || !pos s || !pos g2 then nan32 else (fpEnc f32 (r64 (fpDiv s g2))).1

/-- BNOISE_EMA after an estimate, with α in 256ths. -/
def emaOf (old : W32) (bn alpha : Nat) : Nat :=
  if v32 bn == .nan then old.toNat
  else if !isFin (v32 old.toNat) then bn
  else
    let a := r64 (fpScale (fpInt (Int.ofNat alpha)) (-8), 0)
    let x := r64 (fpMul a (v32 bn))
    let y := r64 (fpMul (r64 (fpSub (fpInt 1) a)) (v32 old.toNat))
    (fpEnc f32 (r64 (fpAdd x y))).1

/-- ⌈BNOISE_EMA / (R · B/MB)⌉ (R320); with no tokens the quotient is not stated and is a free value. -/
def wantedMb (m : Mach) (ema : Fp) (r b mb : Nat) : Nat :=
  if b = 0 then (freeVal m 20).toNat
  else
    match ema with
    | .fin _ mant e =>
      let num := mant * mb * 2 ^ e.toNat
      ceilDiv num (r * b * 2 ^ (-e).toNat)
    | _ => 0

/-- M′ of R320. -/
def steeredM (m : Mach) (j p : Nat) (s : Sched) (ema : Fp) (r b mb : Nat) : Nat :=
  let q := ceilDiv s.m 4
  let x := max (s.m - q) (min (s.m + q) (wantedMb m ema r b mb))
  let x := max (regN m (offSteerMin j)) (min (regN m (offSteerMax j)) x)
  let t := timing m
  let extra := if s.fwdOnly then pipeStages m j p - 1 else 2 * pipeStages m j p - 1 + s.reserve
  let top := t.fill + t.steady + t.drain - extra
  if top = 0 then s.m else min x top

/-- The first sweep whose edge lies at least two ticks ahead (R321). -/
def steerSweep (m : Mach) : Nat :=
  if edgeAhead m 2 ≤ nominalTick m (m.tick.sweepNo + 1) then m.tick.sweepNo + 1 else m.tick.sweepNo + 2

/-- STEER: M′ waits for its sweep edge. -/
def steerOp (j p mNew edge : Nat) (m : Mach) : Mach := modPipe m j p fun x => { x with steerAt := some (edge, mNew) }

/-- Batch steering after a summary (R320, R321). -/
def steerPipe (j p b mb : Nat) (m : Mach) : Mach :=
  let w := regN m (offSteerCtl j)
  let mode := bf w 1 0
  let ema := v32 (pipeOf m j p).bnoiseEma.toNat
  match (pipeOf m j p).sched with
  | none => m
  | some s =>
    if mode = 0 ∨ bf w 3 2 ≠ p ∨ !isFin ema then m
    else
      let n := steeredM m j p s ema (replicas m j p) b mb
      let m := if b = 0 then spendFree m else m
      let edge := steerSweep m
      if mode = 1 then raise m steerAdvice (srcJob j) (some j) [j, p, s.m, n, edge]
      else if n = s.m then m
      else
        let m := steerOp j p n edge m
        let m := forAll (pipeModules m j p) (fun m d => sendMsg m d (.steer j p n edge)) m
        raise m steerApplied (srcJob j) (some j) [j, p, s.m, n, edge]

/-- The summary of a sweep (R318, R319), whose estimate and steering go on whether or not its record is written (R93).
LOCAL_SQ of layers on other modules does not reach the home: their terms of the
sum are free values. -/
def summaryOp (j p : Nat) (v : UpdValues) (nonf : Nat) (empty poisoned skipped : Bool) (m : Mach) : Mach :=
  let x := pipeOf m j p
  let ls := layersInOrder m j p
  let gsq := sumP (ls.map fun l => l.2.2)
  let known := ls.all fun l => x.gather.locals.any fun y => y.1 == l.1
  let lsq := sumP (ls.map fun l =>
    ((x.gather.locals.find? fun y => y.1 == l.1).map (·.2)).getD (Config.free 64 m.free (l.1 + 1)))
  let m := if known then m else spendFree m
  let tot := groupTotals m j p
  let r := replicas m j p
  let bn := if poisoned || empty then nan32 else bnoiseOf lsq gsq r tot.1
  let ema := emaOf x.bnoiseEma bn (bf (regN m (offSteerCtl j)) 15 8)
  let m := modPipe m j p fun x => { x with bnoiseEma := BitVec.ofNat 32 ema }
  let m := if regN m offStatMode = 0 then m else
    putGradStat j p ⟨gsq.toNat, lsq.toNat, tot.1, tot.2, bn, ema, nonf, 0xFFF, r, empty, skipped, poisoned, v.k.toNat⟩ m
  steerPipe j p tot.1 tot.2 m

/-! ### STEP_VERDICT (R305, R310, R311) -/

/-- The per-step scalars. -/
def stepValues (m : Mach) (j p : Nat) (u : UpdSetup) (verdict tokens : Nat) (g : Nat) : UpdValues :=
  let t := (pipeOf m j p).step + 1
  let gs := if u.tokensMode then (fpEnc f32 (fpDiv (fpInt 1) (fpInt (Int.ofNat tokens))).1).1 else u.gscale.toNat
  let c := clipFactor u.clip.toNat g
  ⟨verdict, m.tick.sweepNo, word t, BitVec.ofNat 32 g, BitVec.ofNat 32 gs, BitVec.ofNat 32 c,
    BitVec.ofNat 32 (mul32 gs c).1, u.groups.map (groupValues u t)⟩

/-- STEP_VERDICT: once every layer has folded, the home judges the sweep and sends the scalars. -/
def stepVerdictOp (j p : Nat) (m : Mach) : Mach :=
  let x := pipeOf m j p
  match x.setup with
  | none => m
  | some u =>
    if !updEnabled m j p || !isHome m j p || x.verdict.isSome || (jobOf m j).halted || !gathered m j p then m
    else
      let ls := layersInOrder m j p
      let nonf : Nat := (ls.map fun l => l.2.1).foldl (· + ·) 0
      let g := (pairTo32 (wordPair (sumP (ls.map fun l => l.2.2)).toNat)).1
      let tot := groupTotals m j p
      let empty := tot.1 == 0
      let poisoned := !empty && (decide (0 < nonf) || !isFin (v32 g))
      let verdict := if empty then 1 else if !poisoned then 0 else if u.policy = 0 then 1 else if u.policy = 1 then 2 else 3
      let v := stepValues m j p u verdict tot.1 g
      let m := forAll (pipeModules m j p) (fun m d => sendMsg m d (.updValues j p v)) m
      let m := takeValues j p v (!poisoned) m
      let m := if empty then raise m updEmpty (srcJob j) (some j) [j, p, m.tick.sweepNo] else m
      let m := if poisoned then notePoisoned j p u.policy nonf m else m
      summaryOp j p v nonf empty poisoned (poisoned && u.policy == 0) m

/-! ### Automatic versions (R167, R168) -/

/-- Regions overlap. -/
def regionsMeet (s1 b1 n1 s2 b2 n2 : Nat) : Bool := s1 == s2 && spansMeet b1 n1 b2 n2

/-- Entries of a facet's loci whose region meets a region, without the entry (`c`, `i`). -/
def meeting (m : Mach) (f sp base size : Nat) (skip : Nat × Nat) : List VerEntry :=
  (List.range 4).flatMap fun c =>
    let l := (locusOf m f c).entries
    (List.range l.length).filterMap fun i =>
      match l[i]? with
      | some e => if !entryFree e && (c, i) != skip && regionsMeet e.space e.base e.size sp base size then some e else none
      | none => none

/-- Target region of the automatic version: space, base, size. -/
def autoRegion (l : Locus) (y : VerEntry) : Nat × Nat × Nat :=
  (l.autoSpace, if y.space = l.autoSpace ∧ y.base = l.autoBase0 then l.autoBase1 else l.autoBase0, y.size)

/-- Has the pipeline stage contexts on other modules? -/
def goesFar (m : Mach) (j p : Nat) : Bool := !(pipeModules m j p).isEmpty

/-- First tag after the published one that no stage context of the pipeline holds.  What those of other modules hold no message
tells: a free value, log entry 76. -/
def autoTag (m : Mach) (j p pub : Nat) : Nat :=
  let held (t : Nat) : Bool := (pipeScs m j p).any (fun (f, c) => (entryOf (locusOf m f c) t).isSome)
    || (goesFar m j p && (freeVal m 256).getLsbD t)
  (((List.range 255).map fun i => (pub + 1 + i) % 256).find? fun t => !held t).getD ((pub + 1) % 256)

/-- Can the stage context take an automatic version? -/
def autoFits (m : Mach) (j p : Nat) (f c : Nat) : Bool :=
  match publishedOf m f c j p with
  | none => false
  | some y =>
    let r := autoRegion (locusOf m f c) y
    (freeIdx (locusOf m f c)).isSome
      && (meeting m f r.1 r.2.1 r.2.2 (4, 0)).all fun e => e.state == 4

/-- Allocates the pipeline's automatic versions on this module at the first edge of UPDATE.  Where one stage context of the
pipeline cannot take its version, none is allocated and the pipeline's UPDATE writes nothing (R168); whether one on another module
cannot, no message tells: a free value, log entry 76. -/
def allocAuto (j p : Nat) (m : Mach) : Mach :=
  let scs := pipeScs m j p
  match scs.findSome? fun (f, c) => publishedOf m f c j p with
  | none => m
  | some y0 =>
    let tag := autoTag m j p y0.vtag
    let far := goesFar m j p
    let farFails := far && (freeVal (spendFree m) 1) == 1
    let m := if far then spendFree (spendFree m) else m
    let bad := scs.filter fun (f, c) => !autoFits m j p f c
    if farFails && bad.isEmpty then m
    else if !bad.isEmpty then forAll bad (fun m (f, c) => raise m verAutoFail (srcUnit 4) (some j) [p, f, c, tag]) m
    else forAll scs (fun m (f, c) =>
      match publishedOf m f c j p with
      | none => m
      | some y =>
        let r := autoRegion (locusOf m f c) y
        let waits := !(meeting m f r.1 r.2.1 r.2.2 (4, 0)).isEmpty
        let e : VerEntry := { VerEntry.init with
          source := 2, srcSc := 0, srcTag := y.vtag, vtag := tag, pipe := p, job := j, state := 1
          space := r.1, base := r.2.1, size := r.2.2 }
        let m := modLocus m f c fun l => { l with
          entries := match freeIdx l with
            | some i => l.entries.set i e
            | none => l.entries }
        if waits then raise m verAutoWait (srcUnit 4) (some j) [p, f, c, tag] else m) m

/-- The target of the stage context's update: the automatic version, once no DRAINING entry holds its region. -/
def autoTarget (m : Mach) (f c j p : Nat) : Option VerEntry :=
  match autoIdx m f c j p with
  | none => none
  | some i =>
    match (locusOf m f c).entries[i]? with
    | none => none
    | some e => if (meeting m f e.space e.base e.size (c, i)).any fun x => x.state == 4 then none else some e

/-- At the first edge of PUBLISH the versions made by the update unit become READY, or FREE after a skipped sweep. -/
def sealAuto (m : Mach) : Mach :=
  let pipes := (List.range 16).flatMap fun j => (List.range 4).map fun p => (j, p)
  let m := forAll pipes (fun m (j, p) => if (pipeOf m j p).verdict = some 1 then skipAuto j p m else m) m
  let t := m.tick.tickNo
  mapEntries m fun _ _ e => if e.source == 2 && e.state == 1 then { e with state := 2, sealTick := t, crc := 0 } else e

/-- At a sweep edge the home publishes the automatic version of the sweep that ended (R167), before the edge moves
`sweepFirst`. -/
def publishAuto (m : Mach) : Mach :=
  forAll ((List.range 16).flatMap fun j => (List.range 4).map fun p => (j, p)) (fun m (j, p) =>
    if !autoOn m j p || !isHome m j p then m
    else
      match (pipeScs m j p).findSome? fun (f, c) => (autoIdx m f c j p).bind fun i => (locusOf m f c).entries[i]? with
      | none => m
      | some e =>
        if e.state ≠ 2 then m
        else
          let old := ((pipeOf m j p).pub).getD e.srcTag
          raise (publish j p e.vtag false m) verAutoPublished (srcUnit 4) (some j) [p, e.vtag, old]) m

/-! ### Update units (R300–R309) -/

/-- Shard of a layer that the owner holds (R177): first unit and number of units; the whole of a LOCAL layer. -/
def shardOf (m : Mach) (e : MapSc) (layer : Nat) : Nat × Nat :=
  let l := locusOf m e.facet e.sc
  match l.layers[layer - e.firstLayer]? with
  | none => (0, 0)
  | some y =>
    if !y.gathered then (0, y.size)
    else
      match (List.range l.gather.length).find? fun i => l.gather[i]? == some (self m, e.facet, e.sc) with
      | some i => shardRange y.size l.gather.length i
      | none => (0, 0)

/-- Place of a layer within a version region, 4 KiB units. -/
def layerOffset (m : Mach) (e : MapSc) (layer : Nat) : Nat :=
  (((locusOf m e.facet e.sc).layers[layer - e.firstLayer]?).map (·.offset)).getD 0

/-- HBM offset of the folded gradient of the owner's part of a layer: SHARD_GBASE for a shard (R346). -/
def gradPlace (m : Mach) (j : Nat) (e : MapSc) (layer : Nat) : Option Nat :=
  let whole := (gradAddr m e layer).map fun a => a + 8192 * (shardOf m e layer).1
  let gath := (((locusOf m e.facet e.sc).layers[layer - e.firstLayer]?).map (·.gathered)).getD false
  if !gath then whole
  else
    match layerChan m j e.pipe layer with
    | none => whole
    | some n => (((chanOf m n).layers.find? fun y => y.layer == layer).map fun y => y.shardBase * 4096)

/-- The stage context of the FILL map that an UPDATE entry names as owner (Table 10.2). -/
def ownerOf (m : Mach) (j : Nat) (u : MapSc) : Option MapSc :=
  (fillMap m j).bind fun pm => (mapStages pm u.pipe).find? fun e => e.stage == u.stage

/-- The UPDATE map. -/
def updateMap (m : Mach) (j : Nat) : List MapSc := match ((jobOf m j).maps[4]?).bind id with | some pm => pm.scs | none => []

/-- Does an UPDATE entry cover a layer of its owner? -/
def coversLayer (m : Mach) (j : Nat) (u : MapSc) (layer : Nat) : Bool :=
  match ownerOf m j u with
  | some e => decide (max u.firstLayer e.firstLayer ≤ layer) && decide (layer ≤ min u.lastLayer e.lastLayer)
  | none => false

/-- Layers that an entry updates: those it covers first. -/
def entryLayers (m : Mach) (j : Nat) (u : MapSc) : List Nat :=
  ((List.range (u.lastLayer + 1 - u.firstLayer)).map (u.firstLayer + ·)).filter fun l =>
    coversLayer m j u l
      && ((updateMap m j).find? fun x => x.pipe == u.pipe && coversLayer m j x l) == some u

/-- BF16 or UBF16 elements as numbers. -/
def halves : List Byte → List Nat
  | a :: b :: t => (a.toNat + 256 * b.toNat) :: halves t
  | _ => []

def words32 : List Byte → List Nat
  | a :: b :: c :: d :: t => leNat [a, b, c, d] :: words32 t
  | _ => []

/-- One parameter's new weight and moments (R307, Table 10.6) from w, m, v and g; w′, m′ and v′ in FP32. -/
def updElem (rule : Nat) (g0 : UpdGroup) (vals : List Nat) (w mo v h : Nat) : Fl (Nat × Nat × Nat) :=
  let a := vals.getD 0 0
  let d := vals.getD 1 0
  let o1 := vals.getD 2 0
  let o2 := vals.getD 3 0
  let r1 := vals.getD 4 0
  let r2 := vals.getD 5 0
  let b1 := g0.beta1.toNat
  let b2 := g0.beta2.toNat
  let decayed := fma32 (negBits d) w w
  match rule with
  | 0 =>
    flBind (fma32 b1 mo h) fun m1 => flBind decayed fun w1 => flBind (fma32 (negBits a) m1 w1) fun w2 => ((w2, m1, 0), 0)
  | 1 =>
    flBind (mul32 o1 h) fun x => flBind (fma32 b1 mo x) fun m1 =>
      flBind (mul32 h h) fun hh => flBind (mul32 o2 hh) fun y => flBind (fma32 b2 v y) fun v1 =>
        flBind (mul32 v1 r2) fun z => flBind (sqrt32 z) fun q => flBind (add32 q g0.eps.toNat) fun den =>
          flBind (mul32 m1 r1) fun n => flBind (div32 n den) fun u =>
            flBind decayed fun w1 => flBind (fma32 (negBits a) u w1) fun w2 => ((w2, m1, v1), 0)
  | _ =>
    flBind (mul32 o1 h) fun x => flBind (fma32 b1 mo x) fun q =>
      let s := match v32 q with
        | .nan => nan32
        | .inf n => if n then 0xBF800000 else one32
        | .fin n k _ => if k = 0 then 0 else if n then 0xBF800000 else one32
      flBind (mul32 o2 h) fun y => flBind (fma32 b2 mo y) fun m1 =>
        flBind decayed fun w1 => flBind (fma32 (negBits a) s w1) fun w2 => ((w2, m1, 0), 0)

/-- Updates one layer: `ma` is the HBM offset of its first moments on the updating facet. -/
def updLayer (j : Nat) (u owner : MapSc) (src dst : VerEntry) (st : UpdSetup) (v : UpdValues) (layer ma : Nat) (m : Mach) : Mach :=
  let sh := shardOf m owner layer
  let n := 2048 * sh.2
  let ofs := 4096 * layerOffset m owner layer
  let gi := st.layerGroup.getD layer 0
  let g0 := st.groups.getD gi ⟨0, 0, 0, 0, []⟩
  let vals := (v.groups.getD gi []).map (·.toNat)
  let w := readChecked m owner.facet src.space (4096 * src.base + ofs) (2 * n)
  let g := match gradPlace m j owner layer with
    | some a => readChecked w.2.2 owner.facet 1 a (4 * n)
    | none => (List.replicate (4 * n) 0, false, w.2.2)
  let mo := readChecked g.2.2 u.facet 1 ma (2 * n)
  let vo := if st.rule = 1 then readChecked mo.2.2 u.facet 1 (ma + 2 * n) (2 * n) else ([], false, mo.2.2)
  let m := vo.2.2
  let wl := halves w.1
  let gl := words32 g.1
  let ml := halves mo.1
  let vl := halves vo.1
  let key := (jobOf m j).srKey
  let out : List (Fl (Nat × Nat × Nat)) := (List.range n).map fun e =>
    let gr := gl.getD e 0
    let gr := if v.verdict = 2 && !isFin (v32 gr) then 0 else gr
    let b := 4096 * sh.1 + 2 * e
    let rnd (stream : Nat) : Nat := srBits key v.sweep owner.pipe layer b stream
    flBind (mul32 gr v.k.toNat) fun h =>
      flBind (updElem st.rule g0 vals (wl.getD e 0 * 65536) (ml.getD e 0 * 65536) (vl.getD e 0 * 32768) h) fun r =>
        flBind (srBf16 r.1 (rnd 0)) fun w2 => flBind (srBf16 r.2.1 (rnd 1)) fun m2 =>
          if st.rule = 1 then flBind (srUbf16 r.2.2 (rnd 2)) fun v2 => ((w2, m2, v2), 0) else ((w2, m2, 0), 0)
  let flags := out.foldl (fun a r => a ||| r.2) 0
  let m := writeChecked m owner.facet dst.space (4096 * dst.base + ofs) (out.flatMap fun r => leBytes 2 r.1.1)
  let m := writeChecked m u.facet 1 ma (out.flatMap fun r => leBytes 2 r.1.2.1)
  let m := if st.rule = 1 then writeChecked m u.facet 1 (ma + 2 * n) (out.flatMap fun r => leBytes 2 r.1.2.2) else m
  modPipe m j owner.pipe fun x => { x with flags := x.flags ||| flags }

/-- Updates the layers of an entry in order; the moment area holds every layer of the entry (R300). -/
def updLayers (j : Nat) (u owner : MapSc) (src dst : VerEntry) (st : UpdSetup) (v : UpdValues) :
    List Nat → Nat → Mach → Mach
  | [], _, m => m
  | l :: t, ma, m =>
    let size := (shardOf m owner l).2
    let m := if (entryLayers m j u).contains l then updLayer j u owner src dst st v l ma m else m
    updLayers j u owner src dst st v t (ma + 8192 * size) m

/-- A layer that no entry covers keeps its published weights (R301). -/
def copyLayer (owner : MapSc) (src dst : VerEntry) (layer : Nat) (m : Mach) : Mach :=
  let n := 4096 * (shardOf m owner layer).2
  let ofs := 4096 * layerOffset m owner layer
  let r := readChecked m owner.facet src.space (4096 * src.base + ofs) n
  writeChecked r.2.2 owner.facet dst.space (4096 * dst.base + ofs) r.1

/-- 4 KiB blocks of an entry's moment area that the snapshot engine has still to read (R309). -/
def momentHeld (m : Mach) (u : MapSc) : Bool :=
  (m.jobs.any fun x =>
    match x.snap.cut with
    | none => false
    | some c => c.holds.any fun h => h.1 == u.facet && decide (u.area ≤ h.2) && decide (h.2 < u.area + u.areaSize))

/-- May the run begin, the snapshot engine's reads apart: values are here, or nothing but a copy is asked, and the
target region is free? -/
def runReady (m : Mach) (r : UpdateRun) : Bool :=
  match ownerOf m r.job r.entry with
  | none => true
  | some e =>
    (r.copy || (match (pipeOf m r.job r.pipe).values with | some v => v.sweep == m.tick.sweepNo | none => false))
      && (autoTarget m e.facet e.sc r.job r.pipe).isSome

/-- Changes the first run of a stage context's update work that fits. -/
def modRunOf (f c : Nat) (p : UpdateRun → Bool) (g : UpdateRun → Option UpdateRun) (m : Mach) : Mach :=
  modSc m f c fun x => { x with update :=
    match (List.range x.update.length).find? fun i => ((x.update[i]?).map p).getD false with
    | some i =>
      match (x.update[i]?).bind g with
      | some y => x.update.set i y
      | none => x.update.eraseIdx i
    | none => x.update }

/-- Jobs whose stage contexts hold work ready for the facet's update unit: GRAD_ACC records and entries to update (R406). -/
def updateJobs (m : Mach) (f : Nat) : List Nat :=
  (readyJobs m f 6 ++ (List.range 4).filterMap fun c =>
    ((scOf m f c).update.find? fun r => !r.started && !r.copy).bind fun r =>
      if runReady m r && !momentHeld m r.entry && !(jobOf m r.job).halted then some r.job else none).eraseDups

def execGradAcc (f c : Nat) (s : State) : Res :=
  actReady (okSc f c) (takeRecord f c (· == 0x10) (inTurn f c (fun m _ => updateJobs m f) (gradAccRec f c))) s

/-- UPDATE_START: the next entry of the stage context begins, waits for the snapshot engine, or, in a skipped sweep and of a halted
job (R390), ends with nothing written. -/
def updateStartOp (f c : Nat) (m : Mach) : Mach :=
  match (scOf m f c).update.find? fun r => !r.started && !r.copy with
  | none => m
  | some r =>
    let sel (x : UpdateRun) : Bool := !x.started && !x.copy
    if (pipeOf m r.job r.pipe).verdict = some 1 || (jobOf m r.job).halted then modRunOf f c sel (fun _ => none) m
    else if m.twin.frozen || !runReady m r then m
    else if momentHeld m r.entry then
      if (facetOf m f).updWaited then m
      else raise (modFacet m f fun x => { x with updWaited := true }) updWait (srcFacet f 7) (some r.job) [f, c, m.tick.sweepNo]
    else if !hasTurn m f 6 r.job (updateJobs m f) then m
    else noteTurn f 6 r.job (modRunOf f c sel (fun x => some { x with started := true }) m)

/-- UPDATE_COMPLETE: the entry's new weights and moments are written. -/
def updateCompleteOp (f c : Nat) (m : Mach) : Mach :=
  match if m.twin.frozen then none else (scOf m f c).update.find? fun r => r.started with
  | none => m
  | some r =>
    let m := modRunOf f c (·.started) (fun _ => none) m
    if (jobOf m r.job).halted then m
    else match ownerOf m r.job r.entry, (pipeOf m r.job r.pipe).setup, (pipeOf m r.job r.pipe).values with
    | some e, some st, some v =>
      match publishedOf m e.facet e.sc r.job r.pipe, autoTarget m e.facet e.sc r.job r.pipe with
      | some src, some dst =>
        let ls := ((List.range (r.entry.lastLayer + 1 - r.entry.firstLayer)).map (r.entry.firstLayer + ·))
        updLayers r.job r.entry e src dst st v ls (4096 * r.entry.area) m
      | _, _ => m
    | _, _, _ => m

/-- A copy whose version a skipped sweep has freed (R310), or whose job is halted (R390), is given up. -/
def copyOver (m : Mach) (r : UpdateRun) : Bool :=
  r.copy && ((pipeOf m r.job r.pipe).verdict == some 1 && m.tick.phase == 5 || (jobOf m r.job).halted)

/-- Copies of uncovered layers run once their target region is free. -/
def runCopies (m : Mach) : Mach :=
  forAll ((List.range m.facets.length).flatMap fun f => (List.range 4).map fun c => (f, c)) (fun m (f, c) =>
    let m := if (scOf m f c).update.any (copyOver m) then modSc m f c fun x => { x with update := x.update.filter fun r => !copyOver m r } else m
    forAll ((scOf m f c).update.filter fun r => r.copy && !m.twin.frozen && runReady m r) (fun m r =>
      let m := modSc m f c fun x => { x with update := x.update.erase r }
      match ownerOf m r.job r.entry with
      | none => m
      | some e =>
        match publishedOf m e.facet e.sc r.job r.pipe, autoTarget m e.facet e.sc r.job r.pipe with
        | some src, some dst => copyLayer e src dst r.entry.firstLayer m
        | _, _ => m) m) m

/-! ### Edges -/

/-- At a sweep edge KEEP_TAG follows the publish pointer, and kept layers are invalid when it changed (R179). -/
def keepTagEdge (m : Mach) : Mach :=
  forAll ((List.range 16).flatMap fun j => (List.range 4).map fun p => (j, p)) (fun m (j, p) =>
    forAll (pipeScs m j p) (fun m (f, c) =>
      let tag := if isHome m j p then (pipeOf m j p).pub else (publishedOf m f c j p).map (·.vtag)
      match tag with
      | some t => setKeepTag t m (f, c)
      | none => m) m) m

/-- Pipelines of jobs that run training updates on this module. -/
def updPipes (m : Mach) : List (Nat × Nat) :=
  ((List.range 16).flatMap fun j => (List.range 4).map fun p => (j, p)).filter fun (j, p) =>
    updEnabled m j p && !(jobOf m j).halted && !(pipeScs m j p).isEmpty

/-- First edge of FILL: gradient areas are named and empty (R293, R295, R303). -/
def fillEdge (m : Mach) : Mach :=
  let m := { m with facets := m.facets.map fun x => { x with scs := x.scs.map fun s => { s with gradBase := none, written := [] } } }
  forAll (updPipes m) (fun m (j, p) =>
    forAll (pipeScs m j p) (fun m (f, c) =>
      let areas := (((pipeOf m j p).setup).map (·.areas)).getD []
      match areas.find? fun a => a.1 == f && a.2.1 == c with
      | some a => modSc m f c fun x => { x with gradBase := some a.2.2 }
      | none => raise m updNoArea (srcJob j) (some j) [j, p, f, c]) m) m

/-- t_f of R302 in ps. -/
def updTime (m : Mach) (f : Nat) : Nat :=
  let perPipe (jp : Nat × Nat) : Nat :=
    let j := jp.1
    let p := jp.2
    let rule := (((pipeOf m j p).setup).map (·.rule)).getD 0
    let es := (updateMap m j).filter fun u => u.pipe == p && u.facet == f
    let size (e : MapSc) (l : Nat) : Nat := 2048 * (shardOf m e l).2
    let u := (es.flatMap fun x => match ownerOf m j x with
      | some e => (entryLayers m j x).map (size e)
      | none => []).foldl (· + ·) 0
    let own : List MapSc := match fillMap m j with | some pm => (mapStages pm p).filter fun e => e.facet == f | none => []
    let w := (own.flatMap fun e => (List.range (e.lastLayer + 1 - e.firstLayer)).map fun i => size e (e.firstLayer + i)).foldl (· + ·) 0
    2000000 * es.length + (if rule = 1 then 8 else 4) * u + 8 * w
  ((updPipes m).map perPipe).foldl (· + ·) 0

/-- Does the facet update or own layers of an updated pipeline (R302)? -/
def updFacet (m : Mach) (f : Nat) (jp : Nat × Nat) : Bool :=
  (updateMap m jp.1).any (fun u => u.pipe == jp.2 && u.facet == f) || (pipeScs m jp.1 jp.2).any fun x => x.1 == f

/-- UPD_LONG at the first edge of UPDATE: the facet with the largest time, one that only owns layers included (R302). -/
def checkLong (m : Mach) : Mach :=
  let used := (List.range 96).filter fun f => (updPipes m).any (updFacet m f)
  match used.map (fun f => (f, updTime m f)) |>.foldl (fun (b : Option (Nat × Nat)) x =>
      match b with | some y => if y.2 < x.2 then some x else b | none => some x) none with
  | none => m
  | some (f, t) =>
    let lim := (timing m).update * (timing m).period * 10000
    if t ≤ lim then m
    else
      match (updPipes m).find? (updFacet m f) with
      | some (j, p) => raise m updLong (srcFacet f 7) (some j) [j, p, f, t / 1000000]
      | none => m

/-- First edge of UPDATE for an enabled pipeline: uncovered layers are reported (R301); with an automatic version to write its
entries become update work, and the uncovered layers are copied. -/
def startUpdates (j p : Nat) (m : Mach) : Mach :=
  let m := modPipe m j p fun x => { x with flags := 0 }
  let es := (updateMap m j).filter fun u => u.pipe == p
  let open_ := (ownLayers m j p).filter fun l => !(es.any fun u => coversLayer m j u l)
  let m := forAll open_ (fun m l => raise m updUncovered (srcJob j) (some j) [j, p, l]) m
  if !autoOn m j p then raise m updNoTarget (srcJob j) (some j) [j, p, m.tick.sweepNo]
  else if (pipeScs m j p).any fun (f, c) => (autoIdx m f c j p).isNone then m
  else
    let m := forAll (es.filter fun u => !(entryLayers m j u).isEmpty) (fun m u =>
      modSc m u.facet u.sc fun x => { x with update := x.update ++ [⟨p, j, u, false, false⟩] }) m
    forAll open_ (fun m l =>
      match layerHolder m j p l with
      | some e => modSc m e.facet e.sc fun x => { x with
          update := x.update ++ [⟨p, j, { e with firstLayer := l, lastLayer := l }, false, true⟩] }
      | none => m) m

/-- First edge of UPDATE: automatic versions (R167, R168), coverage (R301) and UPD_LONG (R302). -/
def updateEdge (m : Mach) : Mach :=
  let autos := ((List.range 16).flatMap fun j => (List.range 4).map fun p => (j, p)).filter fun (j, p) =>
    autoOn m j p && !(jobOf m j).halted && !(pipeScs m j p).isEmpty
  let m := forAll autos (fun m (j, p) => allocAuto j p m) m
  let m := forAll (updPipes m) (fun m (j, p) => startUpdates j p m) m
  runCopies (checkLong m)

def execSteer (j p mNew edge : Nat) (s : State) : Res := actReady (decide (j < 16 ∧ p < 4)) (steerOp j p mNew edge) s

end Sys2Proof.Machine
end

