-- ==== Sys2Proof/Machine/Descriptors.lean ====
section
/-!
DEFINITION. What every descriptor shares: the checks of R84 up to step 5, completion, and the effect of a descriptor that
is commanded directly (R83–R87).
-/
namespace Sys2Proof.Machine

/-- What the spec says of an opcode (Table 3.5) and of its body: whether a body field breaks its table (step 1 of R84), the
status of the address checks (step 4), the worst-case execution time in 10 ns steps (step 5), and whether an image is
fetched with it (R132). -/
structure OpSpec where
  code  : Nat
  kinds : List Nat
  admin : Bool
  bad   : DescIn → Bool
  addr  : Mach → DescIn → Nat
  wcet  : DescIn → Nat
  image : DescIn → Bool
  /-- host address and length of the image, where the descriptor has one -/
  source : DescIn → Nat × Nat := fun _ => (0, 0)
  /-- what an effect that stays open does once its descriptor is among the open ones -/
  after : DescIn → Mach → Mach := fun _ m => m

/-- BAD_DESC conditions of the header (Table 3.4). -/
def headerBad (m : Mach) (d : DescIn) : Bool :=
  dFmt d != 1 || !dZero d 47 44 || !dZero d 39 21 || dKind d == 3 || (dKind d == 0 && dEdge d != 0)
    || (!ringAdmin m d.ring && dJobField d != 0)

/-- A JOB_ADMIT of the context has been fetched and waits for its edge (R84). -/
def admitWaits (m : Mach) (j : Nat) : Bool :=
  m.descs.any fun x => dOpcode x.d == 0x48 && x.job == j && x.wait != .work

/-- Does the job count as admitted (R84 step 3)? -/
def jobCounts (m : Mach) (j : Nat) : Bool :=
  let x := jobOf m j
  !x.releasing && (x.admitted || admitWaits m j)

/-- Status of steps 1 to 5 of R84 for an opcode of Table 3.5. -/
def earlyStatus (m : Mach) (sp : OpSpec) (d : DescIn) : Nat :=
  if headerBad m d || !sp.kinds.contains (dKind d) || sp.bad d then 0x04
  else if (sp.admin && !ringAdmin m d.ring) || (sp.code != 0x48 && !jobCounts m (dJob m d)) then 0x06
  else
    let a := sp.addr m d
    if a ≠ 0 then a else if admitLen m < sp.wcet d then 0x0B else 0

/-- Completes a descriptor at the present instant. -/
def finishDesc (d : DescIn) (floated : Bool) (status detail : Nat) (m : Mach) : Mach :=
  let st := if status = 0 ∧ floated then 1 else status
  completeAt m (dQuiet d) ⟨d.ring, d.index, dTag d, st, dOpcode d, dJob m d, detail, 0, (stamp m).1, (stamp m).2⟩

/-- What an opcode's effect answers: a status with DETAIL, or none while its work goes on. -/
abbrev Effect := DescIn → Mach → Option (Nat × Nat) × Mach

/-- Has the descriptor's floating edge passed its named one?  Kept in the record of a descriptor that waits. -/
def floatedOf (m : Mach) (d : DescIn) : Bool :=
  (m.descs.find? fun x => x.d.ring == d.ring && x.d.index == d.index).any fun x =>
    match x.wait with
    | .float _ => true
    | _ => false

/-- A descriptor whose work goes on is kept until it completes. -/
def keepDesc (d : DescIn) (m : Mach) : Mach :=
  if m.descs.any fun x => x.d.ring == d.ring && x.d.index == d.index then
    { m with descs := m.descs.map fun x => if x.d.ring == d.ring && x.d.index == d.index then { x with wait := .work } else x }
  else
    let j := dJob m d
    { m with descs := m.descs ++ [⟨d, j, ringAdmin m d.ring, m.tick.tickNo, .work, false⟩] }

/-- The effect of a descriptor, and its completion where it ends at once. -/
def takeEffect (sp : OpSpec) (eff : Effect) (d : DescIn) (floated : Bool) (m : Mach) : Mach :=
  if sp.image d && (imageBytes d).isNone then finishDesc d floated 0x0C (imageGood d) m
  else
    let r := eff d m
    match r.1 with
    | some (st, det) => finishDesc d floated st det r.2
    | none => sp.after d (keepDesc d r.2)

/-- A descriptor row commanded directly: fetched, checked and taking its effect now. -/
def descRow (sp : OpSpec) (eff : Effect) (d : DescIn) (m : Mach) : Mach :=
  if dOpcode d ≠ sp.code then m
  else
    let st := earlyStatus m sp d
    if st ≠ 0 then finishDesc d false st 0 m else takeEffect sp eff d false m

/-- Status of a host access: HOST_WINDOW when no window of the job covers it (R96). -/
def hostStatus (m : Mach) (d : DescIn) (addr len : Nat) (toHost : Bool) : Nat :=
  if hostAllowed m (dJob m d) addr len toHost then 0 else 0x07

/-- Some enabled lattice window of the job names the module and the facet. -/
def facetAllowed (m : Mach) (j md f : Nat) : Bool :=
  (List.range 16).any fun w =>
    let a := regN m (offLwin j w)
    tb a 0 && decide (bf a 43 32 ≤ md) && decide (md ≤ bf a 55 44) && decide (bf a 18 12 ≤ f) && decide (f ≤ bf a 25 19)

end Sys2Proof.Machine
end

