-- ==== Sys2Proof/Machine/Routes.lean ====
section
/-!
DEFINITION. Routes on the panel (R25–R31, R106, R107, Tables 1.3, 1.4, 4.1, 4.2): the hops of a chord's route with their
first-byte latencies and bandwidths.
-/
namespace Sys2Proof.Machine

/-- A hop: edge direction from node to node, first-byte latency in ns, bandwidth in GB/s.  A node is a site; 200 is the
axis die and 300 + l the far end of link l. -/
structure Hop where
  src : Nat
  dst : Nat
  ns  : Nat
  bw  : Nat
  deriving DecidableEq, Repr

def axisNode : Nat := 200

/-- A hop taken the other way. -/
def Hop.back (h : Hop) : Hop := { h with src := h.dst, dst := h.src }

/-- Site of a logical index as the facet map records it (R22): a facet that another one hosts is served there (R393), and one
that failed keeps its site until a takeover. -/
def siteAt (m : Mach) (f : Nat) : Nat :=
  let g := (facetOf m f).hostedBy.getD f
  ((siteOf m g).or (anySiteOf m g)).getD 0

def siteState (m : Mach) (s : Nat) : Nat := ((m.flash.sites[s]?).map (·.state)).getD 1

/-- Does the site forward traffic: a working die or a reserve in retention?  A vacated site is bypassed (Table 18.7). -/
def usable (m : Mach) (s : Nat) : Bool := decide (s < 104) && (siteState m s == 0 || siteState m s == 2)

/-- A chain hop within a row, a detour when it passes a bypassed site (R27). -/
def rowHop (a b : Nat) : Hop := ⟨a, b, if a + 1 = b ∨ b + 1 = a then 50 else 60, 1200⟩

/-- Hops westward from a column to the row port: bypassed sites are passed over (R29, R31). -/
def westHops (m : Mach) (row : Nat) : Nat → Nat → List Hop
  | 0, at_ => [⟨at_, axisNode, 120, 1200⟩]
  | c + 1, at_ =>
    let s := row * 13 + c
    if usable m s then rowHop at_ s :: westHops m row c s else westHops m row c at_

/-- Hops from a facet to the axis die (R31). -/
def axisHops (m : Mach) (f : Nat) : List Hop :=
  let s := siteAt m f
  let row := s / 13
  if row = 0 ∨ row = 7 then [⟨s, axisNode, 120, 400⟩] else westHops m row (s % 13) s

def fromAxis (m : Mach) (f : Nat) : List Hop := ((axisHops m f).map Hop.back).reverse

/-- Hops that Table 4.1 counts for an axis leg. -/
def legCount (m : Mach) (f : Nat) : Nat :=
  let s := siteAt m f
  if s / 13 = 0 ∨ s / 13 = 7 then 1 else s % 13 + 1

/-- The hop between rows in one column: stripe bridge or cross edge (Table 1.4). -/
def turnEdge (a b : Nat) : Hop := if (min a b / 13) % 2 = 0 then ⟨a, b, 350, 300⟩ else ⟨a, b, 60, 800⟩

/-- A row turn from logical index `i` to `i` + 1 (R29); the axis path when no facing site is usable. -/
def turnHops (m : Mach) (i : Nat) : List Hop :=
  let a := siteAt m i
  let b := siteAt m (i + 1)
  if a % 13 = b % 13 then [turnEdge a b]
  else
    let faceA := (b / 13) * 13 + a % 13
    let faceB := (a / 13) * 13 + b % 13
    let reserve (s : Nat) : Bool := siteState m s == 2
    let viaA := usable m faceA && (reserve faceA || !(usable m faceB && reserve faceB))
    if viaA then [turnEdge a faceA, rowHop faceA b]
    else if usable m faceB then [rowHop a faceB, turnEdge faceB b]
    else axisHops m i ++ fromAxis m (i + 1)

/-- Hops of the chain from `i` to `i` + 1. -/
def chainUp (m : Mach) (i : Nat) : List Hop :=
  let a := siteAt m i
  let b := siteAt m (i + 1)
  if a / 13 = b / 13 then [rowHop a b] else turnHops m i

def chainDown (m : Mach) (i : Nat) : List Hop := ((chainUp m i).map Hop.back).reverse

/-- Does Table 4.1 choose the axis path between two facets of the module: fewer hops than the chain?  A map fixes the choice
for its chords when it is loaded (R106). -/
def axisPath (m : Mach) (a b : Nat) : Bool := decide (legCount m a + legCount m b < (if a < b then b - a else a - b))

/-- Route between two facets of the module, by the axis or along the chain (Table 4.1). -/
def panelRoute (m : Mach) (axis : Bool) (a b : Nat) : List Hop :=
  if a = b then []
  else if axis then axisHops m a ++ fromAxis m b
  else if a < b then (List.range (b - a)).flatMap fun k => chainUp m (a + k)
  else ((List.range (a - b)).map fun k => a - 1 - k).flatMap (chainDown m)

/-- Hops of a chord's route that this module knows: its own edges and its link. -/
def chordRoute (m : Mach) (axis : Bool) (e : MapChord) : List Hop :=
  if e.srcModule = e.dstModule then panelRoute m axis e.srcFacet e.dstFacet
  else if e.srcModule = self m then axisHops m e.srcFacet ++ [⟨axisNode, 300 + e.link, 600, 200⟩]
  else ⟨300 + e.link, axisNode, 600, 200⟩ :: fromAxis m e.dstFacet

/-- First-byte latency of a route in ns (R107). -/
def routeNs (l : List Hop) : Nat := (l.map (·.ns)).foldl (· + ·) 0

/-- The map with the path of each chord within the module chosen (R106). -/
def fixRoutes (m : Mach) (pm : PlaceMap) : PlaceMap :=
  { pm with axis := (pm.chords.filter fun e => e.srcModule == e.dstModule && axisPath m e.srcFacet e.dstFacet).map (·.chord) }

/-- Hops of every chord of a map. -/
def mapHops (m : Mach) (pm : PlaceMap) : List Hop := pm.chords.flatMap fun e => chordRoute m (pm.axis.contains e.chord) e

/-- Number of chords of a map whose transfer time exceeds `len` steps (R109): `used` are the hops of the chords in effect,
`extra` counts the chord itself where they leave it out. -/
def slowChords (m : Mach) (len : Nat) (pm : PlaceMap) (used : List Hop) (extra : Nat) : Nat :=
  let sharers (h : Hop) : Nat := (used.filter fun x => x.src == h.src && x.dst == h.dst).length + extra
  (pm.chords.filter fun e => (chordRoute m (pm.axis.contains e.chord) e).any fun h =>
    decide (h.bw * 10 * len < e.payloadSize * sharers h)).length

end Sys2Proof.Machine
end

