-- ==== Sys2Proof/Machine/Placement.lean ====
section
/-!
DEFINITION. MAP_LOAD, SCHED_LOAD and MB_ADMIT (R125, R132, R133, R140–R143): placement images and their checks, cost
tables, and the admission queue.
-/
namespace Sys2Proof.Machine

/-! ### Placement images (Tables 4.8–4.12) -/

def mapPhases (d : DescIn) : Nat := db d 218 213
def mapLen (d : DescIn) : Nat := db d 212 192
def mapAddr (d : DescIn) : Nat := db d 191 128

def nSc (l : List Byte) : Nat := imgBits l 0 64 15 0
def nChord (l : List Byte) : Nat := imgBits l 0 64 31 16
def nExpert (l : List Byte) : Nat := imgBits l 0 64 47 32

/-- Entry `i` of each kind as a number. -/
def scWord (l : List Byte) (i : Nat) : Nat := imgNat l (64 + 32 * i) 32
def chordWord (l : List Byte) (i : Nat) : Nat := imgNat l (64 + 32 * nSc l + 32 * i) 32
def expertWord (l : List Byte) (i : Nat) : Nat := imgNat l (64 + 32 * nSc l + 32 * nChord l + 16 * i) 16

def scEntry (w : Nat) : MapSc :=
  { slotWcet := bf w 255 224, areaSize := bf w 223 192, area := bf w 191 160, prog := bf w 159 144
    lastLayer := bf w 143 128, firstLayer := bf w 127 112, stage := bf w 111 100, pipe := bf w 99 98
    rebalEn := tb w 97, sc := bf w 96 95, facet := bf w 94 88 }

def chordEntry (w : Nat) : MapChord :=
  { payloadSize := bf w 255 224, payloadSpace := bf w 214 214, payloadBase := bf w 213 192, readyTally := bf w 191 180
    creditTally := bf w 179 168, hdrBase := bf w 167 154, depth := bf w 153 149, mode := bf w 148 148
    linkAuto := tb w 147, link := bf w 146 141, kind := bf w 140 139, dstSc := bf w 138 137, dstFacet := bf w 136 130
    dstModule := bf w 129 118, srcSc := bf w 117 116, srcFacet := bf w 115 109, srcModule := bf w 108 97
    ends := bf w 96 95, chord := bf w 94 85 }

def expertEntry (w : Nat) : MapExpert :=
  { chord := bf w 57 48, capacity := bf w 47 32, sc := bf w 24 23, facet := bf w 22 16, replica := bf w 15 14
    expert := bf w 11 0 }

/-- The map an image spells. -/
def readMap (l : List Byte) : PlaceMap :=
  { mapId := imgBits l 0 64 95 64
    scs := (List.range (nSc l)).map fun i => scEntry (scWord l i)
    chords := (List.range (nChord l)).map fun i => chordEntry (chordWord l i)
    experts := (List.range (nExpert l)).map fun i => expertEntry (expertWord l i), axis := [] }

/-- Index of the first element that breaks a condition, from `base`. -/
def firstBad {α : Type} (base : Nat) (l : List α) (bad : Nat → α → Bool) : Option Nat :=
  ((List.range l.length).find? fun i => match l[i]? with | some x => bad i x | none => false).map (base + ·)

/-- Did an earlier element have the same key? -/
def seenBefore {α β : Type} [BEq β] (l : List α) (key : α → β) (i : Nat) : Bool :=
  match l[i]? with
  | some x => (l.take i).any fun y => key y == key x
  | none => false

/-- Arc-queue rings of a chord at its consumer, of which both ends' entries tell: place of the first byte, and bytes (R115). -/
def chordRings (e : MapChord) : List (Lat × Nat) :=
  [(⟨e.dstModule, e.dstFacet, 0, e.hdrBase * 4096⟩, 256 * chordDepth e),
   (⟨e.dstModule, e.dstFacet, e.payloadSpace, e.payloadBase * 4096⟩, e.payloadSize * chordDepth e)]

def ringsMeet (a b : Lat × Nat) : Bool :=
  a.1.mod == b.1.mod && a.1.facet == b.1.facet && a.1.space == b.1.space && spansMeet a.1.off a.2 b.1.off b.2

/-- Chords of every map that the other jobs have or are about to have. -/
def otherChords (m : Mach) (j : Nat) : List MapChord :=
  (List.range 16).flatMap fun k =>
    if k = j then []
    else ((jobOf m k).maps.filterMap id ++ (jobOf m k).coming.map (·.2)).flatMap (·.chords)

/-- Tallies that chords use here: facet and number. -/
def chordTallies (m : Mach) (e : MapChord) : List (Nat × Nat) :=
  (if consumesHere m e then [(e.dstFacet, e.readyTally)] else [])
    ++ (if producesHere m e then [(e.srcFacet, e.creditTally)] else [])

/-- A chord end that names no stage context of the image. -/
def endAbsent (m : Mach) (pm : PlaceMap) (e : MapChord) : Bool :=
  (hasProducer e && !(e.srcModule == self m && pm.scs.any fun x => x.facet == e.srcFacet && x.sc == e.srcSc))
    || (hasConsumer e && !(e.dstModule == self m && pm.scs.any fun x => x.facet == e.dstFacet && x.sc == e.dstSc))

/-- Does the stage before a stage lie on another module: the stage takes a forward chord from there (log entry 81)? -/
def startsLater (m : Mach) (pm : PlaceMap) (e : MapSc) : Bool :=
  pm.chords.any fun x => x.kind == 0 && consumesHere m x && x.srcModule != self m && x.dstFacet == e.facet && x.dstSc == e.sc

/-- A stage with no stage before it.  Stages of other modules show only through chords; an image that no unit runs under needs
none, and its gaps are not judged (log entry 81). -/
def stageGap (m : Mach) (phases : Nat) (pm : PlaceMap) (e : MapSc) : Bool :=
  phases % 8 != 0 && e.stage != 0 && !(pm.scs.any fun x => x.pipe == e.pipe && x.stage + 1 == e.stage) && !startsLater m pm e

/-- Do the bytes lie inside the job's lattice windows for some permission (cause 8)? -/
def inWindows (m : Mach) (j : Nat) (l : Lat) (n : Nat) : Bool :=
  [Perm.read, .write, .atomic, .tally].any fun p => latStatus m j l n p == 0

/-- First cause of Table 4.13 that an image breaks, with the entry's index; 0xFFFFFF for the header.  Cause 3 is not judged for
an image of UPDATE alone, whose STAGE names an owner (Table 10.2); a LINK of 36–62 on a chord between modules is cause 9 and a
tally below 4,032 cause 6, not cause 2 (DEDUCED, log entry 77).  Where two entries break a cause together, the later is the one that
breaks it (DEDUCED, log entry 81). -/
def mapFault (m : Mach) (j phases len : Nat) (l : List Byte) : Option (Nat × Nat) :=
  let s := nSc l
  let c := nChord l
  let x := nExpert l
  let hdr := 0xFFFFFF
  if len < 64 ∨ l.length < 64 ∨ len ≠ 64 + 32 * s + 32 * c + 16 * x ∨ s = 0 ∨ 384 < s ∨ 1024 < c ∨ 4096 < x then some (1, hdr)
  else
    let pm := readMap l
    let cause2 : Option Nat :=
      if imgBits l 0 64 63 48 ≠ 0 ∨ imgBits l 0 64 511 96 ≠ 0 then some hdr
      else
        let badSc (i : Nat) (e : MapSc) : Bool :=
          bf (scWord l i) 87 0 != 0 || decide (95 < e.facet) || decide (e.lastLayer < e.firstLayer) || decide (4095 < e.lastLayer)
            || seenBefore pm.scs (fun y => (y.facet, y.sc)) i
        let badChord (i : Nat) (e : MapChord) : Bool :=
          bf (chordWord l i) 84 0 != 0 || bf (chordWord l i) 223 215 != 0 || decide (16 < e.depth) || e.ends == 0
            || decide (95 < e.srcFacet) || decide (95 < e.dstFacet) || e.payloadSize == 0 || e.payloadSize % 4096 != 0
        let badEx (i : Nat) (e : MapExpert) : Bool :=
          bf (expertWord l i) 127 58 != 0 || bf (expertWord l i) 31 25 != 0 || bf (expertWord l i) 13 12 != 0
            || decide (95 < e.facet) || e.capacity == 0
        ((firstBad 0 pm.scs badSc).or (firstBad s pm.chords badChord)).or (firstBad (s + c) pm.experts badEx)
    -- in an UPDATE map STAGE names the owner of the layers, not a stage that runs (Table 10.2)
    let cause3 : Option Nat := if phases = 0x10 then none
      else firstBad 0 pm.scs fun i e => stageGap m phases pm e || seenBefore pm.scs (fun y => (y.pipe, y.stage)) i
    let cause4 : Option Nat := firstBad s pm.chords fun i e =>
      endAbsent m pm e || seenBefore pm.chords (·.chord) i || (otherChords m j).any fun y => y.chord == e.chord
    let others := (otherChords m j).flatMap chordRings
    let cause5 : Option Nat := firstBad s pm.chords fun i e =>
      (chordRings e).any (fun r => decide ((if r.1.space = 0 then Config.spadSize else Config.hbmSize) < r.1.off + r.2)
          || others.any (ringsMeet r) || (pm.chords.take i).any fun y => (chordRings y).any (ringsMeet r))
        || (match chordRings e with | [a, b] => ringsMeet a b | _ => false)
    let foreign := (otherChords m j).flatMap (chordTallies m)
    let cause6 : Option Nat := firstBad s pm.chords fun i e =>
      decide (e.readyTally < 4032) || decide (e.creditTally < 4032)
        || (chordTallies m e).any (fun t => foreign.contains t || ((pm.chords.take i).flatMap (chordTallies m)).contains t)
        || (match chordTallies m e with | [a, b] => a == b | _ => false)
    let cause7 : Option Nat :=
      (firstBad s pm.chords fun _ e => decide (2 ≤ e.kind) && e.mode == 0).or
        (firstBad (s + c) pm.experts fun i e => seenBefore pm.experts (fun y => (y.expert, y.replica)) i
          || !(pm.chords.any fun y => y.chord == e.chord && y.kind == 2))
    let cause8 : Option Nat :=
      (firstBad 0 pm.scs fun _ e => !facetAllowed m j (self m) e.facet
          || (e.areaSize != 0 && !inWindows m j ⟨self m, e.facet, 1, e.area * 4096⟩ (e.areaSize * 4096))).or
        ((firstBad s pm.chords fun _ e => !facetAllowed m j e.srcModule e.srcFacet || !facetAllowed m j e.dstModule e.dstFacet
          || (match chordRings e with
            | [h, p] => !inWindows m j { h.1 with space := 3 } h.2 || !inWindows m j p.1 p.2
            | _ => false)).or
        (firstBad (s + c) pm.experts fun _ e => !facetAllowed m j (self m) e.facet))
    let cause9 : Option Nat := firstBad s pm.chords fun _ e =>
      if e.srcModule = e.dstModule then e.link != 63 else decide (35 < e.link)
    let cause10 : Option Nat := firstBad s pm.chords fun i e =>
      match returnPipe m j pm e with
      | none => false
      | some p => e.mode == 0 || (pm.chords.take i).any fun y => returnPipe m j pm y == some p
    let first (k : Nat) (o : Option Nat) : Option (Nat × Nat) := o.map fun i => (k, i)
    (first 2 cause2).or ((first 3 cause3).or ((first 4 cause4).or ((first 5 cause5).or ((first 6 cause6).or
      ((first 7 cause7).or ((first 8 cause8).or ((first 9 cause9).or (first 10 cause10))))))))

/-! ### MAP_LOAD -/

def specMap : OpSpec :=
  { code := 0x10, kinds := [2], admin := false, wcet := fun _ => 0, image := fun _ => true
    bad := fun d => !dZero d 511 219 || mapAddr d % 64 != 0
    source := fun d => (mapAddr d, mapLen d)
    addr := fun m d => hostStatus m d (mapAddr d) (mapLen d) false }

/-- Status and DETAIL of the image (R143). -/
def mapStatus (m : Mach) (d : DescIn) : Nat × Nat :=
  match imageBytes d with
  | none => (0x0C, imageGood d)
  | some l =>
    match mapFault m (dJob m d) (mapPhases d) (mapLen d) l with
    | some (k, i) => (0x40, k * 2 ^ 24 + i)
    | none => (0, 0)

/-- Phases of a mask. -/
def maskPhases (d : DescIn) : List Nat := (List.range 6).filter fun k => tb (mapPhases d) k

/-- Installs the image of a MAP_LOAD that passes its checks, for the phases of its mask (R140). -/
def installMap (d : DescIn) (pm : PlaceMap) (m : Mach) : Mach :=
  modJob m (dJob m d) fun x => { x with
    coming := (x.coming.filter fun e => !(maskPhases d).contains e.1) ++ (maskPhases d).map fun k => (k, fixRoutes m pm) }

/-- MAP_LOADs that take effect at the same sweep edge after this one. -/
def laterLoads (m : Mach) (d : DescIn) : List DescIn :=
  let rest := (m.descs.dropWhile fun x => !(x.d.ring == d.ring && x.d.index == d.index)).drop 1
  (rest.filter fun x => dOpcode x.d == 0x10 && (match x.wait with
    | .edge => decide (dEdge x.d ≤ m.tick.sweepNo)
    | .sure => decide (dEdge x.d ≤ m.tick.sweepNo)
    | .float t => decide (t ≤ m.tick.tickNo)
    | _ => false)).map (·.d)

/-- The map that carries a job's chords once the loads of this edge have taken effect. -/
def carryMap (m : Mach) (j : Nat) : Option PlaceMap :=
  match (jobOf m j).coming.find? fun e => decide (e.1 < 3) with
  | some e => some e.2
  | none => fillMap m j

/-- Number of slow chords of a map that MAP_LOAD `d` has just installed (R109): the chords that share an edge are those of every
job in the maps that stand once the edge's loads have taken effect.  A mask without FILL, STEADY and DRAIN brings none into
effect (R140), so each of its chords counts itself beside them. -/
def slowLoads (t : Timing) (d : DescIn) (pm : PlaceMap) (m : Mach) : Nat :=
  let after := forAll (laterLoads m d) (fun m x =>
    match imageBytes x with
    | some l => if (mapStatus m x).1 = 0 then installMap x (readMap l) m else m
    | none => m) m
  let used := (List.range 16).flatMap fun j => match carryMap after j with
    | some x => mapHops m x
    | none => []
  slowChords m (t.period - 1) (fixRoutes m pm) used (if mapPhases d % 8 = 0 then 1 else 0)

/-- MAP_LOAD installs its image for the phases of its mask; each map comes into effect at its phase's first edge (R140).
DETAIL counts the chords whose transfer outlasts the admission tick (R109). -/
def effMapAt (t : Timing) : Effect := fun d m =>
  let st := mapStatus m d
  if st.1 ≠ 0 then (some st, m)
  else
    match imageBytes d with
    | none => (some st, m)
    | some l =>
      let m := installMap d (readMap l) m
      (some (0, slowLoads t d (readMap l) m), m)

def effMap : Effect := fun d m => effMapAt (timing m) d m

def execMapLoad (d : DescIn) (s : State) : Res := actReady (decide (d.ring < 32)) (descRow specMap effMap d) s

/-- The FILL map that will be in effect for a sweep (R157): one that a waiting MAP_LOAD of an earlier or equal sweep
installs, one already installed, or the one in effect. -/
def fillMapFor (m : Mach) (j sweep : Nat) : Option PlaceMap :=
  let waiting := m.descs.filter fun x => dOpcode x.d == 0x10 && x.job == j && decide (dEdge x.d ≤ sweep)
    && tb (mapPhases x.d) 0 && (mapStatus m x.d).1 == 0
  let last (a : Option Desc) (x : Desc) : Option Desc :=
    match a with
    | some y => if dEdge y.d ≤ dEdge x.d then some x else a
    | none => some x
  match waiting.foldl last none with
  | some x => (imageBytes x.d).map readMap
  | none =>
    match (jobOf m j).coming.find? fun e => e.1 == 0 with
    | some e => some e.2
    | none => fillMap m j

/-! ### SCHED_LOAD -/

def schedPipe (d : DescIn) : Nat := db d 254 253
def schedFwdOnly (d : DescIn) : Bool := db d 255 255 == 1
def schedReserve (d : DescIn) : Nat := db d 252 245
def schedM (d : DescIn) : Nat := db d 244 224
def schedBudget (d : DescIn) : Nat := db d 223 192
def schedTable (d : DescIn) : Nat := db d 191 128

def specSched : OpSpec :=
  { code := 0x11, kinds := [2], admin := false, wcet := fun _ => 0, image := fun _ => true
    bad := fun d => !dZero d 511 256 || schedM d == 0 || decide (1048575 < schedM d)
    source := fun d => (schedTable d, 512)
    addr := fun m d => hostStatus m d (schedTable d) 512 false }

/-- Is the job pre-emptible (R403)? -/
def preemptible (m : Mach) (j : Nat) : Bool :=
  let w := regN m (offJob j)
  tb w 2 || bf w 31 28 != 0

/-- SCHED_LOAD under a timing set (R132, R133, R403).  S is counted in the FILL map that a MAP_LOAD of the same edge brings where
that MAP_LOAD was fetched earlier, else in the map in effect (DESIGN CHOICE, log entry 77). -/
def effSchedAt (t : Timing) : Effect := fun d m =>
  let j := dJob m d
  let p := schedPipe d
  let pm := match (jobOf m j).coming.find? fun e => e.1 == 0 with
    | some e => some e.2
    | none => fillMap m j
  let stages := stageTotal m j p pm
  let span := if schedFwdOnly d then schedM d + stages - 1 else schedM d + 2 * stages - 1 + schedReserve d
  if !schedFwdOnly d && preemptible m j then (some (0x80, 0), m)
  else if t.period - 1 < schedBudget d ∨ t.fill + t.steady + t.drain < span then (some (0x41, 0), m)
  else
    let l := (imageBytes d).getD []
    let cost := (List.range 64).map fun i => (imgNat l (8 * i) 4, imgNat l (8 * i + 4) 4)
    let s : Sched := ⟨schedFwdOnly d, schedReserve d, schedM d, schedBudget d, cost, m.tick.tickNo⟩
    (some (0, 0), modPipe m j p fun x => { x with
      sched := some s, steerAt := none, rollout := if s.fwdOnly then x.rollout else none })

def effSched : Effect := fun d m => effSchedAt (timing m) d m

def execSchedLoad (d : DescIn) (s : State) : Res := actReady (decide (d.ring < 32)) (descRow specSched effSched d) s

/-! ### MB_ADMIT (R125) -/

def admitOf (m : Mach) (d : DescIn) : Admit :=
  { mbId := db d 151 128, len := db d 171 152, cost := db d 177 172, input := db d 255 192, inputLen := db d 287 256
    target := db d 383 320, targetLen := db d 319 288, cursor := word (db d 447 384), ring := d.ring, index := d.index
    tag := dTag d, quiet := dQuiet d, floated := floatedOf m d }

def admitPipe (d : DescIn) : Nat := db d 179 178

def specAdmit : OpSpec :=
  { code := 0x12, kinds := [0, 1], admin := false, wcet := fun _ => 0, image := fun _ => false
    bad := fun d => !dZero d 511 448 || !dZero d 191 180
    addr := fun m d =>
      let a := admitOf m d
      let write := (pipeOf m (dJob m d) (admitPipe d)).rollout.isSome
      if a.inputLen != 0 && hostStatus m d a.input a.inputLen false != 0 then 0x07
      else if a.target != 0 && a.targetLen != 0 && hostStatus m d a.target a.targetLen write != 0 then 0x07
      else 0 }

/-- MB_ADMIT joins the tail of its queue; it completes at admission (R131).  Where several of a full queue, no schedule and
LENGTH 0 hold, R125 gives no order: ADMIT_FULL, then NO_SCHEDULE, then ADMIT_BAD (DESIGN CHOICE, log entry 77). -/
def effAdmit : Effect := fun d m =>
  let j := dJob m d
  let p := admitPipe d
  let a := admitOf m d
  if 256 ≤ (pipeOf m j p).queue.length then (some (0x44, 0), m)
  else if (pipeOf m j p).sched.isNone then (some (0x42, 0), m)
  else if a.len = 0 then (some (0x45, 0), m)
  else (none, modPipe m j p fun x => { x with queue := x.queue ++ [a] })

def execMbAdmit (d : DescIn) (s : State) : Res := actReady (decide (d.ring < 32)) (descRow specAdmit effAdmit d) s

end Sys2Proof.Machine
end

