-- ==== Sys2Proof/Machine/Loading.lean ====
section
/-!
DEFINITION. VER_BUILD, VER_PUBLISH and MODEL_LOAD (R146–R161, R169–R175, R178): locus images, building and sealing
versions, publishing, and pass-along load streams.
-/
namespace Sys2Proof.Machine

/-! ### VER_BUILD body (Table 5.7) -/

def vbImage (d : DescIn) : Nat := db d 511 448
def vbSize (d : DescIn) : Nat := db d 447 426
def vbBase (d : DescIn) : Nat := db d 425 404
def vbSpace (d : DescIn) : Nat := db d 403 403
def vbSource (d : DescIn) : Nat := db d 399 398
def vbSrcSc (d : DescIn) : Nat := db d 397 396
def vbSrcTag (d : DescIn) : Nat := db d 395 388
def vbTag (d : DescIn) : Nat := db d 387 380
def vbAction (d : DescIn) : Nat := db d 379 378
def vbSc (d : DescIn) : Nat := db d 377 376
def vbFacet (d : DescIn) : Nat := db d 375 369
def vbPipe (d : DescIn) : Nat := db d 368 367

/-! ### Locus images (R151, Tables 5.1–5.5); the version entries are omitted, so layer entries follow the gather set -/

def imgLayers (l : List Byte) : Nat := imgBits l 0 64 39 31

def imageLayer (l : List Byte) (i : Nat) : Nat := imgNat l (128 + 8 * i) 8

/-- The locus that an image gives: its layers kept or dropped by R178. -/
def keepLayers : Nat → List LocusLayer → List LocusLayer
  | _, [] => []
  | room, y :: t =>
    if y.gathered && decide (y.size ≤ room) then { y with kept := true } :: keepLayers (room - y.size) t
    else y :: keepLayers room t

def readLocus (l : List Byte) (old : Locus) : Locus :=
  let h := imgNat l 0 64
  let layers := keepLayers (bf h 73 52) ((List.range (imgLayers l)).map fun i =>
    let w := imageLayer l i
    ⟨bf w 63 62 == 1, bf w 61 40, bf w 39 18, false⟩)
  let xfer := (layers.filter fun y => y.gathered && !y.kept).foldl (fun a y => max a y.size) 0
  { old with
    installed := true, autoSpace := bf h 162 162, autoBase1 := bf h 161 140, autoBase0 := bf h 139 118
    xferSize := xfer, keepBase := bf h 95 74, keepBudget := bf h 73 52, keepTag := 0, nLayers := imgLayers l
    gather := (List.range (bf h 30 26)).map fun i =>
      let w := imgNat l (64 + 4 * i) 4
      (bf w 31 20, bf w 19 13, bf w 12 11)
    layers := layers, keptValid := [] }

/-- Units that a layer takes in a version region: its shard when it is gathered (R177). -/
def layerTakes (l : Locus) (y : LocusLayer) : Nat := if y.gathered then ceilDiv y.size (max 1 l.gather.length) else y.size

/-- Does every layer's OFFSET + SIZE lie within a region of `size` units (R151)?  SIZE of a GATHERED layer is that of the full
layer (Table 5.5), whatever the shard takes. -/
def layersFit (l : Locus) (size : Nat) : Bool := l.layers.all fun y => decide (y.offset + y.size ≤ size)

/-- Is a locus image valid for the stage context (R151)?  RO and reserved fields must be 0. -/
def imageValid (m : Mach) (j f c : Nat) (l : List Byte) : Bool :=
  let h := imgNat l 0 64
  let n := imgLayers l
  let g := bf h 30 26
  let loc := readLocus l Locus.init
  decide (128 + 8 * n ≤ l.length) && decide (1 ≤ n) && decide (n ≤ 464) && decide (g ≤ 16)
    && bf h 511 163 == 0 && bf h 117 96 == 0 && bf h 51 40 == 0 && bf h 25 0 == 0
    && ((List.range 16).all fun i =>
      let w := imgNat l (64 + 4 * i) 4
      (bf w 10 10 == b2n (decide (i < g))) && bf w 9 0 == 0 && (decide (g ≤ i) || decide (bf w 19 13 ≤ 95)))
    && ((List.range n).all fun i =>
      let w := imageLayer l i
      decide (bf w 63 62 ≤ 1) && bf w 17 0 == 0 && !(g == 0 && bf w 63 62 == 1))
    && (match fillMap m j with
      | some pm => match pm.scs.find? fun e => e.facet == f && e.sc == c with
        | some e => n == e.lastLayer - e.firstLayer + 1
        | none => true
      | none => true)
    && decide (loc.keepBase + loc.keepBudget + 2 * loc.xferSize ≤ 3145728)

/-- The locus under which VER_BUILD acts: the image's, or the installed one. -/
def vbLocus (m : Mach) (d : DescIn) : Locus :=
  let old := locusOf m (vbFacet d) (vbSc d)
  if vbImage d = 0 then old else readLocus ((imageBytes d).getD []) old

/-- Entry that SRC_SC and SRC_TAG name: READY, PUBLISHED or DRAINING; an UPDATE version's source lies in its own locus. -/
def vbSourceEntry (m : Mach) (d : DescIn) : Option VerEntry :=
  resolveTag (locusOf m (vbFacet d) (if vbSource d = 2 then vbSc d else vbSrcSc d)) (vbSrcTag d)

/-- Keep area and transient buffers of a locus: first unit and units, in HBM. -/
def keepExtent (l : Locus) : Nat × Nat := (l.keepBase, l.keepBudget + 2 * l.xferSize)

/-- Does a region break the placement rule of R150 step 1? -/
def regionBad (m : Mach) (d : DescIn) (sp base size : Nat) : Bool :=
  let f := vbFacet d
  let units := if sp = 0 then 16384 else 3145728
  let loci := (List.range 4).map fun c => if c = vbSc d then vbLocus m d else locusOf m f c
  let rings := (m.chords.filter fun c => hasConsumer c.e && c.e.dstFacet == f).flatMap fun c => chordRings c.e
  decide (units < base + size)
    || (sp == 1 && loci.any fun l => spansMeet base size (keepExtent l).1 (keepExtent l).2)
    || rings.any (fun r => ringsMeet r (⟨self m, f, sp, base * 4096⟩, size * 4096))
    || (List.range 4).any fun c => (locusOf m f c).entries.any fun e =>
        !entryFree e && regionsMeet e.space e.base e.size sp base size

/-- Index of the entry that holds a tag, a copy in progress included. -/
def heldIdx (l : Locus) (tag : Nat) : Option Nat :=
  (List.range l.entries.length).find? fun i => match l.entries[i]? with
    | some e => !entryFree e && e.vtag == tag
    | none => false

/-- The entry that SEAL and FREE act on: the one that holds the tag in a state other than FREE. -/
def heldEntry (l : Locus) (tag : Nat) : Option VerEntry := (entryOf l tag).bind fun i => l.entries[i]?

/-- VER_BAD of R150. -/
def vbBad (m : Mach) (d : DescIn) : Bool :=
  let f := vbFacet d
  let c := vbSc d
  let l := vbLocus m d
  let alloc := vbAction d == 0
  let src := vbSource d
  let imgBad := vbImage d != 0 && !imageValid m (dJob m d) f c ((imageBytes d).getD [])
  imgBad || (alloc && vbImage d == 0 && !(locusOf m f c).installed)
    || (alloc && src != 3 && (regionBad m d (vbSpace d) (vbBase d) (vbSize d) || !layersFit l (vbSize d)))
    || (alloc && src == 3 && (match vbSourceEntry m d with | some y => !layersFit l y.size | none => true))
    || (alloc && src != 0 && (vbSourceEntry m d).isNone)
    || (alloc && src == 3 && ((locusOf m f (vbSrcSc d)).layers.map fun y => (y.gathered, y.size, y.offset))
        != (l.layers.map fun y => (y.gathered, y.size, y.offset)))
    || (vbAction d == 1 && (match heldEntry (locusOf m f c) (vbTag d) with | some e => e.bad | none => false))

/-- Is the entry named by a load that has not completed? -/
def loadTarget (m : Mach) (f c tag : Nat) : Bool := m.loads.any fun r => r.targets.contains (f, c, tag)

/-- VER_BUSY of R150; SEAL finds no entry BUILDING with SOURCE EMPTY where no entry holds the tag. -/
def vbBusy (m : Mach) (d : DescIn) : Bool :=
  let f := vbFacet d
  let l := locusOf m f (vbSc d)
  let e := heldEntry l (vbTag d)
  (vbImage d != 0 && l.entries.any fun e => !entryFree e)
    || (vbAction d == 1 && (match e with | some e => e.state != 1 || e.source != 0 | none => true))
    || (vbAction d == 2 && (match e with
      | some e => e.state == 3 || e.state == 4 || e.pend || e.refs != 0 || loadTarget m f (vbSc d) (vbTag d)
      | none => false))

/-- Status of R150's checks in their order. -/
def vbStatus (m : Mach) (d : DescIn) : Nat :=
  let l := locusOf m (vbFacet d) (vbSc d)
  if vbBad m d then 0x4B
  else if vbAction d = 0 ∧ (heldIdx l (vbTag d)).isSome then 0x49
  else if vbAction d = 0 ∧ (freeIdx l).isNone then 0x48
  else if vbBusy m d then 0x4A
  else 0

/-- Region that VER_BUILD acts on, and whether it gives it for writing: the one that ALLOC names, the source's for REF, the
entry's for SEAL and FREE.  Log entry 19. -/
def vbRegion (m : Mach) (d : DescIn) : Option (Perm × Nat × Nat × Nat) :=
  let of (e : VerEntry) : Perm × Nat × Nat × Nat := (.read, e.space, e.base, e.size)
  if vbAction d = 0 then
    if vbSource d = 3 then (vbSourceEntry m d).map of else some (.write, vbSpace d, vbBase d, vbSize d)
  else (heldEntry (locusOf m (vbFacet d) (vbSc d)) (vbTag d)).map of

/-- The window checks before step 1, for every action: the region, the keep area and the gather members; a keep area past the
end of HBM is left to R151, which names it. -/
def vbWindows (m : Mach) (d : DescIn) : Nat :=
  let j := dJob m d
  let l := vbLocus m d
  let k := keepExtent l
  let reg (p : Perm) (sp base size : Nat) : Nat :=
    if size = 0 then 0 else latStatus m j ⟨self m, vbFacet d, sp, base * 4096⟩ (size * 4096) p
  let a := match vbRegion m d with
    | some (p, sp, base, size) => reg p sp base size
    | none => 0
  let b := if 3145728 < k.1 + k.2 then 0 else reg .write 1 k.1 k.2
  if a ≠ 0 then a else if b ≠ 0 then b else if l.gather.all fun g => facetAllowed m j g.1 g.2.1 then 0 else 0x0A

def specBuild : OpSpec :=
  { code := 0x18, kinds := [0], admin := false, wcet := fun _ => 200, image := fun d => vbImage d != 0
    bad := fun d => !dZero d 402 400 || !dZero d 366 128 || vbAction d == 3 || decide (95 < vbFacet d) || vbImage d % 64 != 0
    source := fun d => (vbImage d, 128 + 8 * imgLayers ((imageBytes d).getD []))
    addr := fun m d =>
      let n := 128 + 8 * imgLayers ((imageBytes d).getD [])
      if vbImage d != 0 && hostStatus m d (vbImage d) n false != 0 then 0x07 else vbWindows m d }

/-- Installs the image of a VER_BUILD that passed its checks. -/
def vbInstall (d : DescIn) (m : Mach) : Mach :=
  if vbImage d = 0 then m else modLocus m (vbFacet d) (vbSc d) fun _ => vbLocus m d

/-- A REF source gains a reference (R153). -/
def addRef (f c tag : Nat) (m : Mach) : Mach :=
  let up (x : VerEntry) : VerEntry :=
    if x.vtag == tag && (x.state == 2 || x.state == 3 || x.state == 4) then { x with refs := x.refs + 1 } else x
  modLocus m f c fun l => { l with entries := l.entries.map up }

/-- VER_BUILD ALLOC (R149, R152, R153). -/
def effAlloc : Effect := fun d m =>
  let st := vbStatus m d
  if st ≠ 0 then (some (st, 0), m)
  else
    let f := vbFacet d
    let c := vbSc d
    let srcE := vbSourceEntry m d
    let m := vbInstall d m
    let src := vbSource d
    let e : VerEntry := { VerEntry.init with
      source := src, srcSc := if src = 1 ∨ src = 3 then vbSrcSc d else 0, srcTag := if src = 0 then 0 else vbSrcTag d
      vtag := vbTag d, pipe := vbPipe d, job := dJob m d, space := vbSpace d, base := vbBase d, size := vbSize d }
    let put (e : VerEntry) (m : Mach) : Mach := modLocus m f c fun l => { l with
      entries := match freeIdx l with
        | some i => l.entries.set i e
        | none => l.entries }
    if src = 1 then (none, put { e with busy := [(d.ring, d.index)] } m)
    else if src = 3 then
      match srcE with
      | none => (some (0x4B, 0), m)
      | some y =>
        let m := put { e with state := 2, sealTick := m.tick.tickNo, space := y.space, base := y.base, size := y.size, crc := y.crc } m
        (some (0, 0), addRef f (vbSrcSc d) (vbSrcTag d) m)
    else (some (0, 0), put { e with state := 1 } m)

/-- VER_BUILD SEAL: the CRC read begins (R152).  R150 refuses no second SEAL while one runs: each reads the region. -/
def effSeal : Effect := fun d m =>
  let st := vbStatus m d
  if st ≠ 0 then (some (st, 0), m)
  else
    match entryOf (locusOf m (vbFacet d) (vbSc d)) (vbTag d) with
    | none => (some (0x4A, 0), m)
    | some i =>
      (none, modLocus m (vbFacet d) (vbSc d) fun l => { l with
        entries := l.entries.modify i fun e => { e with busy := e.busy ++ [(d.ring, d.index)] } })

/-- The CRC reads of an entry run on when FREE returns it. -/
def keepReads (f c i : Nat) (m : Mach) : Mach :=
  modLocus m f c fun l => match l.entries[i]? with
    | some e => { l with freed := l.freed ++ e.busy.map fun b => ⟨i, b.1, b.2, e.space, e.base, e.size⟩ }
    | none => l

/-- The home's row of a tag goes when no stage context here holds the tag any more. -/
def dropRow (j p vtag : Nat) (m : Mach) : Mach :=
  if (List.range m.facets.length).any fun f => (List.range 4).any fun c =>
      (locusOf m f c).entries.any fun e => e.state != 0 && e.vtag == vtag && e.job == j && e.pipe == p then m
  else modPipe m j p fun x => { x with rows := x.rows.map fun r => match r with
    | some y => if y.vtag == vtag && y.state == 2 then none else r
    | none => none }

/-- VER_BUILD FREE; a tag that no entry holds is FREE already, and the descriptor completes OK (log entry 19). -/
def effFree : Effect := fun d m =>
  let st := vbStatus m d
  if st ≠ 0 then (some (st, 0), m)
  else
    let l := locusOf m (vbFacet d) (vbSc d)
    match entryOf l (vbTag d) with
    | none => (some (0, 0), vbInstall d m)
    | some i =>
      let e := l.entries.getD i VerEntry.init
      (some (0, 0), dropRow e.job e.pipe e.vtag (freeEntry (vbFacet d) (vbSc d) i (keepReads (vbFacet d) (vbSc d) i m)))

/-- VER_BUILD by its ACTION. -/
def effBuild : Effect := fun d m => if vbAction d = 0 then effAlloc d m else if vbAction d = 1 then effSeal d m else effFree d m

/-- The descriptor of a read that ends completes with the CRC, or with MEM_UE where an uncorrectable unit was read. -/
def endRead (ring : Nat) (index : W32) (bad : Bool) (size crc : Nat) (m : Mach) : Mach :=
  match m.descs.find? fun x => x.d.ring == ring && x.d.index == index with
  | none => m
  | some x => if bad then finishDesc x.d false 0x0F (4096 * size) m else finishDesc x.d false 0 crc m

/-- Moves a COPY's bytes from its source: whether an uncorrectable unit was read, and the module. -/
def copyRegion (f : Nat) (e : VerEntry) (m : Mach) : Bool × Mach :=
  match resolveTag (locusOf m f e.srcSc) e.srcTag with
  | some y =>
    let d := readChecked m f y.space (4096 * y.base) (4096 * min y.size e.size)
    (d.2.1, writeChecked d.2.2 f e.space (4096 * e.base) d.1)
  | none => (false, loseMem m f e.space (4096 * e.base) (4096 * e.size))

/-- CRC_READ_DONE: the oldest copy or CRC read of the entry ends; the entry is READY with its CRC, and the descriptor completes
with it (R152).  The read of an entry that FREE has returned ends so too, and changes no entry. -/
def crcReadDoneOp (f c i : Nat) (m : Mach) : Mach :=
  let l := locusOf m f c
  match l.freed.find? fun r => r.entry == i with
  | some r =>
    let d := readChecked m f r.space (4096 * r.base) (4096 * r.size)
    endRead r.ring r.index d.2.1 r.size (crc32 d.1) (modLocus d.2.2 f c fun l => { l with freed := l.freed.erase r })
  | none =>
    match l.entries[i]? with
    | none => m
    | some e =>
      match e.busy with
      | [] => m
      | (ring, index) :: rest =>
        let cp : Bool × Mach := if e.source = 1 ∧ e.state = 0 then copyRegion f e m else (false, m)
        let d := readChecked cp.2 f e.space (4096 * e.base) (4096 * e.size)
        let m := d.2.2
        let crc := crc32 d.1
        let m := modLocus m f c fun l => { l with entries := l.entries.modify i fun e =>
          if e.state < 2 then { e with busy := rest, state := 2, sealTick := m.tick.tickNo, crc := BitVec.ofNat 32 crc }
          else { e with busy := rest } }
        endRead ring index (cp.1 || d.2.1) e.size crc m

def okAction (d : DescIn) (k : Nat) : Bool := dOpcode d == 0x18 && vbAction d == k

def execVerBuildAlloc (d : DescIn) (s : State) : Res :=
  actReady (decide (d.ring < 32)) (onlyIf (okAction d 0) (descRow specBuild effAlloc d)) s
def execVerBuildSeal (d : DescIn) (s : State) : Res :=
  actReady (decide (d.ring < 32)) (onlyIf (okAction d 1) (descRow specBuild effSeal d)) s
def execVerBuildFree (d : DescIn) (s : State) : Res :=
  actReady (decide (d.ring < 32)) (onlyIf (okAction d 2) (descRow specBuild effFree d)) s

/-! ### VER_PUBLISH (R156–R161) -/

def vpTag (d : DescIn) : Nat := db d 137 130
def vpPipe (d : DescIn) : Nat := db d 129 128
def vpKeep (d : DescIn) : Bool := db d 138 138 == 1

def specPublish : OpSpec :=
  { code := 0x19, kinds := [2], admin := false, wcet := fun _ => 0, image := fun _ => false
    bad := fun d => !dZero d 511 139, addr := fun _ _ => 0 }

/-- Stage contexts of a pipeline in a map: facet and SC. -/
def scsIn (p : Nat) (pm : PlaceMap) : List (Nat × Nat) := (mapStages pm p).map fun e => (e.facet, e.sc)

/-- Is this module the pipeline's home under a map (R155)? -/
def homeIn (p : Nat) (pm : PlaceMap) : Bool := (mapStages pm p).any fun e => e.stage == 0

/-- The home checks the loci here and queries the pipeline's other modules, under the FILL map of the named sweep (R157). -/
def beginCheck (j p tag sweep : Nat) (pm : PlaceMap) (m : Mach) : Mach :=
  let scs := scsIn p pm
  let held := scs.filter fun sc => locallyReady m [sc] tag
  let mds := pipeModulesIn m j p pm
  let m := modPipe m j p fun x => { x with
    checks := x.checks ++ [⟨tag, sweep, held, []⟩], asked := x.asked ++ mds.map fun md => (md, tag, some sweep) }
  forAll mds (fun m md => sendMsg m md (.verQuery (self m) j p tag sweep)) (markPend scs tag (max sweep (m.tick.sweepNo + 1)) m)

/-- The sweep at whose edge a descriptor judged now takes effect: the one it names, or with FLOAT the first that begins three ticks
ahead (R54, R56). -/
def targetSweep (m : Mach) (d : DescIn) : Nat :=
  let first := if !m.tick.running then m.tick.baseSweep
    else if m.tick.tickNo + 3 ≤ nominalTick m (m.tick.sweepNo + 1) then m.tick.sweepNo + 1 else m.tick.sweepNo + 2
  max (dEdge d) first

/-- The check of a VER_PUBLISH: the first for its tag from the sweep it names on. -/
def checkOf (m : Mach) (d : DescIn) : Option PubCheck :=
  (pipeOf m (dJob m d) (vpPipe d)).checks.find? fun c => c.tag == vpTag d && decide (dEdge d ≤ c.sweep)

/-- The check of a VER_PUBLISH starts when its fetch completes (R157, R159). -/
def startCheck (d : DescIn) (m : Mach) : Mach :=
  let j := dJob m d
  let p := vpPipe d
  let s := targetSweep m d
  match fillMapFor m j s with
  | none => m
  | some pm =>
    if !homeIn p pm || ((pipeOf m j p).checks.any fun c => c.tag == vpTag d && c.sweep == s) then m
    else beginCheck j p (vpTag d) s pm m

/-- A MAP_LOAD fetched after a VER_PUBLISH changes the map of its sweep: checks for that sweep or a later one begin anew. -/
def restartChecks (d : DescIn) (m : Mach) : Mach :=
  let j := dJob m d
  if !tb (mapPhases d) 0 || (mapStatus m d).1 != 0 then m
  else forAll (List.range 4) (fun m p =>
    let again := (pipeOf m j p).checks.filter fun c => decide (dEdge d ≤ c.sweep)
    forAll again (fun m c =>
      let m := modPipe m j p fun x => { x with
        checks := x.checks.erase c
        asked := x.asked.map fun a => if a.2.1 == c.tag && a.2.2 == some c.sweep then (a.1, a.2.1, none) else a }
      match fillMapFor m j c.sweep with
      | some pm => if homeIn p pm then beginCheck j p c.tag c.sweep pm m else m
      | none => m) m) m

/-- VER_QUERY arrives: the module answers for its stage contexts in the FILL map of the named sweep and marks them PEND (R157,
R159). -/
def verQueryOp (src j p vtag sweep : Nat) (m : Mach) : Mach :=
  let scs := match fillMapFor m j sweep with
    | some pm => scsIn p pm
    | none => []
  sendMsg (markPend scs vtag sweep m) src (.verReply (self m) j p vtag (locallyReady m scs vtag) scs.length)

def execVerQuery (src j p vtag sweep : Nat) (s : State) : Res :=
  actReady (decide (j < 16 ∧ p < 4)) (verQueryOp src j p vtag sweep) s

/-- Did a check pass for the FILL map that the edge leaves? -/
def checkPassed (m : Mach) (j p : Nat) (o : Option PubCheck) : Bool :=
  match o, fillNext m j with
  | some c, some pm => (scsIn p pm).all c.scs.contains && (pipeModulesIn m j p pm).all c.ready.contains
  | _, _ => false

/-- A publish whose check began for no map that names this module its home begins it at its edge. -/
def beginCheckNow (d : DescIn) (m : Mach) : Mach :=
  match fillNext m (dJob m d) with
  | some pm => beginCheck (dJob m d) (vpPipe d) (vpTag d) (max (dEdge d) m.tick.sweepNo) pm m
  | none => m

/-- VER_PUBLISH at its sweep edge.  Publishes of one tag at one edge share its check. -/
def effPublish : Effect := fun d m =>
  let j := dJob m d
  let p := vpPipe d
  if !isHome m j p then (some (0x4D, 0), m)
  else
    let m := if (checkOf m d).isSome then m else beginCheckNow d m
    let o := checkOf m d
    let ok := checkPassed m j p o
    let till := max ((o.map (·.sweep)).getD 0) m.tick.sweepNo
    let m := modTag j p (vpTag d) (fun e => if e.pendTill ≤ till then { e with pend := false } else e) m
    if !ok then (some (0x4C, 0), m) else (some (0, 0), publish j p (vpTag d) (vpKeep d) m)

/-- PEND ends at the edge of the sweep it was set for (R159). -/
def clearPend (m : Mach) : Mach :=
  let n := m.tick.sweepNo
  mapEntries m fun _ _ e => if e.pend && decide (e.pendTill ≤ n) then { e with pend := false } else e

def execVerPublish (d : DescIn) (s : State) : Res := actReady (decide (d.ring < 32)) (descRow specPublish effPublish d) s

/-! ### MODEL_LOAD (R169–R175) -/

def mlFromLink (d : DescIn) : Bool := db d 264 264 == 1
def mlLen (d : DescIn) : Nat := db d 255 192
def mlSrc (d : DescIn) : Nat := db d 191 128

def specLoad : OpSpec :=
  { code := 0x1A, kinds := [0], admin := false, wcet := fun _ => 200, image := fun _ => false
    bad := fun d => !dZero d 511 265 || !dZero d 263 256 || mlLen d % 64 != 0 || decide (mlLen d < 128)
      || decide (2 ^ 40 < mlLen d) || mlSrc d % 64 != 0 || (mlFromLink d && mlSrc d != 0)
    addr := fun m d => if mlFromLink d then 0 else hostStatus m d (mlSrc d) (mlLen d) false }

/-- Header fields of a segment (Table 5.11). -/
def sgLen (h : Nat) : Nat := bf h 399 368
def sgOfs (h : Nat) : Nat := bf h 439 400
def sgCrc (h : Nat) : Nat := bf h 511 480
def sgType (h : Nat) : Nat := bf h 360 359
def sgTag (h : Nat) : Nat := bf h 358 351
def sgSc (h : Nat) : Nat := bf h 350 349
def sgFacet (h : Nat) : Nat := bf h 348 342

def modLoad (m : Mach) (i : Nat) (g : LoadRun → LoadRun) : Mach := { m with loads := m.loads.modify i g }

/-- A kept segment of a job whose TAP is set: its place in layer and offset order is watched (R378). -/
def noteTap (j f c tag ofs : Nat) (m : Mach) : Mach :=
  let sn := snapOf m j
  if !tb (regN m (offSnapJob j)) 2 || !sn.armed then m
  else
    let l := locusOf m f c
    let layer := (l.layers.findIdx? fun y => decide (4096 * y.offset ≤ ofs) && decide (ofs < 4096 * (y.offset + layerTakes l y))).getD 512
    let old := sn.taps.find? fun t => t.1 == f && t.2.1 == c && t.2.2.1 == tag
    let ordered := match old with
      | some t => decide (t.2.2.2.1 < layer) || (t.2.2.2.1 == layer && decide (t.2.2.2.2 < ofs))
      | none => true
    let rest := sn.taps.filter fun t => !(t.1 == f && t.2.1 == c && t.2.2.1 == tag)
    modSnap m j fun x => { x with taps := rest ++ [(f, c, tag, layer, ofs)], tapOff := x.tapOff || !ordered }

/-- A facet keeps a segment addressed to it: it is written, or dropped (R171).  DESIGN CHOICE, log entry 15: no facet keeps one
whose FACET is 96–127 or that of a failed facet, and it is dropped with LOAD_SEG_DROP as one without a fitting entry. -/
def keepSegment (i : Nat) (r : LoadRun) (h : Nat) (payload : List Byte) (m : Mach) : Mach :=
  let f := sgFacet h
  let c := sgSc h
  let det := [f, c, sgTag h, sgOfs h]
  let e := (entryOf (locusOf m f c) (sgTag h)).bind fun k => ((locusOf m f c).entries[k]?).map fun e => (k, e)
  let fits (e : VerEntry) : Bool := e.state == 1 && e.source == 0
    && decide (sgOfs h + sgLen h ≤ 4096 * e.size)
    && (e.size == 0 || latStatus m r.job ⟨self m, f, e.space, 4096 * e.base⟩ (4096 * e.size) .write == 0)
  let src := if f < 104 then srcFacet f 4 else srcUnit 4
  let drop := raise (modLoad m i fun r => { r with bad := r.bad + 1 }) loadSegDrop src (some r.job) det
  match e with
  | none => drop
  | some (k, e) =>
    if !decide (f < 96) || (facetOf m f).failed || !fits e then drop
    else
      let m := modLoad m i fun r => { r with targets := if r.targets.contains (f, c, sgTag h) then r.targets else r.targets ++ [(f, c, sgTag h)] }
      let m := noteTap r.job f c (sgTag h) (sgOfs h) (writeChecked m f e.space (4096 * e.base + sgOfs h) payload)
      let good := crc32 payload == sgCrc h
      let m := if good then m else
        raise (modLocus (modLoad m i fun r => { r with bad := r.bad + 1 }) f c fun l => { l with
          entries := l.entries.modify k fun e => { e with bad := true } }) loadSegCrc src (some r.job) det
      if tb h 361 && good && !e.bad then
        modLocus m f c fun l => { l with entries := l.entries.modify k fun e => { e with busy := e.busy ++ [(32, r.index)] } }
      else m

/-- Takes the complete segments at the front of a stream's buffer (R170, R175). -/
def parseStream (i : Nat) : Nat → Mach → Mach
  | 0, m => m
  | fuel + 1, m =>
    match m.loads[i]? with
    | none => m
    | some r =>
      if r.ended || r.err || decide (r.buf.length < 64) then m
      else
        let h := leNat (r.buf.take 64)
        if 2 ≤ sgType h then modLoad m i fun r => { r with err := true }
        else if sgType h = 1 then
          modLoad m i fun r => { r with ended := true, buf := r.buf.drop 64, err := bf h 63 0 != r.segs }
        else if r.buf.length < 64 + sgLen h then m
        else
          let payload := (r.buf.drop 64).take (sgLen h)
          let m := modLoad m i fun r => { r with buf := r.buf.drop (64 + sgLen h), segs := r.segs + 1 }
          let m := if !r.discard && bf h 341 330 == regN m offLoadPos then keepSegment i r h payload m else m
          parseStream i fuel m

/-- Bytes join a stream in order. -/
def feedStream (i : Nat) (data : List Byte) (m : Mach) : Mach :=
  let m := modLoad m i fun r => { r with
    received := r.received + data.length, buf := r.buf ++ data, lastEdge := m.edges
    err := r.err || (!r.discard && decide (r.len < r.received + data.length)) }
  let m := parseStream i (data.length / 64 + 2) m
  { m with loads := m.loads.filter fun r => !(r.discard && (r.ended || r.err)) }

/-- Links of a mask, one for each hop: of the links to one module the lowest that is up, or the lowest where none is (DESIGN CHOICE,
log entry 15). -/
def hopLinks (m : Mach) (mask : Nat) : List Nat :=
  let ls := (List.range 36).filter fun l => tb mask l
  let up (l : Nat) : Bool := (linkOf m l).state == 2
  let before (k l : Nat) : Bool := (up k && !up l) || (up k == up l && decide (k < l))
  ls.filter fun l => !(ls.any fun k => before k l && (linkOf m k).farModule == (linkOf m l).farModule)

/-- Stream bytes as LOAD payloads of at most 65,536 bytes (R431): offset and bytes. -/
def loadPieces (ofs : Nat) (data : List Byte) : List (Nat × List Byte) :=
  (List.range (ceilDiv data.length 65536)).map fun i => (ofs + 65536 * i, (data.drop (65536 * i)).take 65536)

/-- Forwards stream bytes on the downlinks, in stream order on the snapshot channel, whose frames and credits they wait for (R170,
R173). -/
def forwardLoad (ofs : Nat) (data : List Byte) (m : Mach) : Mach :=
  forAll (hopLinks m (regN m offLoadDown)) (fun m l => forAll (loadPieces ofs data) (fun m p =>
    sendOn m l (linkOf m l).farModule (.load (linkOf m l).farLink p.1 p.2)) m) m

/-- Has the stream bytes that wait for a downlink still to be forwarded (R175)? -/
def forwarding (m : Mach) : Bool :=
  m.links.any fun x => x.txQ.any fun t => match t.out with
    | some (.message _ _ (.load _ _ _)) => true
    | _ => false

/-- The next bytes of a stream among those held on the uplinks: link and bytes. -/
def heldAt (m : Mach) (ofs : Nat) : Option (Nat × List Byte) :=
  (List.range 36).findSome? fun l =>
    (((linkOf m l).loadHeld.find? fun h => h.1 == ofs).map fun h => (l, h.2))

/-- Moves held bytes into the stream that takes them, in stream order, and returns their credit (R173, R174). -/
def drainHeld : Nat → Mach → Mach
  | 0, m => m
  | fuel + 1, m =>
    match (List.range m.loads.length).find? fun i => ((m.loads[i]?).map fun r => r.fromLink && !r.discard && !r.ended && !r.err).getD false with
    | none => m
    | some i =>
      match m.loads[i]? with
      | none => m
      | some r =>
        match heldAt m r.received with
        | none => m
        | some (l, data) =>
          let m := modLink m l fun x =>
            let h := x.loadHeld.filter fun e => e.1 != r.received
            { x with loadHeld := h, loadSince := if h.isEmpty then none else x.loadSince }
          drainHeld fuel (feedStream i data (forwardLoad r.received data (freeRx l 3 (flitsOf data.length) m)))

/-- The stream that is being discarded. -/
def discarded (m : Mach) : Option Nat :=
  (List.range m.loads.length).find? fun i => ((m.loads[i]?).map (·.discard)).getD false

/-- Parses what has come of a discarded stream, to find its END (R174). -/
def drainAhead : Nat → Mach → Mach
  | 0, m => m
  | fuel + 1, m =>
    match (discarded m).bind fun i => (m.loads[i]?).map fun r => (i, r) with
    | none => m
    | some (i, r) =>
      match r.ahead.find? fun h => h.1 == r.received with
      | none => m
      | some h => drainAhead fuel (feedStream i h.2 (modLoad m i fun r => { r with ahead := r.ahead.erase h }))

def heldCount (m : Mach) : Nat := (m.links.map fun l => l.loadHeld.length).foldl (· + ·) 0

/-- MODEL_LOAD starts: from the host, or with the bytes the uplinks hold. -/
def effLoad : Effect := fun d m =>
  let r : LoadRun :=
    { ring := d.ring, index := d.index, tag := dTag d, quiet := dQuiet d, job := dJob m d, fromLink := mlFromLink d
      len := mlLen d, received := 0, buf := [], segs := 0, bad := 0, err := false, ended := false, lastEdge := m.edges
      targets := [], discard := false, ahead := [] }
  let m := { m with loads := m.loads ++ [r] }
  if mlFromLink d then (none, drainHeld (heldCount m + 1) m)
  else (none, readHost (portOf m d.ring) (mlSrc d) (mlLen d) false m)

def execModelLoad (d : DescIn) (s : State) : Res := actReady (decide (d.ring < 32)) (descRow specLoad effLoad d) s

/-- Completes the load at index `i`. -/
def endLoad (i status detail : Nat) (m : Mach) : Mach :=
  match m.loads[i]? with
  | none => m
  | some r =>
    let m := { m with loads := m.loads.eraseIdx i }
    completeAt m r.quiet ⟨r.ring, r.index, r.tag, status, 0x1A, r.job, detail, 0, (stamp m).1, (stamp m).2⟩

/-- LOAD: bytes of a stream from the host (link 36; no bytes stand for a read that failed, R98) or from a link. -/
def loadOp (link ofs : Nat) (data : List Byte) (m : Mach) : Mach :=
  if link = 36 then
    match (List.range m.loads.length).find? fun i => ((m.loads[i]?).map fun r => !r.fromLink && !r.ended && !r.err).getD false with
    | none => m
    | some i =>
      if data.isEmpty then endLoad i 0x0C (((m.loads[i]?).map (·.received)).getD 0) m
      else feedStream i data (forwardLoad ofs data m)
  else if !tb (regN m offLoadUp) link then
    raise (freeRx link 3 (flitsOf data.length) m) loadOrphanEv (srcLink link) none [link, data.length]
  else if let some i := discarded m then
    let m := modLoad (freeRx link 3 (flitsOf data.length) m) i fun r => { r with ahead := r.ahead ++ [(ofs, data)] }
    drainAhead ((((m.loads[i]?).map (·.ahead.length)).getD 0) + 1) m
  else
    let m := modLink m link fun x => { x with
      loadHeld := x.loadHeld ++ [(ofs, data)], loadSince := some (x.loadSince.getD m.edges) }
    drainHeld (heldCount m + 1) m

/-- The stream whose bytes the uplinks hold is discarded: the links hold none of them any more. -/
def discardHeld (m : Mach) : Mach :=
  let held := m.links.flatMap (·.loadHeld)
  let first := (held.map (·.1)).foldl min ((held.map (·.1)).headD 0)
  let r : LoadRun :=
    { ring := 32, index := 0, tag := 0, quiet := true, job := 0, fromLink := true, len := 0, received := first, buf := []
      segs := 0, bad := 0, err := false, ended := false, lastEdge := m.edges, targets := [], discard := true, ahead := held }
  let m := forAll (List.range 36) (fun m l =>
    let n := ((linkOf m l).loadHeld.map fun h => flitsOf h.2.length).foldl (· + ·) 0
    freeRx l 3 n (modLink m l fun x => { x with loadHeld := [], loadSince := none })) m
  { m with loads := m.loads ++ [r] }

/-- LOAD_ORPHAN: held bytes time out with no MODEL_LOAD to take them; the stream is discarded up to its END (R174). -/
def loadOrphanOp (link : Nat) (m : Mach) : Mach :=
  match (linkOf m link).loadSince with
  | none => m
  | some t =>
    if !expired m t (regN m offLoadTimeout) || m.loads.any fun r => r.fromLink && !r.ended then m
    else
      let n := ((linkOf m link).loadHeld.map fun h => h.2.length).foldl (· + ·) 0
      drainAhead (heldCount m + 1) (discardHeld (raise m loadOrphanEv (srcLink link) none [link, n]))

/-- MODEL_LOAD_DONE (R175). -/
def modelLoadDoneOp (ring : Nat) (index : W32) (m : Mach) : Mach :=
  match (List.range m.loads.length).find? fun i => ((m.loads[i]?).map fun r => !r.discard && r.ring == ring && r.index == index).getD false with
  | none => m
  | some i =>
    match m.loads[i]? with
    | none => m
    | some r =>
      if r.err || (!r.ended && decide (r.len ≤ r.received)) then endLoad i 0x4F r.received m
      else if !r.ended || forwarding m then m
      else if 0 < r.bad then endLoad i 0x4E r.bad m
      else endLoad i 0 0 m

/-- The loads from links that have had no byte for VER_LOAD_TIMEOUT ticks end (R175). -/
def loadTimeouts : Nat → Mach → Mach
  | 0, m => m
  | n + 1, m =>
    let m := loadTimeouts n m
    match m.loads[n]? with
    | some r =>
      if r.fromLink && !r.discard && !r.ended && expired m r.lastEdge (regN m offLoadTimeout) then endLoad n 0x4F r.received m else m
    | none => m

/-- The loads whose timeout fired at the last edge end, with the stamp of that edge. -/
def overdueLoads (m : Mach) : Mach := { loadTimeouts m.loads.length { m with now := m.tick.edgeAt } with now := m.now }

def execLoadOrphan (link : Nat) (s : State) : Res := actReady (decide (link < 36)) (loadOrphanOp link) s

end Sys2Proof.Machine
end

