-- ==== Sys2Proof/Machine/Programs.lean ====
section
/-!
DEFINITION. PROG_LOAD (R261–R263, R271, R294): the program store, the checks of stage and strand programs, and freeing
handles.
-/
namespace Sys2Proof.Machine

/-! ### Body (Table 8.7) -/

def pgKind (d : DescIn) : Nat := db d 291 288
def pgHandle (d : DescIn) : Nat := db d 287 272
def pgLen (d : DescIn) : Nat := db d 255 224
def pgAddr (d : DescIn) : Nat := db d 191 128

/-! ### Records 0x03–0x08 and 0x10 (Tables 9.1, 9.6, 10.1) -/

/-- Do all the bit ranges read 0? -/
def rZero (r : Rec) (l : List (Nat × Nat)) : Bool := l.all fun x => rb r x.1 x.2 == 0

def launchGood (r : Rec) : Bool :=
  rZero r [(511, 496), (479, 198), (95, 90), (63, 47), (15, 8)]
    && decide (rb r 195 184 ≤ 4031) && decide (1 ≤ rb r 151 136) && decide (1 ≤ rb r 119 96) && rb r 89 64 % 64 == 0
    && decide (1 ≤ rb r 46 32) && decide (rb r 46 32 ≤ 16384)

/-- Reserved bits of Table 9.6. -/
def seqReserved : List (Nat × Nat) := [(511, 496), (479, 224), (159, 154), (29, 28), (15, 12)]

def seqGood (r : Rec) : Bool :=
  let timeout := (223, 192)
  let length := (191, 160)
  let loc := (153, 128)
  let laddr := (127, 64)
  let value := (63, 32)
  let bar := (31, 30)
  let tally := (27, 16)
  let mod := rb r 11 8
  rZero r seqReserved && match rb r 7 0 with
    | 4 => rZero r [length, loc, laddr, bar] && decide (mod ≤ 1)
    | 5 => rZero r [timeout, length, loc, bar, tally] && decide (mod ≤ 3)
    | 6 => rZero r [timeout, value, bar, tally] && decide (mod ≤ 1) && rb r 191 160 % 64 == 0
        && decide (64 ≤ rb r 191 160) && decide (rb r 191 160 ≤ 67108864) && rb r 153 128 % 64 == 0
    | 7 => rZero r [timeout, length, loc, laddr, value, tally] && mod == 0
    | 8 => rZero r [timeout, length, loc, laddr, value, bar, tally] && decide (1 ≤ mod) && decide (mod ≤ 3)
    | _ => false

def gradGood (r : Rec) : Bool :=
  rZero r [(511, 496), (479, 224), (191, 154), (127, 88), (35, 10), (8, 8)]
    && rb r 223 192 % 64 == 0 && decide (64 ≤ rb r 223 192) && decide (rb r 223 192 ≤ 67108864)
    && rb r 153 128 % 64 == 0 && rb r 87 48 % 64 == 0

/-- Step 2 of R263 for a record of a stage program. -/
def recordGood (r : Rec) : Bool :=
  match recOp r with
  | 1 => prismGood r
  | 2 => rayGood r
  | 3 => launchGood r
  | 0x10 => gradGood r
  | _ => seqGood r

/-- Opcodes of a stage program: prism, ray, Tables 9.1 and 9.6, GRAD_ACC. -/
def recordKnown (r : Rec) : Bool := (decide (1 ≤ recOp r) && decide (recOp r ≤ 8)) || recOp r == 0x10

/-! ### Strand instructions (Tables 9.2, 9.3, 9.4) -/

def instrKnown (w : Word) : Bool :=
  let op := iOp w
  decide (op ≤ 0x10) || (decide (0x18 ≤ op) && decide (op ≤ 0x1F)) || (decide (0x20 ≤ op) && decide (op ≤ 0x26))
    || op == 0x28 || op == 0x29 || (decide (0x30 ≤ op) && decide (op ≤ 0x35)) || (decide (0x38 ≤ op) && decide (op ≤ 0x3C))

/-- Is the branch target of instruction `i` inside the image of `n` instructions? -/
def targetInside (w : Word) (i n : Nat) : Bool :=
  let t := (i : Int) + (iImm w).toInt
  decide (0 ≤ t) && decide (t < n)

/-- SIZE, MOD, register fields that must be 0, and branch targets. -/
def instrGood (w : Word) (i n : Nat) : Bool :=
  let sz := iSize w
  let mod := iMod w
  let atomic (last : Nat) : Bool :=
    decide (2 ≤ sz) && decide (sz ≤ 3) && (decide (mod ≤ last) || ((mod == 10 || mod == 11) && sz == 2))
  let op := iOp w
  if 0x20 ≤ op ∧ op ≤ 0x26 then targetInside w i n
  else match op with
    | 0x1E => decide (mod ≤ 5)
    | 0x1F => decide (mod ≤ 2)
    | 0x28 | 0x29 | 0x30 | 0x31 => decide (sz ≤ 3)
    | 0x32 | 0x33 => decide (6 ≤ sz) && decide (sz ≤ 12)
    | 0x34 => atomic 9
    | 0x35 => atomic 7 && iRd w == 0
    | 0x38 => decide (mod ≤ 3)
    | 0x3A => decide (mod ≤ 1)
    | 0x3B => decide (mod ≤ 3)
    | 0x3C => decide (1 ≤ mod) && decide (mod ≤ 3)
    | _ => true

/-! ### Checks of the image (R263, R271) -/

/-- The 64-byte records of an image. -/
def imageRecs (l : List Byte) (n : Nat) : List Rec := (List.range (n / 64)).map fun i => BitVec.ofNat 512 (imgNat l (64 * i) 64)

/-- Largest image of a KIND. -/
def progMax (kind : Nat) : Nat := if kind = 0 then 524288 else 65536

/-- Steps 1 and 2 of R263 and R271: cause and index of the first failing record. -/
def progFault (kind len : Nat) (l : List Byte) : Option (Nat × Nat) :=
  if len = 0 ∨ len % 64 ≠ 0 ∨ progMax kind < len then some (1, 0)
  else
    let rs := imageRecs l len
    if kind = 0 then
      ((firstBad 0 rs fun _ r => !recordKnown r).map fun i => (2, i)).or
        ((firstBad 0 rs fun _ r => !recordGood r).map fun i => (3, i))
    else
      let ws := strandWords rs
      ((firstBad 0 ws fun _ w => !instrKnown w).map fun i => (2, i)).or
        ((firstBad 0 ws fun i w => !instrGood w i ws.length).map fun i => (3, i))

/-- Step 3 of R263: the first prism or ray record whose time exceeds the admission tick length. -/
def slowRecord (m : Mach) (rs : List Rec) : Option Nat :=
  firstBad 0 rs fun _ r => (recOp r == 1 || recOp r == 2) && decide (admitLen m < recTime m r)

/-- Status and DETAIL of the checks at fetch. -/
def progStatus (m : Mach) (d : DescIn) : Nat × Nat :=
  if pgKind d = 2 then (0, 0)
  else
    let l := (imageBytes d).getD []
    match progFault (pgKind d) (pgLen d) l with
    | some (c, i) => (0x54, c * 2 ^ 24 + i)
    | none =>
      match if pgKind d = 0 then slowRecord m (imageRecs l (pgLen d)) else none with
      | some i => (0x0B, i)
      | none => (0, 0)

/-! ### The store -/

/-- A map in effect, one that waits for its phase, or one that a waiting MAP_LOAD carries names the handle (R262). -/
def handleNamed (m : Mach) (h : Nat) : Bool :=
  let names (pm : PlaceMap) : Bool := pm.scs.any fun e => e.prog == h
  m.jobs.any (fun x => (x.maps.filterMap id).any names || x.coming.any fun e => names e.2)
    || m.descs.any fun x => dOpcode x.d == 0x10 && (match imageBytes x.d with | some l => names (readMap l) | none => false)

/-- Bytes of the program store in use, a handle left out. -/
def storeUsed (m : Mach) (h : Nat) : Nat := ((m.progs.filter fun p => p.handle != h).map fun p => 64 * p.image.length).foldl (· + ·) 0

def freeHandle (m : Mach) : Option Nat := ((List.range 4096).drop 1).find? fun h => (progImage m h).isNone

/-- Checks of PROG_LOAD at fetch.  A LENGTH outside the range of its KIND has no image to read, so PROG_INVALID goes before HOST_WINDOW
there (DEDUCED, log entry 78). -/
def specProg : OpSpec :=
  { code := 0x28, kinds := [0, 1], admin := false, wcet := fun _ => 200, image := fun d => pgKind d != 2
    bad := fun d => !dZero d 511 292 || !dZero d 271 256 || !dZero d 223 192 || decide (2 < pgKind d) || decide (4095 < pgHandle d)
      || (pgKind d == 2 && (pgLen d != 0 || pgAddr d != 0)) || pgAddr d % 64 != 0
    source := fun d => (pgAddr d, pgLen d)
    addr := fun m d => if pgKind d = 2 || (progFault (pgKind d) (pgLen d) ((imageBytes d).getD [])).any (·.1 == 1) then 0
      else hostStatus m d (pgAddr d) (pgLen d) false }

/-- Handles among the stage programs of a stage context whose program is too slow now (R408). -/
def slowHandles (m : Mach) (j : Nat) (e : MapSc) : List Nat :=
  ((stageHandles m j e).filter fun h => (slowRecord m (imageOf m h)).isSome).eraseDups

/-- Puts an image under a handle; a stage program that passes ends the bubbles of R408. -/
def putProg (m : Mach) (p : Prog) : Mach :=
  let rest : List Prog := m.progs.filter fun x => x.handle != p.handle
  let m := { m with progs := rest ++ [p] }
  if (slowRecord m p.image).isSome then m
  else { m with facets := m.facets.map fun x => { x with scs := x.scs.map fun c => { c with stale := c.stale.filter fun x => x.2 != p.handle } } }

/-- PROG_LOAD of KIND 0 or 1. -/
def effProg : Effect := fun d m =>
  let st := progStatus m d
  let h := pgHandle d
  let job := dJob m d
  let p (h : Nat) : Prog := ⟨h, job, pgKind d == 1, imageRecs ((imageBytes d).getD []) (pgLen d)⟩
  let full (h : Nat) : Bool := decide (16777216 < storeUsed m h + pgLen d)
  if st.1 ≠ 0 then (some st, m)
  else if h = 0 then
    match freeHandle m with
    | none => (some (0x56, 0), m)
    | some n => if full n then (some (0x56, 0), m) else (some (0, n), putProg m (p n))
  else
    match progImage m h with
    | none => (some (0x55, 0), m)
    | some o =>
      if o.job ≠ job ∨ o.strand ≠ (pgKind d == 1) ∨ (dKind d = 0 ∧ handleNamed m h) then (some (0x55, 0), m)
      else if full h then (some (0x56, 0), m)
      else (some (0, 0), putProg m (p h))

/-- PROG_LOAD of KIND 2. -/
def effProgFree : Effect := fun d m =>
  let h := pgHandle d
  match progImage m h with
  | none => (some (0x55, 0), m)
  | some o =>
    if h = 0 ∨ o.job ≠ dJob m d ∨ handleNamed m h then (some (0x55, 0), m)
    else (some (0, 0), { m with progs := m.progs.filter fun x => x.handle != h })

def effProgAny : Effect := fun d m => if pgKind d = 2 then effProgFree d m else effProg d m

def execProgLoad (d : DescIn) (s : State) : Res :=
  actReady (decide (d.ring < 32)) (onlyIf (pgKind d != 2) (descRow specProg effProg d)) s
def execProgLoadFree (d : DescIn) (s : State) : Res :=
  actReady (decide (d.ring < 32)) (onlyIf (pgKind d == 2) (descRow specProg effProgFree d)) s

end Sys2Proof.Machine
end

