-- ==== Sys2Proof/Machine/Setups.lean ====
section
/-!
DEFINITION. FOLD_SETUP, UPDATE_SETUP and ACT_POLICY (R303, R312–R315, R326–R328): tables, their checks, and what they set
from their sweep on.
-/
namespace Sys2Proof.Machine

/-! ### Areas of a job in HBM: facet, first byte, bytes -/

abbrev Area := Nat × Nat × Nat

def areasMeet (a b : Area) : Bool := a.1 == b.1 && spansMeet a.2.1 a.2.2 b.2.1 b.2.2

/-- The map of a phase at a sweep edge: the one about to come into effect, or the one in effect. -/
def edgeMap (m : Mach) (j ph : Nat) : Option PlaceMap :=
  match (jobOf m j).coming.find? fun e => e.1 == ph with
  | some e => some e.2
  | none => ((jobOf m j).maps[ph]?).bind id

/-- Entry of a pipeline for a stage context in the FILL map of the edge. -/
def edgeStages (m : Mach) (j p : Nat) : List MapSc := match edgeMap m j 0 with | some pm => mapStages pm p | none => []

/-- Bytes of a stage context's gradient area (R293). -/
def gradBytes (m : Mach) (e : MapSc) : Nat := 4096 * gradUnits m e (e.lastLayer + 1)

/-- Gradient areas of a table: facet, stage context and base of each entry, sized by the stage it serves. -/
def gradAreas (m : Mach) (j p : Nat) (l : List (Nat × Nat × Nat)) : List Area :=
  l.map fun a =>
    let n := match (edgeStages m j p).find? fun e => e.facet == a.1 && e.sc == a.2.1 with
      | some e => gradBytes m e
      | none => 0
    (a.1, 4096 * a.2.2, n)

/-- Slot ranges of an activation policy on the module's stages (R312). -/
def actAreas (m : Mach) (j p : Nat) (a : ActPolicy) : List Area :=
  ((edgeStages m j p).filter fun e => decide (a.first ≤ e.stage) && decide (e.stage ≤ a.last)).map fun e =>
    (e.facet, 4096 * a.base, a.slots * a.bytes)

/-- Slots of a pipeline's policies on the stages that each still rules, those of `keep` (R312). -/
def ruledAreas (m : Mach) (j p : Nat) (acts : List ActPolicy) (keep : Nat → Bool) : List Area :=
  (edgeStages m j p).filterMap fun e =>
    if !keep e.stage then none
    else (acts.find? fun a => decide (a.first ≤ e.stage) && decide (e.stage ≤ a.last)).map fun a => (e.facet, 4096 * a.base, a.slots * a.bytes)

/-- Workspace of a projected layer (Table 11.9). -/
def workspaceBytes (y : FoldLayer) : Nat :=
  roundUp4k (4 * y.rows * y.cols) + 2 * roundUp4k (2 * y.rows * y.cols) + roundUp4k (8 * y.cols * 64) + roundUp4k (8 * y.rows * 64)

/-- Gather members of a layer's stage context, with the units of a shard, for a GATHERED layer. -/
def layerShards (m : Mach) (e : MapSc) (layer : Nat) : List (Nat × Nat × Nat) × Nat :=
  let l := locusOf m e.facet e.sc
  match l.layers[layer - e.firstLayer]? with
  | some y => if y.gathered then (l.gather, ceilDiv y.size (max 1 l.gather.length)) else ([], 0)
  | none => ([], 0)

/-- The stage context that holds a layer in the STEADY map of the edge (R326). -/
def layerStage (m : Mach) (j p layer : Nat) : Option MapSc :=
  (edgeMap m j 1).bind fun pm => (mapStages pm p).find? fun e => decide (e.firstLayer ≤ layer) && decide (layer ≤ e.lastLayer)

/-- Workspace and local shard areas of a channel table's layers. -/
def foldAreas (m : Mach) (j p : Nat) (ys : List FoldLayer) : List (Nat × Area) :=
  (List.range ys.length).flatMap fun i =>
    match ys[i]? with
    | none => []
    | some y =>
      match layerStage m j p y.layer with
      | none => []
      | some e =>
        let s := layerShards m e y.layer
        (if y.rank = 0 then [] else [(i, (e.facet, 4096 * y.projBase, workspaceBytes y))])
          ++ (s.1.filter fun g => g.1 == self m).map fun g => (i, (g.2.1, 4096 * y.shardBase, 8192 * s.2))

def areaOut (a : Area) : Bool := decide (Config.hbmSize < a.2.1 + a.2.2)

/-- Shard areas of gather members on other modules, each with its module (R326). -/
def farShards (m : Mach) (j p : Nat) (ys : List FoldLayer) : List (Nat × Area) :=
  ys.flatMap fun y =>
    match layerStage m j p y.layer with
    | none => []
    | some e =>
      let s := layerShards m e y.layer
      (s.1.filter fun g => g.1 != self m).map fun g => (g.1, (g.2.1, 4096 * y.shardBase, 8192 * s.2))

/-- Does a far shard area lie outside HBM or the job's windows, or meet an earlier one on its module?  Other areas that the
job has there are not seen from here. -/
def farShardBad (m : Mach) (j : Nat) (l : List (Nat × Area)) (i : Nat) (x : Nat × Area) : Bool :=
  areaOut x.2 || (l.take i).any (fun y => y.1 == x.1 && areasMeet x.2 y.2)
    || (x.2.2.2 != 0 && latStatus m j ⟨x.1, x.2.1, 1, x.2.2.1⟩ x.2.2.2 .write != 0)

/-- Areas of a job but the ones that a setup replaces: slice and moment areas, keep areas, spill areas, gradient areas,
activation slots, projection workspaces and shard areas. -/
def jobAreas (m : Mach) (j : Nat) (noGrad noActs noChan : Option Nat) : List Area :=
  let x := jobOf m j
  let maps := x.maps.filterMap id ++ x.coming.map (·.2)
  (maps.flatMap fun pm => (pm.scs.filter fun e => e.areaSize != 0).map fun e => (e.facet, 4096 * e.area, 4096 * e.areaSize))
    ++ (x.claims.filter fun c => c.spillEn).map (fun c => (c.facet, 4096 * c.spillBase, 4096 * c.liveSize))
    ++ (List.range 4).flatMap (fun p =>
      let q := pipeOf m j p
      (if noGrad == some p then [] else match q.setup with | some u => gradAreas m j p u.areas | none => [])
        ++ (if noActs == some p then [] else ruledAreas m j p q.acts fun _ => true))
    ++ (List.range 32).flatMap (fun n =>
      let ch := chanOf m n
      if ch.en && ch.job == j && noChan != some n then (foldAreas m j ch.pipe ch.layers).map (·.2) else [])
    ++ (match edgeMap m j 0 with
      | some pm => pm.scs.filterMap fun e =>
          let l := locusOf m e.facet e.sc
          if l.installed then some (e.facet, 4096 * (keepExtent l).1, 4096 * (keepExtent l).2) else none
      | none => [])

/-- Does element `i` of a list of areas meet an earlier one? -/
def areaSeen (l : List Area) (i : Nat) (a : Area) : Bool := (l.take i).any (areasMeet a)

/-! ### FOLD_SETUP (Tables 11.1–11.4) -/

def fsTorus (d : DescIn) : Nat := db d 250 240
def fsLoss (d : DescIn) : Bool := db d 238 238 == 1
def fsAuto (d : DescIn) : Bool := db d 237 237 == 1
def fsPipe (d : DescIn) : Nat := db d 236 235
def fsFmt (d : DescIn) : Nat := db d 234 233
def fsOrdered (d : DescIn) : Bool := db d 232 232 == 1
def fsTopo (d : DescIn) : Nat := db d 231 230
def fsEn (d : DescIn) : Bool := db d 229 229 == 1
def fsChan (d : DescIn) : Nat := db d 228 224
def fsLen (d : DescIn) : Nat := db d 223 192
def fsAddr (d : DescIn) : Nat := db d 191 128

def specFold : OpSpec :=
  { code := 0x30, kinds := [2], admin := false, wcet := fun _ => 0, image := fun d => fsEn d
    bad := fun d => !dZero d 511 251 || !dZero d 239 239 || fsFmt d == 3 || fsTopo d == 3 || fsAddr d % 64 != 0
      || (if fsTopo d = 1 then fsTorus d == 0 || decide (1024 < fsTorus d) else fsTorus d != 0)
      || (!fsEn d && (fsLen d != 0 || fsAddr d != 0))
    source := fun d => (fsAddr d, fsLen d)
    addr := fun m d => if fsEn d then hostStatus m d (fsAddr d) (fsLen d) false else 0 }

def ctMembers (l : List Byte) : Nat := imgBits l 0 64 10 0
def ctLayers (l : List Byte) : Nat := imgBits l 0 64 28 16
def ctSelf (l : List Byte) : Nat := imgBits l 0 64 42 32

def memberWord (l : List Byte) (i : Nat) : Nat := imgNat l (64 + 8 * i) 8
def foldWord (l : List Byte) (i : Nat) : Nat := imgNat l (64 + 8 * ctMembers l + 32 * i) 32

def readFoldLayer (w : Nat) : FoldLayer :=
  { layer := bf w 11 0, tensor := bf w 23 12, rank := bf w 30 24, rows := bf w 51 32, cols := bf w 71 52
    projBase := bf w 93 72, shardBase := bf w 115 94 }

/-- CRC of the member list and the compared layer fields (R328); how they are laid out is a DESIGN CHOICE. -/
def foldCrc (members : List (Nat × Nat × Nat)) (layers : List FoldLayer) : W32 :=
  BitVec.ofNat 32 (crc32 ((members.flatMap fun x => leBytes 2 x.1 ++ leBytes 2 x.2.2)
    ++ layers.flatMap fun y => leBytes 4 y.layer ++ leBytes 4 y.tensor ++ leBytes 4 y.rank ++ leBytes 4 y.rows ++ leBytes 4 y.cols))

/-- The channel that a descriptor and its table describe. -/
def readChannel (m : Mach) (d : DescIn) (l : List Byte) : Channel :=
  let members := (List.range (ctMembers l)).map fun i => let w := memberWord l i; (bf w 11 0, bf w 17 12, bf w 27 18)
  let layers := (List.range (ctLayers l)).map fun i => readFoldLayer (foldWord l i)
  { Channel.init with
    en := true, job := dJob m d, pipe := fsPipe d, topo := fsTopo d, ordered := fsOrdered d, fmt := fsFmt d, lossEn := fsLoss d
    linkAuto := fsAuto d, torusX := fsTorus d, self := ctSelf l, members := members, layers := layers
    crc := foldCrc members layers, early := (chanOf m (fsChan d)).early, widened := (chanOf m (fsChan d)).widened
    lastMove := m.edges }

/-- Does the path from a tree position reach a root within `n` steps? -/
def reachesRoot (ch : Channel) : Nat → Nat → Bool
  | 0, p => treeParent ch p == p
  | n + 1, p => treeParent ch p == p || reachesRoot ch n (treeParent ch p)

def treeGood (ch : Channel) : Bool :=
  let n := ch.members.length
  let ps := List.range n
  (ps.filter fun p => treeParent ch p == p).length == 1 && ps.all (fun p => decide (treeParent ch p < n))
    && ps.all (reachesRoot ch n)
    && ps.all fun p => decide ((ps.filter fun q => q != p && treeParent ch q == p).length ≤ 8)

/-- May the job reduce on a module (R326 cause 6)? -/
def reduceAllowed (m : Mach) (j md : Nat) : Bool :=
  (List.range 16).any fun w =>
    let a := regN m (offLwin j w)
    tb a 0 && tb a (permBit .atomic) && decide (bf a 43 32 ≤ md) && decide (md ≤ bf a 55 44)

/-- First cause of R326 that the table breaks. -/
def foldFault (m : Mach) (d : DescIn) (l : List Byte) : Option Nat :=
  let j := dJob m d
  let n := ctMembers l
  let k := ctLayers l
  let ch := readChannel m d l
  let p := ch.pipe
  let idx := List.range
  let holder (y : FoldLayer) : Option MapSc := layerStage m j p y.layer
  let h := imgNat l 0 64
  if bf h 511 43 ≠ 0 ∨ bf h 31 29 ≠ 0 ∨ bf h 15 11 ≠ 0 ∨ n = 0 ∨ 1024 < n ∨ k = 0 ∨ 4096 < k ∨ fsLen d ≠ 64 + 8 * n + 32 * k
    ∨ (idx n).any (fun i => bf (memberWord l i) 63 28 != 0 || (fsTopo d != 2 && bf (memberWord l i) 27 18 != 0))
    ∨ (idx k).any (fun i => bf (foldWord l i) 255 116 != 0 || bf (foldWord l i) 31 31 != 0 || decide (64 < bf (foldWord l i) 30 24))
  then some 1
  else
    let mods := ch.members.map (·.1)
    let link (q : Nat) : Nat := ((ch.members[q]?).map (·.2.1)).getD 63
    if n ≤ ch.self ∨ mods.eraseDups.length ≠ n ∨ (ch.members[ch.self]?).map (·.1) ≠ some (self m)
      ∨ (ch.topo = 1 ∧ n % ch.torusX ≠ 0) ∨ (ch.topo = 2 ∧ !treeGood ch) ∨ (neighbours ch).any (fun q => decide (35 < link q))
    then some 2
    else if ch.ordered && (idx n).any (fun i => match mods[i]?, mods[i + 1]? with | some a, some b => decide (b ≤ a) | _, _ => false)
    then some 3
    else
      let elsewhere (y : FoldLayer) : Bool := (idx 32).any fun c =>
        let o := chanOf m c
        c != fsChan d && o.en && o.job == j && o.pipe == p && o.layers.any fun z => z.layer == y.layer
      if (firstBad 0 ch.layers fun i y => (holder y).isNone || seenBefore ch.layers (·.layer) i || elsewhere y).isSome then some 4
      else if ch.layers.any fun y => decide (0 < y.rank)
        && (match holder y with | some e => y.rows * y.cols != 2048 * layerUnits m e y.layer | none => false)
      then some 5
      else
        let own := (foldAreas m j p ch.layers).map (·.2)
        let others := jobAreas m j none none (some (fsChan d))
        let badArea (i : Nat) (a : Area) : Bool := areaOut a || areaSeen own i a || others.any (areasMeet a)
          || (a.2.2 != 0 && latStatus m j ⟨self m, a.1, 1, a.2.1⟩ a.2.2 .write != 0)
        let far := farShards m j p ch.layers
        let foreign := (idx 32).flatMap fun c =>
          let o := chanOf m c
          if c != fsChan d && o.en && o.job == j then farShards m j o.pipe o.layers else []
        if (firstBad 0 own badArea).isSome ∨ (firstBad 0 far fun i x => farShardBad m j far i x || foreign.any fun y => y.1 == x.1 && areasMeet x.2 y.2).isSome ∨ !(mods.all (reduceAllowed m j)) then some 6 else none

/-- A tensor that a FOLD_SETUP declares for the first time enters cold (R237). -/
def declareTensor (j : Nat) (m : Mach) (t : Nat) : Mach :=
  if (jobOf m j).amax.any fun a => a.tensor == t then m
  else raise (modJob m j fun x => { x with amax := x.amax ++ [⟨t, []⟩] }) scaleCold (srcUnit 6) (some j) [j, t, 1, m.tick.sweepNo]

/-- FOLD_SETUP at its sweep edge. -/
def effFold : Effect := fun d m =>
  let j := dJob m d
  let n := fsChan d
  let ch := chanOf m n
  let foreign := ch.en && (ch.job != j || ch.pipe != fsPipe d)
  let l := (imageBytes d).getD []
  match if fsEn d then foldFault m d l else none with
  | some c => (some (0x6C, c), m)
  | none =>
    if foreign then (some (0x6D, 0), m)
    else if !fsEn d then
      let off : Channel := { Channel.init with widened := ch.widened }
      let m := freeParts ch.parts m
      (some (0, 0), modChan m n fun _ => off)
    else if fsLoss d && (List.range 32).any fun c => c != n && (chanOf m c).en && (chanOf m c).job == j
        && (chanOf m c).pipe == fsPipe d && (chanOf m c).lossEn then (some (0x6D, 0), m)
    else if fsOrdered d && fsTopo d == 2 && regN m (offFoldWindow n) == 0 then (some (0x6E, 0), m)
    else
      let c := readChannel m d l
      let m := freeParts ch.parts m
      let m := modChan m n fun _ => c
      let m := if c.fmt = 2 then forAll ((c.layers.filter fun y => y.rank == 0).map (·.tensor)) (declareTensor j) m else m
      (some (0, 0), openChannel n m)

def execFoldSetup (d : DescIn) (s : State) : Res := actReady (decide (d.ring < 32)) (descRow specFold effFold d) s

/-! ### UPDATE_SETUP (Tables 10.3–10.5) -/

def usPipe (d : DescIn) : Nat := db d 264 263
def usPolicy (d : DescIn) : Nat := db d 260 259
def usRule (d : DescIn) : Nat := db d 258 257
def usAddr (d : DescIn) : Nat := db d 191 128

/-- A reserved value or field of the body is cause 1 of R303, judged at the edge (R84, log entry 72). -/
def specUpdate : OpSpec :=
  { code := 0x34, kinds := [2], admin := false, wcet := fun _ => 0, image := fun _ => true
    bad := fun d => usAddr d % 64 != 0
    source := fun d => (usAddr d, 24576)
    addr := fun m d => hostStatus m d (usAddr d) 24576 false }

def utGroup (l : List Byte) (g : Nat) : Nat := imgNat l (64 * g) 64
def utSched (l : List Byte) (g i : Nat) : Nat := imgNat l (0x400 + 1024 * g + 16 * i) 16
def utNSched (l : List Byte) (g : Nat) : Nat := bf (utGroup l g) 166 160
def utArea (l : List Byte) (i : Nat) : Nat := imgNat l (0x5400 + 8 * i) 8
def utByte (l : List Byte) (i : Nat) : Nat := imgNat l (0x4400 + i) 1

/-- VALID gradient areas: facet, stage context, base. -/
def utAreas (l : List Byte) : List (Nat × Nat × Nat) :=
  (List.range 384).filterMap fun i =>
    let w := utArea l i
    if tb w 9 then some (bf w 6 0, bf w 8 7, bf w 63 42) else none

def readSetup (d : DescIn) (l : List Byte) : UpdSetup :=
  { en := db d 256 256 == 1, biasCorr := db d 262 262 == 1, tokensMode := db d 261 261 == 1, policy := usPolicy d
    rule := usRule d, clip := BitVec.ofNat 32 (db d 255 224), gscale := BitVec.ofNat 32 (db d 223 192)
    groups := (List.range 16).map fun g =>
      let w := utGroup l g
      ⟨BitVec.ofNat 32 (bf w 159 128), BitVec.ofNat 32 (bf w 127 96), BitVec.ofNat 32 (bf w 95 64), BitVec.ofNat 32 (bf w 63 32),
        (List.range (utNSched l g)).map fun i => (bf (utSched l g i) 63 0, BitVec.ofNat 32 (bf (utSched l g i) 95 64))⟩
    layerGroup := (List.range 4096).map fun i => utByte l i
    areas := utAreas l }

/-- First cause of R303 that the table breaks. -/
def updFault (m : Mach) (d : DescIn) (l : List Byte) : Option Nat :=
  let j := dJob m d
  let gs := List.range 16
  let reserved := !dZero d 511 265 || usPolicy d == 3 || usRule d == 3 || gs.any (fun g => bf (utGroup l g) 511 167 != 0 || bf (utGroup l g) 31 0 != 0
      || (List.range 64).any fun i => bf (utSched l g i) 127 96 != 0)
    || (List.range 4096).any (fun i => decide (15 < utByte l i))
    || (List.range 384).any fun i => bf (utArea l i) 41 10 != 0 || (tb (utArea l i) 9 && decide (95 < bf (utArea l i) 6 0))
  let steps (g : Nat) : Bool := (List.range (utNSched l g - 1)).all fun i => decide (bf (utSched l g i) 63 0 < bf (utSched l g (i + 1)) 63 0)
  if reserved then some 1
  else if gs.any fun g => utNSched l g == 0 || decide (64 < utNSched l g) || !steps g then some 2
  else
    let own := gradAreas m j (usPipe d) (utAreas l)
    let others := jobAreas m j (some (usPipe d)) none none
    if (firstBad 0 own fun i a => areaOut a || areaSeen own i a || others.any (areasMeet a)).isSome then some 3 else none

/-- UPDATE_SETUP at its sweep edge. -/
def effUpdate : Effect := fun d m =>
  let l := (imageBytes d).getD []
  match updFault m d l with
  | some c => (some (0x66, c), m)
  | none => (some (0, 0), modPipe m (dJob m d) (usPipe d) fun x => { x with setup := some (readSetup d l) })

def execUpdateSetup (d : DescIn) (s : State) : Res := actReady (decide (d.ring < 32)) (descRow specUpdate effUpdate d) s

/-! ### ACT_POLICY (Table 10.9) -/

def apPipe (d : DescIn) : Nat := db d 289 288

def readPolicy (m : Mach) (d : DescIn) : ActPolicy :=
  { hostSlots := db d 321 306, recompProg := db d 305 290, first := db d 275 264, last := db d 287 276, policy := db d 263 262
    lead := db d 261 254, slots := db d 253 246, base := db d 245 224, bytes := db d 223 192, hostBase := db d 191 128
    ep := portOf m d.ring }

/-- Bytes of the host slots of a policy (R313). -/
def hostSlotBytes (a : ActPolicy) : Nat := (a.last + 1 - a.first) * a.hostSlots * a.bytes

/-- The reserved bits of the body are the chapter's own condition, judged at the edge (R84, R315). -/
def specAct : OpSpec :=
  { code := 0x38, kinds := [2], admin := false, wcet := fun _ => 0, image := fun _ => false
    bad := fun d => db d 263 262 == 3 || db d 253 246 == 0 || db d 223 192 % 4096 != 0
      || (db d 263 262 == 1 && (db d 261 254 == 0 || db d 191 128 % 4096 != 0))
    addr := fun m d =>
      let a := readPolicy m d
      if a.policy = 1 ∧ hostSlotBytes a ≠ 0 ∧ !(hostAllowed m (dJob m d) a.hostBase (hostSlotBytes a) true
        && hostAllowed m (dJob m d) a.hostBase (hostSlotBytes a) false) then 0x07 else 0 }

/-- Units live at a stage between their forward and backward units (R312). -/
def liveUnits (m : Mach) (j p stage : Nat) : Nat :=
  let s := stageTotal m j p (edgeMap m j 0)
  2 * (s - stage) + (match (pipeOf m j p).sched with | some x => x.reserve | none => 0)

/-- ACT_BAD of R315. -/
def actBad (m : Mach) (d : DescIn) (a : ActPolicy) : Bool :=
  let j := dJob m d
  let p := apPipe d
  let stages := (edgeStages m j p).filter fun e => decide (a.first ≤ e.stage) && decide (e.stage ≤ a.last)
  let own := actAreas m j p a
  !dZero d 511 322
    || stages.any (fun e => if a.policy = 1 then decide (a.slots < a.lead + 3) || decide (a.hostSlots < liveUnits m j p e.stage)
        else decide (a.slots < liveUnits m j p e.stage))
    || (firstBad 0 own fun i x => areaOut x || areaSeen own i x || (jobAreas m j none (some p) none).any (areasMeet x)
        || (ruledAreas m j p (pipeOf m j p).acts fun s => decide (s < a.first) || decide (a.last < s)).any (areasMeet x)).isSome
    || (a.policy == 2 && (match progImage m a.recompProg with | some o => o.strand || o.job != j | none => true))

/-- Traffic per tick of the module's offloading stage contexts, in bytes (R315). -/
def offloadBytes (m : Mach) : Nat :=
  ((List.range 16).map fun j => ((List.range 4).map fun p =>
    ((edgeStages m j p).map fun e => match actPolicyOf m j e with
      | some a => if a.policy = 1 then 2 * a.bytes else 0
      | none => 0).foldl (· + ·) 0).foldl (· + ·) 0).foldl (· + ·) 0

/-- ACT_POLICY at its sweep edge, under a timing set. -/
def effActAt (t : Timing) : Effect := fun d m =>
  let a := readPolicy m d
  let j := dJob m d
  if actBad m d a then (some (0x67, 0), m)
  else
    let m' := modPipe m j (apPipe d) fun x => { x with
      acts := a :: x.acts.filter fun b => !(decide (a.first ≤ b.first) && decide (b.last ≤ a.last)) }
    if a.policy = 1 ∧ regN m offHostShare * 24 * t.period < offloadBytes m' then (some (0x68, 0), m) else (some (0, 0), m')

def effAct : Effect := fun d m => effActAt (timing m) d m

def execActPolicy (d : DescIn) (s : State) : Res := actReady (decide (d.ring < 32)) (descRow specAct effAct d) s

end Sys2Proof.Machine
end

