-- ==== Sys2Proof/Machine/Jobs.lean ====
section
/-!
DEFINITION. Job contexts, pre-emption and rotation, and ROLLOUT_CFG (R402–R404, R409–R415).
-/
namespace Sys2Proof.Machine

/-! ### Job contexts -/

def jobPrio (m : Mach) (j : Nat) : Nat := wf (regGet m (offJob j)) 1 0
def jobPreempt (m : Mach) (j : Nat) : Bool := tb (regN m (offJob j)) 2
def jobSlice (m : Mach) (j : Nat) : Nat := wf (regGet m (offJob j)) 27 16
def jobGroup (m : Mach) (j : Nat) : Nat := wf (regGet m (offJob j)) 31 28

/-- A job that runs: admitted, not suspended, not releasing. -/
def running (m : Mach) (j : Nat) : Bool :=
  let x := jobOf m j
  x.admitted && !x.suspended && !x.releasing

/-- A job that waits for a switch. -/
def waitsSwitch (m : Mach) (j : Nat) : Bool :=
  let x := jobOf m j
  x.admitted && x.suspended && !x.releasing

/-- Two claim tables overlap on some facet. -/
def claimsMeet (a b : List Claim) : Bool :=
  a.any fun x => b.any fun y => x.facet == y.facet && spansMeet x.spBase x.spSize y.spBase y.spSize

def jobsMeet (m : Mach) (a b : Nat) : Bool := claimsMeet (jobOf m a).claims (jobOf m b).claims

/-! ### JOB_ADMIT (Tables 13.2, 13.3) -/

def jaLen (d : DescIn) : Nat := db d 223 192
def jaAddr (d : DescIn) : Nat := db d 191 128

def specJobAdmit : OpSpec :=
  { code := 0x48, kinds := [2], admin := true, wcet := fun _ => 0, image := fun _ => true
    bad := fun d => !dZero d 511 224 || jaAddr d % 64 != 0, addr := fun _ _ => 0
    source := fun d => (jaAddr d, jaLen d) }

def nClaim (l : List Byte) : Nat := imgBits l 0 64 6 0
def claimWord (l : List Byte) (i : Nat) : Nat := imgNat l (64 + 16 * i) 16

def readClaim (w : Nat) : Claim :=
  { facet := bf w 6 0, spBase := bf w 61 48, spSize := bf w 76 62, liveBase := bf w 90 77, liveSize := bf w 105 91
    spillEn := tb w 47, spillBase := bf w 127 106 }

def readClaims (l : List Byte) : List Claim := (List.range (nClaim l)).map fun i => readClaim (claimWord l i)

/-- JOB_CLAIM of R403: index of the first failing entry, 0xFFFFFF for the header. -/
def claimFault (m : Mach) (len : Nat) (l : List Byte) : Option Nat :=
  let n := nClaim l
  if (imgNat l 0 64) >>> 7 ≠ 0 ∨ n = 0 ∨ 96 < n ∨ len ≠ 64 + 16 * n then some 0xFFFFFF
  else
    let cs := readClaims l
    let areas : List Area := (List.range 16).flatMap fun j => jobAreas m j none none none
    firstBad 0 cs fun i c =>
      bf (claimWord l i) 46 7 != 0 || decide (95 < c.facet) || c.spSize == 0 || decide (16384 < c.spSize) || decide (8192 < c.liveSize)
        || seenBefore cs (·.facet) i || decide (16384 < c.spBase + c.spSize)
        || (c.liveSize != 0 && (decide (c.liveBase < c.spBase) || decide (c.spBase + c.spSize < c.liveBase + c.liveSize)))
        || (c.spillEn && (areaOut (c.facet, 4096 * c.spillBase, 4096 * c.liveSize)
          || areas.any (areasMeet (c.facet, 4096 * c.spillBase, 4096 * c.liveSize))))

/-- May the claims of jobs j and k overlap (R403 step 4)? -/
def mayOverlap (m : Mach) (j k : Nat) : Bool :=
  (jobPreempt m j && decide (jobPrio m j < jobPrio m k)) || (jobPreempt m k && decide (jobPrio m k < jobPrio m j))
    || (jobGroup m j != 0 && jobGroup m j == jobGroup m k && jobSlice m j != 0 && jobSlice m k != 0)

/-- The 128-bit key that the host wrote for the context (R541). -/
def writtenKey (m : Mach) (j : Nat) : BitVec 128 :=
  BitVec.ofNat 128 (regN m (offJob j + 0x20) + 2 ^ 64 * regN m (offJob j + 0x28))

/-- Ticks of a rotation turn that begins now (R414). -/
def startTurn (j : Nat) (m : Mach) : Mach :=
  let n := jobSlice m j - ceilDiv (jobOf m j).debt (max 1 (timing m).period)
  let t := if jobGroup m j = 0 ∨ jobSlice m j = 0 then none else some (m.tick.tickNo + max 1 n)
  modJob m j fun x => { x with turnEnd := t }

/-- JOB_ADMIT at its sweep edge. -/
def effJobAdmit : Effect := fun d m =>
  let j := dJob m d
  let l := (imageBytes d).getD []
  let x := jobOf m j
  if x.admitted || x.releasing then (some (0x78, 0), m)
  else
    match claimFault m (jaLen d) l with
    | some i => (some (0x79, i), m)
    | none =>
      let cs := readClaims l
      if (jobPreempt m j || jobGroup m j != 0) && cs.any (fun c => c.liveSize != 0 && !c.spillEn) then (some (0x7A, 0), m)
      else
        let others := (List.range 16).filter fun k => k != j && (jobOf m k).admitted && claimsMeet cs (jobOf m k).claims
        match others.find? fun k => !mayOverlap m j k with
        | some k => (some (0x7B, k), m)
        | none =>
          let susp := others.any (running m)
          let key := writtenKey m j
          let m := modJob m j fun x => { x with
            admitted := true, suspended := susp, claims := cs, key := key, srKey := key, debt := 0, suspTicks := 0 }
          let m := regSet (regSet m (offJob j + 0x20) 0) (offJob j + 0x28) 0
          (some (0, 0), if susp then m else startTurn j m)

def execJobAdmit (d : DescIn) (s : State) : Res := actReady (decide (d.ring < 32)) (descRow specJobAdmit effJobAdmit d) s

/-! ### Switches (R410–R413) -/

/-- Facets whose scratchpad the jobs claim. -/
def claimFacets (m : Mach) (js : List Nat) : List Nat := (js.flatMap fun j => (jobOf m j).claims.map (·.facet)).eraseDups

/-- Facets on which a job still waits for a switch to end. -/
def switchesOf (m : Mach) (j : Nat) : Bool := m.facets.any fun x => match x.switching with | some (_, i, _) => i.contains j | none => false

def resumedEvent (j edge : Nat) (m : Mach) : Mach := raise m jobResumed (srcJob j) (some j) [j, edge, (jobOf m j).debt]

/-- Stage contexts without a slot take the owner that the maps in effect give them; a new owner's schedule starts unshifted. -/
def setOwners (m : Mach) : Mach :=
  forAll (List.range 96) (fun m f => forAll (List.range 4) (fun m c =>
    let x := scOf m f c
    let o := mapOwner m f c
    if x.run.isSome || x.owner == o then m
    else
      let same := x.owner.map (·.1) == o.map (·.1)
      modSc m f c fun x => if same then { x with owner := o } else { x with owner := o, shift := 0 }) m) m

/-! ### GUARANTEED (R407) -/

/-- Stage contexts of a facet that run: jobs and their entries. -/
def runningOn (m : Mach) (f : Nat) : List (Nat × MapSc) :=
  ((facetOf m f).scs.filterMap (·.owner)).filter fun o => running m o.1 && !(jobOf m o.1).halted

/-- Load of a facet: SLOT_WCET of its running stage contexts, and the largest time of a record of their programs. -/
def facetLoad (m : Mach) (f : Nat) : Nat :=
  ((runningOn m f).map fun o => o.2.slotWcet).foldl (· + ·) 0
    + (((runningOn m f).flatMap fun o => (stageHandles m o.1 o.2).flatMap (imageOf m)).map (recTime m)).foldl max 0

/-- GUARANTEED is evaluated; a job that loses it raises JOB_OVERCOMMIT with its first facet whose load is too large. -/
def judgeLoads (m : Mach) : Mach :=
  forAll ((List.range 16).filter fun j => (jobOf m j).admitted) (fun m j =>
    let lack := (List.range 96).find? fun f =>
      ((runningOn m f).any fun o => o.1 == j) && decide (admitLen m < facetLoad m f)
    let had := (jobOf m j).guaranteed
    let m := modJob m j fun x => { x with guaranteed := lack.isNone }
    match lack with
    | some f => if had then raise m jobOvercommit (srcJob j) (some j) [j, f, facetLoad m f] else m
    | none => m) m

/-- A switch at the present edge: `out` stop issuing and are suspended; `inc` come in facet by facet as their regions are
filled, and hold issue for their debt (R410–R413). -/
def switchJobs (out inc : List Nat) (m : Mach) : Mach :=
  let t := m.tick.edgeAt
  let m := forAll out (fun m j =>
    raise (modJob m j fun x => { x with suspended := true, turnEnd := none, holdUntil := none, debtBase := x.debt }) jobSuspended (srcJob j) (some j)
      [j, m.tick.tickNo, (jobOf m j).debt]) m
  let m := forAll (claimFacets m (out ++ inc)) (fun m f => modFacet m f fun x =>
    let old := x.switching.getD ([], [], t)
    let o := (old.1 ++ out).filter fun j => !inc.contains j
    let i := (old.2.1.filter fun j => !out.contains j) ++ inc.filter fun j => (jobOf m j).claims.any fun c => c.facet == f
    { x with switching := some (o.eraseDups, i.eraseDups, t) }) m
  let m := forAll inc (fun m j =>
    let h := if (jobOf m j).debt = 0 then none else some (t + (jobOf m j).debt)
    let m := startTurn j m
    let m := modJob m j fun x => { x with suspended := false, missesTurns := false, yielded := false, holdUntil := h }
    if switchesOf m j then m else resumedEvent j m.tick.tickNo m) m
  judgeLoads (setOwners m)

/-- Commands of a job that are in flight on a facet. -/
def inFlightOn (m : Mach) (f j : Nat) : Bool :=
  let x := facetOf m f
  x.prisms.any (fun p => p.queue.any fun q => q.job == j) || x.ray.any (fun q => q.job == j)
    || x.groups.any (fun g => g.job == j)
    || x.scs.any (fun c => (match c.owner with | some (k, _) => k == j | none => false)
      && (match c.run with | some r => r.inFlight != 0 | none => false))

/-- An outgoing live region goes to its spill area; one without loses its scratchpad (R410). -/
def spillJob (f : Nat) (m : Mach) (j : Nat) : Mach :=
  match (jobOf m j).claims.find? fun c => c.facet == f with
  | none => m
  | some c =>
    if (jobOf m j).spilled.contains f then m
    else if !c.spillEn then loseMem m f 0 (4096 * c.spBase) (4096 * c.spSize)
    else
      let d := readChecked m f 0 (4096 * c.liveBase) (4096 * c.liveSize)
      modJob (writeChecked d.2.2 f 1 (4096 * c.spillBase) d.1) j fun x => { x with spilled := f :: x.spilled }

/-- The live region of an incoming job comes back. -/
def fillJob (f : Nat) (m : Mach) (j : Nat) : Mach :=
  match (jobOf m j).claims.find? fun c => c.facet == f with
  | none => m
  | some c =>
    if !(jobOf m j).spilled.contains f then m
    else
      let d := readChecked m f 1 (4096 * c.spillBase) (4096 * c.liveSize)
      modJob (writeChecked d.2.2 f 0 (4096 * c.liveBase) d.1) j fun x => { x with spilled := x.spilled.filter (· != f) }

/-- A slot that a switch held goes on: its work is measured from here (R407, R410). -/
def openHeld (f c : Nat) (m : Mach) : Mach :=
  poke f c (modRun m f c fun r =>
    if r.unitIdx = 0 ∧ r.recIdx = 0 ∧ r.inFlight = 0 then { r with startAt := m.now } else r)

/-- SPILL_FILL_DONE: the facet's part of a switch ends and the incoming jobs start their slots. -/
def spillFillDoneOp (f : Nat) (m : Mach) : Mach :=
  match (facetOf m f).switching with
  | none => m
  | some (o, i, _) =>
    if o.any (inFlightOn m f) then m
    else
      let m := forAll i (fillJob f) (forAll o (spillJob f) m)
      let m := modFacet m f fun x => { x with switching := none }
      let m := forAll (List.range 4) (fun m c =>
        match (scOf m f c).owner with
        | some (j, _) => if i.contains j then openHeld f c (startSlot m f c m) else m
        | none => m) m
      forAll i (fun m j => if switchesOf m j then m else resumedEvent j m.tick.tickNo m) m

def execSpillFillDone (f : Nat) (s : State) : Res := actReady (decide (f < 96)) (spillFillDoneOp f) s

/-- DEBT_HOLD_END: the hold of a resumed job ends and JOB_DEBT returns to 0 (R412). -/
def debtHoldEndOp (j : Nat) (m : Mach) : Mach :=
  match (jobOf m j).holdUntil with
  | none => m
  | some t =>
    byTime t (fun m =>
      let m := modJob m j fun x => { x with holdUntil := none, debt := 0 }
      forAll (List.range 96) (fun m f => forAll (List.range 4) (fun m c => if scJob m f c = some j then poke f c m else m) m) m) m

def execDebtHoldEnd (j : Nat) (s : State) : Res := actReady (decide (j < 16)) (debtHoldEndOp j) s

/-! ### JOB_PREEMPT (R409) -/

def jpAction (d : DescIn) : Nat := db d 129 128

def specPreempt : OpSpec :=
  { code := 0x4A, kinds := [1], admin := true, wcet := fun _ => 0, image := fun _ => false
    bad := fun d => !dZero d 511 130 || decide (1 < jpAction d), addr := fun _ _ => 0 }

/-- SWITCH_IN. -/
def effSwitchIn : Effect := fun d m =>
  let h := dJob m d
  if !waitsSwitch m h then (some (0x7C, 0), m)
  else
    let victims := (List.range 16).filter fun j => j != h && running m j && jobsMeet m j h
    match victims.find? fun j => !preemptible m j || decide (jobPrio m h ≤ jobPrio m j) with
    | some j => (some (0x7D, j), m)
    | none =>
      let m := forAll victims (fun m j => modJob m j fun x => { x with
        missesTurns := x.missesTurns || (jobGroup m j != 0 && jobGroup m j != jobGroup m h) }) m
      (some (0, 0), switchJobs victims [h] m)

/-- Suspended jobs, in increasing number, that no running job then overlaps. -/
def comeIn (m : Mach) (out : List Nat) : List Nat :=
  ((List.range 16).filter fun j => waitsSwitch m j && !out.contains j).foldl (fun acc j =>
    let busy := (List.range 16).any fun k => k != j && ((running m k && !out.contains k) || acc.contains k) && jobsMeet m j k
    if busy then acc else acc ++ [j]) []

/-- YIELD. -/
def effYield : Effect := fun d m =>
  let y := dJob m d
  if !running m y then (some (0x7C, 0), m)
  else (some (0, 0), modJob (switchJobs [y] (comeIn m [y]) m) y fun x => { x with yielded := true })

/-- Jobs, in increasing number, that only the claim of job `j`, whose context becomes free, keeps suspended (R405): not those that YIELD
suspended, and none that another running or releasing job overlaps. -/
def heldBy (m : Mach) (j : Nat) : List Nat :=
  let holds (k : Nat) : Bool := running m k || (jobOf m k).releasing
  ((List.range 16).filter fun k => waitsSwitch m k && !(jobOf m k).yielded && jobsMeet m j k).foldl (fun acc k =>
    let busy := (List.range 16).any fun q => q != j && q != k && (holds q || acc.contains q) && jobsMeet m q k
    if busy then acc else acc ++ [k]) []

def effPreempt : Effect := fun d m => if jpAction d = 0 then effSwitchIn d m else effYield d m

def execSwitchIn (d : DescIn) (s : State) : Res :=
  actReady (decide (d.ring < 32)) (onlyIf (jpAction d == 0) (descRow specPreempt effSwitchIn d)) s
def execYieldJob (d : DescIn) (s : State) : Res :=
  actReady (decide (d.ring < 32)) (onlyIf (jpAction d == 1) (descRow specPreempt effYield d)) s

/-! ### Rotation (R414) -/

/-- The next suspended member of a group in increasing, cyclic job number. -/
def nextMember (m : Mach) (g j : Nat) : Option Nat :=
  ((List.range 16).map fun k => (j + 1 + k) % 16).find? fun k =>
    k != j && waitsSwitch m k && jobGroup m k == g && !(jobOf m k).missesTurns
      && !((List.range 16).any fun r => r != j && running m r && jobsMeet m r k)

/-- Running members whose turn has ended hand over; with no member to take over, a new turn begins. -/
def rotationOp (g : Nat) (m : Mach) : Mach :=
  if g = 0 then m
  else
    let m := forAll ((List.range 16).filter fun j => running m j && jobGroup m j == g) (fun m j =>
      if jobSlice m j = 0 then modJob m j fun x => { x with turnEnd := none }
      else if (jobOf m j).turnEnd.isNone then startTurn j m
      else m) m
    forAll (List.range 16) (fun m j =>
      let due := match (jobOf m j).turnEnd with | some t => decide (t ≤ m.tick.tickNo) | none => false
      if !(running m j && jobGroup m j == g && due) then m
      else match nextMember m g j with
        | some k => switchJobs [j] [k] m
        | none => startTurn j m) m

def execRotationHandover (g : Nat) (s : State) : Res := actReady (decide (g < 16)) (rotationOp g) s

/-! ### ROLLOUT_CFG (R415, Table 13.6) -/

def rcPipe (d : DescIn) : Nat := db d 129 128
def rcEn (d : DescIn) : Bool := db d 130 130 == 1
def rcPos (d : DescIn) : Nat := db d 139 132
def rcUsers (d : DescIn) : Nat := db d 147 140

/-- The reserved bits of the body are the chapter's own condition, judged at the edge (R84, R415). -/
def specRollout : OpSpec :=
  { code := 0x50, kinds := [1], admin := false, wcet := fun _ => 0, image := fun _ => false
    bad := fun d => rcPos d == 0 || rcUsers d == 0 || db d 167 148 == 0 || db d 289 264 % 8 != 0
      || db d 183 168 % 16 != 0 || decide (8192 < db d 183 168), addr := fun _ _ => 0 }

/-- Latency of the route from stage `i` to the next, or of the return chord from the last, in 10 ns steps; of a chord whose producer
lies on another module the image says none (log entry 86). -/
def stageHop (m : Mach) (j p i n : Nat) : Nat :=
  let ends : Option Chord := (stageEntry m j p i).bind fun a =>
    (m.chords.filter fun c => c.job == j && c.e.kind == 0 && c.e.srcFacet == a.facet && c.e.srcSc == a.sc && producesHere m c.e).find? fun c =>
      match stageEntry m j p ((i + 1) % n) with
      | some b => c.e.dstModule == self m && c.e.dstFacet == b.facet && c.e.dstSc == b.sc
      | none => c.e.dstModule != self m
  match ends with
  | some c => routeNs (chordRoute m (((fillMap m j).map fun x => x.axis.contains c.e.chord).getD false) c.e) / 10
  | none => Config.hopBeyond j p (((fillMap m j).map (·.mapId)).getD 0) i

/-- The rollout schedule that the body asks for. -/
def readRollout (m : Mach) (d : DescIn) : Rollout :=
  let j := dJob m d
  let p := rcPipe d
  let tau := admitLen m / max 1 (rcPos d)
  let dec := ((imageOf m (db d 215 200)).map (recTime m)).foldl (· + ·) 0
  let n := pipeStages m j p
  { tokenOfs := db d 289 264, stop := BitVec.ofNat 32 (db d 263 232), stopEn := db d 131 131 == 1, prefillProg := db d 231 216
    decodeProg := db d 215 200, prefillBudget := db d 199 184, chunk := if db d 183 168 = 0 then 512 else db d 183 168
    ctxMax := db d 167 148, users := rcUsers d, pos := rcPos d, tau := tau, d := dec
    e := (List.range n).map fun i => ceilDiv (dec + stageHop m j p i n) (max 1 tau) - 1
    slots := List.replicate (rcUsers d) none }

/-- Does the pipeline have a return chord (R142)? -/
def hasReturn (m : Mach) (j p : Nat) : Bool := m.chords.any fun c => c.job == j && isReturn m c && chordPipe m c == p

def isStageProg (m : Mach) (j h : Nat) : Bool := match progImage m h with | some o => !o.strand && o.job == j | none => false

/-- First cause of R415. -/
def rolloutFault (m : Mach) (d : DescIn) : Option Nat :=
  let j := dJob m d
  let p := rcPipe d
  let r := readRollout m d
  let n := pipeStages m j p
  let fwd := match (pipeOf m j p).sched with | some s => s.fwdOnly | none => false
  let words := match stageEntry m j p (n - 1) with
    | some e => latStatus m j ⟨self m, e.facet, 0, r.tokenOfs⟩ (8 * r.users) .write == 0
    | none => decide (r.tokenOfs + 8 * r.users ≤ Config.spadSize)
  let ends := (stageEntry m j p 0).isSome || (stageEntry m j p (n - 1)).isSome
  if !fwd || !dZero d 511 290 || (ends && !hasReturn m j p) || !words then some 1
  else if r.pos < r.users then some 2
  else if r.tau < r.d ∨ r.pos < n + r.e.foldl (· + ·) 0 then some 3
  else if !isStageProg m j r.prefillProg || !isStageProg m j r.decodeProg
      || (imageOf m r.prefillProg).any fun x => decide (r.tau < recTime m x) then some 4
  else none

/-- ROLLOUT_CFG at its tick edge. -/
def effRollout : Effect := fun d m =>
  let j := dJob m d
  let p := rcPipe d
  match rolloutFault m d with
  | some c => (some (0x7E, c), m)
  | none =>
    let live := match (pipeOf m j p).rollout with | some r => r.slots.any (·.isSome) | none => false
    if live then (some (0x7F, 0), m)
    else
      let r := if rcEn d then some (readRollout m d) else none
      (some (0, 0), modPipe m j p fun x => { x with rollout := r })

def execRolloutCfg (d : DescIn) (s : State) : Res := actReady (decide (d.ring < 32)) (descRow specRollout effRollout d) s

end Sys2Proof.Machine
end

