-- ==== Sys2Proof/Machine/Cuts.lean ====
section
/-!
DEFINITION. Snapshot domains and cuts (R361–R382): the domain table, what a cut holds, its shards and their targets, the
stores, manifests, and when cuts are taken.
-/
namespace Sys2Proof.Machine

/-! ### What a cut holds (Table 12.1) -/

/-- Publish tag of a pipeline as this module holds it. -/
def pipeTag (m : Mach) (j p : Nat) : Option Nat :=
  if isHome m j p then (pipeOf m j p).pub
  else ((pipeScs m j p).filterMap fun x => (publishedOf m x.1 x.2 j p).map (·.vtag)).head?

/-- Projected layers of the job's channels: pipelines in increasing order, and in each the map layers in increasing order (R361;
log entry 45). -/
def projLayers (m : Mach) (j : Nat) : List (Nat × FoldLayer) :=
  (List.range 4).flatMap fun p =>
    let l := (pipeChans m j p).flatMap fun n => (chanOf m n).layers.filter fun y => y.rank != 0
    (l.mergeSort fun a b => decide (a.layer ≤ b.layer)).map fun y => (p, y)

/-- Layers of the channel tables that are projected, or still hold the residual of a layer that was (R357), as a cut records them: with
what the job folded last. -/
def cutProj (m : Mach) (j : Nat) : List (Nat × Nat × Option ProjRec) :=
  (List.range 4).flatMap fun p =>
    let l := (pipeChans m j p).flatMap fun n => (chanOf m n).layers.filter fun y => y.rank != 0 || (projRec m j p y.layer).isSome
    (l.mergeSort fun a b => decide (a.layer ≤ b.layer)).map fun y => (p, y.layer, projRec m j p y.layer)

/-- What STATE says of one of them: pipeline, layer, rank of its Q (0: none yet), ROWS, COLS and PROJ_BASE of the workspace. -/
def projMark (x : Nat × Nat × Option ProjRec) : List Byte :=
  let w (g : ProjRec → Nat) : List Byte := leBytes 4 ((x.2.2.map g).getD 0)
  leBytes 4 x.1 ++ leBytes 4 x.2.1 ++ w (·.rank) ++ w (·.rows) ++ w (·.cols) ++ w (·.base)

/-- STATE before padding; a tapped generation has UPD_STEP 0 and no history or PROJ (R378).  The order within the section is
a DESIGN CHOICE. -/
def stateRaw (m : Mach) (j : Nat) (mzero : Bool) : List Byte :=
  let x := jobOf m j
  let sn := x.snap
  let pipe (p : Nat) : List Byte :=
    let q := pipeOf m j p
    let mb := match q.sched with | some s => s.m | none => 0
    leBytes 8 ((pipeTag m j p).getD 0) ++ leBytes 8 (b2n (pipeTag m j p).isSome) ++ leBytes 8 (if mzero then 0 else q.step) ++ leBytes 8 mb
      ++ leBytes 8 q.bnoiseEma.toNat
      ++ (match q.lastCursor with
        | some (c, i) => leBytes 8 c.toNat ++ leBytes 8 i ++ leBytes 8 0
        | none => leBytes 8 0 ++ leBytes 8 0 ++ leBytes 8 1)
  let hist (a : Amax) : List Byte :=
    leBytes 8 a.tensor ++ leBytes 8 a.entries.length
      ++ (List.range 16).flatMap fun i => leBytes 4 ((a.entries.getD i 0).toNat)
  let ps := if mzero then [] else cutProj m j
  let hs := if mzero then [] else x.amax
  leBytes 8 j ++ leBytes 8 m.tick.sweepNo ++ leBytes 16 x.srKey.toNat ++ leBytes 8 sn.sRun ++ leBytes 8 sn.nFail
    ++ (List.range 4).flatMap pipe ++ leBytes 8 hs.length ++ leBytes 8 ps.length ++ hs.flatMap hist
    ++ ps.flatMap projMark

def padTo (n : Nat) (l : List Byte) : List Byte := l ++ List.replicate ((n - l.length % n) % n) 0

/-- An entry's place in its moment area for a layer: HBM offset and units, with the shard of a GATHERED layer (R300). -/
def momentPlace (m : Mach) (j : Nat) (u : MapSc) (layer : Nat) : Option (Nat × Nat) :=
  (ownerOf m j u).map fun e =>
    let before := ((List.range (layer - u.firstLayer)).map fun i => (shardOf m e (u.firstLayer + i)).2).foldl (· + ·) 0
    (4096 * u.area + 8192 * before, (shardOf m e layer).2)

/-- Map layers of a pipeline whose UPDATE entry lies here, in increasing order, with their entries. -/
def momentLayers (m : Mach) (j p : Nat) : List (Nat × MapSc) :=
  let l := ((updateMap m j).filter fun u => u.pipe == p).flatMap fun u => (entryLayers m j u).map fun y => (y, u)
  l.mergeSort fun a b => decide (a.1 ≤ b.1)

def momentPieces (m : Mach) (j p : Nat) : List SnapPiece :=
  (momentLayers m j p).filterMap fun (y, u) => (momentPlace m j u y).map fun a => ⟨u.facet, 1, a.1, 8192 * a.2, none⟩

/-- Map layers of the STEADY map that a pipeline holds here, in increasing order. -/
def steadyLayers (m : Mach) (j p : Nat) : List (Nat × MapSc) :=
  let es := match ((jobOf m j).maps[1]?).bind id with | some pm => mapStages pm p | none => []
  let l := es.flatMap fun e => (List.range (e.lastLayer + 1 - e.firstLayer)).map fun i => (e.firstLayer + i, e)
  l.mergeSort fun a b => decide (a.1 ≤ b.1)

def weightPieces (m : Mach) (j p : Nat) : List SnapPiece :=
  (steadyLayers m j p).filterMap fun (y, e) => (publishedOf m e.facet e.sc j p).map fun v =>
    ⟨e.facet, v.space, 4096 * (v.base + layerOffset m e y), 4096 * (shardOf m e y).2, none⟩

/-- E and Q of a projected layer, as the job folded it last (R360). -/
def projPiece (m : Mach) (r : ProjRec) : SnapPiece :=
  let w := workspaceAt r.base r.rows r.cols
  let n := 4 * r.rows * r.cols
  let k := 4 * r.cols * r.rank
  ⟨r.facet, 1, w.res, n + k, some (readMem m r.facet 1 w.res n ++ readMem m r.facet 1 w.q k)⟩

def piecesLen (l : List SnapPiece) : Nat := (l.map (·.len)).foldl (· + ·) 0

/-- Is this member a writer (R365)? -/
def isWriter (sn : SnapDom) : Bool := ((sn.members[sn.self]?).map (·.2)) == some sn.self

def blocksOf (f off len : Nat) : List (Nat × Nat) := (List.range (ceilDiv len 4096)).map fun i => (f, off / 4096 + i)

/-- The cut of the sweep that begins (R373): STATE is copied, moments and version regions are held. -/
def takeCut (j : Nat) (mzero : Bool) (m : Mach) : Mach :=
  let sn := snapOf m j
  if m.twin.frozen || !sn.armed then m
  else
    let st := padTo 4096 (stateRaw m j mzero)
    let ps := List.range 4
    let mo := if isWriter sn && !mzero then ps.flatMap (momentPieces m j) else []
    let we := if isWriter sn then ps.flatMap (weightPieces m j) else []
    let pr := if isWriter sn && !mzero then (cutProj m j).filterMap fun x => x.2.2.map (projPiece m) else []
    let a := st.length
    let b := a + piecesLen mo
    let c := b + piecesLen we
    let held := mo.flatMap fun x => blocksOf x.facet x.off x.len
    let cut : Cut :=
      { gen := m.tick.sweepNo, mzero := mzero
        pieces := ⟨127, 0, 0, a, some st⟩ :: (mo ++ we ++ pr).filter fun x => x.len != 0
        total := c + piecesLen pr, stream := [], prog := [], holds := held, sections := [0, a, b, c], placed := [], acked := []
        tried := [], sent := [], hostSlots := [], entries := [], entriesDone := false, manifested := [], done := false, membersDone := [], membersAck := []
        committing := none, losses := List.replicate 4 none, ringEmpty := none, overtime := 0 }
    let m := modSnap m j fun x => { x with cut := some cut, lastCut := m.tick.sweepNo, cutAt := none }
    if isWriter sn then mapEntries m fun _ _ e => if e.job == j && e.state == 3 then { e with snapHeld := true } else e
    else m

/-- A sweep edge at which a tapped tag is first published cuts the tapped weights, or, when segments came out of order, the
whole state (R378). -/
def tapEdge (j : Nat) (m : Mach) : Mach :=
  let sn := snapOf m j
  let hit := (List.range 4).any fun p => match pipeTag m j p with
    | some t => sn.taps.any fun x => x.2.2.1 == t && (pipeScs m j p).contains (x.1, x.2.1)
    | none => false
  if !sn.armed || !hit then m
  else
    let m := modSnap m j fun x => { x with taps := [], tapOff := false }
    let m := if sn.tapOff then raise m snapTapOff (srcUnit 5) (some j) [j, m.tick.sweepNo] else m
    if sn.cut.isSome then m else takeCut j (!sn.tapOff) m

/-! ### Shards and polygons (R368, R369) -/

/-- Product in GF(2^8) with x^8 + x^4 + x^3 + x^2 + 1. -/
def gfMul (a b : Nat) : Nat :=
  ((List.range 8).foldl (fun (r : Nat × Nat) i =>
    let acc := if b.testBit i then r.1 ^^^ r.2 else r.1
    let x := r.2 <<< 1
    (acc, if x.testBit 8 then x ^^^ 0x11D else x)) (0, a)).1

/-- Inverse in GF(2^8), a^254; that of 0 is 0. -/
def gfInv (a : Nat) : Nat := (List.range 7).foldl (fun (r : Nat × Nat) _ =>
  let s := gfMul r.2 r.2
  (gfMul r.1 s, s)) (1, a) |>.1

/-- Coefficient of data shard j in parity shard i. -/
def parityCoef (i j : Nat) : Nat := gfInv (i ^^^ (3 + j))

/-- Bytes `first`..`first + n` of a data shard of the stream, zero-padded. -/
def dataBytes (stream : List Byte) (d first n : Nat) : List Byte :=
  let l := ((stream.drop (shardBytes * d)).take shardBytes).drop first |>.take n
  l ++ List.replicate (n - l.length) 0

/-- Bytes of parity shard i of polygon p; shards beyond the last are all zero. -/
def parityBytes (sn : SnapDom) (stream : List Byte) (nd p i first n : Nat) : List Byte :=
  let shards := (List.range sn.k).filter fun j => decide (p * sn.k + j < nd)
  let cols := shards.map fun j => (parityCoef i j, dataBytes stream (p * sn.k + j) first n)
  (List.range n).map fun b => BitVec.ofNat 8 (cols.foldl (fun acc x => acc ^^^ gfMul x.1 (x.2.getD b 0).toNat) 0)

def nPoly (sn : SnapDom) (nd : Nat) : Nat := ceilDiv nd (max 1 sn.k)

/-- Shards of a cut as the manifest numbers them. -/
def nShards (sn : SnapDom) (c : Cut) : Nat := nData c.total + sn.m * nPoly sn (nData c.total)

/-- Polygon of a shard and its place in the polygon. -/
def shardPoly (sn : SnapDom) (c : Cut) (s : Nat) : Nat × Nat :=
  let nd := nData c.total
  if s < nd then (s / max 1 sn.k, s % max 1 sn.k) else ((s - nd) / max 1 sn.m, sn.k + (s - nd) % max 1 sn.m)

/-- Bytes of a shard that can be sent: what was read of a data shard, a parity shard once its polygon is read. -/
def shardAvail (sn : SnapDom) (c : Cut) (s : Nat) : Nat :=
  let n := c.stream.length
  let whole := c.pieces.isEmpty
  if s < nData c.total then
    if whole then shardBytes else min shardBytes (n - s * shardBytes)
  else if whole || decide (((shardPoly sn c s).1 + 1) * sn.k * shardBytes ≤ n) then shardBytes else 0

def shardData (sn : SnapDom) (c : Cut) (s first n : Nat) : List Byte :=
  let nd := nData c.total
  if s < nd then dataBytes c.stream s first n
  else parityBytes sn c.stream nd (shardPoly sn c s).1 ((shardPoly sn c s).2 - sn.k) first n

/-- CRC-32 of a whole shard. -/
def shardCrc (sn : SnapDom) (c : Cut) (s : Nat) : Nat := crc32 (shardData sn c s 0 shardBytes)

/-! ### Targets (R370–R372) -/

/-- Indices of the effective targets in table order (R364). -/
def effTargets (m : Mach) (targets : List (Nat × Nat)) : List Nat :=
  (List.range targets.length).filter fun i => targets[i]? != some (1, self m)

def isHostTarget (sn : SnapDom) (t : Nat) : Bool := match sn.targets[t]? with | some (0, _) => true | _ => false

/-- The effective targets in cyclic order from the one that R370 names first for place `j` of polygon `p`. -/
def targetOrder (m : Mach) (sn : SnapDom) (p j : Nat) : List Nat :=
  let l := effTargets m sn.targets
  (List.range l.length).map fun i => l.getD ((p + j + i) % max 1 l.length) 0

/-- The target of a shard: from the one that R370 names first on, or after the last that turned it away, the next that holds no
shard of the polygon and has not turned this one away. -/
def targetFor (m : Mach) (sn : SnapDom) (c : Cut) (s : Nat) : Option Nat :=
  let p := shardPoly sn c s
  let l := targetOrder m sn p.1 p.2
  let first := match (c.tried.filter fun x => x.1 == s && x.2 != twinTarget).getLast? with
    | some x => (l.findIdx? (· == x.2)).getD 0
    | none => 0
  (l.drop first ++ l.take first).find? fun x =>
    !c.tried.contains (s, x) && !(c.placed.any fun y => y.2 == x && y.2 != twinTarget && (shardPoly sn c y.1).1 == p.1)

def modCut (j : Nat) (g : Cut → Cut) (m : Mach) : Mach := modSnap m j fun x => { x with cut := x.cut.map g }

/-- A buffer write went out: it failed when the snapshot ring's endpoint was down (log entry 16). -/
def noteEntry (j : Nat) (which : Nat → Bool) (m : Mach) : Mach :=
  let down := !(epOf m (portOf m 34)).up
  modCut j (fun c => { c with entries := c.entries.mapIdx fun i e => if which i && down then { e with failed := true } else e }) m

/-- A host entry with a free slot. -/
def roomyEntry (c : Cut) : Option Nat :=
  c.entries.findIdx? fun e => decide (e.used < e.slots)

/-- Places a shard on a target; a host target needs a slot of a ring entry. -/
def placeShard (j s t : Nat) (m : Mach) : Mach :=
  let sn := snapOf m j
  match sn.cut with
  | none => m
  | some c =>
    if !isHostTarget sn t then modCut j (fun c => { c with placed := c.placed ++ [(s, t)], prog := c.prog ++ [(s, t, 0)] }) m
    else
      match roomyEntry c with
      | none => m
      | some e =>
        let slot := ((c.entries[e]?).map (·.used)).getD 1
        modCut j (fun c => { c with
          placed := c.placed ++ [(s, t)], prog := c.prog ++ [(s, t, 0)], hostSlots := c.hostSlots ++ [(s, e, slot)]
          entries := c.entries.modify e fun x => { x with used := slot + 1 } }) m

/-- Shards that have bytes to send and no target yet. -/
def unplaced (m : Mach) (j : Nat) : List Nat :=
  let sn := snapOf m j
  match sn.cut with
  | none => []
  | some c =>
    (List.range (nShards sn c)).filter fun s =>
      decide (0 < shardAvail sn c s) && !(c.placed.any fun x => x.1 == s && x.2 != twinTarget)

/-- Places a shard on the target that R370 gives it; with none left the cut aborts (R376). -/
def placeNext (j : Nat) (m : Mach) (s : Nat) : Mach :=
  match (snapOf m j).cut with
  | none => m
  | some c =>
    match targetFor m (snapOf m j) c s with
    | some t => placeShard j s t m
    | none => abortCut j 1 m

/-- Starts of the messages that carry bytes `a`..`b` of a shard, at most 65,536 each (Table 14.5). -/
def msgParts (a b : Nat) : List (Nat × Nat) :=
  (List.range (ceilDiv (b - a) 65536)).map fun i => (a + 65536 * i, min 65536 (b - a - 65536 * i))

/-- Sends what a placed shard has to send; a shard sent whole waits for its acknowledgement. -/
def sendShard (j : Nat) (m : Mach) (q : Nat × Nat × Nat) : Mach :=
  let sn := snapOf m j
  match sn.cut with
  | none => m
  | some c =>
    let a := shardAvail sn c q.1
    if a ≤ q.2.2 then m
    else
      let m := forAll (msgParts q.2.2 a) (fun m x =>
        let d := shardData sn c q.1 x.1 x.2
        if isHostTarget sn q.2.1 then
          match c.hostSlots.find? fun h => h.1 == q.1 with
          | some h =>
            let m := emit m (.hostWrite (portOf m 34) (((c.entries[h.2.1]?).map (·.addr)).getD 0 + shardBytes * h.2.2 + x.1) d false)
            noteEntry j (fun k => k == h.2.1) m
          | none => m
        else sendShardTo j q.1 q.2.1 x.1 d m) m
      let m := modCut j (fun c => { c with prog := c.prog.map fun y => if y == q then (q.1, q.2.1, a) else y }) m
      if a < shardBytes then m
      else if isHostTarget sn q.2.1 then modCut j (fun c => { c with acked := c.acked ++ [(q.1, q.2.1)] }) m
      else noteSent j q.1 q.2.1 m

/-- Mirror writes of data shards (R371). -/
def placeMirrors (j : Nat) (m : Mach) : Mach :=
  let sn := snapOf m j
  match sn.cut with
  | none => m
  | some c =>
    if !sn.mirror then m
    else forAll ((List.range (nData c.total)).filter fun s => decide (0 < shardAvail sn c s)
        && !c.placed.contains (s, twinTarget) && !c.tried.contains (s, twinTarget)) (fun m s => placeShard j s twinTarget m) m

/-- The manifest (Table 12.4).  The slots of peers and of the twin are known to their stores only: free values. -/
def manifestBytes (m : Mach) (j : Nat) (c : Cut) : List Byte :=
  let sn := snapOf m j
  let secs := (c.sections.flatMap (leBytes 8)) ++ List.replicate 32 0
  let entry (s : Nat) : List Byte :=
    let t := ((c.placed.find? fun x => x.1 == s && x.2 != twinTarget).map (·.2)).getD 0
    let mir := c.placed.contains (s, twinTarget)
    let host := c.hostSlots.find? fun h => h.1 == s
    let slot := match host with | some h => h.2.2 | none => (Config.free 24 (m.free + 2 * s)).toNat
    let mslot := if mir then (Config.free 24 (m.free + 2 * s + 1)).toNat else 0xFFFFFF
    let tag := match host with | some h => ((c.entries[h.2.1]?).map (·.tag)).getD 0 | none => 0
    leBytes 16 (t * 2 ^ 26 + tag * 2 ^ 32 + slot * 2 ^ 48 + mslot * 2 ^ 72 + shardCrc sn c s * 2 ^ 96)
  manifestHead m j sn c none (List.replicate 4 0) ++ secs ++ (List.range (nShards sn c)).flatMap entry

/-- Reports done to the leader once every manifest is acknowledged (R375). -/
def checkDone (j : Nat) (m : Mach) : Mach :=
  let sn := snapOf m j
  match sn.cut with
  | none => m
  | some c =>
    if c.done || c.manifested.isEmpty || !((cutTargets sn c).all c.manifested.contains) then m
    else
      let m := modCut j (fun c => { c with done := true }) m
      if isLeader sn then
        tryCommit j (modCut j (fun c => { c with membersDone := c.membersDone ++ [self m] }) m)
      else sendMsg m (memberModule sn sn.leader) (.snapDone (self m) j c.gen)

/-- Writes the manifest to every target once every shard is acknowledged; a host entry is then finished (R372). -/
def writeManifests (j : Nat) (m : Mach) : Mach :=
  let sn := snapOf m j
  match sn.cut with
  | none => m
  | some c =>
    let all := List.range (nShards sn c)
    let ready := c.pieces.isEmpty && all.all (fun s => c.placed.any fun x => x.1 == s && x.2 != twinTarget)
      && c.placed.all c.acked.contains && c.manifested.isEmpty && !(c.sent.any fun x => x.2.1 == manifestIdx)
    if !ready then m
    else
      let l := manifestBytes m j c
      let m := { m with free := m.free + 2 * nShards sn c }
      let m := forAll (cutTargets sn c) (fun m t =>
        if isHostTarget sn t then
          let m := noteEntry j (fun _ => true) (emitEntries c.entries l m)
          let m := finishEntries c.gen ((((snapOf m j).cut).map (·.entries)).getD []) m
          modCut j (fun c => { c with manifested := c.manifested ++ [t], entriesDone := true }) m
        else
          noteSent j manifestIdx t (forAll (msgParts 0 l.length) (fun m x =>
            sendShardTo j manifestIdx t x.1 ((l.drop x.1).take x.2) m) m)) m
      checkDone j m

/-- Places, sends and finishes what can be. -/
def pumpCut (j : Nat) (m : Mach) : Mach :=
  let m := placeMirrors j (forAll (unplaced m j) (placeNext j) m)
  let q := match (snapOf m j).cut with | some c => c.prog | none => []
  writeManifests j (forAll q (sendShard j) m)

/-- Does the engine need a host slot that it does not have? -/
def needsSlot (m : Mach) (j : Nat) : Bool :=
  match (snapOf m j).cut with
  | none => false
  | some c => (unplaced m j).any fun s => (targetFor m (snapOf m j) c s).any (isHostTarget (snapOf m j))

/-- A write is turned away or not acknowledged in time: the shard goes to the next target (R370); with none the cut
aborts (R376).  A mirror write that the twin turns away is given up. -/
def turnAway (j s t : Nat) (m : Mach) : Mach :=
  let sn := snapOf m j
  match sn.cut with
  | none => m
  | some c =>
    if s = manifestIdx then
      if c.committing.isSome then m
      else if t = twinTarget then checkDone j (modCut j (fun c => { c with manifested := c.manifested ++ [t] }) m)
      else abortCut j 1 m
    else
      let m := modCut j (fun c => { c with
        placed := c.placed.filter fun x => x != (s, t), prog := c.prog.filter fun x => !(x.1 == s && x.2.1 == t)
        tried := c.tried ++ [(s, t)] }) m
      pumpCut j m

/-- The write on its way that an answer of module `src` settles. -/
def sentTo (m : Mach) (j src shard : Nat) : Option (Nat × Nat × Nat × Nat) :=
  match (snapOf m j).cut with
  | some c => c.sent.find? fun x => x.2.1 == shard && targetModule m (snapOf m j) x.2.2.1 == some src
  | none => none

/-- The target of module `src` on which a shard of the cut was placed. -/
def placedOn (m : Mach) (j src shard : Nat) : Option Nat :=
  match (snapOf m j).cut with
  | some c => (c.placed.find? fun x => x.1 == shard && targetModule m (snapOf m j) x.2 == some src).map (·.2)
  | none => none

/-! ### Rebuilt shards (R379) -/

/-- The entry of a shard in the copies of its manifest, with the target and slot it has now.  Slots of peers are known to their
stores only: free values. -/
def rewriteEntry (j : Nat) (v : MovedShard) (slot tag : Nat) (m : Mach) : Mach :=
  let sn := snapOf m j
  let e := leBytes 16 (v.target * 2 ^ 26 + tag * 2 ^ 32 + slot * 2 ^ 48 + v.place.mslot * 2 ^ 72 + v.crc.toNat * 2 ^ 96)
  let o := 128 + 16 * v.shard
  let m := forAll v.homes (fun m h => emit m (.hostWrite (portOf m 34) (h.1 + o) e false)) m
  let m := forAll ((effTargets m sn.targets).filterMap (targetModule m sn)).eraseDups (fun m d =>
    sendDirect m d (.shard (self m) j v.gen manifestIdx o false e)) m
  if sn.mirror then sendDirect m m.twin.modNum (.shard (self m) j v.gen manifestIdx o true e) else m

/-- Writes a rebuilt shard to the first of its targets that can take it.  The host takes it back only into the slot it had there;
the manifest's entries follow at once, those of a peer's shard with its acknowledgement (log entry 49). -/
def writeMoved (j : Nat) (v : MovedShard) (m : Mach) : List Nat → Mach
  | [] => m
  | t :: ts =>
    let sn := snapOf m j
    let v := { v with target := t, left := ts }
    match targetModule m sn t, v.homes.find? fun h => isHostTarget sn v.place.target && h.2 == v.place.tag with
    | some md, _ =>
      let m := forAll (msgParts 0 shardBytes) (fun m y =>
        sendDirect m md (.shard (self m) j v.gen v.shard y.1 false ((v.data.drop y.1).take y.2))) m
      modSnap { m with nextOp := m.nextOp + 1 } j fun x => { x with moving := x.moving ++ [{ v with op := m.nextOp, sentAt := m.now }] }
    | none, some h =>
      let m := forAll (msgParts 0 shardBytes) (fun m y =>
        emit m (.hostWrite (portOf m 34) (h.1 + shardBytes * v.place.slot + y.1) ((v.data.drop y.1).take y.2) false)) m
      rewriteEntry j v v.place.slot h.2 m
    | none, none => writeMoved j v m ts

def dropMoved (j : Nat) (v : MovedShard) (m : Mach) : Mach :=
  modSnap m j fun x => { x with moving := x.moving.filter fun y => y.op != v.op }

/-- A rebuilt shard is acknowledged, or goes to its next target. -/
def settleMoved (j : Nat) (v : MovedShard) (refused : Bool) (m : Mach) : Mach :=
  if refused then writeMoved j v (dropMoved j v m) v.left
  else rewriteEntry j v (freeVal m 24).toNat 0 (spendFree (dropMoved j v m))

/-- A store has lost a shard of a committed generation (R391). -/
def shardLostOp (j gen shard : Nat) (m : Mach) : Mach :=
  match (snapOf m j).gens.find? fun g => g.gen == gen with
  | some g =>
    if shard = manifestIdx then m
    else
      let p := if shard < g.nData then shard / max 1 g.k else (shard - g.nData) / max 1 g.m
      raise m snapShardLost (srcUnit 5) (some j) [j, gen, p, 1]
  | none => m

/-- SHARD_ACK (R370).  A refusal also tells of a write that has not ended and of a shard that was lost later (R391). -/
def shardAckOp (src j gen shard : Nat) (refused : Bool) (m : Mach) : Mach :=
  match (snapOf m j).moving.find? fun v => v.gen == gen && v.shard == shard && targetModule m (snapOf m j) v.target == some src with
  | some v => settleMoved j v refused m
  | none =>
  if !((snapOf m j).cut.any fun c => c.gen == gen) then (if refused then shardLostOp j gen shard m else m)
  else
  match sentTo m j src shard with
  | none =>
    match placedOn m j src shard with
    | some t => if refused then turnAway j shard t (modCut j (fun c => { c with acked := c.acked.filter fun x => x != (shard, t) }) m) else m
    | none => m
  | some w =>
      let t := w.2.2.1
      let m := modCut j (fun c => { c with sent := c.sent.filter fun x => x != w }) m
      if refused then turnAway j shard t m
      else if shard = manifestIdx then
        let m := modCut j (fun c => { c with manifested := if c.manifested.contains t then c.manifested else c.manifested ++ [t] }) m
        if ((snapOf m j).cut.bind (·.committing)).isSome then ackCommit j m else checkDone j m
      else pumpCut j (modCut j (fun c => { c with acked := c.acked ++ [(shard, t)] }) m)

def execShardAck (src j gen shard : Nat) (refused : Bool) (s : State) : Res :=
  actReady (decide (src < 4096 ∧ j < 16)) (shardAckOp src j gen shard refused) s

/-- REMOTE_TIMEOUT of a shard write (R370) or of a remote operation (R290). -/
def anyTimeoutOp (opid : Nat) (m : Mach) : Mach :=
  let w := (List.range 16).filterMap fun j =>
    match (snapOf m j).cut with
    | some c => (c.sent.find? fun x => x.1 == opid).map fun x => (j, x)
    | none => none
  let v := (List.range 16).findSome? fun j => ((snapOf m j).moving.find? fun y => y.op == opid).map fun y => (j, y)
  match w.head?, v with
  | none, some (j, y) => byTime (y.sentAt + 100 * regN m offRemoteTimeout) (settleMoved j y true) m
  | some (j, x), _ =>
    byTime (x.2.2.2 + 100 * regN m offRemoteTimeout)
      (fun m => turnAway j x.2.1 x.2.2.1 (modCut j (fun c => { c with sent := c.sent.filter fun y => y != x }) m)) m
  | none, none => remoteTimeoutOp opid m

def execRemoteTimeout (opid : Nat) (s : State) : Res := actReady true (anyTimeoutOp opid) s

/-! ### SNAP_STREAM_READ (R373, R376) -/

/-- Bytes read and not yet sent; the zeros that pad the last shard take no room. -/
def unsentBytes (m : Mach) (j : Nat) : Nat :=
  let sn := snapOf m j
  match sn.cut with
  | none => 0
  | some c =>
    ((List.range (nData c.total)).map fun s =>
      min shardBytes (c.stream.length - s * shardBytes) - (((c.prog.find? fun x => x.1 == s && x.2.1 != twinTarget).map (·.2.2)).getD 0)).foldl (· + ·) 0

/-- Bytes in the stream buffer, which all cuts in progress share (R37, R376). -/
def bufferBytes (m : Mach) : Nat := ((List.range 16).map (unsentBytes m)).foldl (· + ·) 0

/-- Version regions that no block of the stream reads any more leave their hold. -/
def releaseRegions (j : Nat) (m : Mach) : Mach :=
  let ps := match (snapOf m j).cut with | some c => c.pieces | none => []
  mapEntries m fun f _ e =>
    if e.snapHeld && e.job == j && !(ps.any fun x => x.facet == f && x.space == e.space && x.data.isNone
      && decide (4096 * e.base ≤ x.off) && decide (x.off < 4096 * (e.base + e.size))) then { e with snapHeld := false } else e

/-- Reads the next block: at most 65,536 bytes of the first piece. -/
def readBlock (j : Nat) (m : Mach) : Mach :=
  match (snapOf m j).cut with
  | none => m
  | some c =>
    match c.pieces with
    | [] => m
    | p :: t =>
      let n := min 65536 p.len
      let r : List Byte × Bool × Mach := match p.data with
        | some d => (d.take n, false, m)
        | none => readChecked m p.facet p.space p.off n
      let rest : List SnapPiece := if p.len ≤ n then t else ⟨p.facet, p.space, p.off + n, p.len - n, p.data.map (·.drop n)⟩ :: t
      let gone := if p.data.isNone && p.space == 1 then blocksOf p.facet p.off n else []
      releaseRegions j (modCut j (fun c => { c with
        stream := c.stream ++ r.1, pieces := rest, holds := c.holds.filter fun h => !gone.contains h }) r.2.2)

/-- A host slot: the next ring entry, or SNAP_RING_EMPTY (R94). -/
def takeEntry (j : Nat) (e : Option SnapEntryIn) (m : Mach) : Mach :=
  if !needsSlot m j then m
  else if !enabledRing m 34 || m.host.snapProd == m.host.snapCons then
    match (snapOf m j).cut.bind (·.ringEmpty) with
    | some _ => m
    | none => raise (modCut j (fun c => { c with ringEmpty := some m.edges }) m) snapRingEmpty (srcUnit 5) (some j) [j]
  else
    match e with
    | none => m
    | some e =>
      let a := entryAddr (regN m offSnapBase) m.host.snapCons.toNat (regN m 0x10058) 64
      let m := modHost m fun h => { h with snapCons := h.snapCons + 1 }
      modCut j (fun c => { c with ringEmpty := none, entries := c.entries ++ [⟨a, e.addr, e.tag, e.slots, 1, false⟩] }) m

/-- SNAP_STREAM_READ: a host slot where one is needed, the next block unless the shared buffer of 16 MiB has no room, and its shards. -/
def streamReadOp (j : Nat) (e : Option SnapEntryIn) (m : Mach) : Mach :=
  if (snapOf m j).cut.isNone then m
  else
    let m := pumpCut j (takeEntry j e m)
    let m := if 0x1000000 < bufferBytes m + 65536 then m else readBlock j m
    pumpCut j m

def execSnapStreamRead (j : Nat) (e : Option SnapEntryIn) (s : State) : Res := actReady (decide (j < 16)) (streamReadOp j e) s

/-- SNAP_RING_TIMEOUT: the ring has been empty too long while the engine needed a host slot (R376). -/
def ringTimeoutOp (j : Nat) (m : Mach) : Mach :=
  match (snapOf m j).cut.bind (·.ringEmpty) with
  | some e => if expired m e (regN m offRingTimeout) && needsSlot m j then abortCut j 5 m else m
  | none => m

def execSnapRingTimeout (j : Nat) (s : State) : Res := actReady (decide (j < 16)) (ringTimeoutOp j) s

/-! ### The leader and the members (R375) -/

/-- SNAP_DONE at the leader. -/
def snapDoneOp (src j gen : Nat) (m : Mach) : Mach :=
  match (snapOf m j).cut with
  | none => m
  | some c =>
    if c.gen ≠ gen || !isLeader (snapOf m j) then m
    else tryCommit j (modCut j (fun c => { c with
      membersDone := if c.membersDone.contains src then c.membersDone else c.membersDone ++ [src] }) m)

def execSnapDone (src j gen : Nat) (s : State) : Res := actReady (decide (src < 4096 ∧ j < 16)) (snapDoneOp src j gen) s

/-- SNAP_COMMIT at a member, its acknowledgement at the leader. -/
def snapCommitOp (src j gen : Nat) (ack : Bool) (commit : Nat) (losses : List Word) (m : Mach) : Mach :=
  match (snapOf m j).cut with
  | none => m
  | some c =>
    if c.gen ≠ gen then m
    else if ack then
      finishCommit j (modCut j (fun c => { c with
        membersAck := if c.membersAck.contains src then c.membersAck else c.membersAck ++ [src] }) m)
    else if c.done && c.committing.isNone then memberCommit j commit losses m else m

def execSnapCommit (src j gen : Nat) (ack : Bool) (commit : Nat) (losses : List Word) (s : State) : Res :=
  actReady (decide (src < 4096 ∧ j < 16)) (snapCommitOp src j gen ack commit losses) s

/-! ### The store (R367, R370) -/

def storeOfs (m : Mach) (slot : Nat) : Nat := regN m offStoreBase * 4096 + shardBytes * (slot / 96)

/-- The lowest slot that is free and lies on a facet in service. -/
def freeSlot (m : Mach) : Option Nat :=
  (List.range (96 * regN m offStoreSlots)).find? fun n =>
    !(m.store.any fun i => i.slot == n) && !(facetOf m (n % 96)).failed

def sameItem (src j gen shard : Nat) (mirror : Bool) (i : StoreItem) : Bool :=
  i.owner == src && i.job == j && i.gen == gen && i.shard == shard && i.mirror == mirror

/-- Bytes that a manifest held in a slot has, from its own counts. -/
def manifestLen (m : Mach) (slot : Nat) : Nat :=
  let h := readNat m (slot % 96) 1 (storeOfs m slot) 16
  let nd := bf h 95 64
  128 + 16 * (nd + bf h 106 105 * ceilDiv nd (max 1 (bf h 111 107)))

/-- A third committed generation of a member releases its oldest; mirrors that a takeover keeps stay until a replacement
has committed two (R377, R399). -/
def retainStore (src j : Nat) (m : Mach) : Mach :=
  let mine := m.store.filter fun i => i.owner == src && i.job == j && i.committed
  let kept (g : Nat) : Bool := m.twin.mirrors.contains (j, g)
  let gens := (((mine.map (·.gen)).eraseDups).filter fun g => !kept g).mergeSort fun a b => decide (a ≤ b)
  let old := gens.take (gens.length - 2)
  let m := { m with store := m.store.filter fun i => !(i.owner == src && i.job == j && i.committed && old.contains i.gen) }
  let replaced : Bool := src == m.twin.modNum && decide (2 ≤ gens.length) && m.twin.mirrors.any fun x => x.1 == j
  if replaced then
    { m with
      store := m.store.filter fun i => !(i.owner == src && i.job == j && i.mirror && kept i.gen)
      twin := { m.twin with mirrors := m.twin.mirrors.filter fun x => x.1 != j } }
  else m

/-- SHARD: bytes for the store; a new shard takes a slot or is refused. -/
def shardOp (src j gen shard ofs : Nat) (mirror : Bool) (data : List Byte) (m : Mach) : Mach :=
  let m := freeRxFrom src 3 (flitsOf data.length) m
  -- a newer generation's shard ends what an aborted cut left
  let m := { m with store := m.store.filter fun i => !(i.owner == src && i.job == j && !i.committed && decide (i.gen < gen)) }
  let same := sameItem src j gen shard mirror
  let m : Mach × Bool :=
    if m.store.any same then (m, true)
    else if ofs ≠ 0 then (m, false)
    else match freeSlot m with
      | some n =>
        -- a shard that comes back to a generation which is committed here belongs to it (R379)
        let com := (m.store.find? fun i => i.owner == src && i.job == j && i.gen == gen && i.committed).map (·.commit)
        ({ m with store := m.store ++ [⟨n, src, j, gen, shard, mirror, 0, com.getD 0, com.isSome⟩] }, true)
      | none => (sendMsg (raise m snapStoreFull (srcUnit 5) (some j) [src, j]) src (.shardAck (self m) j gen shard true), false)
  match m.2, m.1.store.find? same with
  | true, some i =>
    let m := writeChecked m.1 (i.slot % 96) 1 (storeOfs m.1 i.slot + ofs) data
    let len := max i.len (ofs + data.length)
    let head := readNat m (i.slot % 96) 1 (storeOfs m i.slot) 32
    let isMan := shard == manifestIdx
    let com := isMan && decide (128 ≤ len) && tb head 0
    let g (x : StoreItem) : StoreItem :=
      if same x then { x with len := len, commit := if com then bf head 255 192 else x.commit, committed := x.committed || com }
      else if com && x.owner == src && x.job == j && x.gen == gen then { x with committed := true, commit := bf head 255 192 } else x
    let m := { m with store := m.store.map g }
    let full := if isMan then decide (128 ≤ len) && decide (manifestLen m i.slot ≤ ofs + data.length) || (decide (128 ≤ i.len) && ofs == 0 && data.length == 64)
      else decide (ofs + data.length = shardBytes)
    let m := if com then retainStore src j m else m
    if full then sendMsg m src (.shardAck (self m) j gen shard false) else m
  | _, _ => m.1

def execShard (src j gen shard ofs : Nat) (mirror : Bool) (data : List Byte) (s : State) : Res :=
  actReady (decide (src < 4096 ∧ j < 16)) (shardOp src j gen shard ofs mirror data) s

/-! ### When cuts are taken (R380–R382) -/

/-- Failures since ARM: this member's, and, with other members, theirs, which no message carries (R381; log entry 48). -/
def failCount (m : Mach) (sn : SnapDom) : Nat :=
  if sn.members.length ≤ 1 then sn.nFail else sn.nFail + (Config.free 16 (m.free + 1)).toNat

/-- The interval of R381 in sweeps. -/
def cutInterval (m : Mach) (j : Nat) : Nat :=
  let sn := snapOf m j
  let nat (n : Nat) : Fp := r64 (fpInt (Int.ofNat n), 0)
  let q (a b : Fp) : Fp := r64 (fpDiv a b)
  let f := q (r64 (fpAdd (nat sn.sRun) (nat (regN m offMtbf)))) (nat (failCount m sn + 1))
  let floor_ := q (nat (regN m offCostMin)) (nat 1000)
  let cost := q (nat sn.cost) (nat (timing m).sweepLen)
  let c := if fpLt false floor_ cost then cost else floor_
  match r64 (fpSqrt (r64 (fpMul (r64 (fpMul (nat 2) c)) f))) with
  | .fin _ mant e => max 1 (ceilDiv (mant * 2 ^ e.toNat) (2 ^ (-e).toNat))
  | _ => 1

/-- The domain score: this module's, and those of the other members, which no message carries (R382). -/
def domainScore (m : Mach) (sn : SnapDom) : Nat :=
  if sn.members.length ≤ 1 then m.power.score else max m.power.score (freeVal m 10).toNat

def policyOf (m : Mach) (j : Nat) : Nat := bf (regN m (offSnapJob j)) 1 0

/-- SNAP_POLICY_DECISION: the leader decides 20 µs after a sweep edge. -/
def policyOp (j : Nat) (m : Mach) : Mach :=
  let sn := snapOf m j
  if !sn.armed || !isLeader sn || !m.tick.running || m.twin.frozen then m
  else
    let m := if m.tick.tickNo = m.tick.sweepFirst then atTime m (m.tick.edgeAt + 2000) else m
    let score := domainScore m sn
    let next := sn.lastCut + cutInterval m j
    let m := if sn.members.length ≤ 1 then m else spendFree (spendFree m)
    let m := modSnap m j fun x => { x with score := score, prevScore := sn.score, next := next }
    let pol := policyOf m j
    let rate := (pol == 1 || pol == 3) && decide (next ≤ cutSweep m)
    let thr := bf (regN m (offSnapJob j)) 25 16
    let risk := (pol == 2 || pol == 3) && decide (thr ≤ score)
      && (decide (sn.score < thr) || decide (sn.lastRisk + regN m offRiskRepeat ≤ m.tick.sweepNo))
    if !(rate || risk) || sn.cutAt.isSome then m
    else
      let m := if risk then modSnap m j fun x => { x with riskDue := true } else m
      if sn.cut.isNone then announceCut j m
      else if sn.deferred then m
      else raise (modSnap m j fun x => { x with deferred := true }) snapDeferred (srcUnit 5) (some j) [j, m.tick.sweepNo]

def execSnapPolicyDecision (j : Nat) (s : State) : Res := actReady (decide (j < 16)) (policyOp j) s

/-- SNAP_CUT at a member. -/
def snapCutOp (j sweep : Nat) (m : Mach) : Mach :=
  if (snapOf m j).armed then modSnap m j fun x => { x with cutAt := some sweep } else m

def execSnapCut (j sweep : Nat) (s : State) : Res := actReady (decide (j < 16)) (snapCutOp j sweep) s

/-! ### SNAP_TAKE (Tables 12.2, 12.3; R364, R366) -/

def stAction (d : DescIn) : Nat := db d 225 224
def stLen (d : DescIn) : Nat := db d 223 192
def stAddr (d : DescIn) : Nat := db d 191 128

def specSnapTake : OpSpec :=
  { code := 0x40, kinds := [2], admin := false, wcet := fun _ => 0, image := fun d => stAction d == 1
    bad := fun d => !dZero d 511 226 || stAction d == 3 || stAddr d % 64 != 0
      || (stAction d != 1 && (stLen d != 0 || stAddr d != 0))
    source := fun d => (stAddr d, stLen d)
    addr := fun m d => if stAction d = 1 then hostStatus m d (stAddr d) (stLen d) false else 0 }

def dtHead (l : List Byte) : Nat := imgNat l 0 64
def dtMembers (l : List Byte) : Nat := bf (dtHead l) 12 0
def dtTargets (l : List Byte) : Nat := bf (dtHead l) 43 37
def dtMember (l : List Byte) (i : Nat) : Nat := imgNat l (64 + 8 * i) 8
def dtTarget (l : List Byte) (i : Nat) : Nat := imgNat l (64 + 8 * dtMembers l + 8 * i) 8

/-- The members and targets of a table. -/
def readMembers (l : List Byte) : List (Nat × Nat) :=
  (List.range (dtMembers l)).map fun i => let w := dtMember l i; (bf w 11 0, bf w 23 12)
def readTargets (l : List Byte) : List (Nat × Nat) :=
  (List.range (dtTargets l)).map fun i => let w := dtTarget l i; (bf w 13 13, bf w 11 0)

/-- Does the table break R364? -/
def tableBad (m : Mach) (len : Nat) (l : List Byte) : Bool :=
  let h := dtHead l
  let n := dtMembers l
  let t := dtTargets l
  let ms := readMembers l
  let ts := readTargets l
  let k := bf h 48 44
  let p := bf h 50 49
  h >>> 52 != 0 || n == 0 || decide (4096 < n) || t == 0 || decide (64 < t) || decide (k < 4) || decide (16 < k) || p == 0
    || decide (n ≤ bf h 24 13) || decide (n ≤ bf h 36 25) || len != 64 + 8 * n + 8 * t
    || (List.range n).any (fun i => bf (dtMember l i) 63 24 != 0)
    || (List.range t).any (fun i => let w := dtTarget l i
      bf w 63 14 != 0 || bf w 12 12 != 0 || (bf w 13 13 == 0 && bf w 11 0 != 0))
    || (ms[bf h 24 13]?).map (·.1) != some (self m)
    || (ms.map (·.1)).eraseDups.length != n
    || ((ts.filter fun x => x.1 == 1).map (·.2)).eraseDups.length != (ts.filter fun x => x.1 == 1).length
    || ms.any (fun x => ((ms[x.2]?).map (·.2)) != some x.2)
    || decide (1 < (ts.filter fun x => x.1 == 0).length)
    || decide ((effTargets m ts).length < k + p)
    || (tb h 51 && !m.twin.paired)

/-- The table with SELF at 0, which members compare (R364). -/
def tableCrc (l : List Byte) : W32 :=
  let h := dtHead l
  BitVec.ofNat 32 (crc32 (leBytes 64 (h - bf h 24 13 * 2 ^ 13) ++ l.drop 64))

/-- Sends the table's CRC to the leader. -/
def sendTableCrc (j : Nat) (m : Mach) : Mach :=
  let sn := snapOf m j
  if isLeader sn then m else sendMsg m (memberModule sn sn.leader) (.snapCheck (self m) j sn.crc)

/-- Installs a table. -/
def armTable (j : Nat) (l : List Byte) (m : Mach) : Mach :=
  let h := dtHead l
  sendTableCrc j (modSnap (abortCut j 3 m) j fun x => { SnapDom.init with
    armed := true, mirror := tb h 51, m := bf h 50 49, k := bf h 48 44, leader := bf h 36 25, self := bf h 24 13
    members := readMembers l, targets := readTargets l, crc := tableCrc l, gens := x.gens, lastCut := m.tick.sweepNo
    bad := x.bad, verify := x.verify, cursors := x.cursors, roomless := x.roomless })

/-- SNAP_TAKE at its sweep edge. -/
def effCut : Effect := fun d m =>
  let j := dJob m d
  if !(snapOf m j).armed then (some (0x72, 0), m)
  else if (snapOf m j).cut.isSome then (some (0x71, 0), m)
  else (some (0, 0), takeCut j false m)

def effArm : Effect := fun d m =>
  let l := (imageBytes d).getD []
  if tableBad m (stLen d) l then (some (0x70, 0), m) else (some (0, 0), armTable (dJob m d) l m)

/-- Ends a job's snapshot domain: the cut aborts and every generation is released (R366, R377). -/
def disarm (j : Nat) (m : Mach) : Mach :=
  let m := abortCut j 3 m
  let m := forAll (snapOf m j).gens (releaseGen j) m
  let m := { m with store := m.store.filter fun i => !(i.job == j && !(m.twin.mirrors.contains (i.job, i.gen))) }
  modSnap m j fun x => { SnapDom.init with bad := x.bad, verify := x.verify, cursors := x.cursors, roomless := x.roomless }

def effDisarm : Effect := fun d m => (some (0, 0), disarm (dJob m d) m)

def effSnapTake : Effect := fun d m =>
  if stAction d = 0 then effCut d m else if stAction d = 1 then effArm d m else effDisarm d m

def execSnapTakeCut (d : DescIn) (s : State) : Res :=
  actReady (decide (d.ring < 32)) (onlyIf (stAction d == 0) (descRow specSnapTake effCut d)) s
def execSnapTakeArm (d : DescIn) (s : State) : Res :=
  actReady (decide (d.ring < 32)) (onlyIf (stAction d == 1) (descRow specSnapTake effArm d)) s
def execSnapTakeDisarm (d : DescIn) (s : State) : Res :=
  actReady (decide (d.ring < 32)) (onlyIf (stAction d == 2) (descRow specSnapTake effDisarm d)) s

/-- SNAP_CHECK: the leader answers a table that differs from its own with its CRC; a member whose CRC differs from the
leader's raises SNAP_MISMATCH and stays unarmed (R364). -/
def snapCheckOp (src j : Nat) (crc : W32) (m : Mach) : Mach :=
  let sn := snapOf m j
  if !sn.armed || crc == sn.crc then m
  else if isLeader sn then sendMsg m src (.snapCheck (self m) j sn.crc)
  else if src = memberModule sn sn.leader then
    raise (modSnap m j fun x => { x with armed := false }) snapMismatch (srcUnit 5) (some j) [j, m.tick.sweepNo]
  else m

def execSnapCheck (src j : Nat) (crc : W32) (s : State) : Res := actReady (decide (src < 4096 ∧ j < 16)) (snapCheckOp src j crc) s

end Sys2Proof.Machine
end

