-- ==== Sys2Proof/Machine/Restores.lean ====
section
/-!
DEFINITION. Restores (R383–R388): SNAP_RESTORE, the gathering of manifests, the choice of a generation, and what a
restore writes.
-/
namespace Sys2Proof.Machine

/-! ### SNAP_RESTORE (Table 12.6) -/

def srHostN (d : DescIn) : Nat := db d 306 291
def srLen (d : DescIn) : Nat := db d 287 256
def srAddr (d : DescIn) : Nat := db d 255 192

/-- Stage contexts of a job on this module. -/
def jobStages (m : Mach) (j : Nat) : List MapSc := match fillMap m j with | some pm => pm.scs | none => []

/-- 4 KiB units that a locus layout takes. -/
def layoutUnits (l : Locus) : Nat := (l.layers.map fun y => y.offset + layerTakes l y).foldl max 0

def spaceUnits (sp : Nat) : Nat := if sp = 0 then Config.spadSize / 4096 else Config.hbmSize / 4096

/-- SNAP_LAYOUT: a locus image is missing, or the first automatic region cannot hold its layout (R383). -/
def layoutBad (m : Mach) (j : Nat) : Bool :=
  (jobStages m j).any fun e =>
    let l := locusOf m e.facet e.sc
    !l.installed || decide (spaceUnits l.autoSpace < l.autoBase0 + layoutUnits l)

/-- A stage context of the job stands on a failed facet that nothing has taken over for it (R393). -/
def noRoom (m : Mach) (j : Nat) : Option Nat :=
  match (snapOf m j).roomless with
  | some f =>
    let x := facetOf m f
    let lost := x.failed || (x.hostedBy.isSome && !((jobOf m j).guests.any fun g => g.1 == f))
    if lost && (jobStages m j).any (·.facet == f) then some f else none
  | none => none

def modRestore (j : Nat) (g : Restore → Restore) (m : Mach) : Mach := modSnap m j fun x => { x with restore := x.restore.map g }

/-- Completes the job's SNAP_RESTORE.  The leader keeps what the members reported: one may still fall back (R387). -/
def endRestore (j status detail : Nat) (m : Mach) : Mach :=
  match (snapOf m j).restore with
  | none => m
  | some r =>
    let m := modSnap m j fun x => { x with restore := none, lastReports := r.reports, lastWant := r.want }
    completeAt m r.quiet ⟨r.ring, r.index, r.tag, status, 0x41, j, detail, 0, (stamp m).1, (stamp m).2⟩

/-- A module's COMMITTED manifests of a generation. -/
def manifestsOf (r : Restore) (md g : Nat) : List ManifestInfo :=
  r.manifests.filter fun x => x.modNum == md && x.gen == g && x.committed

/-- The winning copy: highest COMMIT (R385). -/
def winning (r : Restore) (md g : Nat) : Option ManifestInfo :=
  (manifestsOf r md g).foldl (fun (b : Option ManifestInfo) x => match b with
    | none => some x
    | some y => if y.commit < x.commit then some x else some y) none

/-- Two COMMITTED copies of the same COMMIT name different shards (R385). -/
def diverges (r : Restore) (md g : Nat) : Bool :=
  let l := manifestsOf r md g
  l.any fun a => l.any fun b => a.commit == b.commit && a.crcs != b.crcs

/-- Module of the writer whose sections this member restores. -/
def writerModule (sn : SnapDom) : Nat := memberModule sn (((sn.members[sn.self]?).map (·.2)).getD sn.self)

/-- Shards of polygon `p` as the manifest numbers them. -/
def polyData (w : ManifestInfo) (p : Nat) : List Nat := ((List.range w.k).map (p * w.k + ·)).filter fun d => decide (d < w.nData)
def polyParity (w : ManifestInfo) (p : Nat) : List Nat := (List.range w.m).map (w.nData + p * w.m + ·)
def polyShards (w : ManifestInfo) (p : Nat) : List Nat := polyData w p ++ polyParity w p
def polygons (w : ManifestInfo) : List Nat := List.range (ceilDiv w.nData (max 1 w.k))

/-- Is a shard known to have no copy before it is read: its target did not answer, holds it no more or was not given as a source,
and no mirror of it can be had (R384, R386)? -/
def knownLost (m : Mach) (j : Nat) (r : Restore) (w : ManifestInfo) (s : Nat) : Bool :=
  match w.places[s]? with
  | none => false
  | some p =>
    let there := match (snapOf m j).targets[p.target]? with
      | some (1, md) =>
        if md = self m then m.store.any fun i => i.owner == w.modNum && i.job == j && i.gen == w.gen && i.shard == s && !i.mirror
        else r.answered.contains md
      | some _ => r.manifests.any fun x => x.home.any fun h => h.2 == p.tag
      | none => false
    let mirrored := p.mslot != 0xFFFFFF && (w.modNum != self m || (m.twin.paired && r.answered.contains m.twin.modNum))
    !there && !mirrored

/-- Has every polygon of the generation at most M shards that are known to be lost (R384)? -/
def repairable (m : Mach) (j : Nat) (r : Restore) (w : ManifestInfo) : Bool :=
  (polygons w).all fun p => decide (((polyShards w p).filter (knownLost m j r w)).length ≤ w.m)

/-- Generations this member can restore (R384), newest first. -/
def restorable (m : Mach) (j : Nat) : List Nat :=
  match (snapOf m j).restore with
  | none => []
  | some r =>
    let w := writerModule (snapOf m j)
    let ok (md g : Nat) : Bool := match winning r md g with
      | some x => !(diverges r md g) && repairable m j r x
      | none => false
    let gs := ((r.manifests.filter fun x => x.modNum == self m && x.committed).map (·.gen)).eraseDups
    (gs.filter fun g => !r.refused.contains g && ok (self m) g && ok w g).mergeSort fun a b => decide (b ≤ a)

/-- The leader's choice from what the members reported, once every one has: a generation, or none that qualifies (R384). -/
def chooseFrom (m : Mach) (sn : SnapDom) (reports : List (Nat × List Nat)) (want : Nat) : Option (Option Nat) :=
  let mods := domainModules sn
  let rep (d : Nat) : Option (List Nat) := (reports.find? fun x => x.1 == d).map (·.2)
  if !(mods.all fun d => (rep d).isSome) then none
  else
    let common := ((rep (self m)).getD []).filter fun g => mods.all fun d => ((rep d).getD []).contains g
    if want ≠ 0 then some (if common.contains want then some want else none)
    else some (((common.filter fun g => !sn.bad.contains g).mergeSort fun a b => decide (b ≤ a)).head?)

/-- SNAP_CHOICE: the generation to read, or SNAP_NO_GEN. -/
def choiceOp (j gen : Nat) (none_ : Bool) (m : Mach) : Mach :=
  match (snapOf m j).restore with
  | none => m
  | some _ => if none_ then endRestore j 0x74 0 m else modRestore j (fun r => { r with chosen := some gen, held := none }) m


/-- A member's report in place of its last. -/
def putReport (src : Nat) (gens : List Nat) (l : List (Nat × List Nat)) : List (Nat × List Nat) := (l.filter fun x => x.1 != src) ++ [(src, gens)]

/-- A member's report at the leader; once all are in, the choice goes to every member.  A member that falls back after the
leader's own restore has ended is answered from what the others reported (R387). -/
def gensOp (src j : Nat) (gens : List Nat) (m : Mach) : Mach :=
  let sn := snapOf m j
  if !isLeader sn then m
  else
    match sn.restore with
    | some r =>
      let l := putReport src gens r.reports
      let m := modRestore j (fun r => { r with reports := l }) m
      match chooseFrom m sn l r.want with
      | none => m
      | some c =>
        let m := forAll ((domainModules sn).filter fun d => d != self m) (fun m d => sendMsg m d (.snapChoice j (c.getD 0) c.isNone)) m
        choiceOp j (c.getD 0) c.isNone m
    | none =>
      let l := putReport src gens sn.lastReports
      match chooseFrom m sn l sn.lastWant with
      | none => m
      | some c => sendMsg (modSnap m j fun x => { x with lastReports := l }) src (.snapChoice j (c.getD 0) c.isNone)

/-- Reports this member's restorable generations to the leader; a generation whose copies differ is suspect (R385). -/
def reportGens (j : Nat) (m : Mach) : Mach :=
  let sn := snapOf m j
  match sn.restore with
  | none => m
  | some r =>
    let mods := [self m] ++ if writerModule sn = self m then [] else [writerModule sn]
    let bad := mods.flatMap fun d => (((r.manifests.filter fun x => x.modNum == d && x.committed).map (·.gen)).eraseDups.filter
      fun g => diverges r d g && !r.refused.contains g).map fun g => (g, d)
    let m := forAll bad (fun m x => raise m divergeEv (srcUnit 5) (some j) [j, x.1, x.2]) m
    let m := modRestore j (fun r => { r with refused := (r.refused ++ bad.map (·.1)).eraseDups }) m
    let gs := restorable m j
    if isLeader sn then gensOp (self m) j gs m else sendMsg m (memberModule sn sn.leader) (.snapGens (self m) j gs)

/-! ### Manifests (R383) -/

/-- What the store says in a manifest. -/
def readManifest (m : Mach) (i : StoreItem) : ManifestInfo :=
  let f := i.slot % 96
  let a := storeOfs m i.slot
  let h := readNat m f 1 a 64
  let nd := bf h 95 64
  let n := nd + bf h 106 105 * ceilDiv nd (max 1 (bf h 111 107))
  { modNum := bf h 127 116, gen := bf h 191 128, commit := bf h 255 192, committed := tb h 0, mzero := tb h 104
    k := bf h 111 107, m := bf h 106 105, nData := nd
    crcs := (List.range n).map fun e => BitVec.ofNat 32 (readNat m f 1 (a + 128 + 16 * e + 12) 4)
    sections := (List.range 4).map fun s => readNat m f 1 (a + 64 + 8 * s) 8
    losses := (List.range 4).map fun p => word (readNat m f 1 (a + 32 + 8 * p) 8)
    places := (List.range n).map fun e =>
      let w := readNat m f 1 (a + 128 + 16 * e) 12
      ⟨bf w 31 26, bf w 71 48, bf w 95 72, bf w 47 32⟩
    home := none }

/-- Every manifest of a job that the directory holds. -/
def heldManifests (m : Mach) (j : Nat) : List ManifestInfo :=
  (m.store.filter fun i => i.job == j && i.shard == manifestIdx && decide (128 ≤ i.len)).map (readManifest m)

/-- DONE of the ring entries that a restore has read (R383): byte 13 of the entry, its bits 104 and 105; FAILED where its slot 0
could not be read. -/
def doneEntries (j : Nat) (ms : List (Option ManifestInfo)) (m : Mach) : Mach :=
  let l := match (snapOf m j).restore with | some r => r.places | none => []
  let down := !(epOf m (portOf m 34)).up
  forAll l.zipIdx (fun m (a, i) =>
    emit m (.hostWrite (portOf m 34) (a + 13) [if down || ms[i]? == some none then 3 else 1] false)) m

/-- SNAP_MANIFESTS: a request is answered; a reply joins what was gathered, `src` of this module standing for its host
entries, one element for each. -/
def manifestsOp (src j : Nat) (request : Bool) (ms : List (Option ManifestInfo)) (m : Mach) : Mach :=
  if request then sendMsg m src (.snapManifests (self m) j false ((heldManifests m j).map some))
  else
    match (snapOf m j).restore with
    | none => m
    | some r =>
      if !r.awaited.contains src || r.answered.contains src then m
      else
        let m := if src = self m then doneEntries j ms m else m
        let m := modRestore j (fun r => { r with
          manifests := r.manifests ++ ms.filterMap id, answered := r.answered ++ [src] }) m
        if r.awaited.all fun d => d == src || r.answered.contains d then reportGens j m else m

/-- SNAP_RESTORE; with nobody to wait for, the generations are reported as soon as the descriptor is among the open ones. -/
def specRestore : OpSpec :=
  { code := 0x41, kinds := [0], admin := true, wcet := fun _ => 0, image := fun _ => true
    bad := fun d => !dZero d 511 307 || srAddr d % 64 != 0
    source := fun d => (srAddr d, srLen d)
    addr := fun m d => hostStatus m d (srAddr d) (srLen d) false
    after := fun d m => match (snapOf m (dJob m d)).restore with
      | some r => if r.awaited.isEmpty then reportGens (dJob m d) m else m
      | none => m }

/-- SNAP_RESTORE: the table is installed and every reachable source is asked for its manifests; this module's own store is one of
the peers that the table may name.  With fewer entries in the snapshot ring than HOST_N the restore reads those that are there
(log entry 49). -/
def effRestore : Effect := fun d m =>
  let j := dJob m d
  let l := (imageBytes d).getD []
  if m.tick.running then (some (0x73, 0), m)
  else if tableBad m (srLen d) l then (some (0x70, 0), m)
  else if layoutBad m j then (some (0x76, 0), m)
  else
    match noRoom m j with
    | some f => (some (0x75, f), m)
    | none =>
      let m := armTable j l m
      let peers := ((snapOf m j).targets.filter fun t => t.1 == 1 && t.2 != self m).map (·.2)
      let peers := (peers ++ if m.twin.paired then [m.twin.modNum] else []).eraseDups
      let peers := peers.filter fun p => p != self m && (routeOf m p).isSome
      let n := if enabledRing m 34 then min (srHostN d) (m.host.snapProd - m.host.snapCons).toNat else 0
      let places := (List.range n).map fun i => entryAddr (regN m offSnapBase) (m.host.snapCons.toNat + i) (regN m 0x10058) 64
      let m := forAll places (fun m a => emit m (.hostRead (portOf m 34) a 64 false)) m
      let m := modHost m fun h => { h with snapCons := h.snapCons + BitVec.ofNat 32 n }
      let r : Restore :=
        { ring := d.ring, index := d.index, tag := dTag d, want := db d 191 128, exclHist := db d 288 288 == 1
          exclProj := db d 289 289 == 1, verify := db d 290 290 == 1, quiet := dQuiet d, places := places
          awaited := peers ++ if n = 0 then [] else [self m], answered := [], manifests := heldManifests m j, refused := [], reports := []
          chosen := none, held := none }
      let m := modSnap m j fun x => { x with restore := some r }
      let m := forAll peers (fun m p => sendMsg m p (.snapManifests (self m) j true [])) m
      (none, m)

def execSnapRestore (d : DescIn) (s : State) : Res := actReady (decide (d.ring < 32)) (descRow specRestore effRestore d) s

/-! ### What a restore writes (R388) -/

/-- `n` bytes of the stream as a number. -/
def strNat (l : List Byte) (o n : Nat) : Nat := leNat ((l.drop o).take n)

/-- Moment areas, in the order of the section; without moments they take +0. -/
def putMoments (j : Nat) (src : Option (List Byte)) (m : Mach) : Mach :=
  let ps := (List.range 4).flatMap (momentPieces m j)
  (ps.foldl (fun (x : Mach × Nat) p =>
    let b := match src with | some l => (l.drop x.2).take p.len | none => List.replicate p.len 0
    (writeChecked x.1 p.facet p.space p.off b, x.2 + p.len)) (m, 0)).1

/-- Weights of a pipeline's layers at the first automatic region. -/
def putWeights (j : Nat) (ps : List Nat) (src : List Byte) (m : Mach) : Mach :=
  let ls := ps.flatMap (steadyLayers m j)
  (ls.foldl (fun (x : Mach × Nat) (y, e) =>
    let l := locusOf m e.facet e.sc
    let n := 4096 * (shardOf m e y).2
    (writeChecked x.1 e.facet l.autoSpace (4096 * (l.autoBase0 + layerOffset m e y)) ((src.drop x.2).take n), x.2 + n)) (m, 0)).1

/-- The locus of a stage context after a restore. -/
def restoredLocus (j p tag : Nat) (m : Mach) (x : Nat × Nat) : Mach :=
  let l := locusOf m x.1 x.2
  let n := layoutUnits l
  let d := readChecked m x.1 l.autoSpace (4096 * l.autoBase0) (4096 * n)
  let e : VerEntry := { VerEntry.init with
    crc := BitVec.ofNat 32 (crc32 d.1), sealTick := m.tick.tickNo, size := n, base := l.autoBase0, space := l.autoSpace
    source := 0, vtag := tag, pipe := p, job := j, state := 3 }
  modLocus d.2.2 x.1 x.2 fun y => { y with entries := [e, VerEntry.init, VerEntry.init, VerEntry.init] }

/-- Per-pipeline values of STATE: 64 bytes each, in the order that a cut writes them. -/
def putPipe (j : Nat) (st : List Byte) (m : Mach) (p : Nat) : Mach :=
  let o := 48 + 64 * p
  let tag := strNat st o 8
  let ok := strNat st (o + 8) 8 == 1
  let cur := if strNat st (o + 56) 8 = 1 then none else some (word (strNat st (o + 40) 8), strNat st (o + 48) 8)
  let m := if ok then forAll (pipeScs m j p) (restoredLocus j p tag) m
    else forAll (pipeScs m j p) (fun m x => modLocus m x.1 x.2 fun y => { y with entries := List.replicate 4 VerEntry.init }) m
  let row : Option VerRow := if ok && isHome m j p then some ⟨tag, 3, false, 0⟩ else none
  let m := modSnap m j fun x => { x with cursors := x.cursors.set p cur }
  modPipe m j p fun x => { x with
    pub := if ok then some tag else none, rows := [row, none, none, none], liveMbs := [], abandoned := [], lostAt := [], checks := [], asked := [], switches := []
    step := strNat st (o + 16) 8, sched := x.sched.map fun s => { s with m := strNat st (o + 24) 8 }
    bnoiseEma := BitVec.ofNat 32 (strNat st (o + 32) 8), lastCursor := cur }

/-- Histories of STATE; a tensor of which the restored state has none enters cold (R237, R238). -/
def putHist (j : Nat) (st : List Byte) (excl : Bool) (m : Mach) : Mach :=
  let n := strNat st 304 8
  if excl then
    let ts := (jobOf m j).amax.map (·.tensor)
    let m := modJob m j fun x => { x with amax := x.amax.map fun a => { a with entries := [] }, amaxPend := [] }
    forAll ts (fun m t => raise m scaleCold (srcUnit 6) (some j) [j, t, 2, m.tick.sweepNo]) m
  else
    let hist (i : Nat) : Amax :=
      let o := 320 + 80 * i
      ⟨strNat st o 8, (List.range (strNat st (o + 8) 8)).map fun k => BitVec.ofNat 32 (strNat st (o + 16 + 4 * k) 4)⟩
    let l := (List.range n).map hist
    let bare := (jobOf m j).amax.filter fun a => !(l.any fun b => b.tensor == a.tensor)
    let m := modJob m j fun x => { x with amax := l ++ bare.map (fun a => { a with entries := [] }), amaxPend := [] }
    forAll bare (fun m a => raise m scaleCold (srcUnit 6) (some j) [j, a.tensor, 2, m.tick.sweepNo]) m

/-- A record of PROJ in STATE: E and Q go to the workspace that the layer has now, or had at the cut where it is no longer projected.
None goes back where ROWS or COLS have changed, or where another module holds the layer now. -/
def putMark (j : Nat) (r : ProjRec) (d : List Byte) (m : Mach) : Mach :=
  let y := (pipeChans m j r.pipe).findSome? fun n => (chanOf m n).layers.find? fun y => y.layer == r.layer
  match layerHolder m j r.pipe r.layer, y with
  | some e, some y =>
    if y.rank ≠ 0 ∧ (y.rows ≠ r.rows ∨ y.cols ≠ r.cols) then m
    else
      let r : ProjRec := { r with facet := e.facet, base := if y.rank = 0 then r.base else y.projBase }
      let w := workspaceAt r.base r.rows r.cols
      let n := 4 * r.rows * r.cols
      modJob (writeChecked (writeChecked m e.facet 1 w.res (d.take n)) e.facet 1 w.q (d.drop n)) j fun z => { z with proj := z.proj ++ [r] }
  | _, _ => m

/-- Residuals and Q, in the order in which the cut recorded them; a layer that the restore has none of starts cold (R360). -/
def putProj (j : Nat) (st src : List Byte) (excl : Bool) (m : Mach) : Mach :=
  let base := 320 + 80 * strNat st 304 8
  let marks := (List.range (strNat st 312 8)).map fun i =>
    let w (k : Nat) : Nat := strNat st (base + 24 * i + 4 * k) 4
    (⟨w 0, w 1, w 2, 0, w 5, w 3, w 4⟩ : ProjRec)
  let m := modJob m j fun x => { x with proj := [] }
  let m := (marks.foldl (fun (x : Mach × Nat) r =>
    let n := if r.rank = 0 then 0 else 4 * r.rows * r.cols + 4 * r.cols * r.rank
    (if r.rank = 0 || excl then x.1 else putMark j r ((src.drop x.2).take n) x.1, x.2 + n)) (m, 0)).1
  forAll (projLayers m j) (fun m (p, y) =>
    match layerHolder m j p y.layer, projRec m j p y.layer with
    | some e, none => raise m projCold (srcFacet e.facet 8) (some j) [j, p, y.layer, m.tick.sweepNo]
    | _, _ => m) m

/-! ### The shards that were read (R386, R387) -/

/-- A good copy of a shard: its CRC-32 is that of the winning manifest; a polygon copy or a mirror copy may serve. -/
def goodCopy (w : ManifestInfo) (copies : List ShardRead) (s : Nat) : Option (List Byte) :=
  (copies.find? fun c => c.owner == w.modNum && c.idx == s && w.crcs[s]? == some (BitVec.ofNat 32 (crc32 c.data))).map (·.data)

/-- Shards of a polygon with no good copy. -/
def erasedShards (w : ManifestInfo) (copies : List ShardRead) (p : Nat) : List Nat :=
  (polyShards w p).filter fun s => (goodCopy w copies s).isNone

def gfProd (l : List Nat) : Nat := l.foldl gfMul 1

/-- Element of the inverse of the Cauchy matrix 1 / (x + y) of the rows `xs` and columns `ys`. -/
def cauchyInv (xs ys : List Nat) (x y : Nat) : Nat :=
  let num := gfMul (gfProd (xs.map (y ^^^ ·))) (gfProd (ys.map (x ^^^ ·)))
  let den := gfMul (gfMul (gfProd ((xs.filter (· != x)).map (x ^^^ ·))) (gfProd ((ys.filter (· != y)).map (y ^^^ ·)))) (x ^^^ y)
  gfMul num (gfInv den)

/-- Bytes of an erased data shard, from the good data shards and as many good parity shards as data shards are erased (R369). -/
def rebuildData (w : ManifestInfo) (copies : List ShardRead) (p d : Nat) : List Byte :=
  let bytes (s : Nat) : List Byte := (goodCopy w copies s).getD []
  let good := (polyData w p).filter fun s => (goodCopy w copies s).isSome
  let lost := (polyData w p).filter fun s => (goodCopy w copies s).isNone
  let rows := ((List.range w.m).filter fun i => (goodCopy w copies (w.nData + p * w.m + i)).isSome).take lost.length
  let cols := lost.map fun s => 3 + (s - p * w.k)
  let known (i : Nat) : List (Nat × List Byte) := (1, bytes (w.nData + p * w.m + i)) :: good.map fun s => (parityCoef i (s - p * w.k), bytes s)
  let terms := rows.map fun i => (cauchyInv rows cols i (3 + (d - p * w.k)), known i)
  (List.range shardBytes).map fun b =>
    let rhs (l : List (Nat × List Byte)) : Nat := l.foldl (fun acc x => acc ^^^ gfMul x.1 (x.2.getD b 0).toNat) 0
    BitVec.ofNat 8 (terms.foldl (fun acc t => acc ^^^ gfMul t.1 (rhs t.2)) 0)

/-- The stream of a cut from the copies read, with the shards that were rebuilt as polygon and shard; none with a polygon that
has more than M erased. -/
def recover (w : ManifestInfo) (copies : List ShardRead) : Option (List Byte × List (Nat × Nat)) :=
  let ps := polygons w
  if ps.any fun p => decide (w.m < (erasedShards w copies p).length) then none
  else some ((List.range w.nData).flatMap fun d => (goodCopy w copies d).getD (rebuildData w copies (d / max 1 w.k) d),
    ps.flatMap fun p => (erasedShards w copies p).map fun s => (p, s))

/-- Rebuilt shards go back to the targets that R370 names: none that holds another shard of the polygon (R379). -/
def replaceShards (j : Nat) (r : Restore) (w : ManifestInfo) (stream : List Byte) (rebuilt : List (Nat × Nat)) (m : Mach) : Mach :=
  let sn := snapOf m j
  let coded := { sn with k := w.k, m := w.m }
  let homes := (manifestsOf r w.modNum w.gen).filterMap (·.home)
  forAll rebuilt (fun m x =>
    let parity := x.2 - w.nData
    let place := if x.2 < w.nData then x.2 % max 1 w.k else w.k + parity % max 1 w.m
    let bytes := if x.2 < w.nData then dataBytes stream x.2 0 shardBytes
      else parityBytes coded stream w.nData x.1 (parity % max 1 w.m) 0 shardBytes
    let now (s : Nat) : Nat := (((snapOf m j).moving.find? fun v => v.gen == w.gen && v.shard == s).map (·.target)).getD
      (((w.places[s]?).map (·.target)).getD 64)
    let others := ((polyShards w x.1).filter (· != x.2)).map now
    let v : MovedShard :=
      { gen := w.gen, shard := x.2, poly := x.1, target := 0, left := [], data := bytes, crc := w.crcs.getD x.2 0
        place := w.places.getD x.2 ⟨64, 0, 0xFFFFFF, 0⟩, homes := homes, op := 0, sentAt := 0 }
    writeMoved j v m ((targetOrder m sn x.1 place).filter fun t => !others.contains t)) m

/-- SNAP_REBUILT for each polygon, with the number of its rebuilt shards (R387). -/
def rebuiltEvents (j g : Nat) (rebuilt : List (Nat × Nat)) (m : Mach) : Mach :=
  forAll ((rebuilt.map (·.1)).eraseDups) (fun m p =>
    raise m snapRebuilt (srcUnit 5) (some j) [j, g, p, (rebuilt.filter fun x => x.1 == p).length]) m

/-- Does a shift copy run in a row that holds a stage context of the job (R396)? -/
def jobShifting (m : Mach) (j : Nat) : Bool := (jobStages m j).any fun e => rowShifting m e.facet

/-- Do the reader's layers differ from its writer's: what it holds of the published pipelines has not the length of the writer's
sections (R383; log entry 49)? -/
def readerDiffers (m : Mach) (j : Nat) (w : ManifestInfo) (ok : List Nat) : Bool :=
  let sec (i : Nat) : Nat := w.sections.getD i 0
  let weights := ((ok.flatMap (steadyLayers m j)).map fun (y, e) => 4096 * (shardOf m e y).2).foldl (· + ·) 0
  let moments := piecesLen ((List.range 4).flatMap (momentPieces m j))
  w.modNum != self m && (weights != sec 3 - sec 2 || (!w.mzero && moments != sec 2 - sec 1))

/-- What a restore writes from the member's own stream and its writer's (R388): own and writer's manifests, streams and rebuilt
shards. -/
def writeRestore (j g : Nat) (r : Restore) (own w : ManifestInfo) (a b : List Byte × List (Nat × Nat)) (m : Mach) : Mach :=
  let sec (i : Nat) : Nat := w.sections.getD i 0
  let part (i n : Nat) : List Byte := (b.1.drop (sec i)).take n
  let st := a.1.take (own.sections.getD 1 0)
  let ok := (List.range 4).filter fun p => strNat st (48 + 64 * p + 8) 8 == 1
  let m := rebuiltEvents j g (if own.modNum = w.modNum then a.2 else a.2 ++ b.2) m
  let m := replaceShards j r own a.1 a.2 m
  let m := putMoments j (if w.mzero then none else some (part 1 (sec 2 - sec 1))) m
  let m := putWeights j ok (part 2 (sec 3 - sec 2)) m
  let m := modJob m j fun x => { x with srKey := BitVec.ofNat 128 (strNat st 16 16), halted := false }
  let m := forAll (List.range 4) (putPipe j st) m
  let m := putHist j st r.exclHist m
  let m := putProj j st (b.1.drop (sec 3)) r.exclProj m
  let m := modSnap m j fun x => { x with
    sRun := strNat st 32 8, nFail := strNat st 40 8, commitCtr := (r.manifests.map (·.commit)).foldl max 0, lastCut := g
    roomless := none, verify := if r.verify then some (g, own.losses) else none }
  raise (endRestore j 0 (g % 2 ^ 32) m) snapRestoredEv (srcUnit 5) (some j) [j, g]

/-- A polygon is beyond repair: the restore starts again from the older generation (R387). -/
def fallBack (j g : Nat) (m : Mach) : Mach :=
  let m := raise m snapFallback (srcUnit 5) (some j) [j, g, self m]
  reportGens j (modRestore j (fun r => { r with refused := r.refused ++ [g], chosen := none }) m)

/-- SNAP_RESTORED: the read of generation `gen` ends with these copies of the shards; the state is written, or, with a polygon beyond repair, the
restore falls back.  While a shift copy runs in a row of the job the restore waits with what it read (R396).  What a failed host read did not
bring is a missing copy (R386) and does not complete HOST_ABORT (DESIGN CHOICE, log entry 49). -/
def restoredOp (j gen : Nat) (copies : List ShardRead) (m : Mach) : Mach :=
  match (snapOf m j).restore with
  | none => m
  | some r =>
    match r.chosen with
    | none => m
    | some g =>
      if g ≠ gen then m
      else if jobShifting m j then modRestore j (fun r => { r with held := some copies }) m
      else
        match winning r (self m) g, winning r (writerModule (snapOf m j)) g with
        | some own, some w =>
          match recover own copies, recover w copies with
          | some a, some b =>
            let st := a.1.take (own.sections.getD 1 0)
            if readerDiffers m j w ((List.range 4).filter fun p => strNat st (48 + 64 * p + 8) 8 == 1) then endRestore j 0x76 0 m
            else writeRestore j g r own w a b m
          | _, _ => fallBack j g m
        | _, _ => m

/-- The shift copy has ended: a restore that waited for it writes (R396). -/
def lateRestore (j : Nat) (m : Mach) : Mach :=
  match (snapOf m j).restore with
  | none => m
  | some r =>
    match r.chosen, r.held with
    | some g, some copies => restoredOp j g copies (modRestore j (fun r => { r with held := none }) m)
    | _, _ => m

end Sys2Proof.Machine
end

