-- ==== Sys2Proof/Machine/Release.lean ====
section
/-!
DEFINITION. JOB_RELEASE and the end of a job context (R405).
-/
namespace Sys2Proof.Machine

def specRelease : OpSpec :=
  { code := 0x49, kinds := [2], admin := true, wcet := fun _ => 0, image := fun _ => false
    bad := fun d => !dZero d 511 128, addr := fun _ _ => 0 }

/-- PEND of a tag ends with the last pending VER_PUBLISH that names it (Table 5.4). -/
def dropPend (m : Mach) (d : DescIn) : Mach :=
  let j := dJob m d
  let p := vpPipe d
  let named (s : Nat) : Bool := m.descs.any fun x =>
    dOpcode x.d == 0x19 && x.job == j && vpPipe x.d == p && vpTag x.d == vpTag d && decide (s ≤ dEdge x.d)
  if dOpcode d = 0x19 then
    let m := modPipe m j p fun x => { x with checks := x.checks.filter fun c => c.tag != vpTag d || named c.sweep }
    modTag j p (vpTag d) (fun e => if named 0 then e else { e with pend := false }) m
  else m

/-- Completes a fetched descriptor that has had no effect as CANCELLED. -/
def cancelDesc (m : Mach) (d : DescIn) : Mach := dropPend (finishDesc d false 0x0D 0 m) d

/-- Fetched descriptors of a job that have not taken effect; a version build or a restore that still works has not. -/
def openDescs (m : Mach) (j : Nat) : List DescIn :=
  (m.descs.filter fun x => x.job == j && (x.wait != .work || dOpcode x.d == 0x18 || dOpcode x.d == 0x41)).map (·.d)

/-- Frees the locus entries of a job on this module. -/
def freeEntries (j : Nat) (m : Mach) : Mach :=
  forAll (List.range 96) (fun m f => forAll (List.range 4) (fun m c => forAll (List.range 4) (fun m i =>
    match (locusOf m f c).entries[i]? with
    | some e => if e.job == j && !entryFree e then freeEntry f c i m else m
    | none => m) m) m) m

/-- JOB_RELEASE at its sweep edge. -/
def effRelease : Effect := fun d m =>
  let j := dJob m d
  let x := jobOf m j
  if !x.admitted || x.releasing then (some (0x7C, 0), m)
  else
    let queued := (List.range 4).flatMap fun p => (pipeOf m j p).queue
    -- a JOB_RELEASE of the same edge keeps its place, to complete JOB_STATE
    let own (y : DescIn) : Bool := (y.ring == d.ring && y.index == d.index) || (dOpcode y == 0x49 && decide (dEdge y ≤ m.tick.sweepNo))
    let m := forAll ((openDescs m j).filter fun y => !own y) cancelDesc m
    let m := forAll queued (fun m a => completeAdmit j a 0x0D 0 m) m
    let m := forAll (List.range 32) (fun m n =>
      if (chanOf m n).en && (chanOf m n).job == j then modChan m n fun c => { Channel.init with widened := c.widened } else m) m
    let m := disarm j m
    let m := { m with progs := m.progs.filter fun p => p.job != j }
    let m := freeEntries j m
    (some (0, 0), modJob m j fun x => { x with
      releasing := true, releaseTick := m.tick.tickNo, turnEnd := none, holdUntil := none
      pipes := x.pipes.map fun p => { p with queue := [] } })

def execJobRelease (d : DescIn) (s : State) : Res := actReady (decide (d.ring < 32)) (descRow specRelease effRelease d) s

/-- Is a command or an operation of the job still on its way? -/
def jobInFlight (m : Mach) (j : Nat) : Bool :=
  (List.range 96).any (fun f => inFlightOn m f j) || m.flights.any (fun fl => fl.job == j) || m.copies.any fun c => c.job == j

/-- At a sweep edge after its release, a context with nothing in flight becomes free, and jobs that only its claim kept
suspended resume. -/
def freeContexts (m : Mach) : Mach :=
  forAll (List.range 16) (fun m j =>
    let x := jobOf m j
    if !x.releasing || decide (m.tick.tickNo ≤ x.releaseTick) || jobInFlight m j then m
    else
      let back := heldBy m j
      let m := modJob m j fun y => { Job.init with key := y.key }
      let mine (s : StageCtx) : Bool := match s.owner with | some (k, _) => k == j | none => false
      let m := { m with
        chords := m.chords.filter fun c => c.job != j
        facets := m.facets.map fun f => { f with
          scs := f.scs.map fun s =>
            let s := { s with stale := s.stale.filter fun x => x.1 != j }
            if mine s then { s with owner := none, run := none, backlog := [], update := [], acts := [] } else s
          switching := f.switching.map fun w => (w.1.filter (· != j), w.2.1.filter (· != j), w.2.2) } }
      switchJobs [] back m) m

end Sys2Proof.Machine
end

