-- ==== Sys2Proof/Machine/Links.lean ====
section
/-!
DEFINITION. Lemir links (R421–R443, R447): frames and their replay, delivery and transit, training, width, lanes and
counters; and the pairing that a twin bridge reports (R444, R522).
-/
namespace Sys2Proof.Machine

/-! ### Settings -/

def linkEn (m : Mach) (l : Nat) : Bool := tb (regN m (offLinkCtl l)) 0
def linkOptics (m : Mach) (l : Nat) : Bool := tb (regN m (offLinkCtl l)) 1
def linkMinW (m : Mach) (l : Nat) : Nat := [4, 6, 7, 8].getD (bf (regN m (offLinkCtl l)) 3 2) 4

/-- Receive buffers in flits (Table 14.4). -/
def vcBuffers : List Nat := [1024, 1024, 512, 1024, 256, 64]

/-- Saturating 64-bit count (R447). -/
def sat64 (n : Nat) : Nat := min n (2 ^ 64 - 1)

def laneRetiredNow (m : Mach) (l n : Nat) : Bool := m.flash.lanes.contains (l, n)

/-- Largest width that `n` lanes allow, 0 when it would be below the least (R440). -/
def widthFor (n least : Nat) : Nat :=
  let w := if 8 ≤ n then 8 else if 7 ≤ n then 7 else if 6 ≤ n then 6 else if 4 ≤ n then 4 else 0
  if w < least then 0 else w

def nextLower (w : Nat) : Nat := if w = 8 then 7 else if w = 7 then 6 else if w = 6 then 4 else w

/-! ### The twin bridge (R444, R522) -/

def bridgeLinks (m : Mach) : List Nat := (List.range 36).filter fun l => tb (regN m offTwinLinks) l

/-- Is a link up to the twin that it found at its link-up? -/
def leadsToTwin (m : Mach) (l : Nat) : Bool := (linkOf m l).state == 2 && (linkOf m l).twinOk

/-- PAIRED while every bridge link is up and reports the twin; TWIN_PAIRED when it becomes 1. -/
def updatePaired (m : Mach) : Mach :=
  let ls := bridgeLinks m
  let p := !ls.isEmpty && ls.all (leadsToTwin m)
  let md := match ls.head? with | some l => (linkOf m l).farModule | none => m.twin.modNum
  let was := m.twin.paired
  let m := modTwin m fun t => { t with
    paired := p, modNum := if p then md else t.modNum
    lost := t.lost && !(p && !was), takenOver := t.takenOver && !(p && !was), missed := if p && !was then 0 else t.missed }
  if p && !was then raise m twinPairedEv (srcUnit 1) none [m.flash.twinSerial.toNat] else m

/-! ### Width and state -/

/-- A change of width raises LINK_WIDTH (R440). -/
def setWidth (l lane w : Nat) (m : Mach) : Mach :=
  let old := (linkOf m l).width
  let m := modLink m l fun x => { x with width := w }
  if old = w ∨ old = 0 then m else raise m linkWidth (srcLink l) none [l, lane, old, w]

/-- A frame as it is sent again: its TICK flits are idle slots. -/
def withoutTicks (f : TxFrame) : TxFrame := { f with slots := f.slots.map fun o => o.filter fun s => s.vc != 5 }

/-- The sender resends every frame it holds, with the ACK and NAK of now (R426). -/
def resendHeld (l : Nat) (m : Mach) : Mach :=
  let x := linkOf m l
  if x.held.isEmpty then m
  else
    let lanes := activeLanes m l
    let m := modLink m l fun x => { x with cntReplay := sat64 (x.cntReplay + 1), replayAt := m.now }
    x.held.foldl (fun m f =>
      let g := withoutTicks f
      emit m (.frame l lanes g.seqNum (frameCtrl x g) g.slots)) m

/-- A link goes down and trains again (R443). -/
def downLink (l : Nat) (m : Mach) : Mach :=
  let x := linkOf m l
  if x.state ≠ 2 then m
  else
    let m := modLink m l fun x => { x with
      state := if linkEn m l then 1 else 0, downAt := m.now, prevFar := some x.farModule, naks := 0
      retraining := none, riseDue := none, retrainQ := [], tryAt := none, farLast := none
      cntDown := sat64 (x.cntDown + 1) }
    updatePaired (raise m linkDownEv (srcLink l) none [l, x.farModule, x.width])

/-- LINK_DOWN: frame lock has been lost for 1 µs, or the far end has gone down; the other causes of R443 are judged where they arise. -/
def execLinkDown (l : Nat) (s : State) : Res := actReady (decide (l < 36)) (downLink l) s

/-- Discards the held frames (R443), and with them what is left of a message that had begun. -/
def flushFrames (l : Nat) (m : Mach) : Mach :=
  let n := (linkOf m l).held.length
  raise (modLink m l fun x => { x with held := [], prevFar := none, txQ := x.txQ.filter fun t => !t.begun })
    linkFlushEv (srcLink l) none [l, n]

/-- LINK_FLUSH: the link is not back to the same module within LINK_HOLD. -/
def linkFlushOp (l : Nat) (m : Mach) : Mach :=
  let x := linkOf m l
  if x.state = 2 ∨ x.prevFar.isNone then m else byTime (x.downAt + 100000 * regN m offLinkHold) (flushFrames l) m

def execLinkFlush (l : Nat) (s : State) : Res := actReady (decide (l < 36)) (linkFlushOp l) s

/-! ### Frames (R426–R428, R432) -/

/-- Routes a message by its header (R432): one that is not for this module transits, or is dropped. -/
def routeHead (l : Nat) (h : BitVec 256) (m : Mach) : Mach :=
  if headDst h = self m then m
  else
    let det := [l, headKind h, headSrc h, headDst h]
    if headKind h < 0x10 then raise m linkMisroute (srcLink l) none det
    else if headHops h = 0 then raise m linkTtl (srcLink l) none det
    else match routeOf m (headDst h) with
      | some k =>
        let g := lowerHops h
        sendTx k (kindVc (headKind h)) 0 (flitsOf (headLen h)) (g.setWidth 2048) (some (.forward k g)) m
      | none => m

/-- A flit arrives.  On FOLD and SNAPSHOT it stays in the receive buffer until its message is taken up (R174, R333, R334), unless the
message was dropped; on the other channels it leaves at once.  One of a spare channel is dropped and counted (R427). -/
def takeFlit (l vc : Nat) (m : Mach) : Mach :=
  if 6 ≤ vc then raise (modLink m l fun x => { x with cntVc := sat64 (x.cntVc + 1) }) linkVcErr (srcLink l) none [l, vc]
  else
    let skips := (linkOf m l).rxSkip.getD vc 0 != 0
    let m := modLink m l fun x => { x with
      rxBuf := x.rxBuf.modify vc (· + 1), rxSkip := x.rxSkip.modify vc (· - 1), rxLeft := x.rxLeft.modify vc (· - 1) }
    if (vc = 1 ∨ vc = 3) ∧ !skips then m else oweRx l vc 1 m

/-- A slot of a received frame: its four bits of SLOT and the first bits of its flit.  A flit that follows a message's last one begins the
next, and says how many it has (R431). -/
def takeSlot (l : Nat) (m : Mach) (s : Nat × BitVec 256) : Mach :=
  let vc := s.1 % 8
  if s.1 < 8 then m
  else if 5 ≤ vc ∨ (linkOf m l).rxLeft.getD vc 0 ≠ 0 then takeFlit l vc m
  else
    let n := flitsOf (headLen s.2)
    let m := modLink m l fun x => { x with
      rxLeft := x.rxLeft.set vc n, rxSkip := x.rxSkip.set vc (if headDst s.2 = self m then 0 else n) }
    routeHead l s.2 (takeFlit l vc m)

/-- Frames after number `a` in sending order. -/
def afterAck (held : List TxFrame) (a : Nat) : List TxFrame :=
  match held.findIdx? (·.seqNum == a) with
  | some i => held.drop (i + 1)
  | none => held

/-- ACK, NAK and credits of a frame's control field (Table 14.3); the sixteenth NAK of one frame takes the link down (R443). -/
def takeControl (l : Nat) (ctrl : BitVec 40) (m : Mach) : Mach :=
  let x := linkOf m l
  let c := ctrl.toNat
  let nak := tb c 39
  let vc := bf c 22 20
  let left := afterAck x.held (bf c 38 27)
  let moved := decide (left.length < x.held.length)
  let n := if moved then b2n nak else x.naks + b2n nak
  let m := modLink m l fun x => { x with
    held := left, naks := n, ackAt := if moved then m.now else x.ackAt, replayAt := if moved then m.now else x.replayAt
    credits := x.credits.modify vc fun k => min (vcBuffers.getD vc 0) (k + bf c 26 23) }
  if !nak then m else if 16 ≤ n then downLink l m else resendHeld l m

/-! ### Lanes that retrain (R441) -/

/-- May the width of a link change now?  The pause never falls in [edge − 2.5 µs, edge + 0.5 µs). -/
def mayPause (m : Mach) : Bool :=
  !(m.tick.running && decide (m.now < m.tick.edgeAt + 50)) && !(edgeDue m && decide (gridEdge m ≤ m.now + 250))

/-- Can a lane in service be retrained: not on a link at width 4, nor where the next lower width is below the least? -/
def canRetrain (m : Mach) (l lane : Nat) : Bool :=
  let x := linkOf m l
  x.state == 2 && x.width != 4 && decide (linkMinW m l ≤ nextLower x.width) && (activeLanes m l).contains lane

/-- The first of the waiting lanes that can be retrained begins; the width drops first. -/
def nextRetrain (l : Nat) : List Nat → Mach → Mach
  | [], m => modLink m l fun x => { x with retrainQ := [] }
  | n :: t, m =>
    if canRetrain m l n then
      setWidth l n (nextLower (linkOf m l).width)
        (modLink m l fun x => { x with retraining := some n, retrainAt := m.now, retrainQ := t })
    else nextRetrain l t m

/-- At an instant that allows the pause: the width rises after a retraining that succeeded, and the next lane begins. -/
def settleLanes (l : Nat) (m : Mach) : Mach :=
  let x := linkOf m l
  if x.state ≠ 2 || !mayPause m then m
  else
    let m := match x.riseDue with
      | none => m
      | some n =>
        let m := modLink m l fun x => { x with riseDue := none }
        let w := widthFor (min (max x.farWidth x.width) (usableLanes m l x.good).length) (linkMinW m l)
        setWidth l n (max w x.width) m
    if (linkOf m l).retraining.isSome then m else nextRetrain l (linkOf m l).retrainQ m

/-- LINK_FRAME.  A frame with an uncorrectable codeword and every later one before the replay are discarded, their control fields too. -/
def linkFrameOp (l : Nat) (f : FrameIn) (m : Mach) : Mach :=
  if (linkOf m l).state ≠ 2 then m
  else
    let m := modLink m l fun x => { x with
      cntCorr := sat64 (x.cntCorr + f.corrected), cntUncorr := sat64 (x.cntUncorr + b2n (!f.good))
      cntSym := (x.cntSym.zip (f.symbols ++ List.replicate 8 0)).map fun p => sat64 (p.1 + p.2) }
    let say (m : Mach) : Mach := pumpLink l (modLink m l fun x => { x with ackDue := true })
    if !f.good then say (modLink m l fun x => { x with rxNak := true })
    else if f.align then settleLanes l m
    else if f.seqNum ≠ ((linkOf m l).rxLast + 1) % 4096 then say m
    else
      let m := takeControl l f.ctrl (modLink m l fun x => { x with rxLast := f.seqNum, rxNak := false })
      if (linkOf m l).state ≠ 2 then m
      else
        let slot (i : Nat) : Nat × BitVec 256 := (bf f.ctrl.toNat (4 * i + 3) (4 * i), f.heads.getD i 0)
        settleLanes l (say (forAll ((List.range 5).map slot) (takeSlot l) m))

/-- LINK_REPLAY_TIMEOUT: ACK has not advanced for 4 µs while frames are held; after 64 µs of no progress the link goes down (R443). -/
def replayTimeoutOp (l : Nat) (m : Mach) : Mach :=
  let x := linkOf m l
  if x.state ≠ 2 || x.held.isEmpty then m
  else byTime (x.replayAt + 400) (fun m => if x.ackAt + 6400 ≤ m.now then downLink l m else resendHeld l m) m

def execLinkReplayTimeout (l : Nat) (s : State) : Res := actReady (decide (l < 36)) (replayTimeoutOp l) s

/-! ### Training (R439, R440) -/

/-- A failed attempt raises LINK_FAIL with its step and the lanes that failed. -/
def failTraining (l step : Nat) (m : Mach) : Mach :=
  let x := linkOf m l
  let lanes := ((List.range 8).filter fun n => !(usableLanes m l x.good).contains n).foldl (fun a n => a + 2 ^ n) 0
  raise (modLink m l fun x => { x with state := 1 }) linkFailEv (srcLink l) none [l, step, lanes]

/-- Steps of 10 ns in a second. -/
def second : Nat := 100000000

/-- An attempt to train: lanes train, and the exchange of step 3 is sent; too few good lanes keep the link down. -/
def attemptOp (l : Nat) (failStep : Option Nat) (good : BitVec 8) (m : Mach) : Mach :=
  let m := modLink m l fun x => { x with state := 1, good := good, tryAt := some m.now, farLast := none }
  let dead := linkOptics m l && !(linkOf m l).optics
  match if dead then some 1 else failStep with
  | some st => failTraining l st m
  | none =>
    let w := widthFor (usableLanes m l good).length (linkMinW m l)
    if w = 0 then failTraining l 1 m
    else emit m (.linkHello l (self m) m.flash.serial w (linkOf m l).rxLast)

/-- LINK_TRAIN_RETRY: at once after the link went down or EN was set, then every second. -/
def trainRetryOp (l : Nat) (failStep : Option Nat) (good : BitVec 8) (m : Mach) : Mach :=
  if !linkEn m l || (linkOf m l).state = 2 then m
  else match (linkOf m l).tryAt with
    | some t => byTime (t + second) (attemptOp l failStep good) m
    | none => attemptOp l failStep good m

def execLinkTrainRetry (l : Nat) (failStep : Option Nat) (good : BitVec 8) (s : State) : Res :=
  actReady (decide (l < 36)) (trainRetryOp l failStep good) s

/-- LINK_HELLO: what the far end is, and the last frame that it received. -/
def linkHelloOp (l farModule farLink width last : Nat) (serial twin : Word) (m : Mach) : Mach :=
  if (linkOf m l).state ≠ 1 || (linkOf m l).tryAt.isNone then m
  else
    let m := modLink m l fun x => { x with
      farModule := farModule, farLink := farLink, farWidth := width, farSerial := serial, farTwin := twin, farLast := some (last % 4096) }
    if widthFor (min width (usableLanes m l (linkOf m l).good).length) (linkMinW m l) = 0 then failTraining l 3 m else m

def execLinkHello (l farModule farLink width last : Nat) (serial twin : Word) (s : State) : Res :=
  actReady (decide (l < 36)) (linkHelloOp l farModule farLink width last serial twin) s

/-- Retired lanes that trained after they were offered are in service again. -/
def readmitLanes (l : Nat) (m : Mach) : Mach :=
  let x := linkOf m l
  if !x.offerRetired then m
  else
    let back := (List.range 8).filter fun n => x.good.getLsbD n && laneRetiredNow m l n
    let m := modLink m l fun x => { x with offerRetired := false }
    if back.isEmpty then m
    else flashRecord m fun fl => { fl with lanes := fl.lanes.filter fun e => !(e.1 == l && back.contains e.2) }

/-- The numbering of a link that begins anew (R426). -/
def freshLink (x : Link) : Link :=
  { x with held := [], txNext := 0, rxLast := 4095, rxLeft := List.replicate 6 0, rxSkip := List.replicate 6 0 }

/-- Frames after `last`, which the far end has not received, go out again, or what was held for another module is discarded (R443). -/
def resumeFrames (l last : Nat) (m : Mach) : Mach :=
  let x := linkOf m l
  let inTime := decide (m.now ≤ x.downAt + 100000 * regN m offLinkHold)
  if x.prevFar = some x.farModule ∧ inTime then
    resendHeld l (modLink m l fun x => { x with held := afterAck x.held last, prevFar := none })
  else
    let m := if x.prevFar.isSome then flushFrames l m else m
    modLink m l freshLink

/-- The link is up at width `w`, and the far end has received frame `last`: what waited for it goes on. -/
def linkRises (l rtt lat w last : Nat) (m : Mach) : Mach :=
  let x := linkOf m l
  let m := readmitLanes l m
  let m := modLink m l fun x => { x with
    state := 2, twinOk := m.flash.twinSerial != 0 && x.farSerial == m.flash.twinSerial, rtt := rtt, lat := lat, credits := vcBuffers
    rxBuf := List.replicate 6 0, rxOwed := List.replicate 6 0, rxNak := false, ackDue := false, naks := 0, ackAt := m.now, tryAt := none, farLast := none }
  let m := setWidth l ((usableLanes m l x.good).getD (w - 1) 0) w m
  let m := resumeFrames l last m
  let m := raise m linkUpEv (srcLink l) none [l, x.farModule, w]
  let stranger := (bridgeLinks m).contains l && m.flash.twinSerial != 0 && !leadsToTwin m l
  let m := if stranger then raise m twinBridgeErr (srcLink l) none [l, x.farModule] else m
  forAll (List.range 32) (fun m n => flushFold n m) (flushWaiting (pumpLink l (updatePaired m)))

/-- LINK_UP: the measurements of step 4 end an attempt whose exchange has come; one that takes more than a second has failed.  The frame
that the far end received last is the one that its exchange names. -/
def linkUpOp (l rtt lat : Nat) (m : Mach) : Mach :=
  let x := linkOf m l
  if x.state ≠ 1 || !linkEn m l then m
  else match x.tryAt, x.farLast with
    | some t, some last =>
      let w := widthFor (min x.farWidth (usableLanes m l x.good).length) (linkMinW m l)
      if t + second < m.now then failTraining l 4 m
      else if w = 0 then failTraining l 3 m
      else linkRises l rtt lat w last m
    | _, _ => m

/-! ### Lanes (R441, R442) -/

/-- RETRAIN_LANE: one lane at a time, requests waiting in lane order. -/
def retrainLaneOp (l lane : Nat) (m : Mach) : Mach :=
  let x := linkOf m l
  if x.state ≠ 2 || x.retraining = some lane || x.riseDue = some lane || x.retrainQ.contains lane then m
  else settleLanes l (modLink m l fun x => { x with retrainQ := (x.retrainQ ++ [lane]).mergeSort fun a b => decide (a ≤ b) })

def execRetrainLane (l lane : Nat) (s : State) : Res := actReady (decide (l < 36 ∧ lane < 8)) (retrainLaneOp l lane) s

/-- LANE_FEC_THRESHOLD: a lane above LINK_RETRAIN_THR in a millisecond, under AUTO_RETRAIN. -/
def execLaneFecThreshold (l lane symbols : Nat) (s : State) : Res :=
  actReady (decide (l < 36 ∧ lane < 8)) (fun m =>
    if tb (regN m (offLinkCtl l)) 4 && decide (regN m offRetrainThr < symbols) then retrainLaneOp l lane m else m) s

/-- A lane is retired in flash. -/
def retireLane (l lane : Nat) (m : Mach) : Mach :=
  if laneRetiredNow m l lane then m
  else
    let w := (linkOf m l).width
    let m := flashRecord m fun fl => { fl with lanes := fl.lanes ++ [(l, lane)] }
    raise m laneRetired (srcLink l) none [l, lane, nextWidth w, w]
where
  /-- width before the lane left service -/
  nextWidth (w : Nat) : Nat := if w = 4 then 6 else w + 1

/-- LANE_RETRAIN_DONE: the width rises again, or the lane is retired, after 100 ms too; the next request follows. -/
def retrainDoneOp (l lane : Nat) (ok : Bool) (m : Mach) : Mach :=
  let x := linkOf m l
  if x.retraining ≠ some lane then m
  else if ok && decide (m.now ≤ x.retrainAt + 10000000) then
    settleLanes l (modLink m l fun x => { x with retraining := none, riseDue := some lane })
  else settleLanes l (retireLane l lane (modLink m l fun x => { x with retraining := none }))

def execLaneRetrainDone (l lane : Nat) (ok : Bool) (s : State) : Res :=
  actReady (decide (l < 36 ∧ lane < 8)) (retrainDoneOp l lane ok) s

/-- LANE_LOCK_LOSS: the lane is good no longer; when it is in service the width is forced down and frames in flight are resent, and with
too few lanes the link goes down. -/
def lockLossOp (l lane : Nat) (m : Mach) : Mach :=
  let x := linkOf m l
  if x.state ≠ 2 || x.retraining == some lane then m
  else
    let serves := (activeLanes m l).contains lane
    let m := modLink m l fun x => { x with good := x.good &&& ~~~(1#8 <<< lane), riseDue := x.riseDue.filter (· != lane) }
    if !serves then m
    else
      let n := ((usableLanes m l (linkOf m l).good).filter fun k => x.retraining != some k).length
      let w := widthFor (min n x.width) (linkMinW m l)
      if w = 0 then downLink l m else resendHeld l (setWidth l lane w m)

def execLaneLockLoss (l lane : Nat) (s : State) : Res := actReady (decide (l < 36 ∧ lane < 8)) (lockLossOp l lane) s

/-! ### Commands and optics (R443, R447, R528) -/

/-- RETRAIN_ALL: the link goes down and trains, with its retired lanes when CLR_RETIRED came before. -/
def retrainAllOp (l : Nat) (m : Mach) : Mach :=
  downLink l (modLink m l fun x => { x with offerRetired := x.offerRetired || x.clrAsked, clrAsked := false })

def execRetrainAll (l : Nat) (s : State) : Res := actReady (decide (l < 36)) (retrainAllOp l) s

def clrCntOp (l : Nat) (m : Mach) : Mach :=
  modLink m l fun x => { x with cntCorr := 0, cntUncorr := 0, cntSym := List.replicate 8 0, cntReplay := 0, cntDown := 0, cntVc := 0 }

def execClrCnt (l : Nat) (s : State) : Res := actReady (decide (l < 36)) (clrCntOp l) s

/-- CLR_RETIRED: the next RETRAIN_ALL offers the retired lanes. -/
def execClrRetired (l : Nat) (s : State) : Res :=
  actReady (decide (l < 36)) (fun m => modLink m l fun x => { x with clrAsked := true }) s

def opticsRemovedOp (l : Nat) (m : Mach) : Mach :=
  let m := modLink m l fun x => { x with optics := false }
  if linkEn m l && linkOptics m l then downLink l m else m

def execOpticsRemoved (l : Nat) (s : State) : Res := actReady (decide (l < 36)) (opticsRemovedOp l) s

/-- OPTICS_INSERTED: CAGE_INT; the port trains at the next retry. -/
def execOpticsInserted (l : Nat) (s : State) : Res :=
  actReady (decide (l < 36)) (fun m => emit (modLink m l fun x => { x with optics := true }) (.pin .cageInt true)) s

end Sys2Proof.Machine
end

