-- ==== Sys2Proof/Machine/Settings.lean ====
section
/-!
DEFINITION. Settings that take effect at edges: pending values, SET_FIELD, and the judgement of what they leave (R15, R49,
R52, R88, R451, R494, R534, R536).
-/
namespace Sys2Proof.Machine

def accOf (off : Nat) : Option Access := (regFind off).map (·.acc)
def maskOf (off : Nat) : Nat := match regFind off with | some r => r.mask | none => 0

/-- Members of the timing set (R49). -/
def timingOffs : List Nat := (List.range 8).map fun i => offPeriod + 8 * i

/-- The words of a timing set, in the order of their registers (R49). -/
def timingWords (t : Timing) : List Nat := [t.period, t.sweepLen, t.fill, t.steady, t.drain, t.fold, t.update, t.grace]

def foldWindowOffs : List Nat := (List.range 32).map offFoldWindow

/-! ### Step 2 of an edge -/

/-- A region whose rekey runs or waits keeps its word: what is written to it stays pending (R456). -/
def rekeyHolds (m : Mach) (off : Nat) : Bool :=
  decide (0x91000 ≤ off) && ((facetOf m ((off - 0x91000) / 0x40)).moves.any fun x =>
    match x.1 with
    | .rekey r _ _ => r == (off - 0x91000) % 0x40 / 8
    | .channel _ _ => false)

/-- Does a pending word take effect at this edge? -/
def pendDue (m : Mach) (sweep : Bool) (off : Nat) : Bool :=
  accOf off == some .rwt || (sweep && accOf off == some .rws && !rekeyHolds m off)

/-- Pending RWT values, and at a sweep edge pending RWS values, take effect; a word held back from this edge becomes pending
for the next of its kind (R15). -/
def applyPend (sweep : Bool) (m : Mach) : Mach :=
  let due := m.pend.filter fun e => pendDue m sweep e.1
  let left := m.pend.filter fun e => !pendDue m sweep e.1
  let m := due.foldl (fun m e => regSet m e.1 e.2) m
  let ripe := m.pendLate.filter fun e => sweep || accOf e.1 == some .rwt
  { m with pend := ripe.foldl (fun l e => pendPut l e.1 e.2) left
           pendLate := m.pendLate.filter fun e => !(sweep || accOf e.1 == some .rwt) }

/-! ### SET_FIELD (Table 3.6, R88) -/

def sfMask (d : DescIn) : Nat := db d 287 224
def sfValue (d : DescIn) : Nat := db d 223 160
def sfReg (d : DescIn) : Nat := db d 152 128

def specField : OpSpec :=
  { code := 0x01, kinds := [1, 2], admin := true, wcet := fun _ => 0, image := fun _ => false
    bad := fun d => !dZero d 511 288 || !dZero d 159 153 || sfReg d % 8 != 0
      || !((dKind d == 1 && accOf (sfReg d) == some .rwt) || (dKind d == 2 && accOf (sfReg d) == some .rws))
    addr := fun _ _ => 0 }

/-- The word that a SET_FIELD leaves: the bits of MASK replaced. -/
def fieldWord (old : Word) (d : DescIn) : Word :=
  let k := word (sfMask d &&& maskOf (sfReg d))
  (old &&& ~~~k) ||| (word (sfValue d) &&& k)

def writeField (d : DescIn) (m : Mach) : Mach :=
  if rekeyHolds m (sfReg d) then { m with pend := pendPut m.pend (sfReg d) (fieldWord (pendGet m (sfReg d)) d) }
  else regSet m (sfReg d) (fieldWord (regGet m (sfReg d)) d)

/-! ### The judgement after step 3 -/

/-- Configuration event of a register's block (R536). -/
def configEvent (m : Mach) (off : Nat) : Mach :=
  if off / 0x1000 = 1 then raise m tickConfigErr (srcUnit 0) none []
  else if off / 0x1000 = 2 then raise m pwrCfgErr (srcUnit 7) none [off]
  else if off / 0x10000 = 9 then
    raise m memCfgErr (srcUnit 2) none [if 0x91000 ≤ off then (off - 0x91000) / 0x40 else 127, off]
  else if off / 0x10000 = 6 then raise m foldCfgErr (srcUnit 6) none [off]
  else if off / 0x10000 = 2 then raise m jobCfgErr (srcJob ((off - 0x20000) / 0x800)) (some ((off - 0x20000) / 0x800)) [(off - 0x20000) / 0x800]
  else raise m hostCfgErr srcHost none []

/-- Puts words back to what they were before step 2. -/
def putBack (m0 : Mach) (offs : List Nat) (m : Mach) : Mach := offs.foldl (fun m o => regSet m o (regGet m0 o)) m

/-- R451: regions overlap or run past 12 GiB, or a field is out of its range. -/
def regionsBad (m : Mach) (f : Nat) : Bool :=
  let rs := List.range 8
  rs.any fun r => match regionOf m f r with
    | none => false
    | some a => decide (192 < a.1 + a.2) || a.2 == 0 || rs.any fun q => q != r && (match regionOf m f q with
      | some b => spansMeet a.1 a.2 b.1 b.2
      | none => false)

def facetRegions (f : Nat) : List Nat := (List.range 8).map (offMemRgn f)

/-- A JOB_CTL that would make a job with a training schedule pre-emptible (R403). -/
def jobCtlBad (m : Mach) (j : Nat) : Bool :=
  (jobPreempt m j || jobGroup m j != 0) && (List.range 4).any fun p => trains m j p

/-- Groups of words judged together and whether the judgement refuses them; `changed` are the words that steps 2 and 3
wrote. -/
def judgeGroups (m : Mach) (changed : List Nat) : List (List Nat × Bool × (Mach → Mach)) :=
  let hit (l : List Nat) : Bool := changed.any l.contains
  let facets := ((changed.filter fun o => decide (0x91000 ≤ o)).filter fun o => decide (o < 0x91000 + 0x40 * 104)).map fun o => (o - 0x91000) / 0x40
  let sum := (foldWindowOffs.map fun o => bf (regN m o) 7 0).foldl (· + ·) 0
  let pwr := [offFloor, offCeil]
  let jobs := (List.range 16).filter fun j => changed.contains (offJob j)
  (if hit timingOffs then [(timingOffs, !timingOk (ownTiming m), fun m => raise m tickConfigErr (srcUnit 0) none [])] else [])
    ++ (if hit pwr then [(pwr, decide (4 < regN m offFloor) || decide (6 < regN m offCeil) || decide (regN m offCeil < regN m offFloor),
        fun m => raise m pwrCfgErr (srcUnit 7) none [offFloor])] else [])
    ++ (if hit foldWindowOffs then [(foldWindowOffs, decide (128 < sum), fun m => raise m foldCfgErr (srcUnit 6) none [sum])] else [])
    ++ facets.eraseDups.map (fun f => (facetRegions f, regionsBad m f, fun m =>
        raise m memCfgErr (srcUnit 2) none [f, offMemRgn f 0]))
    ++ jobs.map (fun j => ([offJob j], jobCtlBad m j || decide (bf (regN m (offJob j)) 15 8 = 0), fun m =>
        raise m jobCfgErr (srcJob j) (some j) [j]))

/-- Judges every word that steps 2 and 3 changed (R52): refused words go back to their values before step 2.  Answers the
refused words. -/
def judgeSettings (m0 : Mach) (changed : List Nat) (m : Mach) : Mach × List Nat :=
  let gs := judgeGroups m changed
  let refused := gs.filter (·.2.1)
  let m1 := refused.foldl (fun m g => g.2.2 (putBack m0 g.1 m)) m
  let grouped := gs.flatMap (·.1)
  let alone := changed.eraseDups.filter fun o => !grouped.contains o
    && (match regFind o with | some r => !r.ok (regN m o) | none => false)
  (alone.foldl (fun m o => configEvent (putBack m0 [o] m) o) m1, refused.flatMap (·.1) ++ alone)

/-- SET_FIELD commanded directly: written and judged at once. -/
def fieldOp (d : DescIn) (m : Mach) : Mach :=
  if dOpcode d ≠ 0x01 then m
  else
    let st := earlyStatus m specField d
    if st ≠ 0 then finishDesc d false st 0 m
    else
      let r := judgeSettings m [sfReg d] (writeField d m)
      finishDesc d false (if r.2.contains (sfReg d) then 0x81 else 0) 0 r.1

def execSetField (d : DescIn) (s : State) : Res := actReady (decide (d.ring < 32)) (fieldOp d) s

end Sys2Proof.Machine
end

