-- ==== Sys2Proof/Machine/Ticks.lean ====
section
/-!
DEFINITION. The tick domain: work of a sweep and its reports (R71, R438), start and stop (R63, R64, R538), tick symbols
(R434–R437), holdover (R65, R66) and the reference (R67).
-/
namespace Sys2Proof.Machine

/-! ### Work of the sweep (R71, R438) -/

/-- Does the job's work count: admitted, and neither suspended nor halted? -/
def worksNow (m : Mach) (j : Nat) : Bool := (jobOf m j).admitted && !(jobOf m j).suspended && !(jobOf m j).halted

/-- A stage context holds work of the sweep: a slot that runs, backward units to come, or update work.  Rollout streams
on through sweeps. -/
def scHolds (m : Mach) (x : StageCtx) : Bool :=
  (match x.owner with
    | some (j, e) => worksNow m j && (pipeOf m j e.pipe).rollout.isNone && (x.run.isSome || !x.backlog.isEmpty)
    | none => false)
    || x.update.any fun r => worksNow m r.job

/-- A chord holds entries that were not yet taken or sent, or slices that wait to be admitted follow. -/
def chordHolds (m : Mach) (c : Chord) : Bool :=
  worksNow m c.job && (pipeOf m c.job (chordPipe m c)).rollout.isNone && (!c.queue.isEmpty || !c.waiting.isEmpty)

/-- Slices wait for admission slots that the sweep still has; those of a forward-only schedule that find none go on in the
next sweep (R126, R130). -/
def slicesHold (m : Mach) (j : Nat) : Bool :=
  worksNow m j && (List.range 4).any fun p => (pipeOf m j p).slicing.isSome &&
    match (pipeOf m j p).sched, stageEntry m j p 0 with
    | some s, some e => (match ordinal m j e with | some o => decide (o + 1 < s.m) | none => true)
    | _, _ => false

/-- A fold channel holds a layer that was handed off and has not completed (R324, R345). -/
def chanHolds (m : Mach) (ch : Channel) : Bool :=
  ch.en && decide (1 < ch.members.length) && worksNow m ch.job
    && (ch.began || !ch.done.isEmpty || (ch.layers.drop ch.cur).any fun y =>
      match layerHolder m ch.job ch.pipe y.layer with
      | some e => (scOf m e.facet e.sc).handed.contains y.layer
      | none => false)

/-- The module holds work of the sweep; a frozen module works on none (R400). -/
def holdsWork (m : Mach) : Bool :=
  !m.twin.frozen && ((m.facets.any fun f => f.scs.any (scHolds m)) || m.chords.any (chordHolds m) || (List.range 16).any (slicesHold m)
    || m.chans.any (chanHolds m))

/-- Links of TICK_DOWNLINKS. -/
def downlinks (m : Mach) : List Nat := (List.range 36).filter fun l => tb (regN m offDownlinks) l

/-- What the modules behind link `l` reported last before the instant `t`: their sweep number, and whether they are done. -/
def lastReport (m : Mach) (l t : Nat) : Option (Nat × Bool) :=
  (m.tick.reports.reverse.find? fun r => r.1 == l && decide (r.2.2.2 < t)).map fun r => (r.2.1, r.2.2.1)

/-- This module and everything behind its downlinks is done with the current sweep, by the reports that came before the
instant `t`; a module that has not reported counts as holding work (R71, R438). -/
def domainDone (m : Mach) (t : Nat) : Bool :=
  !holdsWork m && (downlinks m).all fun l => lastReport m l t == some (m.tick.sweepNo, true)

/-- Sends our sweep-state report on the uplink; `always` at an edge, otherwise when the state changed (R438). -/
def sendReport (always : Bool) (m : Mach) : Mach :=
  if !following m then m
  else
    let r := (m.tick.sweepNo, domainDone m (m.now + 1))
    if !always && m.tick.reported == some r then m
    else
      let m := modTick m fun t => { t with reported := some r }
      if linkIsUp m m.tick.uplink then sendTick m m.tick.uplink (.sweepReport m.tick.uplink r.2 r.1 (self m)) else m

/-- A report arrives; only downlinks report to this module. -/
def reportOp (link : Nat) (done : Bool) (sweep : Nat) (m : Mach) : Mach :=
  if !(downlinks m).contains link then m
  else sendReport false (modTick m fun t => { t with reports := t.reports ++ [(link, sweep, done, m.now)] })

def execSweepStateReport (link : Nat) (done : Bool) (sweep : Nat) (s : State) : Res :=
  actReady (decide (link < 36)) (reportOp link done sweep) s

/-! Commands that may change what the module reports -/

def reporting (ok : Bool) (f : Mach → Mach) (s : State) : Res := actReady ok (fun m => sendReport false (f m)) s

def execSlotComplete (f c : Nat) (s : State) : Res := reporting (decide (f < 96 ∧ c < 4)) (slotCompleteOp f c) s

def execUpdateComplete (f c : Nat) (s : State) : Res := reporting (decide (f < 96 ∧ c < 4)) (updateCompleteOp f c) s

def execFoldLayerDone (n : Nat) (s : State) : Res := reporting (decide (n < 32)) (foldLayerDoneOp n) s

def execCredit (n cnt : Nat) (s : State) : Res :=
  reporting (decide (n < 1024)) (creditOp n cnt) s

def execChordWrite (f off : Nat) (data : List Byte) (far : Option ChordFar) (s : State) : Res :=
  reporting (decide (f < 96)) (chordWriteOp f off data far) s

def execResp (opid : Nat) (far : Option (Nat × List Byte)) (s : State) : Res :=
  reporting true (respOp opid far) s

def execChordLoss (n first cnt dropped : Nat) (s : State) : Res :=
  reporting (decide (n < 1024)) (chordLossOp n first cnt dropped) s

def execMbLost (j p : Nat) (ids : List Nat) (s : State) : Res :=
  reporting (decide (j < 16 ∧ p < 4)) (mbLostOp j p ids) s

def execFacetFail (f : Nat) (s : State) : Res :=
  reporting (decide (f < 96)) (failFacetOp f) s

def execFailFacet (f : Nat) (s : State) : Res :=
  reporting (decide (f < 128)) (fun m => if f < 96 then failFacetOp f m else m) s

def execFoldSeg (link n entry pass seq src : Nat) (segs : List FoldSegIn) (s : State) : Res :=
  reporting (decide (n < 32)) (foldSegOp link n entry pass seq src segs) s

def execFoldStall (n : Nat) (s : State) : Res :=
  reporting (decide (n < 32)) (foldStallOp n) s

def execFoldTotals (src j p sweep mb tokens : Nat) (loss : Word) (s : State) : Res :=
  reporting (decide (j < 16 ∧ p < 4)) (foldTotalsOp src j p sweep mb tokens loss) s

def execGradAccComplete (f : Nat) (s : State) : Res :=
  reporting (decide (f < 96)) (gradAccCompleteOp f) s

def execUpdateStart (f c : Nat) (s : State) : Res :=
  reporting (decide (f < 96 ∧ c < 4)) (updateStartOp f c) s

def execStepVerdict (j p : Nat) (s : State) : Res :=
  reporting (decide (j < 16 ∧ p < 4)) (stepVerdictOp j p) s

def execUpdValues (j p : Nat) (v : UpdValues) (s : State) : Res :=
  reporting (decide (j < 16 ∧ p < 4)) (updValuesOp j p v) s

def execLinkUp (l rtt lat : Nat) (_resumed : Option Nat) (s : State) : Res :=
  reporting (decide (l < 36)) (linkUpOp l rtt lat) s

def execLinkFrame (l : Nat) (f : FrameIn) (s : State) : Res :=
  reporting (decide (l < 36)) (linkFrameOp l f) s

def execThermalSample (r : ThermalReading) (s : State) : Res := reporting true (thermalOp r) s

def execPwrPhaseFail (rail phase : Nat) (s : State) : Res := reporting true (phaseFailOp rail phase) s

def execDecodeStepComplete (j p u : Nat) (s : State) : Res :=
  reporting (decide (j < 16 ∧ p < 4 ∧ u < 255)) (decodeStepOp j p u) s

/-! ### Start and stop (R16, R63, R64, R517, R538) -/

/-- START must not start: it comes with STOP, the uplink or the divisor is out of range, or JTAG_RUN is 1. -/
def startBad (m : Mach) (withStop : Bool) : Bool :=
  let ref := regN m offRefCtl
  withStop || (regN m offRole == 0 && decide (35 < regN m offUplink))
    || (tb ref 0 && (bf ref 52 32 == 0 || decide (1048576 < bf ref 52 32))) || tb (regN m offTestCtl) 0

/-- START samples the role, the uplink, the reference and the base numbers.  A master without a reference has its first edge
one announcement of 2 µs later; one with a reference waits for the pulse; a follower waits for its master. -/
def startOp (withStop : Bool) (m : Mach) : Mach :=
  if m.tick.running then m
  else if startBad m withStop then raise m tickConfigErr (srcUnit 0) none []
  else
    let ref := regN m offRefCtl
    modTick m fun t => { t with
      armed := true, master := tb (regN m offRole) 0, uplink := regN m offUplink
      refEn := tb ref 0, refDiv := bf ref 52 32, refOk := false, refEdge := m.edges
      baseTick := regN m offBaseTick, baseSweep := regN m offBaseSweep
      nextEdge := m.now + 200, sym := none, sampled := none, missed := 0, holdover := false, relock := false
      stopIn := 0, reports := [], reported := none, slew := 0 }

/-- STOP on the master: the next sweep edge, or the one after it within 2 µs of an edge that is due (R64, R435). -/
def stopOp (m : Mach) : Mach :=
  if !m.tick.running || !m.tick.master then m
  else
    let n := if nearSweepEdge m then 2 else 1
    modTick m fun t => { t with stopIn := if t.stopIn = 1 then 1 else n }

def execStart (withStop : Bool) (s : State) : Res := actReady true (startOp withStop) s
def execStop (s : State) : Res := actReady true stopOp s

/-! ### Tick symbols (R434–R437) -/

/-- Sends a symbol on every downlink; the time to its departure differs by link and is a free value. -/
def sendSym (sym : TickSym) (most : Nat) (m : Mach) : Mach :=
  forAll (downlinks m) (fun m l =>
    if linkIsUp m l then
      let d := (freeVal m 32).toNat % (most + 1)
      sendTick (spendFree m) l (.tickSym l { sym with delay := (sym.delay + d) % 2 ^ 32 })
    else m) m

/-- The symbol and the time since the master's send: what the link and the symbol's DELAY took, ps. -/
def symTook (m : Mach) (link : Nat) (sym : TickSym) : Nat := (linkOf m link).lat + sym.delay

/-- The symbol comes less than 0.1 µs before the edge it marks (R437). -/
def symLate (m : Mach) (link : Nat) (sym : TickSym) : Bool := decide (2000000 < symTook m link sym + 100000)

/-- A symbol on the uplink is stored for the edge it marks, corrects the present tick by one step at most (R62), and is relayed
within 40 ns; one that comes too late counts as missing (R436, R437). -/
def takeSym (link : Nat) (sym : TickSym) (m : Mach) : Mach :=
  let took := symTook m link sym
  if symLate m link sym then raise m tickAnnLate (srcLink link) none [link, sym.tick, (2000000 - took) / 1000]
  else
    let edge := m.now + 200 - took / 10000
    let slew : Int := if !m.tick.running then 0 else if m.tick.nextEdge < edge then 1 else if edge < m.tick.nextEdge then -1 else 0
    let m := modTick m fun t => { t with
      sym := some sym, symEdge := edge, missed := 0, slew := slew
      nextEdge := if t.running then t.nextEdge else edge }
    sendSym { sym with delay := took % 2 ^ 32 } 40000 m

/-- TICK_SYMBOL: only the uplink is heard (R59); a waiting follower begins at a sweep edge (R63); in holdover only a new
uplink is heard, its tick numbers must match (R66), and a symbol that R437 does not accept changes nothing. -/
def tickSymbolOp (link : Nat) (sym : TickSym) (m : Mach) : Mach :=
  let t := m.tick
  if link ≠ t.uplink then m
  else if t.holdover then
    if !t.relock then m
    else if symLate m link sym then takeSym link sym m
    else if sym.tick = t.tickNo + 1 then
      takeSym link sym (modTick m fun t => { t with holdover := false, relock := false, sampled := none })
    else raise (modTick m fun t => { t with relock := false }) tickConfigErr (srcUnit 0) none []
  else if t.master then m
  else if t.running then takeSym link sym m
  else if t.armed && sym.sweepEdge && !sym.stop then takeSym link sym m
  else m

/-! ### Holdover (R65, R66) -/

/-- TICK_HOLDOVER: two expected symbols in a row did not come. -/
def holdoverOp (m : Mach) : Mach :=
  if following m && !m.tick.holdover && decide (2 ≤ m.tick.missed) then
    raise (modTick m fun t => { t with holdover := true, relock := false, locked := false }) tickHoldoverEv (srcUnit 0) none []
  else m

def execTickHoldover (s : State) : Res := actReady true holdoverOp s

/-- The timing set a follower applied becomes its own registers' value in effect when it turns master (R47, R66); its own
values pend for the next sweep edge where they differ. -/
def adoptTiming (m : Mach) : Mach :=
  let vals := timingWords (timing m)
  let old := timingOffs.map fun o => (o, pendGet m o)
  let m := (timingOffs.zip vals).foldl (fun m e => regSet m e.1 (word e.2)) m
  { m with pend := old.foldl (fun l e => if regGet m e.1 = e.2 then l else pendPut l e.1 e.2) m.pend }

/-- The module takes the tick role on its holdover timeline. -/
def becomeMaster (m : Mach) : Mach :=
  modTick (adoptTiming m) fun t => { t with
    master := true, locked := false, holdover := false, relock := false, follow := none, sym := none, slew := 0, refEn := false, stopIn := 0 }

/-- A write of TICK_ROLE (R16, R66). -/
def tickRoleOp (v : Word) (m : Mach) : Mach :=
  let m := regSet m offRole (v &&& 1)
  if m.tick.running && m.tick.holdover && v.getLsbD 0 then becomeMaster m else m

/-- A write of TICK_UPLINK (R16, R66, R536). -/
def tickUplinkOp (v : Word) (m : Mach) : Mach :=
  let l := wf v 5 0
  if 35 < l then raise m hostCfgErr srcHost none []
  else
    let m := regSet m offUplink (word l)
    if m.tick.running && m.tick.holdover then modTick m fun t => { t with uplink := l, relock := true } else m

def execTickRole (v : Word) (s : State) : Res := actReady true (tickRoleOp v) s
def execTickUplink (v : Word) (s : State) : Res := actReady true (tickUplinkOp v) s

/-! ### TICK_REF (R63, R67) -/

def loseRef (m : Mach) : Mach := raise (modTick m fun t => { t with refOk := false }) tickRefLostEv (srcUnit 0) none []

/-- Edge count of the edge that a reference pulse at this instant accompanies: the nearer of the last and the coming one. -/
def pulseEdge (m : Mach) : Nat := if m.now - m.tick.edgeAt ≤ gridEdge m - m.now then m.edges else m.edges + 1

/-- TICK_REF_PULSE: the first pulse after START is the first edge; later pulses slew the master by at most one step. -/
def refPulseOp (phaseErr : Int) (m : Mach) : Mach :=
  let t := m.tick
  if !t.master || !t.refEn then m
  else if t.armed && !t.running then
    if t.refOk then m else modTick m fun t => { t with refOk := true, nextEdge := m.now, refEdge := m.edges + 1 }
  else if !t.running || !t.refOk then m
  else if phaseErr < -1000000 ∨ 1000000 < phaseErr then loseRef m
  else modTick m fun t => { t with refEdge := pulseEdge m, slew := if 5000 ≤ phaseErr then 1 else if phaseErr ≤ -5000 then -1 else 0 }

/-- TICK_REF_LOST: two expected pulses are missing; the second one is from the edge at which it was expected (DESIGN CHOICE, log
entry 78). -/
def refLostOp (m : Mach) : Mach :=
  let t := m.tick
  if t.running && t.master && t.refEn && t.refOk && decide (t.refEdge + 2 * t.refDiv ≤ m.edges) then loseRef m else m

def execTickRefPulse (phaseErr : Int) (s : State) : Res := actReady true (refPulseOp phaseErr) s
def execTickRefLost (s : State) : Res := actReady true refLostOp s

end Sys2Proof.Machine
end

