-- ==== Sys2Proof/Machine/BootOps.lean ====
section
/-!
DEFINITION. Power states, resets, boot, test access, wire tests, pairing and hot updates (chapter 18; R26, R546).
-/
namespace Sys2Proof.Machine

/-! ### Power states and resets (R507–R512) -/

/-- Everything outside flash and the given boot state returns to reset; the record of what was sent and the instant go
on. -/
def powerDown (b : Boot) (m : Mach) : Mach :=
  let x := Mach.fresh m.flash b
  { x with now := m.now, out := m.out, free := m.free,
           power := { x.power with addr := m.power.addr } }

/-- Leaves READY: TWIN_FAIL is asserted for the whole of the reset and PWR_GOOD falls (R398, R510, R554). -/
def dropPins (m : Mach) : Mach := emit (emit m (.pin .twinFail true)) (.pin .pwrGood false)

/-- Firmware banks after a reset: a bank being programmed stays invalid (R523). -/
def keepAlways (m m' : Mach) : Mach :=
  { m' with
    regs := m.regs.filter fun e => decide (0xA0100 ≤ e.1) && decide (e.1 < 0xA0160)
    focus := { m'.focus with lines := m.focus.lines }
    power := { m'.power with flowLow := m.power.flowLow, leak := m.power.leak, inputMv := m.power.inputMv,
                             inlet := m.power.inlet, inputW := m.power.inputW } }

/-- A MODULE reset (R509, R510): to STANDBY with the always-on domain kept; `cause` is the boot failure cause. -/
def moduleResetOp (cause : Nat) (m : Mach) : Mach :=
  let b : Boot := { Boot.init with
    state := 1, cause := cause, resetN := m.boot.resetN, wakeCause := false }
  keepAlways m (dropPins (powerDown b m))

/-- INPUT_OUT_OF_RANGE: the module enters OFF (R546). -/
def inputOutOp (m : Mach) : Mach :=
  if m.boot.state = 0 then m
  else dropPins (powerDown { Boot.init with state := 0, resetN := m.boot.resetN } m)

/-- INPUT_IN_RANGE: from OFF to STANDBY with a COLD reset; the straps are sampled (R507, R509, R556). -/
def inputInOp (mv : Nat) (addr : BitVec 2) (m : Mach) : Mach :=
  if m.boot.state ≠ 0 then m
  else
    let m := powerDown { Boot.init with state := 1, resetN := m.boot.resetN } m
    modPower m fun p => { p with addr := addr, inputMv := mv }

/-- RESET_N asserted for 10 µs (R509). -/
def resetNOp (m : Mach) : Mach :=
  if m.boot.state = 0 then m
  else
    let m := moduleResetOp m.boot.cause m
    { m with boot := { m.boot with resetN := true } }

/-- WAKE (R508): the wake cause is kept while only FLOW_LOW is asserted; when nothing holds it the module boots and the
line latches are judged (R485). -/
def wakeOp (cause : WakeCause) (confirmed : List (Nat × Nat)) (m : Mach) : Mach :=
  if m.boot.state ≠ 1 then m
  else
    let m := match cause with
      | .resetRelease => { m with boot := { m.boot with
          resetN := false, wakeCause := (m.boot.wakeCause || m.boot.resetN) && !m.power.leak } }
      | .line _ => m
    if m.boot.resetN || m.power.flowLow || m.power.leak || !m.boot.wakeCause then m
    else
      let m := { m with boot := { m.boot with state := 2, step := 1, cause := 0, wakeCause := false } }
      judgeLatches confirmed m

/-- A bank that can run (R491, R514). -/
def bankOk (fl : Flash) (b : Nat) : Bool := fl.sfdp && ((fl.banks[b]?).map (·.valid)).getD false

/-- The bank that boots: the committed one if valid, else the other (R491). -/
def bootBank (fl : Flash) : Option Nat :=
  if bankOk fl fl.committed then some fl.committed
  else if bankOk fl (1 - fl.committed) then some (1 - fl.committed) else none

/-- The valid record-area copy with the higher SEQ (R515). -/
def bootCopy (fl : Flash) : Option (Nat × Nat) :=
  fl.copies.zipIdx.foldl (fun best (c, i) =>
    if !c.1 then best
    else match best with
      | none => some (i, c.2)
      | some (j, q) => if q < c.2 then some (i, c.2) else some (j, q)) none

/-- A site that is FAILED when READY is reached is taken over by row shift with nothing to copy (R511). -/
def bootTakeover (m : Mach) (s : Nat) : Mach :=
  let f := logicalAt m s
  let row := rowOf s
  if f ≥ 96 then m
  else
    let m := modFacet m f fun x => { x with failed := true }
    let m := raise m facetFailEv (srcFacet f 11) none [f, s, (siteOf m (96 + row)).getD 255]
    match reserveSite m row with
    | some r => finishShift ⟨row, s, r, false, true, false⟩ m
    | none => m

/-- Step 7: READY (R511, R513, R515). -/
def becomeReady (m : Mach) : Mach :=
  let fl := m.flash
  let bank := (bootBank fl).getD 0
  let ver := ((fl.banks[bank]?).map (·.ucode)).getD 0
  let m := { m with boot := { m.boot with state := 3, step := 7 } }
  let m := regSet m offFwCtl (word fl.committed)
  let m := modCtr m fun c => { c with bank := bank }
  let m := modFlash m fun fl => { fl with sites := fl.sites.map fun s => { s with ucode := ver } }
  let ports := m.links.zipIdx.map fun (x, l) => if tb (regN m (offLinkCtl l)) 0 then { x with state := 1 } else x
  let m := { m with links := ports }
  let m := emit (emit m (.pin .twinFail false)) (.pin .pwrGood true)
  let m := if m.boot.fellBack then
      raise m fwFallback (srcUnit 11) none [bank, ((fl.banks[bank]?).map fun b => b.version.toNat).getD 0]
    else m
  let m := if m.boot.fmapFell then
      raise m fmapFallback (srcUnit 11) none (match bootCopy fl with
        | some (i, q) => [i, q]
        | none => [])
    else m
  forAll ((List.range 104).filter fun s => ((m.flash.sites[s]?).map (·.state)) == some 1) bootTakeover m

/-- BOOT_STEP_END (R511). -/
def bootStepOp (ok : Bool) (failedSites : List Nat) (m : Mach) : Mach :=
  if m.boot.state ≠ 2 then m
  else
    let s := m.boot.step
    let onward (m : Mach) : Mach := { m with boot := { m.boot with step := s + 1 } }
    if s ≤ 2 then (if ok then onward m else moduleResetOp 3 m)
    else if s = 3 then
      match bootBank m.flash with
      | some b =>
        if ok then onward { m with boot := { m.boot with fellBack := b != m.flash.committed } } else moduleResetOp 1 m
      | none => modCtr (moduleResetOp 1 m) fun c => { c with noImage := true }
    else if s = 4 then
      match bootCopy m.flash with
      | some _ =>
        if ok then onward { m with boot := { m.boot with fmapFell := m.flash.copies.any fun c => !c.1 } }
        else moduleResetOp 2 m
      | none => moduleResetOp 2 m
    else if s ≤ 6 then
      let bad := failedSites.filter (· < 104)
      let m := if bad.isEmpty then m
        else flashRecord m fun fl => bad.foldl (fun fl s => modSite fl s fun y => { y with
          state := 1, logical := if 96 ≤ y.logical then 255 else y.logical }) fl
      onward { m with boot := { m.boot with failed := m.boot.failed ++ bad } }
    else becomeReady m

/-- LEAK_GRACE (R502): every job halts and the module enters STANDBY. -/
def leakGraceOp (m : Mach) : Mach :=
  match m.power.leakAt with
  | none => m
  | some t =>
    byTime (t + regN m offLeakGrace * 100000) (fun m =>
      moduleResetOp 0 (forAll ((List.range 16).filter fun j => (jobOf m j).admitted)
        (fun m j => abortCut j 2 (modJob m j fun x => { x with halted := true })) m)) m

/-! ### Test access -/

/-- JTAG_INSTRUCTION (R517). -/
def jtagOp (i : TapInstr) (m : Mach) : Mach :=
  if m.boot.state = 0 then m
  else
    let free := m.boot.state == 1 || tb (regN m offTestCtl) 0
    let eff : TapInstr := if free then i else match i with
      | .test _ => .bypass
      | x => x
    let m := modTest m fun t => { t with tap := eff }
    if eff = .idcode then emit m (.tapId 0x19600A4B) else m

/-- JTAG_RUN (R517): a write of 1 while the generator runs has no effect. -/
def jtagRunOp (v : Word) (m : Mach) : Mach :=
  if tb v.toNat 0 && m.tick.running then m else regSet m offTestCtl (v &&& 1)

/-- A TEST_CMD operation is refused (R518). -/
def refuseTest (op site src : Nat) (m : Mach) : Mach :=
  let m := modTest m fun t => { t with op := if t.busy then t.op else op, result := 1 }
  raise m testRefused src none [site, op, 0, 0]

def siteSrc (m : Mach) (s : Nat) : Nat := if logicalAt m s < 104 then srcFacet (logicalAt m s) 11 else srcUnit 11

/-- A shift or a microcode update in the site's row. -/
def rowBusy (m : Mach) (s : Nat) : Bool :=
  (m.shifts.any fun sh => sh.row == rowOf s) || (m.test.ucode.any fun u => rowOf u.site == rowOf s)

/-- A stage context of any map in effect lies on the logical index, or a guest runs on its site (R518). -/
def siteInUse (m : Mach) (s : Nat) : Bool :=
  let f := logicalAt m s
  m.jobs.any fun j =>
    (j.maps.any fun o => match o with
      | some mp => mp.scs.any fun c => c.facet == f
      | none => false)
    || j.guests.any fun g => g.2.2.1 == f

/-- WIRE_TEST (R518): accepted for the next sweep edge, or refused. -/
def wireTestOp (s : Nat) (m : Mach) : Mach :=
  if siteInUse m s || rowBusy m s || m.test.busy then refuseTest 1 s (siteSrc m s) m
  else modTest m fun t => { t with busy := true, op := 1, result := 0, site := s, started := false }

/-- The site across an edge of Table 18.5; none where the edge ends at HBM, the rim or a row port.  DESIGN CHOICE: the detour
wires of a site are those to the column two to the east, and those to the west at the last two columns (log entry 63). -/
def neighbour (s edge : Nat) : Option Nat :=
  let row := rowOf s
  let col := s % 13
  match edge with
  | 0 => if col = 0 then none else some (s - 1)
  | 1 => if col = 12 then none else some (s + 1)
  | 3 => some (if row % 2 = 0 then s + 13 else s - 13)
  | 4 => if row = 0 ∨ row = 7 then none else some (if row % 2 = 1 then s + 13 else s - 13)
  | 6 => if col + 2 ≤ 12 then some (s + 2) else some (s - 2)
  | _ => none

/-- The one site that R26 records as failed for a group of an edge. -/
def failedEnd (m : Mach) (s edge : Nat) (sFails tFails : Bool) : Nat :=
  match neighbour s edge with
  | none => s
  | some t =>
    let reserve (x : Nat) : Bool := ((m.flash.sites[x]?).map (·.state)) == some 2
    if reserve s && !reserve t then s
    else if reserve t && !reserve s then t
    else if sFails && !tFails then s
    else if tFails && !sFails then t
    else max s t

/-- The code that an edge has at its other end: west and east change places. -/
def farEdge (edge : Nat) : Nat := if edge = 0 then 1 else if edge = 1 then 0 else edge

/-- Do the two site and edge pairs name the same wires, from either end? -/
def sameEdge (s e s' e' : Nat) : Bool :=
  (s == s' && e == e') || (neighbour s e == some s' && farEdge e == e' && neighbour s' e' == some s)

/-- Failing wires known in a group, one record for each wire, from whichever end it was reported (R26). -/
def groupWires (m : Mach) (s edge g : Nat) : List WireRec :=
  (m.flash.wires.filter fun w => sameEdge s edge w.site w.edge && w.group == g).foldl
    (fun l w => if l.any fun x => x.wire == w.wire then l else l ++ [w]) []

/-- Is the wire recorded as failing already? -/
def wireKnown (m : Mach) (s edge g w : Nat) : Bool := (groupWires m s edge g).any fun x => x.wire == w

/-- TEST_DONE (R520): newly failing wires by group; `loopback` names the ends whose own pad loopback failed. -/
def testDoneOp (failing loopback : List (Nat × Nat × Nat)) (time : Nat) (m : Mach) : Mach :=
  if !(m.test.busy && m.test.op == 1 && m.test.started) then m
  else
    let s := m.test.site
    let src := siteSrc m s
    let groups := (failing.map fun x => (x.1, x.2.1)).eraseDups
    let (m, rep, bad) := groups.foldl (fun (acc : Mach × Nat × List (Nat × Nat)) (e, g) =>
      let (m, rep, bad) := acc
      let new := ((failing.filter fun x => x.1 == e && x.2.1 == g).map (·.2.2)).eraseDups.filter fun w => !wireKnown m s e g w
      let old := (groupWires m s e g).length
      if old + new.length ≤ 2 then
        let m := flashRecord m fun fl => { fl with wires := fl.wires ++ new.map fun w => ⟨s, e, g, w, true⟩ }
        let m := forAll new.zipIdx (fun m (w, i) => raise m wireRepaired src none [s, e, g, w, old + i]) m
        (m, rep + new.length, bad)
      else (m, rep, bad ++ [(e, g)])) (m, 0, [])
    let m := flashRecord m fun fl => { fl with tests := fl.tests ++ [(s, (List.range 7).filter fun e =>
      !(bad.any fun b => b.1 == e), time)] }
    let m := modFacet m (logicalAt m s) fun x => { x with holding := false }
    let m := modTest m fun t => { t with busy := false, started := false, result := 0 }
    let m := forAll bad (fun m (e, g) =>
      let lf (x : Nat) : Bool := loopback.contains (x, e, g)
      failSite (failedEnd m s e (lf s) (lf ((neighbour s e).getD 255))) m) m
    raise m testDoneEv src none [s, 1, rep, bad.length]

/-- FAILING_WIRE in service (R26); a wire that is steered already changes nothing. -/
def failingWireOp (s edge g w : Nat) (near far : Bool) (m : Mach) : Mach :=
  if wireKnown m s edge g w then m
  else if (groupWires m s edge g).length < 2 then
    flashRecord m fun fl => { fl with wires := fl.wires ++ [⟨s, edge, g, w, true⟩] }
  else failSite (failedEnd m s edge near far) m

/-! ### Hot updates -/

/-- UCODE (R525). -/
def ucodeOp (s : Nat) (m : Mach) : Mach :=
  let row := rowOf s
  let ver := ((m.flash.banks[m.ctr.bank]?).map (·.ucode)).getD 0
  let st := ((m.flash.sites[s]?).map (·.state)).getD 1
  let cur := ((m.flash.sites[s]?).map (·.ucode)).getD 0
  if (reserveSite m row).isNone || st != 0 || decide (96 ≤ logicalAt m s) || cur == ver || m.test.busy || rowBusy m s then
    refuseTest 2 s (siteSrc m s) m
  else modTest m fun t => { t with busy := true, op := 2, result := 0, site := s, ucode := some ⟨s, 1, 0⟩ }

/-- UCODE_LOAD_DONE: step 1 (the reserve die) or step 3 (the site) ends (R525, R527). -/
def ucodeLoadOp (ok : Bool) (m : Mach) : Mach :=
  match m.test.ucode with
  | none => m
  | some u =>
    let row := rowOf u.site
    let ver := ((m.flash.banks[m.ctr.bank]?).map (·.ucode)).getD 0
    if u.step = 1 then
      let r := (reserveSite m row).getD 255
      if ok then
        let m := modFlash m fun fl => modSite fl r fun y => { y with ucode := ver }
        modTest m fun t => { t with ucode := some { u with step := 2, readyAt := edgeAhead m 2 } }
      else abortUcode row 3 (failSite r m)
    else if u.step = 3 then
      if ok then
        let m := modFlash m fun fl => modSite fl u.site fun y => { y with ucode := ver }
        modTest m fun t => { t with ucode := some { u with step := 4, readyAt := m.tick.tickNo + 1 } }
      else abortUcode row 2 (failSite u.site m)
    else m

/-- At a PUBLISH edge the copies of steps 2 and 4 start (R525). -/
def ucodeEdge (m : Mach) : Mach :=
  match m.test.ucode with
  | none => m
  | some u =>
    let row := rowOf u.site
    if !publishStart m || decide (m.tick.tickNo < u.readyAt) || (m.shifts.any fun sh => sh.row == row) then m
    else if u.step = 2 then
      match reserveSite m row with
      | some r => startShift m ⟨row, u.site, r, true, false, true⟩
      | none => m
    else if u.step = 4 then startShift m ⟨row, row * 13 + 12, u.site, true, false, true⟩
    else m

/-- The first edge after a copy (R392, R525). -/
def shiftEdge (m : Mach) : Mach :=
  forAll (m.shifts.filter (·.copied)) (fun m sh =>
    let m := finishShift sh m
    match m.test.ucode with
    | some u =>
      if !sh.ucode then m
      else if u.step = 2 then modTest m fun t => { t with ucode := some { u with step := 3 } }
      else
        let ver := ((m.flash.sites[u.site]?).map (·.ucode)).getD 0
        let m := modTest m fun t => { t with ucode := none, busy := false, result := 0 }
        raise m ucodeDone (siteSrc m u.site) none [u.site, ver, 0]
    | none => m) m

/-- FLASH_PROG (R523): refused on the running bank. -/
def flashProgOp (b : Nat) (m : Mach) : Mach :=
  if b = m.ctr.bank || m.test.busy then refuseTest 3 0 (srcUnit 11) m
  else
    let m := readHost 0 (regN m offFlashSrc) (regN m offFlashLen) false m
    let m := modFlash m fun fl => { fl with banks := fl.banks.modify b fun x => { x with valid := false } }
    modTest m fun t => { t with busy := true, op := 3, result := 0, bank := b }

/-- FLASH_DONE: the bank is checked under R491. -/
def flashDoneOp (valid : Bool) (ver : W32) (accepts : List Nat) (uc : Nat) (m : Mach) : Mach :=
  if !(m.test.busy && m.test.op == 3) then m
  else
    let b := m.test.bank
    let m := modFlash m fun fl => { fl with banks := fl.banks.modify b fun _ => ⟨valid, ver, accepts, uc⟩ }
    let m := modTest m fun t => { t with busy := false, result := if valid then 0 else 2 }
    raise m (if valid then flashDoneEv else flashFail) (srcUnit 11) none [b, ver.toNat, if valid then 0 else 1]

/-- FW_COMMIT (R524). -/
def fwCommitOp (b : Nat) (m : Mach) : Mach :=
  if m.test.busy || !bankOk m.flash b then refuseTest 4 0 (srcUnit 11) m
  else
    let m := modFlash m fun fl => { fl with committed := b }
    modTest m fun t => { t with op := 4, result := 0 }

/-- PAIR (R522). -/
def pairOp (m : Mach) : Mach :=
  if m.test.busy || tb (regN m offTwinCtl) 0 then refuseTest 5 0 (srcUnit 1) m
  else
    let v := regGet m offPairSerial
    let m := flashRecord m fun fl => { fl with twinSerial := v }
    modTest m fun t => { t with op := 5, result := 0 }

/-- PHASE_UPDATE starts (R530). -/
def phaseUpdateOp (m : Mach) : Mach :=
  if m.test.busy then refuseTest 6 0 (srcUnit 7) m
  else modTest m fun t => { t with busy := true, op := 6, result := 0 }

/-- PHASE_UPDATED (R530): phases that failed readback stay out of service.  The spec gives no number of phases beyond
the core rails, so the counts of phases updated and skipped are free values. -/
def phaseUpdatedOp (failed : List (Nat × Nat)) (m : Mach) : Mach :=
  if !(m.test.busy && m.test.op == 6) then m
  else
    let m := forAll failed (fun m e => phaseFailOp e.1 e.2 m) m
    let m := modTest m fun t => { t with busy := false, result := 0 }
    let up := (freeVal m 32).toNat
    let sk := (freeVal (spendFree m) 32).toNat
    raise (spendFree (spendFree m)) phaseUpdatedEv (srcUnit 7) none [up, sk, failed.length]

/-- HBM_RETRAIN (R529): the channel goes ahead of the periodic order in the next UPDATE. -/
def hbmRetrainOp (f c : Nat) (m : Mach) : Mach :=
  if m.test.busy then refuseTest 7 f (srcFacet f 11) m
  else
    let m := modFacet m f fun x => { x with retrainReq := x.retrainReq ++ [c] }
    modTest m fun t => { t with op := 7, result := 0 }

/-! ### Commands -/

def execInputOutOfRange (s : State) : Res := act true inputOutOp s
def execInputInRange (mv : Nat) (addr : BitVec 2) (s : State) : Res := act true (inputInOp mv addr) s
def execWake (c : WakeCause) (confirmed : List (Nat × Nat)) (s : State) : Res := act true (wakeOp c confirmed) s
def execBootStepEnd (ok : Bool) (failed : List Nat) (s : State) : Res := act true (bootStepOp ok failed) s
def execResetN (s : State) : Res := act true resetNOp s
def execModuleReset (s : State) : Res := actReady true (fun m => moduleResetOp m.boot.cause m) s
def execLeakGrace (s : State) : Res := actReady true leakGraceOp s
def execJtagInstruction (i : TapInstr) (s : State) : Res := act true (jtagOp i) s
def execJtagRun (v : Word) (s : State) : Res := actReady true (jtagRunOp v) s
def execWireTest (site : Nat) (s : State) : Res := actReady (decide (site < 104)) (wireTestOp site) s
def execFailingWire (site edge g w : Nat) (near far : Bool) (s : State) : Res :=
  reporting (decide (site < 104 ∧ edge < 7)) (failingWireOp site edge g w near far) s
def execUcode (site : Nat) (s : State) : Res := actReady (decide (site < 104)) (ucodeOp site) s
def execUcodeLoadDone (ok : Bool) (s : State) : Res := reporting true (ucodeLoadOp ok) s
def execFlashProg (b : Nat) (s : State) : Res := actReady (decide (b < 2)) (flashProgOp b) s
def execFlashDone (valid : Bool) (ver : W32) (accepts : List Nat) (uc : Nat) (s : State) : Res :=
  actReady true (flashDoneOp valid ver accepts uc) s
def execFwCommit (b : Nat) (s : State) : Res := actReady (decide (b < 2)) (fwCommitOp b) s
def execPair (s : State) : Res := actReady true pairOp s
def execPhaseUpdate (s : State) : Res := actReady true phaseUpdateOp s
def execPhaseUpdated (failed : List (Nat × Nat)) (s : State) : Res := reporting true (phaseUpdatedOp failed) s
def execHbmRetrain (f c : Nat) (s : State) : Res := actReady (decide (f < 104 ∧ c < 16)) (hbmRetrainOp f c) s

end Sys2Proof.Machine
end

