-- ==== Sys2Proof/Machine/Twins.lean ====
section
/-!
DEFINITION. Twins: heartbeats, loss, takeover, lease, freeze and detach (R397–R401, R444–R446).
-/
namespace Sys2Proof.Machine

/-- The module has a twin matched at manufacture (or paired since) and TWIN_CTL.EN is 1. -/
def twinOn (m : Mach) : Bool := m.flash.twinSerial != 0 && tb (regN m offTwinCtl) 0

def hbMiss (m : Mach) : Nat := bf (regN m offTwinCtl) 7 3

/-! ### Heartbeats (R397, R445) -/

def leads (m : Mach) (j : Nat) : Bool := (snapOf m j).armed && isLeader (snapOf m j)

/-- The heartbeat of the present tick (Table 14.9). -/
def ourHeartbeat (m : Mach) : HeartbeatMsg :=
  let js := List.range 16
  { commits := js.map fun j => if leads m j then (snapOf m j).commitCtr else 0
    leader := BitVec.ofNat 16 ((js.map fun j => b2n (leads m j) * 2 ^ j).foldl (· + ·) 0)
    modNum := self m, tick := m.tick.tickNo, detach := m.twin.detaching || m.twin.detached, frozen := m.twin.frozen
    lease := leaseHeld m }

/-- HEARTBEAT_SEND at edge + 1 µs, on every bridge link. -/
def heartbeatSendOp (m : Mach) : Mach :=
  if !twinOn m || !m.tick.running then m
  else
    let m := atTime m (m.tick.edgeAt + 100)
    forAll ((bridgeLinks m).filter (linkIsUp m)) (fun m l => sendTick m l (.heartbeat l (ourHeartbeat m))) m

/-- HEARTBEAT: the first copy that names the present tick counts; further copies are ignored.  A twin whose heartbeat comes
again without DETACH is no longer lost. -/
def heartbeatOp (link : Nat) (h : HeartbeatMsg) (m : Mach) : Mach :=
  if !twinOn m || !(bridgeLinks m).contains link || (m.twin.last.any fun x => x.tick == h.tick) then m
  else modTwin m fun t => { t with
    last := some h, beat := t.beat || h.tick == m.tick.tickNo, lost := t.lost && h.detach }

def execHeartbeatSend (s : State) : Res := actReady true heartbeatSendOp s
def execHeartbeat (link : Nat) (h : HeartbeatMsg) (s : State) : Res := actReady (decide (link < 36)) (heartbeatOp link h) s

/-- TWIN_FAIL_SENSED: the twin's line has been asserted for 1 µs (R446). -/
def execTwinFailSensed (s : State) : Res :=
  actReady true (fun m => if twinOn m then modTwin m fun t => { t with failSensed := true } else m) s

/-! ### Loss and takeover (R398, R399) -/

/-- At an edge: a tick without a heartbeat counts; a sensed TWIN_FAIL counts as a loss at once. -/
def twinTickEdge (m : Mach) : Mach :=
  if !twinOn m then modTwin m fun t => { t with beat := false, missed := 0 }
  else
    let n := hbMiss m
    modTwin m fun t => { t with
      missed := if t.failSensed then max (t.missed + 1) n else if t.beat then 0 else t.missed + 1, beat := false }

/-- The twin announced DETACH in its last heartbeat. -/
def twinDetaches (m : Mach) : Bool := m.twin.last.any (·.detach)

/-- TWIN_LOST: loss is detected; without the lease the module freezes at its next sweep edge, unless its twin announced
DETACH. -/
def twinLostOp (m : Mach) : Mach :=
  let t := m.twin
  if !twinOn m || !m.tick.running || t.lost || decide (t.missed < hbMiss m) then m
  else
    let det := twinDetaches m
    let cause := if det then 3 else if t.failSensed then 2 else 1
    let m := raise m twinLostEv (srcUnit 1) none [cause]
    let takes := leaseHeld m || det
    modTwin m fun t => { t with
      lost := true, lostTick := m.tick.tickNo, failSensed := false, freezeDue := t.freezeDue || !takes }

/-- The loss of three ticks ago leads to a takeover: the lease was held at detection and no check since has failed, or the twin announced
DETACH, which needs no lease (R399, R401). -/
def takesOver (m : Mach) : Bool :=
  m.twin.lost && !m.twin.takenOver && (twinDetaches m || (!m.twin.freezeDue && !m.twin.frozen)) && decide (m.twin.lostTick + 3 = m.tick.tickNo)

/-- The twin was the module's uplink, or the domain's tick master, of which no register and no message tells a module that is not its
child: a free value (log entry 54). -/
def twinLed (m : Mach) : Bool :=
  following m && ((bridgeLinks m).contains m.tick.uplink || (linkOf m m.tick.uplink).farModule == m.twin.modNum || freeVal m 1 == 1)

/-- The twin's snapshot leadership of a job passes to this member, with the commit counter of its last heartbeat. -/
def takeLeadership (h : HeartbeatMsg) (m : Mach) (j : Nat) : Mach :=
  let sn := snapOf m j
  if h.leader.getLsbD j && sn.armed && memberModule sn sn.leader == h.modNum then
    modSnap m j fun x => { x with leader := x.self, commitCtr := max x.commitCtr (h.commits.getD j 0) }
  else m

/-- Takeover at edge d + 3 (R399). -/
def takeover (m : Mach) : Mach :=
  let m := if tb (regN m offTwinCtl) 2 && following m then
      (if twinLed m then becomeMaster (regSet (spendFree m) offRole 1) else spendFree m)
    else m
  let m := match m.twin.last with
    | some h => forAll (List.range 16) (takeLeadership h) m
    | none => m
  let gens := ((m.store.filter fun i => i.mirror && i.owner == m.twin.modNum).map fun i => (i.job, i.gen)).eraseDups
  let m := modTwin m fun t => { t with takenOver := true, mirrors := gens }
  let m := forAll ((List.range 16).filter fun j => (snapOf m j).armed) (fun m j =>
    modSnap m j fun x => { x with nFail := x.nFail + 1 }) m
  raise m twinTakeover (srcUnit 1) none [m.tick.tickNo, m.twin.modNum]

def execTwinLost (s : State) : Res := actReady true twinLostOp s

/-! ### Freeze, detach and the lease (R400, R401) -/

/-- TWIN_FAIL as the cases of R398 have it, centroid halt apart, which drives it when it happens. -/
def driveFail (m : Mach) : Mach := emit m (.pin .twinFail (m.twin.frozen || m.twin.detached || m.ctr.halted))

/-- A sweep edge: a due freeze or detach takes place, and the lease of a module whose twin is lost is checked. -/
def twinSweepEdge (m : Mach) : Mach :=
  let t := m.twin
  let m :=
    if t.detaching then
      driveFail (raise (modTwin m fun t => { t with detaching := false, detached := true, frozen := true, freezeDue := false })
        twinDetached (srcUnit 1) none [m.tick.tickNo, t.modNum])
    else if t.freezeDue && !t.frozen then
      driveFail (raise (modTwin m fun t => { t with frozen := true, freezeDue := false }) twinFrozen (srcUnit 1) none
        [m.tick.tickNo, t.modNum])
    else m
  if m.twin.lost && !m.twin.frozen && !leaseHeld m then modTwin m fun t => { t with freezeDue := true } else m

def detachOp (m : Mach) : Mach := modTwin m fun t => { t with detaching := true }

def unfreezeOp (m : Mach) : Mach :=
  if m.twin.frozen || m.twin.freezeDue then
    driveFail (modTwin m fun t => { t with frozen := false, freezeDue := false })
  else m

/-- A write of TWIN_LEASE_EXP. -/
def leaseExpOp (v : Word) (m : Mach) : Mach :=
  if m.twin.last.any (·.lease) then raise m twinLeaseErr (srcUnit 1) none [m.tick.tickNo, m.twin.modNum]
  else regSet m offLeaseExp v

/-- A write of TWIN_LINKS (Table 14.10). -/
def twinLinksOp (v : Word) (m : Mach) : Mach :=
  let w := wf v 35 0
  if tb (regN m offTwinCtl) 0 then
    raise m twinBridgeErr (srcUnit 1) none [(bridgeLinks m).headD 0, (linkOf m ((bridgeLinks m).headD 0)).farModule]
  else if popc 36 w < 2 ∨ 8 < popc 36 w then raise m hostCfgErr srcHost none []
  else updatePaired (regSet m offTwinLinks (word w))

def execDetach (s : State) : Res := actReady true detachOp s
def execUnfreeze (s : State) : Res := reporting true unfreezeOp s
def execTwinLeaseExp (v : Word) (s : State) : Res := actReady true (leaseExpOp v) s
def execTwinLinks (v : Word) (s : State) : Res := actReady true (twinLinksOp v) s

end Sys2Proof.Machine
end

