-- ==== Sys2Proof/Machine/MemControl.lean ====
section
/-!
DEFINITION. Control of HBM and scratchpads: regions and keys, rekeys, retirement of channels, scrubbing and retraining
(R451, R453–R456, R459–R466).
-/
namespace Sys2Proof.Machine

/-! ### Moves (R454–R456, R463) -/

/-- Lowest free channel of a row's reserve half-stack; none once the reserve has taken over a facet (R463, R465). -/
def freeReserve (m : Mach) (row : Nat) : Option Nat :=
  if (siteOf m (96 + row)).isNone then none
  else (List.range 16).find? fun c =>
    !(m.flash.remaps.any fun r => r.2.2.1 == row && r.2.2.2 == c) && !(movingTo m row).contains c

/-- The move that starts next: channel moves in the order of their decisions, then rekeys in region order (R456). -/
def pickMove (l : List (MoveKind × Bool)) : Option MoveKind :=
  match l.find? fun x => match x.1 with | .channel _ _ => true | .rekey _ _ _ => false with
  | some x => some x.1
  | none => (List.range 8).findSome? fun r => (l.find? fun x => match x.1 with | .rekey q _ _ => q == r | .channel _ _ => false).map (·.1)

/-- Starts a waiting move when none runs. -/
def startMove (f : Nat) (m : Mach) : Mach :=
  modFacet m f fun x =>
    if x.moves.any (·.2) then x
    else match pickMove x.moves with
      | some k => { x with moves := x.moves.map fun y => if y.1 = k then (y.1, true) else y }
      | none => x

/-- The move that runs. -/
def runningMove (m : Mach) (f : Nat) : Option MoveKind := ((facetOf m f).moves.find? (·.2)).map (·.1)

def endMove (f : Nat) (m : Mach) : Mach :=
  startMove f (modFacet m f fun x => { x with moves := x.moves.filter fun y => !y.2 })

/-! ### Retirement (R463–R465) -/

/-- MEM_CMD.RETIRE. -/
def retireOp (f ch : Nat) (m : Mach) : Mach :=
  if 96 ≤ f ∨ (facetOf m f).failed then m
  else if (freeReserve m (facetRow m f)).isNone then raise m memRetireNone (srcFacet f 6) none [f, ch]
  else decideRetire f ch m

/-- Retirements decided at least two ticks ago start at a sweep edge, or are refused.  MEM_CMD.RETIRE is judged when it is
written, too (log entry 88). -/
def startRetire (f : Nat) (m : Mach) : Mach :=
  let due := (facetOf m f).retireDue.filter fun d => decide (d.2 ≤ m.tick.tickNo)
  let m := modFacet m f fun x => { x with retireDue := x.retireDue.filter fun d => !due.contains d }
  forAll due (fun m d =>
    match freeReserve m (facetRow m f) with
    | none => raise m memRetireNone (srcFacet f 6) none [f, d.1]
    | some rc => modFacet m f fun x => { x with moves := x.moves ++ [(.channel d.1 rc, false)] }) m

/-- MEM_RETIRED: the channel move ends; the remap goes into the facet map, and bursts that could not be corrected are marked
uncorrectable at their new place. -/
def memRetiredOp (f : Nat) (bad : List Nat) (m : Mach) : Mach :=
  match runningMove m f with
  | some (.channel ch rc) =>
    let row := facetRow m f
    let m := flashRecord m fun fl => { fl with remaps := fl.remaps ++ [(f, ch, row, rc)] }
    let units := (bad.map fun o => locate m f 1 (o - o % 32)).filter fun u => !m.ue.contains u
    let m := { m with ue := m.ue ++ units.eraseDups }
    raise (endMove f m) memRetiredEv (srcFacet f 6) none [f, ch, rc]
  | _ => m

/-- MEM_REKEYED: the rekey ends; the time that the move took is a free value. -/
def memRekeyedOp (f : Nat) (m : Mach) : Mach :=
  match runningMove m f with
  | some (.rekey r _ k) =>
    let t := (freeVal m 32).toNat
    raise (endMove f (spendFree m)) memRekeyedEv (srcFacet f 6) none [f, r, k.toNat, t]
  | _ => m

def execRetire (f ch : Nat) (s : State) : Res := actReady (decide (f < 128 ∧ ch < 16)) (retireOp f ch) s
def execMemRetired (f : Nat) (bad : List Nat) (s : State) : Res := actReady (decide (f < 96)) (memRetiredOp f bad) s
def execMemRekeyed (f : Nat) (s : State) : Res := actReady (decide (f < 96)) (memRekeyedOp f) s

/-! ### Settings at a sweep edge (R451, R454) -/

/-- A region whose word changed in its key alone, enabled and REKEYABLE before and after: it is moved. -/
def rekeyOf (m0 m : Mach) (f r : Nat) : Option (BitVec 28 × BitVec 28) :=
  let a := regN m0 (offMemRgn f r)
  let b := regN m (offMemRgn f r)
  if tb a 28 && tb a 29 && decide (a / 2 ^ 28 = b / 2 ^ 28) && decide (a ≠ b) then
    some (BitVec.ofNat 28 a, BitVec.ofNat 28 b)
  else none

/-- Extents of HBM whose key changed without a move: first byte, end, old and new key; neighbouring units of 64 MiB with the
same keys are one extent. -/
def changedKeys (m0 m : Mach) (f : Nat) : List (Nat × Nat × Nat × Nat) :=
  let moved (b : Nat) : Bool := (List.range 8).any fun r => (rekeyOf m0 m f r).isSome && (match regionOf m f r with
    | some x => decide (x.1 ≤ b) && decide (b < x.1 + x.2)
    | none => false)
  (List.range 192).foldl (fun acc b =>
    let o := b * 2 ^ 26
    let ka := hbmKey m0 f o
    let kb := hbmKey m f o
    if ka = kb || moved b then acc
    else match acc with
      | (lo, hi, ka', kb') :: t => if hi = o ∧ ka = ka' ∧ kb = kb' then (lo, o + 2 ^ 26, ka, kb) :: t else (o, o + 2 ^ 26, ka, kb) :: acc
      | [] => [(o, o + 2 ^ 26, ka, kb)]) []

/-- Contents whose placement changed are undefined (R451). -/
def scramble (f : Nat) (m : Mach) (e : Nat × Nat × Nat × Nat) : Mach :=
  let k := memKey f 1 0
  let s : Scrambled := ⟨k + e.1, k + e.2.1, some (BitVec.ofNat 28 e.2.2.1, BitVec.ofNat 28 e.2.2.2), m.free⟩
  let m := { m with scrambled := s :: m.scrambled, free := m.free + 1 }
  { m with ue := m.ue.filter fun u =>
      !(decide (s.lo ≤ u) && decide (u < s.hi) && place (u % 2 ^ 41) e.2.2.1 != place (u % 2 ^ 41) e.2.2.2) }

/-- What a sweep edge does with the memories after step 3; `m0` has the words before step 2. -/
def memSweepEdge (m0 m : Mach) : Mach :=
  let words := offKeyDef :: ((m.regs ++ m0.regs).map (·.1)).filter fun o => decide (0x91000 ≤ o) && decide (o < 0x91000 + 0x40 * 104)
  let all := regGet m0 offKeyDef != regGet m offKeyDef
  let hit := words.eraseDups.filter fun o => regGet m0 o != regGet m o
  let fs := (List.range 104).filter fun f => all || hit.any fun o => decide (0x91000 ≤ o) && (o - 0x91000) / 0x40 == f
  let m := forAll fs (fun m' f =>
    let m' := forAll (changedKeys m0 m f) (scramble f) m'
    forAll (List.range 8) (fun m' r =>
      match rekeyOf m0 m f r with
      | some k => modFacet m' f fun x => { x with moves := x.moves ++ [(.rekey r k.1 k.2, false)] }
      | none => m') m') m
  let m := forAll (List.range 96) (fun m f => startMove f (startRetire f m)) m
  { m with facets := m.facets.map fun x => { x with ceSweep := [] } }

/-! ### Imbalance (R453, R454) -/

/-- AUTO_REKEY: the centroid writes a new key, for the first sweep edge at least two ticks from now. -/
def autoRekey (f r : Nat) (m : Mach) : Mach :=
  let w := regN m (offMemRgn f r)
  if !tb (regN m offMemCtl) 0 || decide (8 ≤ r) || !tb w 28 || !tb w 29 then m
  else
    let soon := decide (edgeAhead m 2 ≤ nominalTick m (m.tick.sweepNo + 1))
    let sweep := m.tick.sweepNo + (if soon then 1 else 2)
    let old := bf w 27 0
    let k := (srMix (word (old ^^^ sweep))).toNat % 2 ^ 28
    let k := if k = old then k ^^^ 1 else k
    let p := (pendGet m (offMemRgn f r)).toNat
    let v := word (p / 2 ^ 28 * 2 ^ 28 + k)
    if soon then { m with pend := pendPut m.pend (offMemRgn f r) v }
    else { m with pendLate := pendPut m.pendLate (offMemRgn f r) v }

/-- A 10 µs window of a facet ends: IMBALANCE after 100 imbalanced windows in a row, once. -/
def imbalanceOp (f ch r : Nat) (imb : Bool) (m : Mach) : Mach :=
  if !imb then modFacet m f fun x => { x with imbRun := 0, imbRaised := false }
  else
    let n := (facetOf m f).imbRun + 1
    let m := modFacet m f fun x => { x with imbRun := n }
    if 100 ≤ n ∧ !(facetOf m f).imbRaised then
      autoRekey f r (raise (modFacet m f fun x => { x with imbRaised := true }) imbalanceEv (srcFacet f 6) none [f, ch, r])
    else m

def execImbalance (f ch r : Nat) (imb : Bool) (s : State) : Res :=
  actReady (decide (f < 104 ∧ ch < 16)) (imbalanceOp f ch r imb) s

/-! ### Scrubbing (R459, R460, R462) -/

/-- One corrected word or burst: counted, and, for a burst, on its channel; a channel over the threshold is retired. -/
def countCe (f : Nat) (m : Mach) (u : Nat × Nat) : Mach :=
  let m := modFacet m f fun x => { x with cntCe := min (x.cntCe + 1) (2 ^ 64 - 1) }
  if u.1 ≠ 1 then m
  else
    let ch := hbmChannel m f u.2
    let n := (((facetOf m f).ceSweep.find? fun c => c.1 == ch).map (·.2)).getD 0 + 1
    let m := modFacet m f fun x => { x with ceSweep := (x.ceSweep.filter fun c => c.1 != ch) ++ [(ch, n)] }
    if regN m offRetireThr < n && tb (regN m offMemCtl) 1 then decideRetire f ch m else m

/-- SCRUB_PASS: corrected units are written back and counted; the others are uncorrectable until they are written whole. -/
def scrubOp (f : Nat) (ce ue : List (Nat × Nat)) (m : Mach) : Mach :=
  let m := forAll ce (countCe f) m
  let units := (ue.map fun u => unitBase (locate m f u.1 u.2)).eraseDups
  raiseUe { m with ue := m.ue ++ units.filter fun u => !m.ue.contains u } units

def execScrubPass (f : Nat) (ce ue : List (Nat × Nat)) (s : State) : Res :=
  actReady (decide (f < 104) && (ce ++ ue).all fun u => decide (u.1 < 2)) (scrubOp f ce ue) s

/-! ### Retraining (R466, R529) -/

def stackOf (m : Mach) (f : Nat) : Nat :=
  let s := (anySiteOf m f).getD 255
  (s / 13 / 2) * 13 + s % 13

def stackTempOf (m : Mach) (st : Nat) : Nat := ((m.power.stackTemps.find? fun e => e.1 == st).map (·.2)).getD 0

/-- The first edge of UPDATE, or of PUBLISH without UPDATE, begins a round on every facet in the sweeps that the period
names, and on the facets of a stack whose temperature moved. -/
def retrainEdge (m : Mach) : Mach :=
  let first := phaseFirst m 4 || ((timing m).update == 0 && phaseFirst m 5)
  if !first then m
  else
    let all := m.tick.sweepNo % max 1 (regN m offRetrainPeriod) == 0
    let m := modPower m fun p => { p with
      trainTemps := p.trainTemps ++ p.stackTemps.filter fun e => !(p.trainTemps.any fun t => t.1 == e.1) }
    let moved (f : Nat) : Bool :=
      let st := stackOf m f
      match m.power.trainTemps.find? fun t => t.1 == st with
      | some t => decide (t.2 + 240 < stackTempOf m st) || decide (stackTempOf m st + 240 < t.2)
      | none => false
    forAll ((liveFacets m).filter fun f => all || moved f) (fun m f =>
      modFacet m f fun x => { x with retrain := x.retrain.or (some 0) }) m

/-- Is the phase one in which channels are retrained? -/
def retrainPhase (m : Mach) : Bool := m.tick.phase == 4 || ((timing m).update == 0 && m.tick.phase == 5)

/-- PERIODIC_RETRAIN: the facet's next channel, requested ones first, one in a tick; a failure retires the channel whatever
AUTO_RETIRE says. -/
def periodicRetrainOp (f ch : Nat) (ok : Bool) (m : Mach) : Mach :=
  let x := facetOf m f
  let asked := x.retrainReq.head?
  if !retrainPhase m || (asked.or x.retrain) != some ch || x.retrainAt == some m.tick.edgeAt then m
  else
    let done := asked.isNone && ch == 15
    let m := modFacet m f fun x => { x with retrainAt := some m.tick.edgeAt }
    let m := modFacet m f fun x =>
      if asked.isSome then { x with retrainReq := x.retrainReq.drop 1 }
      else { x with retrain := if ch < 15 then some (ch + 1) else none }
    let st := stackOf m f
    let m := if done then modPower m fun p => { p with
      trainTemps := (p.trainTemps.filter fun t => t.1 != st) ++ [(st, stackTempOf m st)] } else m
    if ok then m else decideRetire f ch (raise m memTrainFail (srcFacet f 6) none [f, ch])

def execPeriodicRetrain (f ch : Nat) (ok : Bool) (s : State) : Res :=
  actReady (decide (f < 104 ∧ ch < 16)) (periodicRetrainOp f ch ok) s

end Sys2Proof.Machine
end

