-- ==== Sys2Proof/Machine/Intake.lean ====
section
/-!
DEFINITION. The opcode table (Table 3.5) with NOP and COPY (R87, R97, R98, R316), the intake of fetched descriptors
(R84–R86, R54–R57, R560), and the start of immediate ones.
-/
namespace Sys2Proof.Machine

/-! ### NOP and COPY -/

def specNop : OpSpec :=
  { code := 0, kinds := [0, 1, 2], admin := false, wcet := fun _ => 0, image := fun _ => false
    bad := fun d => !dZero d 511 128, addr := fun _ _ => 0 }

def effNop : Effect := fun _ m => (some (0, 0), m)

def cpToHost (d : DescIn) : Bool := db d 289 288 == 1
def cpLen (d : DescIn) : Nat := db d 287 256
def cpLat (d : DescIn) : Nat := db d 255 192
def cpHost (d : DescIn) : Nat := db d 191 128

/-- Lattice status of a transfer: the facet's own offload engine reads or writes memory and arc-queue windows, and reads locus
tables; what another module holds is out of its reach. -/
def copyLat (m : Mach) (j : Nat) (toHost : Bool) (a len : Nat) : Nat :=
  let l := latOf a
  let st := latStatus m j l len (if toHost then .read else .write)
  let ok := if toHost then [0, 1, 3, 4].contains l.space else [0, 1, 3].contains l.space
  if st ≠ 0 then st else if l.mod = self m ∧ ok then 0 else 0x0A

/-- HOST_WINDOW before the lattice checks (R97). -/
def copyStatus (m : Mach) (j : Nat) (toHost : Bool) (lat host len : Nat) : Nat :=
  if hostAllowed m j host len toHost then copyLat m j toHost lat len else 0x07

def specCopy : OpSpec :=
  { code := 2, kinds := [0, 1], admin := false, image := fun _ => false
    bad := fun d => !dZero d 511 290 || decide (1 < db d 289 288) || cpLen d == 0 || cpLen d % 64 != 0
      || decide (268435456 < cpLen d) || cpLat d % 64 != 0 || cpHost d % 64 != 0
    addr := fun m d => copyStatus m (dJob m d) (cpToHost d) (cpLat d) (cpHost d) (cpLen d)
    wcet := fun d => 300 + ceilDiv (cpLen d) 10 }

/-- The transfer begins; one to the module reads the host with Relaxed Ordering (R74). -/
def effCopy : Effect := fun d m =>
  let m' := if cpToHost d then m else readHost (portOf m d.ring) (cpHost d) (cpLen d) true m
  (none, { m' with copies := m'.copies ++ [{
    ring := d.ring, index := d.index, tag := dTag d, job := dJob m d, quiet := dQuiet d, floated := floatedOf m d
    toHost := cpToHost d, len := cpLen d, lost := none, lattice := word (cpLat d), host := cpHost d, ep := portOf m d.ring }] })

/-- A sweep edge may take away a window under a running transfer: its later accesses fail, with HOST_WINDOW or else ADDR_DENIED
(R97). -/
def loseWindows (m : Mach) : Mach :=
  { m with copies := m.copies.map fun c =>
      if c.lost.isSome then c
      else if !hostAllowed m c.job c.host c.len c.toHost then { c with lost := some 0x07 }
      else if copyLat m c.job c.toHost c.lattice.toNat c.len != 0 then { c with lost := some 0x0A }
      else c }

/-- COPY_DONE: `r` are the bytes that the transfer moved, or a host access that failed after the bytes `good`.  A transfer that
lost a window while it ran fails with it, its last access at least (R97); the bytes that a failed transfer names as moved are
in place, and its other destination bytes are undefined (R98). -/
def copyDoneOp (ring : Nat) (index : W32) (r : HostData) (m : Mach) : Mach :=
  match m.copies.find? fun c => c.ring == ring && c.index == index with
  | none => m
  | some c =>
    let m := { m with copies := m.copies.erase c }
    let l := latOf c.lattice.toNat
    let (got, aborted) : List Byte × Bool := match r with
      | .bytes l => (l, decide (l.length < c.len))
      | .error l => (l, true)
    let n := min got.length (if c.lost.isSome then c.len - 64 else c.len)
    let bs := got.take n
    let failed := aborted || c.lost.isSome
    let st := match c.lost with
      | some w => w
      | none => if aborted then 0x0C else 0
    let (st, m) : Nat × Mach :=
      if c.toHost then
        let x := readSpace m l n
        (if st = 0 ∧ x.2.1 then 0x0F else st, emit x.2.2 (.hostWrite c.ep c.host x.1 true))
      else
        let m := if bs.isEmpty then m else (perform ⟨c.lattice, 0x33, 0, bs.length, bs, 0⟩ false m).2.2
        (st, if !failed || l.space == 4 then m else loseMem m l.facet (realSpace l.space) (l.off + bs.length) (c.len - bs.length))
    completeAt m c.quiet ⟨ring, index, c.tag, if st = 0 ∧ c.floated then 1 else st, 2, c.job, n, 0, (stamp m).1, (stamp m).2⟩

/-! ### The opcode table -/

/-- Every opcode with its checks and its effect under the timing set of the edge. -/
def opTable (t : Timing) : List (OpSpec × Effect) :=
  [(specNop, effNop), (specField, effNop), (specCopy, effCopy), (specMap, effMapAt t), (specSched, effSchedAt t),
   (specAdmit, effAdmit), (specBuild, effBuild), (specPublish, effPublish), (specLoad, effLoad), (specProg, effProgAny),
   (specFold, effFold), (specUpdate, effUpdate), (specAct, effActAt t), (specSnapTake, effSnapTake),
   (specRestore, effRestore), (specJobAdmit, effJobAdmit), (specRelease, effRelease), (specPreempt, effPreempt),
   (specRollout, effRollout)]

def opOf (t : Timing) (d : DescIn) : Option (OpSpec × Effect) := (opTable t).find? fun x => x.1.code == dOpcode d

/-- The checks of R84 up to step 5, the fetch of the image (R98), and the checks of a program (R263, R271) or of a map that
their rules place at the fetch: status and DETAIL.  An opcode that Table 3.5 does not have is BAD_OPCODE whatever its body holds
(DEDUCED, log entry 78). -/
def intakeStatus (m : Mach) (d : DescIn) : Nat × Nat :=
  if headerBad m d then (0x04, 0)
  else
    match opOf (timing m) d with
    | none => (0x05, 0)
    | some (sp, _) =>
      let st := earlyStatus m sp d
      if st ≠ 0 then (st, 0)
      else if sp.image d && (imageBytes d).isNone then (0x0C, imageGood d)
      else if sp.code = 0x28 then progStatus m d
      else (0, 0)

/-- The image is read through the endpoint of the ring that carries the descriptor, once the checks before it have passed (R98,
R132, R403). -/
def fetchImage (d : DescIn) (m : Mach) : Mach :=
  match opOf (timing m) d with
  | some (sp, _) =>
    if earlyStatus m sp d = 0 && sp.image d then readHost (portOf m d.ring) (sp.source d).1 (sp.source d).2 false m else m
  | none => m

/-- R57: an edge beyond the horizon, counted from tick `t` of sweep `s`. -/
def pastHorizon (d : DescIn) (t s : Nat) : Bool :=
  (dKind d == 1 && decide (t + 65536 < dEdge d)) || (dKind d == 2 && decide (s + 16 < dEdge d))

def sameDesc (d : DescIn) (x : Desc) : Bool := x.d.ring == d.ring && x.d.index == d.index

def setWait (d : DescIn) (w : DescWait) (m : Mach) : Mach :=
  { m with descs := m.descs.map fun x => if sameDesc d x then { x with wait := w } else x }

/-- A VER_PUBLISH begins its check when its fetch completes, whatever FENCE holds back (R157); a MAP_LOAD has checks begin anew. -/
def fetchCheck (d : DescIn) (m : Mach) : Mach :=
  if dOpcode d = 0x19 then startCheck d m else if dOpcode d = 0x10 then restartChecks d m else m

/-- The lead rule at tick `n` (R54–R56); without a running generator the descriptor is held (R560). -/
def leadJudge (d : DescIn) (n : Nat) (m : Mach) : Mach :=
  let pub := fetchCheck d
  if !m.tick.running then pub (setWait d .held m)
  else
    let ok := if dKind d = 1 then decide (n + 3 ≤ dEdge d)
      else decide (m.tick.sweepNo < dEdge d) && decide (n + 3 ≤ nominalTick m (dEdge d))
    if ok then pub (setWait d .edge m)
    else if dFloat d then pub (setWait d (.float (n + 3)) m)
    else finishDesc d false 0x02 0 m

/-- Is the descriptor the oldest of its ring that has not completed (R85)? -/
def oldest (m : Mach) (d : DescIn) : Bool := (ringOf m d.ring).live.head? == some d.index

/-- The first descriptor that may go on: an immediate one whose turn has come (R86), or a fenced one behind which nothing is
left (R85). -/
def nextReady (m : Mach) : Option Desc :=
  m.descs.find? fun x =>
    match x.wait with
    | .turn =>
      !((m.descs.takeWhile fun y => !sameDesc x.d y).any fun y => y.d.ring == x.d.ring && y.wait == .turn)
        && (!dFence x.d || oldest m x.d)
    | .fenced => oldest m x.d
    | _ => false

/-- Starts immediate descriptors and judges fenced ones until none can go on. -/
def pumpDescs : Nat → Mach → Mach
  | 0, m => m
  | k + 1, m =>
    match nextReady m with
    | none => m
    | some x =>
      if x.wait = .fenced then pumpDescs k (leadJudge x.d x.fetchTick m)
      else
        match opOf (timing m) x.d with
        | none => pumpDescs k (finishDesc x.d false 0x05 0 m)
        | some (sp, eff) => pumpDescs k (takeEffect sp eff x.d false m)

def pumpAll (m : Mach) : Mach := pumpDescs (2 * m.descs.length + 2) m

/-- Once time has gone past an edge, a load whose timeout fired there and for which nothing arrived at that instant ends: an
arrival in the cycle of the timeout comes before it (R53). -/
def endOverdue (m : Mach) : Mach := if m.tick.edgeAt < m.now then pumpAll (overdueLoads m) else m

/-- One step of the tick clock without a command. -/
def idle (m : Mach) : Mach := atReady endOverdue (atTime m (m.now + 1))

/-- Intake of one fetched descriptor. -/
def intake (ring : Nat) (m : Mach) (r : Rec × HostData) : Mach :=
  let d : DescIn := ⟨ring, (ringOf m ring).cons, r.1, r.2⟩
  let m := modRing m ring fun x => { x with cons := x.cons + 1, live := x.live ++ [d.index] }
  let st := intakeStatus m d
  let m := fetchImage d m
  if st.1 ≠ 0 then finishDesc d false st.1 st.2 m
  else if m.tick.running && pastHorizon d m.tick.tickNo m.tick.sweepNo then finishDesc d false 0x03 0 m
  else
    let j := dJob m d
    let via := dOpcode d != 0x48 && !((jobOf m j).admitted && !(jobOf m j).releasing)
    let w : DescWait := if dKind d = 0 then .turn else if dFence d && !oldest m d then .fenced else .edge
    let m := { m with descs := m.descs ++ [⟨d, j, ringAdmin m ring, m.tick.tickNo, w, via⟩] }
    if w = .edge then leadJudge d m.tick.tickNo m else if w = .fenced then fetchCheck d m else m

def execNop (d : DescIn) (s : State) : Res := actReady (decide (d.ring < 32)) (descRow specNop effNop d) s
def execCopy (d : DescIn) (s : State) : Res := actReady (decide (d.ring < 32)) (descRow specCopy effCopy d) s
def execCopyDone (ring : Nat) (index : W32) (r : HostData) (s : State) : Res :=
  actReady (decide (ring < 32)) (fun m => pumpAll (copyDoneOp ring index r m)) s
def execCrcReadDone (f c i : Nat) (s : State) : Res :=
  actReady (decide (f < 104 ∧ c < 4 ∧ i < 4)) (fun m => pumpAll (crcReadDoneOp f c i m)) s
def execModelLoadDone (ring : Nat) (index : W32) (s : State) : Res :=
  actReady (decide (ring < 32)) (fun m => pumpAll (modelLoadDoneOp ring index m)) s
def execLoad (link ofs : Nat) (data : List Byte) (s : State) : Res :=
  actReady (decide (link ≤ 36)) (fun m => pumpAll (loadOp link ofs data (endOverdue m))) s
def execSnapChoice (j gen : Nat) (none_ : Bool) (s : State) : Res :=
  actReady (decide (j < 16)) (fun m => pumpAll (choiceOp j gen none_ m)) s
def execSnapGens (src j : Nat) (gens : List Nat) (s : State) : Res :=
  actReady (decide (src < 4096 ∧ j < 16)) (fun m => pumpAll (gensOp src j gens m)) s
def execSnapManifests (src j : Nat) (request : Bool) (ms : List (Option ManifestInfo)) (s : State) : Res :=
  actReady (decide (src < 4096 ∧ j < 16)) (fun m => pumpAll (manifestsOp src j request ms m)) s
def execShiftCopyDone (row : Nat) (s : State) : Res :=
  actReady (decide (row < 8)) (fun m => pumpAll (forAll (List.range 16) (fun m j => lateRestore j m) (shiftCopyDoneOp row m))) s
def execSnapRestored (j gen : Nat) (polygon mirrors : List ShardRead) (s : State) : Res :=
  actReady (decide (j < 16)) (fun m => pumpAll (restoredOp j gen (polygon ++ mirrors) m)) s

end Sys2Proof.Machine
end

