-- ==== Sys2Proof/Machine/Rings.lean ====
section
/-!
DEFINITION. The host interface: enabling and disabling rings (R76, R77, R100, R539), doorbell polls (R80–R82, R98), descriptor
fetches (R82), held completions and coalescing (R91, R92), MSI-X masks (R476), and endpoints (R99, R509).
-/
namespace Sys2Proof.Machine

/-! ### Ring control -/

/-- CTL register of ring 0–34, with the places of EN and PORT. -/
def ctlOff (n : Nat) : Nat :=
  if n < 32 then offRingCtl n else if n = 32 then offEvtCtl else if n = 33 then offStatCtl else offSnapCtl
def enBit (n : Nat) : Nat := if n < 32 then 0 else 32
def portBit (n : Nat) : Nat := if n < 32 then 1 else 33

/-- BASE and SIZE of ring 0–34. -/
def baseOff (n : Nat) : Nat :=
  if n < 32 then offRing n else if n = 32 then offEvtBase else if n = 33 then offStatBase else offSnapBase
def sizeOff (n : Nat) : Nat := baseOff n + 8

def sizeOk (s : Nat) : Bool := decide (6 ≤ s) && decide (s ≤ 16)

/-- R539: what must hold before a ring is enabled. -/
def mayEnable (m : Mach) (n : Nat) : Bool :=
  sizeOk (regN m (sizeOff n)) && regN m (baseOff n) != 0
    && (decide (32 ≤ n) || (sizeOk (regN m (offCplSize n)) && regN m (offCplBase n) != 0))

/-- HALTED of a command ring; the other rings stand halted while their endpoint is down (R99). -/
def haltedRing (m : Mach) (n : Nat) : Bool := if n < 32 then (ringOf m n).halted else !(epOf m (portOf m n)).up

/-- Indices and passes start anew (R77). -/
def startRing (n : Nat) (m : Mach) : Mach :=
  if n < 32 then modRing m n fun r => { r with
    cons := 0, prod := 0, cplProd := 0, cplCons := 0, idle := false, halted := false, cause := 0, used := true
    disabledAt := none, unsig := 0, firstUnsig := none, reads := [] }
  else if n = 32 then modHost m fun h => { h with evt := { h.evt with prod := 0, cons := 0, unsig := 0, firstUnsig := none } }
  else if n = 33 then modHost m fun h => { h with stat := { h.stat with prod := 0, cons := 0, unsig := 0, firstUnsig := none } }
  else modHost m fun h => { h with snapProd := 0, snapCons := 0 }

/-- Does a descriptor of a ring disabled in tick `n` still take effect, at edge n+1 or n+2, or run already (R100)? -/
def outlives (m : Mach) (n : Nat) (x : Desc) : Bool :=
  let due (t : Nat) : Bool := m.tick.running && decide (n < t) && decide (t ≤ n + 2)
  match x.wait with
  | .work => true
  | .edge => due (if dKind x.d = 1 then dEdge x.d else nominalTick m (dEdge x.d))
  | .sure => due (if dKind x.d = 1 then dEdge x.d else nominalTick m (dEdge x.d))
  | .float t =>
    if dKind x.d = 1 then due t
    else decide (t ≤ nominalTick m (m.tick.sweepNo + 1)) && due (nominalTick m (m.tick.sweepNo + 1))
  | _ => false

/-- The ring is disabled (R100). -/
def stopRing (n : Nat) (m : Mach) : Mach :=
  if 32 ≤ n then m
  else
    let t := m.tick.tickNo
    let m := modRing m n fun r => { r with disabledAt := some t, reads := [] }
    let gone := (m.descs.filter fun x => x.d.ring == n && !outlives m t x).map (·.d)
    settleIdle (forAll gone cancelDesc m) n

/-- A write of a ring's CTL register: `v` is the word that it leaves (R76, R100, R539). -/
def ringCtlOp (n : Nat) (v : Word) (m : Mach) : Mach :=
  let off := ctlOff n
  let old := regGet m off
  let v := v &&& word (maskOf off)
  let diff (hi lo : Nat) : Bool := wf v hi lo != wf old hi lo
  let moved := diff (portBit n) (portBit n)
  let bad := match regFind off with
    | some r => !r.ok v.toNat
    | none => false
  let cfg := raise m hostCfgErr srcHost none []
  if bad then cfg
  else if !tb old.toNat (enBit n) then
    if tb v.toNat (enBit n) then (if mayEnable m n then startRing n (regSet m off v) else cfg)
    else flushHeld 1024 n (regSet m off v)
  else if (moved && !haltedRing m n) || (decide (n < 32) && (diff 2 2 || diff 7 4)) then cfg
  else
    let m := regSet m off v
    let m := if moved then (if n < 32 then flushHeld 1024 n m else if n = 32 then flushLost m else m) else m
    if tb v.toNat (enBit n) then m else stopRing n m

/-- RING_ENABLE: a write that sets EN to 1. -/
def ringEnableOp (n : Nat) (ctl : Word) (m : Mach) : Mach := if tb ctl.toNat (enBit n) then ringCtlOp n ctl m else m

/-- RING_DISABLE: a write of EN = 0. -/
def ringDisableOp (n : Nat) (ctl : Word) (m : Mach) : Mach :=
  if tb ctl.toNat (enBit n) || !enabledRing m n then m else ringCtlOp n ctl m

/-- RING_PORT: a write that leaves the other fields and sets PORT. -/
def ringPortOp (n port : Nat) (m : Mach) : Mach :=
  let b := word (2 ^ portBit n)
  let old := regGet m (ctlOff n)
  ringCtlOp n (if port = 0 then old &&& ~~~b else old ||| b) m

def execRingEnable (n : Nat) (ctl : Word) (s : State) : Res := actReady (decide (n < 35)) (ringEnableOp n ctl) s
def execRingDisable (n : Nat) (ctl : Word) (s : State) : Res := actReady (decide (n < 35)) (ringDisableOp n ctl) s
def execRingPort (n port : Nat) (s : State) : Res := actReady (decide (n < 35 ∧ port < 2)) (ringPortOp n port) s

/-! ### Doorbell polls (R80–R82, R98) -/

/-- Is the record of ring `n` read: the ring is enabled, or a command ring that is disabled and not yet idle? -/
def polled (m : Mach) (n : Nat) : Bool := enabledRing m n || (decide (n < 32) && !(ringOf m n).idle)

/-- Records of the poll of an endpoint. -/
def pollSpan (m : Mach) (ep : Nat) : Nat :=
  ((List.range 35).filter fun n => portOf m n == ep && polled m n).foldl (fun a n => max a (n + 1)) 0

/-- A poll: one read for each endpoint, of up to 1,024 descriptors over all rings. -/
def pollNow (m : Mach) : Mach :=
  let t := m.now
  let k := m.host.pollNum
  let m := modHost m fun h => { h with
    polledAt := some t, pollNum := k + 1
    polls := (h.polls.filter fun p => h.eps.any fun e => e.reading.any fun r => r.2 == p.num) ++ [⟨k, 1024, none⟩] }
  forAll (List.range 2) (fun m ep =>
    let n := pollSpan m ep
    if !(epOf m ep).up || n == 0 then m
    else emit (modEp m ep fun e => { e with reading := e.reading ++ [(t, k)] }) (.doorbellRead ep (regGet m (offDbBase ep)) n)) m

/-- DB_POLL: DB_POLL_INTERVAL × 10 ns after the last poll (R80); immediate descriptors whose turn has come go on. -/
def dbPollOp (m : Mach) : Mach :=
  byTime (match m.host.polledAt with | some t => t + regN m offDbPoll | none => 0) (fun m => pumpAll (pollNow (endOverdue m))) m

/-- Descriptors of a ring that count toward its limit of 256 (R82, R91). -/
def readsOf (r : Ring) : Nat := (r.reads.map (·.1)).foldl (· + ·) 0
def openCount (r : Ring) : Nat := r.live.length + r.held.length + readsOf r

/-- Announced descriptors of a ring that no read has been issued for. -/
def announced (m : Mach) (n : Nat) : Nat := ((ringOf m n).prod - (ringOf m n).cons).toNat - readsOf (ringOf m n)

/-- Reads of up to 8 descriptors, cut where the ring wraps. -/
def issueReads : Nat → Nat → Nat → Mach → Mach
  | 0, _, _, m => m
  | fuel + 1, n, left, m =>
    if left = 0 then m
    else
      let r := ringOf m n
      let sz := 2 ^ regN m (offRingSize n)
      let i := (r.cons.toNat + readsOf r) % 2 ^ 32
      let k := min (min left 8) (sz - i % sz)
      let t := m.now
      let m := emit m (.descRead (portOf m n) n (entryAddr (regN m (offRing n)) i (regN m (offRingSize n)) 64) k)
      issueReads fuel n (left - k) (modRing m n fun r => { r with reads := r.reads ++ [(k, t)] })

/-- Fetching after a poll, ring by ring from the rotation's start; answers what the poll may still fetch and the last ring
fetched from. -/
def fetchRings (ep : Nat) : List Nat → Poll → Mach → Poll × Mach
  | [], p, m => (p, m)
  | n :: t, p, m =>
    let go := enabledRing m n && !(ringOf m n).halted && portOf m n == ep
    let k := if go then min (min (announced m n) (256 - openCount (ringOf m n))) p.left else 0
    if k = 0 then fetchRings ep t p m
    else fetchRings ep t { p with left := p.left - k, last := some n } (issueReads (k + 1) n k m)

/-- R82 for the records that one endpoint answered to poll `k`; the rotation moves only when the limit of 1,024, which counts
the poll's fetches from all rings, ended the fetching. -/
def fetchPoll (ep k : Nat) (m : Mach) : Mach :=
  let order := (List.range 32).map fun i => (m.host.rotation + i) % 32
  let r := fetchRings ep order ((m.host.polls.find? fun p => p.num == k).getD ⟨k, 1024, none⟩) m
  let m := modHost r.2 fun h => { h with polls := h.polls.map fun p => if p.num == k then r.1 else p }
  let more := (List.range 32).any fun n => enabledRing m n && !(ringOf m n).halted && portOf m n == ep
    && decide (0 < announced m n) && decide (openCount (ringOf m n) < 256)
  if r.1.left = 0 ∧ more then
    match r.1.last with
    | some n => modHost m fun h => { h with rotation := (n + 1) % 32 }
    | none => m
  else m

/-- One doorbell record of a ring bound to the endpoint. -/
def takeRecordOf (n : Nat) (r : DoorbellRec) (m : Mach) : Mach :=
  if n = 32 then flushLost (modHost m fun h => { h with evt := { h.evt with cons := r.cons } })
  else if n = 33 then modHost m fun h => { h with stat := { h.stat with cons := r.cons } }
  else if n = 34 then modHost m fun h => { h with snapProd := r.prod }
  else if r.epoch.toNat ≠ regN m (offRingEpoch n) then raise m hostDbStale srcHost none []
  else
    let m := flushHeld 1024 n (modRing m n fun x => { x with cplCons := r.cons })
    if !enabledRing m n || (ringOf m n).halted then m
    else if 2 ^ regN m (offRingSize n) < (r.prod - (ringOf m n).cons).toNat then
      raise (modRing m n fun x => { x with halted := true, cause := 1 }) hostRingErr srcHost none []
    else modRing m n fun x => { x with prod := r.prod }

/-- DOORBELL_READ_DONE: the records of the oldest outstanding read, or its failure. -/
def doorbellOp (ep : Nat) (r : Option (List DoorbellRec)) (m : Mach) : Mach :=
  match (epOf m ep).reading with
  | [] => m
  | (t, k) :: rest =>
    let lat := m.now - t
    let m := modEp m ep fun e => { e with reading := rest, latMax := max e.latMax lat }
    match r with
    | none =>
      let f := (epOf m ep).fails + 1
      if f = 3 then raise (modEp m ep fun e => { e with fails := 0 }) hostDmaErr srcHost none []
      else modEp m ep fun e => { e with fails := f }
    | some l =>
      let m := modEp m ep fun e => { e with fails := 0 }
      let m := forAll ((List.range 35).zip l) (fun m (x : Nat × DoorbellRec) =>
        if portOf m x.1 = ep ∧ polled m x.1 then takeRecordOf x.1 x.2 m else m) m
      pumpAll (fetchPoll ep k m)

/-- DESCRIPTOR_FETCH: the oldest read of a ring has returned its descriptors and their images, 0.2 µs after its data; a
failed one halts the ring, and what its other reads in flight bring is dropped (DESIGN CHOICE, log entry 78). -/
def fetchOp (n : Nat) (r : Option (List (Rec × HostData))) (m : Mach) : Mach :=
  match (ringOf m n).reads with
  | [] => m
  | (k, t) :: rest =>
    match r with
    | none => raise (modRing m n fun x => { x with reads := [], halted := true, cause := 2 }) hostDmaErr srcHost none []
    | some l =>
      if l.length ≠ k then m
      else
        let lat := m.now - 20 - t
        let m := modEp (modRing m n fun x => { x with reads := rest }) (portOf m n) fun e => { e with latMax := max e.latMax lat }
        pumpAll (forAll l (intake n) m)

def execDbPoll (s : State) : Res := actReady true dbPollOp s
def execDoorbellReadDone (ep : Nat) (r : Option (List DoorbellRec)) (s : State) : Res :=
  actReady (decide (ep < 2)) (doorbellOp ep r) s
def execDescriptorFetch (n : Nat) (r : Option (List (Rec × HostData))) (s : State) : Res :=
  actReady (decide (n < 32)) (fetchOp n r) s

/-- HOST_CMD.LAT_CLR. -/
def latClrOp (m : Mach) : Mach := modEp (modEp m 0 fun e => { e with latMax := 0 }) 1 fun e => { e with latMax := 0 }
def execLatClr (s : State) : Res := actReady true latClrOp s

/-! ### Completions, interrupts and endpoints -/

def execHeldCompletionWrite (n : Nat) (s : State) : Res :=
  actReady (decide (n < 32)) (fun m => pumpAll (flushHeld 1024 n m)) s

/-- COALESCE_TIMEOUT: TIME µs have passed since the first unsignalled record (R92). -/
def coalesceOp (n : Nat) (m : Mach) : Mach :=
  let t := bf (regN m (coalesceReg n)) 29 20
  match (unsigOf m n).2 with
  | some t0 => if t = 0 ∨ (unsigOf m n).1 = 0 then m else byTime (t0 + 100 * t) (fun m => signalRing m n) m
  | none => m

def execCoalesceTimeout (n : Nat) (s : State) : Res := actReady (decide (n < 34)) (coalesceOp n) s

/-- MSIX_UNMASK: a pending message of the vector is sent. -/
def unmaskOp (ep v : Nat) (m : Mach) : Mach :=
  let b := word (2 ^ v)
  let was := (epOf m ep).pba.getLsbD v
  let m := modEp m ep fun e => { e with mask := e.mask &&& ~~~b, pba := e.pba &&& ~~~b }
  if was then emit m (.msix ep v) else m

def execMsixUnmask (ep v : Nat) (s : State) : Res := actReady (decide (ep < 2 ∧ v < 64)) (unmaskOp ep v) s

/-- PORT_DOWN: the endpoint's link is down; its rings halt and their completions are held (R99). -/
def portDownOp (ep : Nat) (m : Mach) : Mach :=
  if !(epOf m ep).up then m
  else
    let m := raise (modEp m ep fun e => { e with up := false, reading := [] }) portDownEv srcHost none []
    forAll ((List.range 32).filter fun n => portOf m n == ep) (fun m n =>
      modRing m n fun r => { r with halted := true, cause := 3, reads := [] }) m

/-- ENDPOINT_RESET: PERST#, a hot reset or link loss also returns the MSI-X table to its reset state (R509). -/
def endpointResetOp (ep : Nat) (_cause : EndpointCause) (m : Mach) : Mach :=
  modEp (portDownOp ep m) ep fun e => { e with mask := Endpoint.init.mask, pba := 0, fails := 0 }

def execPortDown (ep : Nat) (s : State) : Res := actReady (decide (ep < 2)) (portDownOp ep) s
def execEndpointReset (ep : Nat) (c : EndpointCause) (s : State) : Res := actReady (decide (ep < 2)) (endpointResetOp ep c) s

end Sys2Proof.Machine
end

