-- ==== Sys2Proof/Machine/RegWrites.lean ====
section
/-!
DEFINITION. Writes of the host to the set-up window (R14–R17, R531–R542): stores by access kind, the commands of the WO
registers, registers that a rule guards, JOB_KEY, and sticky bits.
-/
namespace Sys2Proof.Machine

def hostBad (m : Mach) : Mach := raise m hostCfgErr srcHost none []

/-- Accesses that the window takes (R533). -/
def accessBad (isWrite : Bool) (off size : Nat) : Bool :=
  if isWrite then !((size == 4 || size == 8) && off % size == 0)
  else !(decide (4 ≤ size) && decide (size ≤ 64) && size % 4 == 0 && off % 4 == 0
    && decide (off / 4096 = (off + size - 1) / 4096))

def setupBadOp (isWrite : Bool) (off size : Nat) (m : Mach) : Mach := if accessBad isWrite off size then hostBad m else m

def execSetupBadAccess (isWrite : Bool) (off size : Nat) (s : State) : Res := actReady true (setupBadOp isWrite off size) s

/-! ### Sticky bits (R535, R543) -/

/-- Event registers in the order of Table 19.7. -/
def eventOffs : List Nat :=
  [0x1098, 0x10088, 0x30020, 0x40020, 0x50010, 0x60020, 0x70050, 0x4020, 0x28000, 0x84018, 0x90038, 0xA0020, 0x2058, 0x3030]

/-- Bits written 1 are cleared; those that an event sets in the same cycle stay. -/
def clearSticky (off : Nat) (value same : Word) (m : Mach) : Mach :=
  regSet m off ((regGet m off &&& ~~~value) ||| (same &&& word (maskOf off)))

def w1cOp (r : Nat) (value same : Word) (m : Mach) : Mach :=
  match eventOffs[r]? with
  | some off => clearSticky off value same m
  | none => m

def execW1cClear (r : Nat) (value same : Word) (s : State) : Res := actReady (decide (r < 14)) (w1cOp r value same) s

/-! ### JOB_KEY (R541) -/

/-- A write stores the bytes that it covers, zero bytes too, for the next JOB_ADMIT of the context; nothing while the context
is admitted or being released. -/
def jobKeyOp (j ofs size : Nat) (v : Word) (m : Mach) : Mach :=
  if accessBad true ofs size || decide (16 < ofs + size) then hostBad m
  else if (jobOf m j).admitted || (jobOf m j).releasing then hostBad m
  else
    let off := offJob j + 0x20 + 8 * (ofs / 8)
    regSet m off (mergeBytes (regGet m off) (ofs % 8) size v)

def execJobKey (j ofs size : Nat) (v : Word) (s : State) : Res := actReady (decide (j < 16)) (jobKeyOp j ofs size v) s

/-! ### ID_MODULE_NUM (R542) -/

def idNumOp (size : Nat) (v : Word) (m : Mach) : Mach :=
  if accessBad true 0 size then hostBad m
  else if m.tick.running then raise m tickConfigErr (srcUnit 0) none []
  else regSet m offModuleNum (mergeBytes (regGet m offModuleNum) 0 size v &&& word (ones 0 12))

def execIdModuleNum (size : Nat) (v : Word) (s : State) : Res := actReady true (idNumOp size v) s

/-! ### Commands of the WO registers

A write acts on its ones (R535); several commands of one write act from the lowest bit up. -/

def tickCtlOp (v : Nat) (m : Mach) : Mach := onlyIf (tb v 1) stopOp (onlyIf (tb v 0) (startOp (tb v 1)) m)

def twinCmdOp (v : Nat) (m : Mach) : Mach :=
  onlyIf (tb v 1) (fun m => sendReport false (unfreezeOp m)) (onlyIf (tb v 0) detachOp m)

def linkCmdOp (l v : Nat) (m : Mach) : Mach :=
  let m := onlyIf (tb v 0) (retrainAllOp l) m
  let m := onlyIf (tb v 1) (retrainLaneOp l (bf v 6 4)) m
  let m := onlyIf (tb v 7) (clrCntOp l) m
  onlyIf (tb v 8) (fun m => modLink m l fun x => { x with clrAsked := true }) m

/-- TEST_CMD (Table 18.8); a site or facet that does not exist is refused. -/
def testCmdOp (v : Nat) (m : Mach) : Mach :=
  let site := bf v 14 8
  let op := bf v 3 0
  let none_ := decide (104 ≤ site)
  if op = 1 then (if none_ then refuseTest 1 site (srcUnit 11) m else wireTestOp site m)
  else if op = 2 then (if none_ then refuseTest 2 site (srcUnit 11) m else ucodeOp site m)
  else if op = 3 then flashProgOp (bf v 24 24) m
  else if op = 4 then fwCommitOp (bf v 24 24) m
  else if op = 5 then pairOp m
  else if op = 6 then phaseUpdateOp m
  else if op = 7 then (if none_ then refuseTest 7 site (srcUnit 11) m else hbmRetrainOp site (bf v 19 16) m)
  else if op = 8 then moduleResetOp m.boot.cause m
  else m

def cmdWrite (off v : Nat) (m : Mach) : Mach :=
  if off = 0x1000 then tickCtlOp v m
  else if off = 0x10000 then onlyIf (tb v 0) latClrOp m
  else if off = 0x4010 then twinCmdOp v m
  else if off = 0x2048 then onlyIf (tb v 0 && decide (bf v 14 8 < 96))
    (fun m => sendReport false (failFacetOp (bf v 14 8) m)) m
  else if off = 0x3008 then testCmdOp v m
  else if off = 0x90030 then onlyIf (tb v 0) (retireOp (bf v 14 8) (bf v 19 16)) m
  else if off / 0x10000 = 8 then linkCmdOp ((off - 0x80000) / 0x100) v m
  else m

/-! ### Stores -/

/-- LINK_CTL: EN = 0 takes the port down, EN = 1 lets it train (R439, R443). -/
def linkCtlOp (l : Nat) (v : Word) (m : Mach) : Mach :=
  let was := linkEn m l
  let m := regSet m (offLinkCtl l) v
  let now := linkEn m l
  if was && !now then modLink (downLink l m) l fun x => { x with state := 0 }
  else if !was && now then modLink m l fun x => { x with state := 1, tryAt := none, farLast := none }
  else if (linkOf m l).state = 2 ∧ (linkOf m l).width < linkMinW m l then downLink l m
  else m

/-- FOC_LINE_CTL: FILT of line 0 reads 25; POL changes which level is asserted, and no level (R483). -/
def lineCtlOp (l : Nat) (v : Word) (m : Mach) : Mach :=
  let v := if l = 0 then (v &&& ~~~(0xFF#64)) ||| 25#64 else v
  let flip := v.getLsbD 10 != (regGet m (offLineCtl l)).getLsbD 10
  let m := regSet m (offLineCtl l) v
  if flip then modFocus m fun x => { x with lines := x.lines.modify l fun y => { y with asserted := !y.asserted } } else m

/-- The ring 0–34 whose CTL register this is, and the ring whose BASE, SIZE or EPOCH it is (R76). -/
def ctlRing (off : Nat) : Option Nat := (List.range 35).find? fun n => ctlOff n == off
def baseRing (off : Nat) : Option Nat :=
  (List.range 35).find? fun n => baseOff n == off || sizeOff n == off
    || (decide (n < 32) && (offRingEpoch n == off || offCplBase n == off || offCplSize n == off))

/-- PWR_THERM_HI is at most PWR_THERM_CRIT (Table 17.7): a write that breaks this is out of range (R536). -/
def thermOp (off : Nat) (v : Word) (m : Mach) : Mach :=
  let hi := if off = offThermHi then v.toNat else regN m offThermHi
  let crit := if off = offThermCrit then v.toNat else regN m offThermCrit
  if crit < hi then hostBad m else regSet m off v

/-- A write to an RW register: `v` is the word that it leaves, within its mask. -/
def rwWrite (off : Nat) (v : Word) (m : Mach) : Mach :=
  if off = offModuleNum then
    (if m.tick.running then raise m tickConfigErr (srcUnit 0) none [] else regSet m off v)
  else if off = offRole then tickRoleOp v m
  else if off = offUplink then tickUplinkOp v m
  else if off = offLeaseExp then leaseExpOp v m
  else if off = offTwinLinks then twinLinksOp v m
  else if off = offTestCtl then jtagRunOp v m
  else if off = offThermHi || off = offThermCrit then thermOp off v m
  else if off / 0x10000 = 8 ∧ off < 0x84000 then linkCtlOp ((off - 0x80000) / 0x100) v m
  else if 0xA0100 ≤ off ∧ off < 0xA0160 then lineCtlOp ((off - 0xA0100) / 8) v m
  else match baseRing off with
    | some n => if enabledRing m n then hostBad m else regSet m off v
    | none => regSet m off v

/-- A write to an RWT or RWS register merges into the pending word; one to the timing set in the last 2 µs before a sweep
edge waits for the sweep edge after it (R15, R534).  The last write is the one that pends: what an earlier one left for a later
edge goes. -/
def pendWrite (off ofs size : Nat) (v : Word) (mask : Nat) (m : Mach) : Mach :=
  if off = offFwCtl then (if ofs = 0 then fwCtlOp (v &&& word mask) m else m)
  else if timingOffs.contains off && nearSweepEdge m then
    let old := match m.pendLate.find? fun e => e.1 == off with
      | some e => e.2
      | none => pendGet m off
    { m with pendLate := pendPut m.pendLate off (mergeBytes old ofs size v &&& word mask) }
  else { m with
    pend := pendPut m.pend off (mergeBytes (pendGet m off) ofs size v &&& word mask)
    pendLate := m.pendLate.filter fun e => e.1 != off }

/-- A write of 4 or 8 bytes through an endpoint's BAR0.  Read-only registers and reserved addresses take none (R17). -/
def oneWrite (w : BusWrite) (m : Mach) : Mach :=
  let m := modEp m w.ep fun e => { e with up := true }
  if accessBad true w.offset w.size then hostBad m
  else
    let off := w.offset / 8 * 8
    let ofs := w.offset % 8
    match regFind off with
    | none => m
    | some r =>
      let mask := word r.mask
      match r.acc with
      | .ro => m
      | .wo =>
        if 0x20000 ≤ off ∧ off < 0x28000 then
          jobKeyOp ((off - 0x20000) / 0x800) (off % 0x800 - 0x20 + ofs) w.size w.value m
        else cmdWrite off (mergeBytes 0 ofs w.size w.value &&& mask).toNat m
      | .w1c => clearSticky off (mergeBytes 0 ofs w.size w.value) 0 m
      | .rwt => pendWrite off ofs w.size w.value r.mask m
      | .rws => pendWrite off ofs w.size w.value r.mask m
      | .rw =>
        let v := mergeBytes (regGet m off) ofs w.size w.value &&& mask
        match ctlRing off with
        | some n => ringCtlOp n v m
        | none => if r.ok v.toNat then rwWrite off v m else hostBad m

/-- REGISTER_WRITE: of two writes in one cycle the one through endpoint 0 takes effect first (R73). -/
def regWriteOp (w : BusWrite) (m : Mach) : Mach :=
  match w.both with
  | none => oneWrite w m
  | some (off, size, v) =>
    let x : BusWrite := ⟨1 - w.ep, off, size, v, none⟩
    if w.ep = 0 then oneWrite x (oneWrite w m) else oneWrite w (oneWrite x m)

def execRegisterWrite (w : BusWrite) (s : State) : Res := actReady (decide (w.ep < 2)) (regWriteOp w) s

end Sys2Proof.Machine
end

