-- ==== Sys2Proof/Machine/Rebalance.lean ====
section
/-!
DEFINITION. Boundary moves of chronic stages (R70, R145, R395): the candidate, advice, the copy to the neighbour, and the
switch at a later sweep edge.
-/
namespace Sys2Proof.Machine

/-- FILL-map entries of a pipeline whose stage contexts are chronic; a guest counts when `guests` (R395). -/
def chronicScs (m : Mach) (j p : Nat) (guests : Bool) : List MapSc :=
  (((fillMap m j).map fun pm => mapStages pm p).getD []).filter fun e =>
    (scOf m e.facet e.sc).chronic || (guests && (jobOf m j).guests.any fun g => g.1 == e.facet && g.2.1 == e.sc)

/-- The chronic stage context with the largest slot time, the first of the map on a tie. -/
def worstSc (m : Mach) (l : List MapSc) : Option MapSc :=
  l.foldl (fun b e =>
    match b with
    | none => some e
    | some x => if (scOf m x.facet x.sc).maxSlot < (scOf m e.facet e.sc).maxSlot then some e else b) none

/-- Neighbour stage with the smaller largest slot time, the upstream one on a tie. -/
def lighter (m : Mach) (j p s : Nat) : Option MapSc :=
  let t (e : MapSc) : Nat := (scOf m e.facet e.sc).maxSlot
  let up := if s = 0 then none else stageEntry m j p (s - 1)
  match up, stageEntry m j p (s + 1) with
  | some a, some b => if t b < t a then some b else some a
  | some a, none => some a
  | none, b => b

/-- Layer that a stage gives to a neighbour. -/
def edgeLayer (a : MapSc) (down : Bool) : Nat := if down then a.lastLayer else a.firstLayer

/-- End of a locus layout, 4 KiB units: the place that a moved layer takes.  DESIGN CHOICE, log entry 37. -/
def layoutEnd (l : Locus) : Nat := l.layers.foldl (fun a y => max a (y.offset + y.size)) 0

/-- Has every version of the neighbour room for the layer after its layout (DESIGN CHOICE, log entry 37: without it the copy would
overwrite other data)? -/
def roomFor (m : Mach) (a b : MapSc) (down : Bool) : Bool :=
  let ls := (locusOf m a.facet a.sc).layers
  let l := locusOf m b.facet b.sc
  match if down then ls.getLast? else ls.head? with
  | none => true
  | some y => l.entries.all fun e => e.state == 0 || decide (layoutEnd l + y.size ≤ e.size)

/-- The candidate move of a stage: layer and neighbour, where the conditions of R145 allow it.  The spec gives no measure
of the moved layer's time: `took` is a free value, log entry 3. -/
def moveOf (m : Mach) (j p took : Nat) (e : MapSc) : Option (Nat × MapSc) :=
  match lighter m j p e.stage with
  | none => none
  | some n =>
    let budget := (((pipeOf m j p).sched).map (·.budget)).getD 0
    let fits := decide ((((scOf m n.facet n.sc).maxSlot) + took) * 100 ≤ regN m offRebalMargin * budget)
    let down := decide (e.stage < n.stage)
    if e.rebalEn && n.rebalEn && decide (e.firstLayer < e.lastLayer) && fits && roomFor m e n down then
      some (edgeLayer e down, n)
    else none

/-- The centroid's look at one pipeline at a sweep edge, before the slot times of the sweep that ended are put away.  A
restart makes the move for guests, in APPLY mode.  While a move is pending no other is begun (DESIGN CHOICE, log entry 37). -/
def rebalancePipe (restart : Bool) (j p : Nat) (m : Mach) : Mach :=
  let ctl := regN m offRebalCtl
  let guests := restart && !(jobOf m j).guests.isEmpty
  match worstSc m (chronicScs m j p guests) with
  | none => m
  | some e =>
    let apply := ctl == 2 || guests
    if ctl = 0 ∨ (apply && (pipeOf m j p).rebal.isSome) then m
    else
      let took := (freeVal m 32).toNat
      let m := spendFree m
      match moveOf m j p took e with
      | none => if apply then m else raise m rebalNone (srcUnit 3) (some j) [p, e.stage]
      | some (layer, n) =>
        if apply then modPipe m j p fun x => { x with rebal := some ⟨layer, e.stage, n.stage, none, []⟩ }
        else raise m rebalAdvice (srcUnit 3) (some j) [p, layer, e.stage, n.stage, m.tick.sweepNo + 1]

/-- The layer's bytes of every resident version, those of `skip` apart, go to the neighbour's region of it; a tag that the
neighbour's locus does not hold has no region there (log entry 37). -/
def copyVersions (a b : MapSc) (y : LocusLayer) (at_ : Nat) (skip : List Nat) (m : Mach) : Mach :=
  let src := (locusOf m a.facet a.sc).entries.filter fun e => e.state != 0 && !skip.contains e.vtag
  forAll src (fun m e =>
    match (locusOf m b.facet b.sc).entries.find? fun d => d.state != 0 && d.vtag == e.vtag with
    | none => m
    | some d =>
      let r := readChecked m a.facet e.space (4096 * (e.base + y.offset)) (4096 * y.size)
      writeChecked r.2.2 b.facet d.space (4096 * (d.base + at_)) r.1) m

/-- REBAL_COPY_DONE: the copy has ended in the present tick. -/
def rebalCopyOp (j p : Nat) (m : Mach) : Mach :=
  match (pipeOf m j p).rebal with
  | none => m
  | some r =>
    if r.copied.isSome then m
    else
      let down := decide (r.from_ < r.toStage)
      let done (tags : List Nat) (m : Mach) : Mach :=
        modPipe m j p fun x => { x with rebal := some { r with copied := some m.tick.tickNo, tags := tags } }
      match stageEntry m j p r.from_, stageEntry m j p r.toStage with
      | some a, some b =>
        let ls := (locusOf m a.facet a.sc).layers
        match if down then ls.getLast? else ls.head? with
        | some y => done (((locusOf m a.facet a.sc).entries.filter fun e => e.state != 0).map (·.vtag))
            (copyVersions a b y (layoutEnd (locusOf m b.facet b.sc)) [] m)
        | none => done [] m
      | _, _ => done [] m

def execRebalCopyDone (j p : Nat) (s : State) : Res := actReady (decide (j < 16 ∧ p < 4)) (rebalCopyOp j p) s

/-! ### The switch -/

/-- The layer entry leaves one locus and joins the other at the side of the boundary, with the versions made since the copy. -/
def moveLayer (a b : MapSc) (down : Bool) (tags : List Nat) (m : Mach) : Mach :=
  let la := locusOf m a.facet a.sc
  let lb := locusOf m b.facet b.sc
  match if down then la.layers.getLast? else la.layers.head? with
  | none => m
  | some y =>
    let at_ := layoutEnd lb
    let m := copyVersions a b y at_ tags m
    let y' := { y with offset := at_ }
    let m := modLocus m a.facet a.sc fun l =>
      let ls := if down then l.layers.dropLast else l.layers.drop 1
      { l with layers := ls, nLayers := ls.length, keptValid := [] }
    modLocus m b.facet b.sc fun l =>
      let ls := if down then y' :: l.layers else l.layers ++ [y']
      { l with layers := ls, nLayers := ls.length, keptValid := [] }

/-- The boundary in a map's entries. -/
def shiftBoundary (p : Nat) (r : Rebal) (pm : PlaceMap) : PlaceMap :=
  let down := decide (r.from_ < r.toStage)
  { pm with scs := pm.scs.map fun e =>
      if e.pipe ≠ p then e
      else if e.stage = r.from_ then (if down then { e with lastLayer := r.layer - 1 } else { e with firstLayer := r.layer + 1 })
      else if e.stage = r.toStage then (if down then { e with firstLayer := r.layer } else { e with lastLayer := r.layer })
      else e }

/-- At a sweep edge a move whose copy ended two ticks before it switches the boundary of FILL, STEADY and DRAIN; one that
no longer fits the map in effect is dropped. -/
def switchBoundary (j p : Nat) (m : Mach) : Mach :=
  match (pipeOf m j p).rebal with
  | none => m
  | some r =>
    let down := decide (r.from_ < r.toStage)
    match stageEntry m j p r.from_, stageEntry m j p r.toStage with
    | some a, some b =>
      if (if down then a.lastLayer else a.firstLayer) ≠ r.layer ∨ a.firstLayer = a.lastLayer then
        modPipe m j p fun x => { x with rebal := none }
      else
        match r.copied with
        | none => m
        | some t =>
          if m.tick.tickNo < t + 2 then m
          else
            let m := moveLayer a b down r.tags m
            let m := modJob m j fun x => { x with
              maps := (x.maps.take 3).map (fun o => o.map (shiftBoundary p r)) ++ x.maps.drop 3 }
            let m := modPipe m j p fun x => { x with rebal := none }
            raise m rebalanced (srcUnit 3) (some j) [p, r.layer, r.from_, r.toStage, m.tick.sweepNo]
    | _, _ => modPipe m j p fun x => { x with rebal := none }

/-- Every pipeline of every job. -/
def allPipes : List (Nat × Nat) := (List.range 16).flatMap fun j => (List.range 4).map fun p => (j, p)

end Sys2Proof.Machine
end

