-- ==== Sys2Proof/Machine/EdgeWork.lean ====
section
/-!
DEFINITION. What the edges of ticks and sweeps do outside the steps of R52: statistics and per-sweep state, cuts, firmware,
barriers, fold hops, guarantees and stale programs, and the failures that an edge declares.
-/
namespace Sys2Proof.Machine

/-- Every stage context of the active facets. -/
def allScs : List (Nat × Nat) := (List.range 96).flatMap fun f => (List.range 4).map fun c => (f, c)

def forScs (g : Nat → Nat → Mach → Mach) (m : Mach) : Mach := forAll allScs (fun m x => g x.1 x.2 m) m
def forPipes (g : Nat → Nat → Mach → Mach) (m : Mach) : Mach := forAll allPipes (fun m x => g x.1 x.2 m) m
def forJobs (g : Nat → Mach → Mach) (m : Mach) : Mach := forAll (List.range 16) (fun m j => g j m) m

/-! ### Statistics (R144) -/

/-- PAYLOAD of Table 4.14.  The mean of no slots is a free value, log entry 3; MEAN_SLOT and STALL are rounded down (DESIGN CHOICE, log
entry 81). -/
def imbalancePayload (m : Mach) (j p sweep : Nat) : BitVec 384 :=
  let x := pipeOf m j p
  let s := x.stats
  let budget := ((x.sched).map (·.budget)).getD 0
  let mean := if s.nSlot = 0 then (freeVal m 32).toNat else s.sumSlot / s.nSlot
  let w (v pos : Nat) : Nat := v * 2 ^ pos
  BitVec.ofNat 384 (w (sweep % 2 ^ 32) 288 + w (sat32 s.overflow) 256 + w (min (s.stall / 100) (2 ^ 32 - 1)) 224
    + w (sat32 s.slipBub) 192 + w (sat32 s.planned) 160 + w (sat32 s.slips) 128 + w j 123 + w p 121 + w s.maxSc 119
    + w s.maxFacet 112 + w s.maxStage 96 + w (budget % 2 ^ 32) 64 + w (mean % 2 ^ 32) 32 + sat32 s.maxSlot)

/-- Waits for credit that are open at the sweep edge: their time so far counts to the sweep that ended (R144). -/
def splitWaits (j p : Nat) (m : Mach) : Mach :=
  forAll (m.chords.filter fun c => c.job == j && c.waitFrom.isSome && chordPipe m c == p) (fun m c =>
    modChord (modPipe m j p fun x => { x with stats := { x.stats with stall := x.stats.stall + (m.now - c.waitAt) } })
      c.e.chord fun c => { c with waitAt := m.now }) m

/-- The record of a pipeline with a schedule for the sweep that ended.  Its times are rounded down: MEAN_SLOT to 10 ns steps and
STALL to microseconds (DESIGN CHOICE, log entry 81). -/
def sweepStats (sweep j p : Nat) (m : Mach) : Mach :=
  if (pipeOf m j p).sched.isNone then m
  else
    let m := splitWaits j p m
    let st := stamp m
    spendFree (putStat m ⟨2, imbalancePayload m j p sweep, st.1, st.2⟩)

/-! ### Per-sweep state -/

/-- A pipeline as a sweep begins: counts and sums at 0, checks of passed sweeps gone, T0 at this edge, a steered M′ in
effect (R133, R299, R305, R321). -/
def newSweepPipe (m : Mach) (x : Pipe) : Pipe :=
  let n := m.tick.sweepNo
  let due := match x.steerAt with | some (s, _) => decide (s ≤ n) | none => false
  let train := match x.sched with | some s => !s.fwdOnly | none => false
  let sched := x.sched.map fun s =>
    let s := { s with t0 := m.tick.tickNo }
    match x.steerAt with
    | some (_, k) => if due then { s with m := k } else s
    | none => s
  { x with
    sched := sched, steerAt := if due then none else x.steerAt, reserveUsed := 0, sweepClosed := false
    checks := x.checks.filter fun c => decide (n ≤ c.sweep)
    asked := x.asked.filter fun a => match a.2.2 with | some s => decide (n ≤ s) | none => false
    abandoned := if train then [] else x.abandoned
    lostAt := if train then [] else x.lostAt
    admitted := [], tokensDone := 0, mbDone := 0, stats := PipeStats.init, gather := UpdGather.init, values := none
    verdict := none, mbLoss := [] }

/-- A stage context as a sweep begins: slip counts and shifts at 0 (R70), the slot times of the ended sweep put away, the
micro-batches run and the layers handed off in it forgotten (R296, R298, R299), and update work of halted jobs dropped (R391). -/
def newSweepSc (m : Mach) (x : StageCtx) : StageCtx :=
  { x with
    slips := 0, chronic := false, shift := 0, missing := [], lastMax := x.maxSlot, maxSlot := 0
    handed := [], handCnt := [], backMbs := [], fwdMbs := []
    update := x.update.filter fun r => !(jobOf m r.job).halted }

/-- Entries of amax histories that no verdict has settled join them, unless the sweep was poisoned (R236, R310). -/
def settleAll (m : Mach) : Mach :=
  forPipes (fun j p m => if (jobOf m j).amaxPend.any (fun e => e.1 == p) then settleAmax j p (!seenPoisoned m j p) m else m) m

/-- The state of a sweep starts anew. -/
def clearSweep (m : Mach) : Mach :=
  let m := settleAll m
  { m with
    jobs := m.jobs.map fun x => { x with suspShift := 0, pipes := x.pipes.map (newSweepPipe m) }
    facets := m.facets.map fun x => { x with ueSweep := 0, updWaited := false, scs := x.scs.map (newSweepSc m) }
    ctr := { m.ctr with resetsSweep := 0, stopped := m.ctr.halted } }

/-! ### Cuts (R374, R378, R381) -/

/-- Overtime ticks of sweeps in which a cut runs, or in which the last one committed, count to its cost. -/
def countOvertime (j : Nat) (m : Mach) : Mach :=
  modSnap m j fun x => { x with
    cut := x.cut.map fun c => { c with overtime := c.overtime + 1 }
    cost := if x.cut.isNone && x.doneIn == some m.tick.sweepNo then x.cost + 1 else x.cost }

/-- The cut that was named for this sweep edge; one that finds another in progress is deferred. -/
def namedCut (j : Nat) (m : Mach) : Mach :=
  let sn := snapOf m j
  match sn.cutAt with
  | none => m
  | some s =>
    if m.tick.sweepNo < s then m
    else
      let m := modSnap m j fun x => { x with cutAt := none }
      if !sn.armed || s ≠ m.tick.sweepNo then m
      else if sn.cut.isNone then
        takeCut j false (modSnap m j fun x => { x with
          riskDue := false, lastRisk := if x.riskDue then m.tick.sweepNo else x.lastRisk })
      else if !isLeader sn || sn.deferred then m
      else raise (modSnap m j fun x => { x with deferred := true }) snapDeferred (srcUnit 5) (some j) [j, m.tick.sweepNo]

def cutsAtEdge (m : Mach) : Mach := forJobs (fun j m => namedCut j (tapEdge j m)) m

/-! ### Firmware (R491, R492, R524) -/

/-- The version of a bank's image. -/
def bankVersion (m : Mach) (b : Nat) : Nat := ((m.flash.banks[b]?).map (·.version.toNat)).getD 0

/-- May the cores run a bank: its image is valid, and every site that is not FAILED runs a version it accepts? -/
def bankRuns (m : Mach) (b : Nat) : Bool :=
  bankOk m.flash b && m.flash.sites.all fun s => s.state == 1 || (((m.flash.banks[b]?).map (·.accepts)).getD []).contains s.ucode

/-- The switch edge: ID_FW_CTL names the other bank. -/
def switchFirmware (m : Mach) : Mach :=
  let b := bf (regN m offFwCtl) 0 0
  let m := modCtr m fun c => { c with switching := none }
  if b = m.ctr.bank then m
  else if bankRuns m b then
    let m := modFlash (modCtr m fun c => { c with bank := b }) fun fl => { fl with committed := b }
    raise m fwSwitched (srcUnit 11) none [b, bankVersion m b]
  else raise (regSet m offFwCtl (word m.ctr.bank)) fwSwitchFail (srcUnit 11) none [b, bankVersion m b]

/-! ### Barriers (R285) -/

/-- Registers of a barrier's settings. -/
def barOffs (j b : Nat) : List Nat := [offJobBar j b, offJobMask j b, offJobMask j b + 8]

/-- A barrier whose settings take effect, among the registers `l`, starts at 0 arrivals, and the TALLY of every member at 0. -/
def resetBarriers (l : List Nat) (m : Mach) : Mach :=
  forJobs (fun j m => forAll (List.range 4) (fun m b =>
    if !(barOffs j b).any l.contains then m
    else
      let t := bf (regN m (offJobBar j b)) 15 4
      let m := modJob m j fun x => { x with bars := x.bars.set b ⟨[]⟩ }
      forAll ((List.range 96).filter (barMember m j b)) (fun m f => tallyWake f t (tallySet m f t 0)) m) m) m

/-! ### Fold hops (R348) -/

/-- Links that a channel's hops use. -/
def chanLinks (ch : Channel) : List Nat := (neighbours ch).filterMap fun q => (ch.members[q]?).map fun x => x.2.1

/-- The link that a hop moves to: up, to the same module, with all lanes; the fewest fold channels, then the lowest number. -/
def hopTarget (m : Mach) (far old : Nat) : Option Nat :=
  let load (l : Nat) : Nat := (m.chans.filter fun ch => ch.en && (chanLinks ch).contains l).length
  ((List.range 36).filter fun l => l != old && linkIsUp m l && (linkOf m l).farModule == far).foldl
    (fun b l => match b with
      | none => some l
      | some x => if load l < load x then some l else b) none

/-- Time that a fold channel has waited for credit of a link in the sweep. -/
def creditWait (m : Mach) (l n : Nat) : Nat :=
  (((linkOf m l).foldWaits.filter fun w => w.1 == n).map fun w => w.2.2 + (match w.2.1 with | some t => m.now - t | none => 0)).foldl (· + ·) 0

/-- Did the channel wait for credit on the link for more than FOLD_MOVE_PCT percent of its fold time in the sweep that ended (R348)?
The fold time runs while a layer is in flight (log entry 34). -/
def creditPressed (m : Mach) (n l : Nat) : Bool :=
  let pct := regN m offFoldMovePct
  let ch := chanOf m n
  let t := ch.foldTime + (match ch.foldFrom with | some a => m.now - a | none => 0)
  pct != 0 && decide (pct * t < 100 * creditWait m l n)

/-- Credit waits and fold times are counted anew from the sweep edge. -/
def resetWaits (m : Mach) : Mach :=
  { m with
    links := m.links.map fun x => { x with foldWaits := (x.foldWaits.filter fun w => w.2.1.isSome).map fun w => (w.1, some m.now, 0) }
    chans := m.chans.map fun c => { c with foldTime := 0, foldFrom := c.foldFrom.map fun _ => m.now } }

/-- One hop of a LINK_AUTO channel moves that runs on fewer than 8 lanes or waited for credit for too long (R348). -/
def moveHop (n : Nat) (m : Mach) : Mach :=
  let ch := chanOf m n
  if !ch.en || !ch.linkAuto then m
  else
    let hop := (neighbours ch).findSome? fun q =>
      match ch.members[q]? with
      | some x =>
        if linkIsUp m x.2.1 && (decide ((linkOf m x.2.1).width < 8) || creditPressed m n x.2.1) then (hopTarget m x.1 x.2.1).map fun l => (q, x, l) else none
      | none => none
    match hop with
    | none => m
    | some (q, x, l) =>
      let m := modChan m n fun c => { c with members := c.members.set q (x.1, l, x.2.2) }
      raise m foldMoved (srcChan n) (some ch.job) [n, x.1, x.2.1, l]

/-! ### Stale programs (R408) -/

/-- A sweep edge at which the admission tick length or the frequency floor decreases checks every installed program again, those of
suspended jobs too. -/
def checkStale (m0 m : Mach) : Mach :=
  if admitLen m0 ≤ admitLen m ∧ floorPoint m0 ≤ floorPoint m then m
  else forScs (fun f c m => forJobs (fun j m =>
    match stageAt m j f c with
    | none => m
    | some e =>
      match slowHandles m j e with
      | [] => m
      | h :: t =>
        let bad := (h :: t).map fun k => (j, k)
        raise (modSc m f c fun x => { x with stale := x.stale.filter (fun y => !bad.contains y) ++ bad }) wcetStale (srcFacet f 9) (some j)
          [j, f, c, h]) m) m

/-! ### Failures declared at an edge (R503) -/

/-- A facet whose sequencer misses its edge acknowledgement for the third time in a row, or whose scratchpad met too many
uncorrectable words in the sweep, has failed. -/
def edgeFailures (missed : List Nat) (m : Mach) : Mach :=
  forAll (List.range 96) (fun m f =>
    let m := modFacet m f fun x => { x with missedAck := if missed.contains f then x.missedAck + 1 else 0 }
    let x := facetOf m f
    if 3 ≤ x.missedAck ∨ regN m offFailUe < x.ueSweep then failFacetOp f m else m) m

/-! ### Guests, tests and suspended jobs -/

/-- DEGRADED at every sweep edge for a job with guests (R395). -/
def degradedOp (j : Nat) (m : Mach) : Mach :=
  let n := (jobOf m j).guests.length
  if n = 0 then m else raise m degradedEv (srcJob j) (some j) [j, n]

/-- An accepted wire test starts at the sweep edge; operations to its logical index are held (R518, R519). -/
def startWireTest (m : Mach) : Mach :=
  if m.test.busy && m.test.op == 1 && !m.test.started then
    modFacet (modTest m fun t => { t with started := true }) (logicalAt m m.test.site) fun x => { x with holding := true }
  else m

/-- TEST_DONE ends the hold of the tested site: requests that it held go on. -/
def execTestDone (failing loopback : List (Nat × Nat × Nat)) (time : Nat) (s : State) : Res :=
  reporting true (fun m => releaseHeld (testDoneOp failing loopback time m)) s

/-- A rollout schedule after a tick of suspension: every user's remaining steps come a tick later (R413, R416). -/
def laterSteps (r : Rollout) : Rollout :=
  { r with slots := r.slots.map fun o => o.map fun x => if x.decodeFrom.isSome then { x with late := x.late + 1 } else x }

/-- A tick of suspension ended: the schedule has moved, and JOB_SUSP_TICKS has risen (R413). -/
def countSuspended (m : Mach) : Mach :=
  { m with jobs := m.jobs.map fun x =>
      if x.admitted && x.suspended then { x with
        suspShift := x.suspShift + 1, suspTicks := sat32 (x.suspTicks + 1)
        pipes := x.pipes.map fun p => { p with rollout := p.rollout.map laterSteps } }
      else x }

/-- Slots of the tick that ended whose start a switch still holds back (R410): they begin, held, so that unfinished work of the tick is a
slip and is carried. -/
def startHeld (m0 m : Mach) : Mach :=
  forScs (fun f c m =>
    match (facetOf m f).switching, (scOf m f c).owner with
    | some (o, i, t), some (j, _) =>
      if i.contains j && decide (t < m.now) && (scOf m f c).run.isNone then
        let m := startSlot m0 f c (modFacet m f fun x => { x with switching := none })
        modFacet m f fun x => { x with switching := some (o, i, t) }
      else m
    | _, _ => m) m

/-! ### Chords between modules before a map change (R113) -/

/-- What the next sweep edge does to a chord in our own maps. -/
def keepsNext (m : Mach) (n : Nat) : Bool :=
  match chordBy m n with
  | none => false
  | some c =>
    let new := fillMapFor m c.job (m.tick.sweepNo + 1)
    new == fillMap m c.job || keepsChord (fillMap m c.job) new n

/-- In the tick before a sweep edge at which a new map of ours takes effect, the exchange about each chord between modules. -/
def announceMaps (m : Mach) : Mach :=
  if !sweepDue m then m
  else
    let cs := m.chords.filter fun c =>
      c.e.srcModule != c.e.dstModule && !c.asked && fillMapFor m c.job (m.tick.sweepNo + 1) != fillMap m c.job
    forAll cs (fun m c => sendCheck c.e.chord (keepsNext m c.e.chord) m) m

def execChordCheck (n depth kind _mode : Nat) (keep : Bool) (s : State) : Res :=
  actReady (decide (n < 1024)) (fun m => chordCheckOp n depth kind keep (keepsNext m n) m) s

end Sys2Proof.Machine
end

