-- ==== Sys2Proof/Machine/TickEdge.lean ====
section
/-!
DEFINITION. TICK_EDGE: the five steps of an edge (R52), the decision which edges begin sweeps (R71, R72), the first and the
stopping edge (R63, R64, R560).
-/
namespace Sys2Proof.Machine

/-! ### The edge -/

/-- What the coming edge is: the first after START, a sweep edge, the stopping edge, and the symbol that a follower
received for it. -/
structure EdgeInfo where
  first : Bool
  sweep : Bool
  stop  : Bool
  sym   : Option TickSym
  deriving DecidableEq, Repr

/-- Does the coming edge begin a sweep: the sweep's length has passed, and the domain is done by the reports that came before
the edge minus 2 µs (R71)? -/
def sweepNext (m : Mach) : Bool := sweepDue m && domainDone m (gridEdge m - 200)

/-- A follower takes what its symbol says (R60); a master, a module in holdover, and a follower whose symbol did not come
decide by R71. -/
def edgeInfo (m : Mach) : EdgeInfo :=
  let t := m.tick
  let follows := !t.master && !t.holdover
  let sym := if follows then t.sym else none
  let said := sym.or (if follows then none else t.sampled)
  let sweep := !t.running || (match said with | some s => s.sweepEdge | none => sweepNext m)
  { first := !t.running, sweep := sweep, sym := sym
    stop := t.running && sweep && (match sym with | some s => s.stop | none => t.stopIn == 1) }

/-- The timing set that a symbol carries. -/
def symTiming (s : TickSym) : Timing := ⟨s.period, s.sweepLen, s.fill, s.steady, s.drain, s.fold, s.update, s.grace⟩

/-! ### Step 1: numbers (R44, R60, R63, R72) -/

def advance (i : EdgeInfo) (m : Mach) : Mach :=
  let at_ := max m.now (gridEdge m)
  let extra := !i.first && !i.sweep && sweepDue m
  let t := m.tick
  let tick := match i.sym with
    | some s => s.tick
    | none => if i.first then t.baseTick else t.tickNo + 1
  let sweep := match i.sym with
    | some s => s.sweep
    | none => if i.first then t.baseSweep else if i.sweep then t.sweepNo + 1 else t.sweepNo
  { m with
    now := at_, edges := m.edges + 1
    tick := { t with
      running := true, armed := false, edgeAt := at_, tickNo := tick, sweepNo := sweep
      locked := i.sym.isSome || (t.locked && !t.master && !t.holdover)
      follow := (i.sym.map symTiming).or t.follow
      missed := if i.first || t.master || t.holdover || i.sym.isSome then 0 else t.missed + 1
      stopIn := if i.stop then 0 else if i.sweep && t.stopIn == 2 then 1 else t.stopIn
      inOvertime := extra, overtime := if extra then t.overtime + 1 else t.overtime } }

/-- SWEEP_OVERRUN, once a sweep, on the master (R72); overtime ticks count to the cuts that run (R381). -/
def overtimeOp (m : Mach) : Mach :=
  if !m.tick.inOvertime then m
  else
    let m := forJobs countOvertime m
    if m.tick.master && !m.tick.overrun && decide ((timing m).grace < m.tick.overtime) then
      raise (modTick m fun t => { t with overrun := true }) sweepOverrun (srcUnit 0) none []
    else m

/-- Slots of the tick that ended are judged (R68–R70); jobs that issue nothing have none to judge (R391, R413). -/
def judgeSlips (m0 m : Mach) : Mach :=
  forScs (fun f c m =>
    let idle := match (scOf m0 f c).owner with
      | some (j, _) => !worksNow m0 j || (jobOf m0 j).releasing
      | none => false
    if idle || m0.twin.frozen then m else slipEdge m0.tick.tickNo m0.tick.phase f c m) m

/-- The sweep that ended is closed: its records (R144), score (R382), boundary moves (R145, R395) and automatic versions
(R167); then the new one begins. -/
def beginSweep (i : EdgeInfo) (m0 m : Mach) : Mach :=
  let m := if i.first then m else
    let m := healthOp (forPipes (sweepStats m0.tick.sweepNo) m)
    let m := publishAuto m
    { m with jobs := m.jobs.map fun x => if x.snap.armed then { x with snap := { x.snap with sRun := x.snap.sRun + 1 } } else x }
  let m := forPipes (rebalancePipe i.first) (forPipes switchBoundary m)
  let m := modTick m fun t => { t with sweepFirst := t.tickNo, overtime := 0, overrun := false, inOvertime := false }
  let m := forJobs degradedOp (clearSweep m)
  twinSweepEdge (startWireTest (foldSweepEdge m))

/-- Step 1 with what the end of the tick brings: slips, failures, row shifts, the twin, and entries that leave DRAINING. -/
def stepOne (i : EdgeInfo) (missed : List Nat) (m0 : Mach) : Mach :=
  let m := advance i m0
  let m := if i.first then m else countSuspended (judgeSlips m0 (overtimeOp m))
  let m := { m with facets := m.facets.map fun x => { x with scs := x.scs.map fun s => { s with flags := 0, prefill := 0 } } }
  let m := releaseHeld (shiftEdge (edgeFailures missed m))
  let m := twinTickEdge m
  let m := if takesOver m then takeover m else m
  let m := leaveDraining m
  if i.sweep then beginSweep i m0 m else m

/-! ### Step 3: descriptors (R54–R58, R84, R97, R560) -/

/-- The edge judges a descriptor that was held (R560), or whose sweep begins before its nominal tick (R54).  One that was
fetched while the generator did not run and that FENCE still holds back is judged at the first edge too, and again at the
completion it waits for (R85). -/
def judgeAt (i : EdgeInfo) (m : Mach) (x : Desc) : Mach :=
  let n := m.tick.tickNo
  let d := x.d
  let named := if dKind d = 1 then decide (n ≤ dEdge d) else decide (m.tick.sweepNo ≤ dEdge d)
  match x.wait with
  | .fenced =>
    if !i.first then m
    else if pastHorizon d n m.tick.sweepNo then finishDesc d false 0x03 0 m
    else if named || dFloat d then
      { m with descs := m.descs.map fun y => if sameDesc d y then { y with fetchTick := n - 3 } else y }
    else finishDesc d false 0x02 0 m
  | .held =>
    if pastHorizon d n m.tick.sweepNo then finishDesc d false 0x03 0 m
    else if named then setWait d .sure m
    else if dFloat d then setWait d (.float n) m
    else finishDesc d false 0x02 0 m
  | .edge =>
    if dKind d = 2 && i.sweep && decide (dEdge d ≤ m.tick.sweepNo) && decide (n < x.fetchTick + 3) then
      (if dFloat d then setWait d (.float (x.fetchTick + 3)) m else finishDesc d false 0x02 0 m)
    else m
  | _ => m

/-- Does the descriptor take effect at this edge? -/
def dueNow (i : EdgeInfo) (m : Mach) (x : Desc) : Bool :=
  let named := if dKind x.d = 1 then decide (dEdge x.d ≤ m.tick.tickNo) else i.sweep && decide (dEdge x.d ≤ m.tick.sweepNo)
  match x.wait with
  | .edge => named
  | .sure => named
  | .float t => decide (t ≤ m.tick.tickNo) && (dKind x.d == 1 || i.sweep)
  | _ => false

/-- Phases that begin at this edge, those of length 0 with the next that has length (R48, R140). -/
def begins (m : Mach) : List Nat := (List.range 6).filter fun k => m.tick.tickNo == m.tick.sweepFirst + phaseStart (timing m) k

/-- The maps of a job once those that begin at this edge have taken effect. -/
def mapsAfter (m : Mach) (x : Job) : List (Option PlaceMap) :=
  (begins m).foldl (fun l k =>
    match x.coming.find? fun e => e.1 == k with
    | some e => l.set k (some e.2)
    | none => l) x.maps

/-- The maps that begin at this edge take effect (R140). -/
def withMaps (m : Mach) : Mach :=
  let bs := begins m
  { m with jobs := m.jobs.map fun x => { x with maps := mapsAfter m x, coming := x.coming.filter fun e => !bs.contains e.1 } }

/-- JOB_CTL of the 16 contexts. -/
def jobCtlOffs : List Nat := (List.range 16).map offJob

/-- Do two maps have the same stage-context and chord entries? -/
def sameEntries (a b : Option PlaceMap) : Bool :=
  let scs (o : Option PlaceMap) : List MapSc := (o.map (·.scs)).getD []
  let cs (o : Option PlaceMap) : List MapChord := (o.map (·.chords)).getD []
  (scs a).all (scs b).contains && (scs b).all (scs a).contains && (cs a).all (cs b).contains && (cs b).all (cs a).contains

/-- Would FILL, STEADY and DRAIN of the job differ (R141)? -/
def mapsDiffer (m : Mach) (j : Nat) : Bool :=
  let l := (List.range 3).map (edgeMap m j)
  !(l.all fun o => sameEntries ((l[0]?).getD none) o)

/-- One descriptor at its place, but a free of a program: the checks of R84 and R97 again, with the windows of step 2, then its
effect under the timing set `t` of the edge.  A SET_FIELD is written here and completes once it has been judged; JOB_ADMIT reads
JOB_CTL as step 2 left it (R403). -/
def takeOther (t : Timing) (m2 m : Mach) (x : Desc) : Mach :=
  let d := x.d
  if !(m.descs.any fun y => sameDesc d y) then m
  else
    match opOf t d with
    | none => finishDesc d false 0x05 0 m
    | some (sp, eff) =>
      let there := (jobOf m (dJob m d)).admitted && !(jobOf m (dJob m d)).releasing
      let a := sp.addr { m with regs := m2.regs } d
      if x.viaAdmit && !there then finishDesc d false 0x06 0 m
      else if a ≠ 0 then finishDesc d false a 0 m
      else if sp.code = 0x01 then writeField d m
      else if sp.code = 0x48 then putBack m jobCtlOffs (takeEffect sp eff d (floatedOf m d) (putBack m2 jobCtlOffs m))
      else takeEffect sp eff d (floatedOf m d) m

/-- A job's maps from this edge on, as a bound free of a program counts them: every phase has the map that it will next begin
with, and at a sweep edge a job whose maps would differ keeps what it has (R262, R141). -/
def standMaps (m : Mach) : Mach :=
  forAll (List.range m.jobs.length) (fun m j =>
    modJob m j fun x =>
      if m.tick.tickNo = m.tick.sweepFirst ∧ mapsDiffer m j then
        { x with maps := (x.coming.filter fun e => decide (3 ≤ e.1)).foldl (fun l e => l.set e.1 (some e.2)) x.maps, coming := [] }
      else { x with maps := x.coming.foldl (fun l e => l.set e.1 (some e.2)) x.maps, coming := [] }) m

/-- One descriptor at its place.  A free of a program is judged on the maps that stand from this edge on, those of the MAP_LOADs
of the edge with them (R262). -/
def takeDue (t : Timing) (m2 : Mach) (due : List Desc) (m : Mach) (x : Desc) : Mach :=
  let d := x.d
  if dOpcode d = 0x28 ∧ pgKind d = 2 ∧ (m.descs.any fun y => sameDesc d y) then
    let maps := due.filter fun y => dOpcode y.d == 0x10
    match (effProgFree d (standMaps (forAll maps (takeOther t m2) m))).1 with
    | some (st, det) =>
      let there := (jobOf m (dJob m d)).admitted && !(jobOf m (dJob m d)).releasing
      if x.viaAdmit && !there then finishDesc d false 0x06 0 m
      else if st = 0 then
        finishDesc d (floatedOf m d) 0 0 { m with progs := m.progs.filter fun p => p.handle != pgHandle d }
      else finishDesc d false st det m
    | none => m
  else takeOther t m2 m x

def isField (x : Desc) : Bool := dOpcode x.d == 0x01

/-- A master applies at a sweep edge the timing set that it sampled and announced 2 µs before (R435); a word that stands
otherwise by now stays pending for the sweep edge after it. -/
def applySampled (m : Mach) : Mach :=
  match m.tick.sampled with
  | none => m
  | some s =>
    if following m || !s.sweepEdge then m
    else
      (timingOffs.zip (timingWords (symTiming s))).foldl (fun m e =>
        if regN m e.1 = e.2 then m
        else regSet { m with pend := if m.pend.any fun x => x.1 == e.1 then m.pend else pendPut m.pend e.1 (regGet m e.1) } e.1 (word e.2)) m

/-- The timing set as it will stand after step 3 of a sweep edge (R49, R52): every SET_FIELD of the edge written, the set judged,
and what was announced applied. -/
def edgeTiming (m1 m2 : Mach) (pended : List Nat) (fields : List Desc) : Timing :=
  let mine := fields.filter fun x => timingOffs.contains (sfReg x.d)
  let changed := (pended ++ mine.map fun x => sfReg x.d).filter timingOffs.contains
  timing (applySampled (judgeSettings m1 changed (forAll mine (fun m x => writeField x.d m) m2)).1)

/-- Completes the SET_FIELDs of this edge: FIELD_REFUSED where the judgement put the register back (R88). -/
def endFields (refused : List Nat) (fs : List Desc) (m : Mach) : Mach :=
  forAll fs (fun m x =>
    if m.descs.any fun y => sameDesc x.d y then
      finishDesc x.d (floatedOf m x.d) (if refused.contains (sfReg x.d) then 0x81 else 0) 0 m
    else m) m

/-- Rings disabled two edges ago: what has not taken effect is cancelled (R100). -/
def closeRings (m : Mach) : Mach :=
  forAll (List.range 32) (fun m n =>
    match (ringOf m n).disabledAt with
    | none => m
    | some t =>
      if m.tick.tickNo < t + 2 then m
      else
        let gone := m.descs.filter fun x => x.d.ring == n && x.wait != .work && x.wait != .turn
        settleIdle (forAll gone (fun m x => cancelDesc m x.d) m) n) m

/-- Steps 2 and 3: pending values (R534), descriptors in fetch order, switches of rotation groups (R414), and the judgement
of every value that changed. -/
def stepTwoThree (i : EdgeInfo) (m1 : Mach) : Mach :=
  let pended := (m1.pend.filter fun e => pendDue m1 i.sweep e.1).map (·.1)
  let m2 := applyPend i.sweep m1
  let m := forAll m2.descs (judgeAt i) m2
  let due := m.descs.filter (dueNow i m)
  let fields := due.filter isField
  let changed := pended ++ fields.map fun x => sfReg x.d
  let m := dueSwitches (forAll due (takeDue (edgeTiming m1 m2 pended fields) m2 due) m)
  let b := judgeSettings m1 changed m
  let m := endFields b.2 fields b.1
  let m := if i.sweep then resetBarriers (changed.filter fun o => !b.2.contains o) m else m
  let m := forAll ((List.range 16).drop 1) (fun m g => rotationOp g m) (if i.sweep then applySampled m else m)
  closeRings (if i.sweep then loseWindows (cutsAtEdge m) else m)

/-- The next edge before it comes, if it begins a sweep: the machine after its step 1 and its step 2, after the judgement of the
descriptors, and those that take effect. -/
structure Ahead where
  first : Bool
  m1    : Mach
  m2    : Mach
  m     : Mach
  due   : List Desc

def aheadOf (m : Mach) : Ahead :=
  let i : EdgeInfo := { first := !m.tick.running, sweep := true, stop := false, sym := none }
  let m1 := modTick m fun t => { t with
    running := true, sampled := none
    tickNo := if i.first then t.baseTick else t.tickNo + 1, sweepNo := if i.first then t.baseSweep else t.sweepNo + 1 }
  let m2 := applyPend true m1
  let m := forAll m2.descs (judgeAt i) m2
  ⟨i.first, m1, m2, m, m.descs.filter (dueNow i m)⟩

/-- Moves of publish pointers that the next edge will make are told to the other modules once its readiness is settled, 2 µs before it,
so that their entries follow at step 3 of the same edge (R157, R160; log entry 84). -/
def announceSwitches (m : Mach) : Mach :=
  let a := aheadOf m
  let base := if a.first then a.m else publishAuto a.m
  let due := a.due.filter fun x => dOpcode x.d == 0x10 || dOpcode x.d == 0x19
  let after := forAll due (takeOther (timing a.m) a.m2) base
  forPipes (fun j p m =>
    forAll ((pipeOf after j p).told.filter fun t => t.1 == a.m1.tick.tickNo)
      (fun m t => tellSwitch j p t (pipeModules after j p) m) m) m

/-- The timing set that the next edge leaves if it begins a sweep: what steps 1 to 3 of that edge would make of the pending words
and of the SET_FIELDs that take effect at it (R49, R60, R435). -/
def nextTiming (m : Mach) : Timing :=
  if following m then timing m
  else
    let a := aheadOf m
    let pended := (a.m1.pend.filter fun e => pendDue a.m1 true e.1).map (·.1)
    edgeTiming a.m1 a.m2 pended (a.due.filter isField)

/-- What a sweep edge does with settings once they stand: memory regions, barriers, firmware, released contexts and the
power plan. -/
def settleSweep (meter : PowerMeter) (m1 m : Mach) : Mach :=
  let m := memSweepEdge m1 m
  let m := freeContexts (switchFirmware m)
  clearPend (planPower meter m)

/-! ### Step 4: phase and maps (R140, R141, R123) -/

/-- At a sweep edge where FILL, STEADY and DRAIN would differ the job keeps all three.  The event names the MAP_IDs of the maps
that would have come into effect, 0 where there is none (DESIGN CHOICE, log entry 77: R141 says only MAP_IDs of FILL, STEADY
and DRAIN). -/
def mapConflictOp (j : Nat) (m : Mach) : Mach :=
  if !mapsDiffer m j then m
  else
    let l := (List.range 3).map (edgeMap m j)
    let m := modJob m j fun x => { x with coming := x.coming.filter fun e => decide (3 ≤ e.1) }
    raise m mapConflict (srcUnit 3) (some j) (j :: l.map fun o => (o.map (·.mapId)).getD 0)

/-- The maps that begin take effect; chords follow the FILL map at sweep edges. -/
def changeMaps (i : EdgeInfo) (m : Mach) : Mach :=
  let m := if i.sweep then forJobs mapConflictOp m else m
  let m' := withMaps m
  let m' := if i.sweep then forJobs (fun j x => changeChords j (fillMap m j) (fillMap m' j) x) m' else m'
  let m' := setOwners m'
  if m.jobs == m'.jobs then m' else forAll (List.range 96) (fun m f => installStrands f m) m'

/-- Step 4 and the work that belongs to the first edges of phases. -/
def stepFour (i : EdgeInfo) (m0 m : Mach) : Mach :=
  let m := modTick m fun t => { t with phase := phaseOf (timing m) (t.tickNo - t.sweepFirst) }
  let m := changeMaps i m
  let m := if i.sweep then
      let m := judgeLoads (checkStale m0 m)
      flushWaiting (moveChords (resetWaits (forAll (List.range 32) (fun m n => moveHop n m) (keepTagEdge m))))
    else m
  let m := if phaseFirst m 0 then fillEdge m else m
  let m := if phaseFirst m 3 && !m.twin.frozen then foldEdge m else m
  let m := if phaseFirst m 4 && !m.twin.frozen then updateEdge m else m
  let m := if phaseFirst m 5 then sealAuto m else m
  retrainEdge (ucodeEdge (runCopies m))

/-! ### Step 5: tick programs -/

/-- Entries of EDGE chords that were committed become visible (R118). -/
def showEntries (m : Mach) : Mach :=
  forAll (m.chords.filter fun c => c.e.mode == 0 && hasConsumer c.e) (fun m c =>
    let m := showQueue c.e.chord m
    if (rollOf m c.job (chordPipe m c)).isSome then rollArrive c.e.chord m else m) m

/-- The sequencers start the tick's slots; `m0` is the state before the edge. -/
def stepFive (m0 m : Mach) : Mach :=
  let m := showEntries m
  let m := forScs prefetchEdge m
  let m := forPipes (fun j p m => fillUsers j p (reapAbandoned j p m)) m
  forScs (startSlot m0) m

/-! ### The stopping edge (R64) and the next one -/

/-- Every descriptor that waits for a later edge completes LATE; cuts abort (R376); no further edge comes. -/
def stopEdge (m : Mach) : Mach :=
  let waits (x : Desc) : Bool := match x.wait with
    | .turn => false
    | .work => false
    | _ => true
  let m := forAll (m.descs.filter waits) (fun m x => finishDesc x.d false 0x02 0 m) m
  let m := forJobs (fun j m => abortCut j 4 m) m
  pumpAll (modTick m fun t => { t with running := false, locked := false, holdover := false, relock := false, refOk := false })

/-- The next edge is one period later on the grid (R43, R50). -/
def nextTick (grid : Nat) (m : Mach) : Mach :=
  modTick m fun t => { t with
    nextEdge := grid + (timing m).period, slew := 0, sym := none, sampled := none
    reports := (downlinks m).filterMap fun l => t.reports.reverse.find? fun r => r.1 == l }

/-! ### TICK_SYMBOL_SEND -/

/-- The symbol of the next edge, with DELAY still 0. -/
def nextSym (m : Mach) : TickSym :=
  let t := m.tick
  let first := !t.running
  let se := first || sweepNext m
  let tm := if se then nextTiming m else timing m
  { grace := tm.grace, update := tm.update, fold := tm.fold, drain := tm.drain, steady := tm.steady, fill := tm.fill
    sweepLen := tm.sweepLen, period := tm.period
    sweep := if first then t.baseSweep else if se then t.sweepNo + 1 else t.sweepNo
    tick := if first then t.baseTick else t.tickNo + 1
    delay := 0, phase := if se then phaseOf tm 0 else phaseOf tm (t.tickNo + 1 - t.sweepFirst)
    holdover := t.holdover, stop := !first && se && t.stopIn == 1, sweepEdge := se }

/-- TICK_SYMBOL_SEND: a master, or a module in holdover, samples the values of the next edge 2 µs before it and sends them
(R434–R436). -/
def symbolSendOp (m : Mach) : Mach :=
  let t := m.tick
  let own := (t.running && (t.master || t.holdover)) || (t.armed && !t.running && t.master)
  if !own || t.sampled.isSome then m
  else
    let m := if t.armed && t.refEn then m else endOverdue (atTime m (gridEdge m - 200))
    let sym := nextSym m
    let m := if sym.sweepEdge then announceSwitches m else m
    sendSym sym (2 ^ 32 - 1) (modTick m fun t => { t with sampled := some sym })

/-- TICK_SYMBOL: the symbol of a sweep edge that a follower takes also settles what its homes publish there. -/
def symbolInOp (link : Nat) (sym : TickSym) (m : Mach) : Mach :=
  let m' := tickSymbolOp link sym m
  if sym.sweepEdge && m'.tick.sym != m.tick.sym then announceSwitches m' else m'

def execTickSymbol (link : Nat) (sym : TickSym) (s : State) : Res := actReady (decide (link < 36)) (symbolInOp link sym) s

def execTickSymbolSend (s : State) : Res := actReady true symbolSendOp s

/-! ### TICK_EDGE -/

/-- TICK_EDGE. `missed` names the facets whose sequencer missed its edge acknowledgement; `meter` is what the power manager
measured. -/
def tickEdgeOp (missed : List Nat) (meter : PowerMeter) (m : Mach) : Mach :=
  if !edgeDue m then m
  else
    let m0 := pumpAll (overdueLoads m)
    let m0 := { startHeld m0 { m0 with now := gridEdge m0 } with now := m0.now }
    let i := edgeInfo m0
    let m1 := stepOne i missed m0
    let m := stepTwoThree i m1
    let m := if i.sweep then settleSweep meter m1 m else m
    let m := nextTick (gridEdge m0) (stepFour i m0 m)
    let m := forJobs (fun j m => match (jobOf m j).holdUntil with
      | some t => if t ≤ m.now then debtHoldEndOp j m else m
      | none => m) m
    if i.stop then stopEdge (overdueLoads m)
    else sendReport true (announceMaps (pumpAll (stepFive m0 m)))

def execTickEdge (missed : List Nat) (meter : PowerMeter) (s : State) : Res := actReady true (tickEdgeOp missed meter) s

end Sys2Proof.Machine
end

