-- ==== Sys2Proof/Machine/Dispatch.lean ====
section
/-!
DEFINITION. One arm per command: the one direct call of its meaning.
-/
namespace Sys2Proof.Machine

def exec (i : Instr) (s : State) : Host.Outcome State Fault Refusal :=
  match i with
  | .registerWrite w => Sys2Proof.Machine.execRegisterWrite w s
  | .setupBadAccess isWrite offset size => Sys2Proof.Machine.execSetupBadAccess isWrite offset size s
  | .w1cClear r value same => Sys2Proof.Machine.execW1cClear r value same s
  | .jobKey job byteOfs size value => Sys2Proof.Machine.execJobKey job byteOfs size value s
  | .idModuleNum size value => Sys2Proof.Machine.execIdModuleNum size value s
  | .tickRole value => Sys2Proof.Machine.execTickRole value s
  | .tickUplink value => Sys2Proof.Machine.execTickUplink value s
  | .start withStop => Sys2Proof.Machine.execStart withStop s
  | .stop => Sys2Proof.Machine.execStop s
  | .latClr => Sys2Proof.Machine.execLatClr s
  | .ringEnable ring ctl => Sys2Proof.Machine.execRingEnable ring ctl s
  | .ringDisable ring ctl => Sys2Proof.Machine.execRingDisable ring ctl s
  | .ringPort ring port => Sys2Proof.Machine.execRingPort ring port s
  | .dbPoll => Sys2Proof.Machine.execDbPoll s
  | .doorbellReadDone ep r => Sys2Proof.Machine.execDoorbellReadDone ep r s
  | .descriptorFetch ring r => Sys2Proof.Machine.execDescriptorFetch ring r s
  | .heldCompletionWrite ring => Sys2Proof.Machine.execHeldCompletionWrite ring s
  | .coalesceTimeout ring => Sys2Proof.Machine.execCoalesceTimeout ring s
  | .msixUnmask ep vector => Sys2Proof.Machine.execMsixUnmask ep vector s
  | .portDown ep => Sys2Proof.Machine.execPortDown ep s
  | .endpointReset ep cause => Sys2Proof.Machine.execEndpointReset ep cause s
  | .nop d => Sys2Proof.Machine.execNop d s
  | .setField d => Sys2Proof.Machine.execSetField d s
  | .copy d => Sys2Proof.Machine.execCopy d s
  | .copyDone ring index r => Sys2Proof.Machine.execCopyDone ring index r s
  | .mapLoad d => Sys2Proof.Machine.execMapLoad d s
  | .schedLoad d => Sys2Proof.Machine.execSchedLoad d s
  | .mbAdmit d => Sys2Proof.Machine.execMbAdmit d s
  | .verBuildAlloc d => Sys2Proof.Machine.execVerBuildAlloc d s
  | .verBuildSeal d => Sys2Proof.Machine.execVerBuildSeal d s
  | .verBuildFree d => Sys2Proof.Machine.execVerBuildFree d s
  | .crcReadDone facet sc entry => Sys2Proof.Machine.execCrcReadDone facet sc entry s
  | .verPublish d => Sys2Proof.Machine.execVerPublish d s
  | .modelLoad d => Sys2Proof.Machine.execModelLoad d s
  | .modelLoadDone ring index => Sys2Proof.Machine.execModelLoadDone ring index s
  | .progLoad d => Sys2Proof.Machine.execProgLoad d s
  | .progLoadFree d => Sys2Proof.Machine.execProgLoadFree d s
  | .foldSetup d => Sys2Proof.Machine.execFoldSetup d s
  | .updateSetup d => Sys2Proof.Machine.execUpdateSetup d s
  | .actPolicy d => Sys2Proof.Machine.execActPolicy d s
  | .snapTakeCut d => Sys2Proof.Machine.execSnapTakeCut d s
  | .snapTakeArm d => Sys2Proof.Machine.execSnapTakeArm d s
  | .snapTakeDisarm d => Sys2Proof.Machine.execSnapTakeDisarm d s
  | .snapRestore d => Sys2Proof.Machine.execSnapRestore d s
  | .jobAdmit d => Sys2Proof.Machine.execJobAdmit d s
  | .jobRelease d => Sys2Proof.Machine.execJobRelease d s
  | .switchIn d => Sys2Proof.Machine.execSwitchIn d s
  | .yieldJob d => Sys2Proof.Machine.execYieldJob d s
  | .rolloutCfg d => Sys2Proof.Machine.execRolloutCfg d s
  | .tickEdge missed meter => Sys2Proof.Machine.execTickEdge missed meter s
  | .tickSymbolSend => Sys2Proof.Machine.execTickSymbolSend s
  | .tickSymbol link sym => Sys2Proof.Machine.execTickSymbol link sym s
  | .tickHoldover => Sys2Proof.Machine.execTickHoldover s
  | .tickRefPulse phaseErr => Sys2Proof.Machine.execTickRefPulse phaseErr s
  | .tickRefLost => Sys2Proof.Machine.execTickRefLost s
  | .sweepStateReport link done sweep => Sys2Proof.Machine.execSweepStateReport link done sweep s
  | .slotComplete facet sc => Sys2Proof.Machine.execSlotComplete facet sc s
  | .chordWrite facet offset data far => Sys2Proof.Machine.execChordWrite facet offset data far s
  | .waveDeadline facet sc dir => Sys2Proof.Machine.execWaveDeadline facet sc dir s
  | .credit chord count => Sys2Proof.Machine.execCredit chord count s
  | .creditTimeout chord => Sys2Proof.Machine.execCreditTimeout chord s
  | .chordCheck chord depth kind mode keep => Sys2Proof.Machine.execChordCheck chord depth kind mode keep s
  | .chordLoss chord firstLost lostCount dropped => Sys2Proof.Machine.execChordLoss chord firstLost lostCount dropped s
  | .mbLost job pipe ids => Sys2Proof.Machine.execMbLost job pipe ids s
  | .rebalCopyDone job pipe => Sys2Proof.Machine.execRebalCopyDone job pipe s
  | .verQuery src job pipe vtag sweep => Sys2Proof.Machine.execVerQuery src job pipe vtag sweep s
  | .verReply src job pipe vtag ready answering => Sys2Proof.Machine.execVerReply src job pipe vtag ready answering s
  | .verSwitch job pipe newTag oldTag keepOld edgeTick => Sys2Proof.Machine.execVerSwitch job pipe newTag oldTag keepOld edgeTick s
  | .verLastUnit job pipe vtag mbId => Sys2Proof.Machine.execVerLastUnit job pipe vtag mbId s
  | .verRetire job pipe vtag tick => Sys2Proof.Machine.execVerRetire job pipe vtag tick s
  | .load link streamOfs data => Sys2Proof.Machine.execLoad link streamOfs data s
  | .loadOrphan link => Sys2Proof.Machine.execLoadOrphan link s
  | .prismCommand facet sc => Sys2Proof.Machine.execPrismCommand facet sc s
  | .prismComplete facet prism => Sys2Proof.Machine.execPrismComplete facet prism s
  | .rayCommand facet sc => Sys2Proof.Machine.execRayCommand facet sc s
  | .rayComplete facet => Sys2Proof.Machine.execRayComplete facet s
  | .strandLaunch facet sc => Sys2Proof.Machine.execStrandLaunch facet sc s
  | .strandStart facet group => Sys2Proof.Machine.execStrandStart facet group s
  | .groupEnd facet group => Sys2Proof.Machine.execGroupEnd facet group s
  | .strandNop facet strand => Sys2Proof.Machine.execStrandNop facet strand s
  | .halt facet strand => Sys2Proof.Machine.execHalt facet strand s
  | .strandIntegerOp facet strand => Sys2Proof.Machine.execStrandIntegerOp facet strand s
  | .strandFloatOp facet strand => Sys2Proof.Machine.execStrandFloatOp facet strand s
  | .fcvt facet strand => Sys2Proof.Machine.execFcvt facet strand s
  | .fcmp facet strand => Sys2Proof.Machine.execFcmp facet strand s
  | .strandBranch facet strand => Sys2Proof.Machine.execStrandBranch facet strand s
  | .ldl facet strand => Sys2Proof.Machine.execLdl facet strand s
  | .stl facet strand => Sys2Proof.Machine.execStl facet strand s
  | .get facet strand => Sys2Proof.Machine.execGet facet strand s
  | .put facet strand => Sys2Proof.Machine.execPut facet strand s
  | .getb facet strand => Sys2Proof.Machine.execGetb facet strand s
  | .putb facet strand => Sys2Proof.Machine.execPutb facet strand s
  | .atom facet strand => Sys2Proof.Machine.execAtom facet strand s
  | .red facet strand => Sys2Proof.Machine.execRed facet strand s
  | .tadd facet strand => Sys2Proof.Machine.execTadd facet strand s
  | .tread facet strand => Sys2Proof.Machine.execTread facet strand s
  | .twait facet strand => Sys2Proof.Machine.execTwait facet strand s
  | .bar facet strand => Sys2Proof.Machine.execBar facet strand s
  | .fence facet strand => Sys2Proof.Machine.execFence facet strand s
  | .tallyWait facet sc => Sys2Proof.Machine.execTallyWait facet sc s
  | .tallyAdd facet sc => Sys2Proof.Machine.execTallyAdd facet sc s
  | .remoteCopy facet sc => Sys2Proof.Machine.execRemoteCopy facet sc s
  | .barrierArrive facet sc => Sys2Proof.Machine.execBarrierArrive facet sc s
  | .fenceRecord facet sc => Sys2Proof.Machine.execFenceRecord facet sc s
  | .tallyTimeout facet isStrand issuer => Sys2Proof.Machine.execTallyTimeout facet isStrand issuer s
  | .req opid src => Sys2Proof.Machine.execReq opid src s
  | .resp opid far => Sys2Proof.Machine.execResp opid far s
  | .tally src opid laddr mod operand => Sys2Proof.Machine.execTally src opid laddr mod operand s
  | .remoteTimeout opid => Sys2Proof.Machine.execRemoteTimeout opid s
  | .gradAcc facet sc => Sys2Proof.Machine.execGradAcc facet sc s
  | .gradAccComplete facet => Sys2Proof.Machine.execGradAccComplete facet s
  | .foldSeg link chan layerEntry pass seqNum src segs => Sys2Proof.Machine.execFoldSeg link chan layerEntry pass seqNum src segs s
  | .foldLayerDone chan => Sys2Proof.Machine.execFoldLayerDone chan s
  | .foldStall chan => Sys2Proof.Machine.execFoldStall chan s
  | .foldCheck link chan settings => Sys2Proof.Machine.execFoldCheck link chan settings s
  | .foldTotals src job pipe sweep mb tokens loss => Sys2Proof.Machine.execFoldTotals src job pipe sweep mb tokens loss s
  | .updReport src job pipe layer nonfinite globalSq => Sys2Proof.Machine.execUpdReport src job pipe layer nonfinite globalSq s
  | .stepVerdict job pipe => Sys2Proof.Machine.execStepVerdict job pipe s
  | .updValues job pipe v => Sys2Proof.Machine.execUpdValues job pipe v s
  | .updateStart facet sc => Sys2Proof.Machine.execUpdateStart facet sc s
  | .updateComplete facet sc => Sys2Proof.Machine.execUpdateComplete facet sc s
  | .steer job pipe m edgeSweep => Sys2Proof.Machine.execSteer job pipe m edgeSweep s
  | .actPrefetchDone facet sc unit r => Sys2Proof.Machine.execActPrefetchDone facet sc unit r s
  | .actWriteoutDone facet sc unit ok => Sys2Proof.Machine.execActWriteoutDone facet sc unit ok s
  | .snapCheck src job crc => Sys2Proof.Machine.execSnapCheck src job crc s
  | .snapPolicyDecision job => Sys2Proof.Machine.execSnapPolicyDecision job s
  | .snapCut job sweep => Sys2Proof.Machine.execSnapCut job sweep s
  | .shard src job gen shardIdx ofs mirror data => Sys2Proof.Machine.execShard src job gen shardIdx ofs mirror data s
  | .shardAck src job gen shardIdx refused => Sys2Proof.Machine.execShardAck src job gen shardIdx refused s
  | .snapDone src job gen => Sys2Proof.Machine.execSnapDone src job gen s
  | .snapCommit src job gen ack commit losses => Sys2Proof.Machine.execSnapCommit src job gen ack commit losses s
  | .snapRingTimeout job => Sys2Proof.Machine.execSnapRingTimeout job s
  | .snapGens src job gens => Sys2Proof.Machine.execSnapGens src job gens s
  | .snapChoice job gen none_ => Sys2Proof.Machine.execSnapChoice job gen none_ s
  | .snapManifests src job request ms => Sys2Proof.Machine.execSnapManifests src job request ms s
  | .snapRestored job gen polygon mirrors => Sys2Proof.Machine.execSnapRestored job gen polygon mirrors s
  | .facetFail facet => Sys2Proof.Machine.execFacetFail facet s
  | .shiftCopyDone row => Sys2Proof.Machine.execShiftCopyDone row s
  | .heartbeatSend => Sys2Proof.Machine.execHeartbeatSend s
  | .heartbeat link h => Sys2Proof.Machine.execHeartbeat link h s
  | .twinFailSensed => Sys2Proof.Machine.execTwinFailSensed s
  | .twinLost => Sys2Proof.Machine.execTwinLost s
  | .detach => Sys2Proof.Machine.execDetach s
  | .unfreeze => Sys2Proof.Machine.execUnfreeze s
  | .twinLeaseExp value => Sys2Proof.Machine.execTwinLeaseExp value s
  | .twinLinks value => Sys2Proof.Machine.execTwinLinks value s
  | .linkFrame link f => Sys2Proof.Machine.execLinkFrame link f s
  | .linkReplayTimeout link => Sys2Proof.Machine.execLinkReplayTimeout link s
  | .linkDown link => Sys2Proof.Machine.execLinkDown link s
  | .linkFlush link => Sys2Proof.Machine.execLinkFlush link s
  | .linkTrainRetry link failStep goodLanes => Sys2Proof.Machine.execLinkTrainRetry link failStep goodLanes s
  | .linkUp link rtt lat resumed => Sys2Proof.Machine.execLinkUp link rtt lat resumed s
  | .linkHello link farModule farLink width lastFrame serial twinSerial => Sys2Proof.Machine.execLinkHello link farModule farLink width lastFrame serial twinSerial s
  | .retrainAll link => Sys2Proof.Machine.execRetrainAll link s
  | .retrainLane link lane => Sys2Proof.Machine.execRetrainLane link lane s
  | .clrCnt link => Sys2Proof.Machine.execClrCnt link s
  | .clrRetired link => Sys2Proof.Machine.execClrRetired link s
  | .laneFecThreshold link lane symbols => Sys2Proof.Machine.execLaneFecThreshold link lane symbols s
  | .laneRetrainDone link lane ok => Sys2Proof.Machine.execLaneRetrainDone link lane ok s
  | .laneLockLoss link lane => Sys2Proof.Machine.execLaneLockLoss link lane s
  | .opticsRemoved link => Sys2Proof.Machine.execOpticsRemoved link s
  | .opticsInserted link => Sys2Proof.Machine.execOpticsInserted link s
  | .retire facet channel => Sys2Proof.Machine.execRetire facet channel s
  | .memRetired facet badWords => Sys2Proof.Machine.execMemRetired facet badWords s
  | .memRekeyed facet => Sys2Proof.Machine.execMemRekeyed facet s
  | .imbalance facet channel region imbalanced => Sys2Proof.Machine.execImbalance facet channel region imbalanced s
  | .scrubPass facet corrected uncorrectable => Sys2Proof.Machine.execScrubPass facet corrected uncorrectable s
  | .periodicRetrain facet channel ok => Sys2Proof.Machine.execPeriodicRetrain facet channel ok s
  | .focusRelease => Sys2Proof.Machine.execFocusRelease s
  | .holdoffExpiry group => Sys2Proof.Machine.execHoldoffExpiry group s
  | .focRaise core source code detail => Sys2Proof.Machine.execFocRaise core source code detail s
  | .focClaim core => Sys2Proof.Machine.execFocClaim core s
  | .focComplete core source => Sys2Proof.Machine.execFocComplete core source s
  | .focStackRst core => Sys2Proof.Machine.execFocStackRst core s
  | .lineAsserted line => Sys2Proof.Machine.execLineAsserted line s
  | .lineDeasserted line => Sys2Proof.Machine.execLineDeasserted line s
  | .standbyLineLatch line assertedEdge => Sys2Proof.Machine.execStandbyLineLatch line assertedEdge s
  | .ctrCoreReset core => Sys2Proof.Machine.execCtrCoreReset core s
  | .idFwCtl value => Sys2Proof.Machine.execIdFwCtl value s
  | .dvfsRampEnd facet => Sys2Proof.Machine.execDvfsRampEnd facet s
  | .pwrCapEmerg meanWatts => Sys2Proof.Machine.execPwrCapEmerg meanWatts s
  | .pwrCap size value => Sys2Proof.Machine.execPwrCap size value s
  | .thermalSample r => Sys2Proof.Machine.execThermalSample r s
  | .energyRecord e => Sys2Proof.Machine.execEnergyRecord e s
  | .droopEpisode die => Sys2Proof.Machine.execDroopEpisode die s
  | .pwrPhaseFail rail phase => Sys2Proof.Machine.execPwrPhaseFail rail phase s
  | .coolLow => Sys2Proof.Machine.execCoolLow s
  | .coolLeak => Sys2Proof.Machine.execCoolLeak s
  | .leakGrace => Sys2Proof.Machine.execLeakGrace s
  | .failFacet facet => Sys2Proof.Machine.execFailFacet facet s
  | .clearFaults => Sys2Proof.Machine.execClearFaults s
  | .statusWord => Sys2Proof.Machine.execStatusWord s
  | .statusInput => Sys2Proof.Machine.execStatusInput s
  | .statusTemperature => Sys2Proof.Machine.execStatusTemperature s
  | .readVin => Sys2Proof.Machine.execReadVin s
  | .readIin milliAmps => Sys2Proof.Machine.execReadIin milliAmps s
  | .readPin => Sys2Proof.Machine.execReadPin s
  | .readTemperature1 => Sys2Proof.Machine.execReadTemperature1 s
  | .readTemperature2 => Sys2Proof.Machine.execReadTemperature2 s
  | .readTemperature3 => Sys2Proof.Machine.execReadTemperature3 s
  | .pmbusRevision => Sys2Proof.Machine.execPmbusRevision s
  | .mfrId => Sys2Proof.Machine.execMfrId s
  | .pmbusOtherCommand code => Sys2Proof.Machine.execPmbusOtherCommand code s
  | .smbReadIdCode => Sys2Proof.Machine.execSmbReadIdCode s
  | .smbReadIdSerial => Sys2Proof.Machine.execSmbReadIdSerial s
  | .smbReadBootStatus => Sys2Proof.Machine.execSmbReadBootStatus s
  | .smbReadTwinStatus => Sys2Proof.Machine.execSmbReadTwinStatus s
  | .smbReadLineStatus => Sys2Proof.Machine.execSmbReadLineStatus s
  | .smbOtherCommand code => Sys2Proof.Machine.execSmbOtherCommand code s
  | .inputOutOfRange => Sys2Proof.Machine.execInputOutOfRange s
  | .inputInRange milliVolts addr => Sys2Proof.Machine.execInputInRange milliVolts addr s
  | .wake cause confirmed => Sys2Proof.Machine.execWake cause confirmed s
  | .bootStepEnd ok failedSites => Sys2Proof.Machine.execBootStepEnd ok failedSites s
  | .resetN => Sys2Proof.Machine.execResetN s
  | .moduleReset => Sys2Proof.Machine.execModuleReset s
  | .jtagInstruction ir => Sys2Proof.Machine.execJtagInstruction ir s
  | .jtagRun value => Sys2Proof.Machine.execJtagRun value s
  | .wireTest site => Sys2Proof.Machine.execWireTest site s
  | .testDone failing loopbackFails time => Sys2Proof.Machine.execTestDone failing loopbackFails time s
  | .ucode site => Sys2Proof.Machine.execUcode site s
  | .ucodeLoadDone ok => Sys2Proof.Machine.execUcodeLoadDone ok s
  | .flashProg bank => Sys2Proof.Machine.execFlashProg bank s
  | .flashDone valid version accepts ucodeVer => Sys2Proof.Machine.execFlashDone valid version accepts ucodeVer s
  | .fwCommit bank => Sys2Proof.Machine.execFwCommit bank s
  | .pair => Sys2Proof.Machine.execPair s
  | .phaseUpdate => Sys2Proof.Machine.execPhaseUpdate s
  | .phaseUpdated failedPhases => Sys2Proof.Machine.execPhaseUpdated failedPhases s
  | .hbmRetrain facet channel => Sys2Proof.Machine.execHbmRetrain facet channel s
  | .spillFillDone facet => Sys2Proof.Machine.execSpillFillDone facet s
  | .rotationHandover group => Sys2Proof.Machine.execRotationHandover group s
  | .debtHoldEnd job => Sys2Proof.Machine.execDebtHoldEnd job s
  | .waveMiss job pipe user stage => Sys2Proof.Machine.execWaveMiss job pipe user stage s
  | .decodeStepComplete job pipe user => Sys2Proof.Machine.execDecodeStepComplete job pipe user s
  | .failingWire site edge group wire nearLoopbackFails farLoopbackFails => Sys2Proof.Machine.execFailingWire site edge group wire nearLoopbackFails farLoopbackFails s
  | .snapStreamRead job entry => Sys2Proof.Machine.execSnapStreamRead job entry s
  | .decodePosition job pipe user stage => Sys2Proof.Machine.execDecodePosition job pipe user stage s

end Sys2Proof.Machine
end

