-- ==== Sys2Proof/Machine/Views.lean ====
section
/-!
DEFINITION. Reads of the set-up window (R14–R17, R533): every read-only register of Tables 19.2–19.9 as a view of the
state, and the bytes that a read of the window returns.  A read changes nothing, so no command stands for it.
-/
namespace Sys2Proof.Machine

/-- Index of `off` in an array of `n` elements `stride` apart. -/
def idxOf (base stride n off : Nat) : Option Nat :=
  if base ≤ off ∧ (off - base) % stride = 0 ∧ (off - base) / stride < n then some ((off - base) / stride) else none

/-- Packs numbers `w` bits apart, the first lowest. -/
def packAt (w : Nat) (l : List Nat) : Nat := l.zipIdx.foldl (fun a (x, i) => a + x * 2 ^ (w * i)) 0

/-! ### Blocks -/

/-- ID_FW_STATUS (Table 17.7), 80 bits. -/
def fwStatus (m : Mach) : Nat :=
  let v (b : Nat) : Bool := (m.flash.banks[b]?.map (·.valid)).getD false
  let ver (b : Nat) : Nat := (m.flash.banks[b]?.map (·.version.toNat)).getD 0
  m.ctr.bank + 2 * b2n (v 0) + 4 * b2n (v 1) + 8 * b2n m.ctr.halted + 16 * b2n m.ctr.noImage + 2 ^ 16 * ver 0 + 2 ^ 48 * ver 1

/-- ID_ registers. -/
def viewId (m : Mach) (off : Nat) : Option Nat :=
  if off = 0x0 then some (idCode m)
  else if off = 0x10 then some m.flash.serial.toNat
  else if off = 0x18 then some (bootStatus m)
  else if off = 0x28 then some (fwStatus m % 2 ^ 64)
  else if off = 0x30 then some (fwStatus m / 2 ^ 64)
  else none

/-- TICK_NOW, TICK_SWEEP_NOW, TICK_PHASE_NOW and TICK_STATUS (Table 2.1, Table 19.2). -/
def viewTick (m : Mach) (off : Nat) : Option Nat :=
  let t := m.tick
  if off = 0x1078 then some t.tickNo
  else if off = 0x1080 then some t.sweepNo
  else if off = 0x1088 then some (t.phase + 8 * b2n t.inOvertime)
  else if off = 0x1090 then some (b2n t.running + 2 * b2n t.locked + 4 * b2n t.holdover + 8 * b2n t.refOk)
  else none

/-- PWR_ registers (Table 17.7). -/
def viewPwr (m : Mach) (off : Nat) : Option Nat :=
  if off = 0x2050 then some (m.power.inputW % 2 ^ 16 + 2 ^ 16 * (m.power.inputMv / 4))
  else if let some f := idxOf 0x2400 8 104 off then some (facetOf m f).point
  else if let some f := idxOf 0x2800 8 128 off then
    (if f < 104 then some (facetOf m f).temp else if f = 127 then some m.power.axisTemp else none)
  else if let some f := idxOf 0x2C00 8 128 off then
    (if f < 104 ∨ f = 127 then some (((m.power.droops.find? fun d => d.1 == f).map (·.2)).getD 0) else none)
  else none

/-- Kind byte and contents of the facet map's records (Table 18.5).  The places of the contents in bytes 1–15 are not
given: free values, log entry 3. -/
def fmapKinds (m : Mach) : List Nat :=
  m.flash.sites.map (fun _ => 1) ++ m.flash.wires.map (fun _ => 2) ++ m.flash.remaps.map (fun _ => 4)
    ++ m.flash.pprs.map (fun _ => 3) ++ m.flash.lanes.map (fun _ => 5) ++ m.flash.tests.map (fun _ => 6)

/-- Word `i` of TEST_FMAP (Table 18.4, R516): the header, then the records. -/
def fmapWord (m : Mach) (i : Nat) : Nat :=
  let seqNum := m.flash.copies.foldl (fun a c => if c.1 then max a c.2 else a) 0
  if i = 0 then 1 + 2 ^ 40 * m.flash.code + 2 ^ 48 * (fmapKinds m).length
  else if i = 1 then (Config.fmapBits 32 seqNum i).toNat + 2 ^ 32 * seqNum
  else if i = 2 then m.flash.serial.toNat
  else if i = 3 then m.flash.twinSerial.toNat
  else if i < 8 then 0
  else
    let r := (i - 8) / 2
    if (fmapKinds m).length ≤ r then 0
    else if i % 2 = 0 then (fmapKinds m).getD r 0 + 2 ^ 8 * (Config.fmapBits 56 seqNum i).toNat
    else (Config.fmapBits 64 seqNum i).toNat

/-- TEST_ and TWIN_ registers (Tables 12.9, 18.8). -/
def viewTest (m : Mach) (off : Nat) : Option Nat :=
  if off = 0x3010 then some (b2n m.test.busy + 2 ^ 4 * m.test.op + 2 ^ 8 * m.test.result)
  else if let some s := idxOf 0x3400 8 104 off then some ((m.flash.sites[s]?.map (·.ucode)).getD 0)
  else if off = 0x4018 then some (twinStatus m)
  else if let some i := idxOf 0x100000 8 32768 off then some (fmapWord m i)
  else none

/-- HOST_ registers (Table 19.3). -/
def viewHost (m : Mach) (off : Nat) : Option Nat :=
  if off = 0x10068 then some m.host.evt.dropped
  else if off = 0x10070 then some m.host.stat.dropped
  else if let some e := idxOf 0x10078 8 2 off then some (sat32 (epOf m e).latMax)
  else if let some n := idxOf 0x11020 0x40 32 off then
    let r := ringOf m n
    some (r.cons.toNat + 2 ^ 32 * b2n r.idle + 2 ^ 33 * b2n r.halted + 2 ^ 36 * r.cause)
  else none

/-- JOB_STATUS, JOB_DEBT and JOB_SUSP_TICKS (Table 13.1). -/
def viewJob (m : Mach) (off : Nat) : Option Nat :=
  if let some j := idxOf 0x20008 0x800 16 off then
    let x := jobOf m j
    some (b2n x.admitted + 2 * b2n x.suspended + 4 * b2n x.guaranteed + 8 * b2n x.releasing)
  else if let some j := idxOf 0x20010 0x800 16 off then some (sat32 (jobOf m j).debt)
  else if let some j := idxOf 0x20018 0x800 16 off then some (sat32 (jobOf m j).suspTicks)
  else none

/-- PIPE_, MAP_ and VER_ registers (Tables 4.16, 5.14). -/
def viewPipe (m : Mach) (off : Nat) : Option Nat :=
  if let some j := idxOf 0x30100 8 16 off then some (packAt 9 ((jobOf m j).pipes.map fun p => p.queue.length))
  else if 0x30200 ≤ off ∧ off < 0x30400 ∧ off % 0x20 < 0x18 ∧ off % 8 = 0 then
    let j := (off - 0x30200) / 0x20
    let k := off % 0x20 / 8 * 2
    let idAt (k : Nat) : Nat := (((jobOf m j).maps.getD k none).map (·.mapId)).getD 0
    some (idAt k + 2 ^ 32 * idAt (k + 1))
  else if let some j := idxOf 0x40200 8 16 off then
    let ps := (jobOf m j).pipes
    some (packAt 8 (ps.map fun p => p.pub.getD 0) + 2 ^ 32 * packAt 1 (ps.map fun p => b2n p.pub.isSome))
  else if let some i := idxOf 0x41000 8 256 off then
    match (pipeOf m (i / 16) (i / 4 % 4)).rows.getD (i % 4) none with
    | some r => some (r.vtag + 2 ^ 8 * r.state + 2 ^ 11 * b2n r.hold + 2 ^ 16 * r.live)
    | none => some 0
  else none

/-- UPD_ registers (Table 10.12). -/
def viewUpd (m : Mach) (off : Nat) : Option Nat :=
  if 0x51000 ≤ off ∧ off < 0x52000 ∧ off % 8 = 0 then
    let x := pipeOf m ((off - 0x51000) / 0x100) (off % 0x100 / 0x40)
    let k := off % 0x40
    if k = 0 then some x.step
    else if k = 0x8 then some x.skipped
    else if k = 0x10 then some x.poisoned
    else if k = 0x18 then some x.zeroed
    else if k = 0x20 then some x.flags
    else none
  else none

/-- Scaled tensors of a job that are cold: those that a FOLD_SETUP has declared in BLK8 format (Table 7.6, R234, R237). -/
def coldCount (m : Mach) (j : Nat) : Nat := ((jobOf m j).amax.filter fun a => isCold m j a.tensor).length

/-- FOLD_ registers (Table 11.11, Table 7.6). -/
def viewFold (m : Mach) (off : Nat) : Option Nat :=
  if let some c := idxOf 0x60200 8 32 off then
    let x := chanOf m c
    some (b2n x.en + 2 ^ 4 * x.topo + 2 ^ 6 * b2n x.ordered + 2 ^ 7 * x.fmt + 2 ^ 9 * x.pipe + 2 ^ 11 * x.job
      + 2 ^ 16 * x.cur + 2 ^ 31 * b2n x.closed)
  else if let some c := idxOf 0x60300 8 32 off then some (sat32 (chanOf m c).widened)
  else if let some i := idxOf 0x60400 8 64 off then some (pipeOf m (i / 4) (i % 4)).foldLoss.toNat
  else if let some j := idxOf 0x60600 8 16 off then some (coldCount m j)
  else none

/-- SNAP_ registers (Table 12.9). -/
def viewSnap (m : Mach) (off : Nat) : Option Nat :=
  if off = 0x70048 then some (m.power.score + 2 ^ 10 * packAt 10 m.power.terms)
  else if let some j := idxOf 0x70180 8 16 off then
    let x := snapOf m j
    some (b2n x.armed + 2 * b2n (x.armed && leads m j) + 4 * b2n x.cut.isSome + 8 * x.gens.length + 2 ^ 16 * x.score)
  else if let some j := idxOf 0x70200 8 16 off then some (snapOf m j).next
  else if let some i := idxOf 0x70400 8 64 off then
    let gs := (snapOf m (i / 4)).gens.reverse
    match gs[i / 2 % 2]? with
    | some g => some (if i % 2 = 0 then g.gen else g.commit)
    | none => some 0
  else if let some i := idxOf 0x70600 8 128 off then
    match (snapOf m (i / 8)).cursors.getD (i / 2 % 4) none with
    | some c => some (if i % 2 = 0 then c.1.toNat else c.2)
    | none => some (if i % 2 = 0 then 0 else 2 ^ 24)
  else none

/-- Mask of numbers as bits. -/
def maskBits (l : List Nat) : Nat := (l.eraseDups.map fun n => 2 ^ n).foldl (· + ·) 0

/-- LINK_ registers of one link, at offset `k` of its block (Table 14.10). -/
def viewLink (m : Mach) (l k : Nat) : Option Nat :=
  let x := linkOf m l
  if k = 0x10 then
    some (x.state + 2 ^ 2 * x.width + 2 ^ 6 * maskBits ((m.flash.lanes.filter fun e => e.1 == l).map (·.2))
      + 2 ^ 14 * maskBits (x.retraining.toList) + 2 ^ 22 * x.farModule + 2 ^ 34 * x.farLink)
  else if k = 0x18 then some (sat32 x.rtt)
  else if k = 0x20 then some (sat32 x.lat)
  else if k = 0x28 then some x.cntCorr
  else if k = 0x30 then some x.cntUncorr
  else if k = 0x38 then some x.cntReplay
  else if k = 0x40 then some x.cntDown
  else if k = 0x48 then some x.cntVc
  else if let some n := idxOf 0x80 8 8 k then some (x.cntSym.getD n 0)
  else none

/-- MEM_ registers (Table 15.5).  The move pointer follows the progress of the move, which the spec ties to no instant:
a free value, log entry 3. -/
def viewMem (m : Mach) (off : Nat) : Option Nat :=
  if 0x90100 ≤ off ∧ off < 0x90200 ∧ off % 0x20 < 0x18 ∧ off % 8 = 0 then
    let row := (off - 0x90100) / 0x20
    let entry (c : Nat) : Nat :=
      match m.flash.remaps.find? fun r => r.2.2.1 == row && r.2.2.2 == c with
      | some r => 2 ^ 11 + 2 ^ 4 * r.1 + r.2.1
      | none => 0
    some (packAt 12 ((List.range 16).map entry) / 2 ^ (8 * (off % 0x20)) % 2 ^ 64)
  else if let some f := idxOf 0x93000 8 104 off then
    let gone := maskBits ((m.flash.remaps.filter fun r => r.1 == f).map (·.2.1))
    match (facetOf m f).moves.find? (·.2) with
    | some (.rekey r _ _, _) => some (1 + 2 ^ 2 * r + 2 ^ 8 * (freeVal m 24).toNat + 2 ^ 32 * gone)
    | some (.channel _ _, _) => some (3 + 2 ^ 8 * (freeVal m 24).toNat + 2 ^ 32 * gone)
    | none => some (2 ^ 32 * gone)
  else if let some f := idxOf 0x93400 8 104 off then some (facetOf m f).cntCe
  else if let some f := idxOf 0x93800 8 104 off then some (facetOf m f).cntUe
  else none

/-- FOC_STACK of a core (Table 16.5). -/
def stackWord (x : CoreFocus) : Nat :=
  x.stack.length + 2 ^ 5 * b2n x.frozen
    + match topPrio x with
      | some p => 2 ^ 8 * p
      | none => 2 ^ 8 * 0xF + 2 ^ 12

/-- FOC_ registers of BAR0 (Table 16.5). -/
def viewFoc (m : Mach) (off : Nat) : Option Nat :=
  if off = 0xA0008 then some (lineStatus m)
  else if off = 0xA0010 then some m.focus.dropped
  else if off = 0xA0018 then some m.focus.hostOff
  else if let some c := idxOf 0xA0400 8 16 off then some (stackWord (coreOf m c))
  else if let some c := idxOf 0xA0480 8 16 off then some (coreOf m c).dropped
  else if let some c := idxOf 0xA0500 8 16 off then some (coreOf m c).stackDrop
  else none

/-- FOC_CLAIMED of a core's focus window (Table 16.5, R478). -/
def claimedWord (x : CoreFocus) : Nat :=
  match x.claimed with
  | some r => 2 ^ 63 + 2 ^ 16 * r.source + r.prio
  | none => 0

/-- The read-only word at an aligned offset, if there is one. -/
def viewWord (m : Mach) (off : Nat) : Option Nat :=
  if off < 0x1000 then viewId m off
  else if off < 0x2000 then viewTick m off
  else if off < 0x3000 then viewPwr m off
  else if off < 0x10000 then viewTest m off
  else if off < 0x20000 then viewHost m off
  else if off < 0x30000 then viewJob m off
  else if off < 0x50000 then viewPipe m off
  else if off < 0x60000 then viewUpd m off
  else if off < 0x70000 then viewFold m off
  else if off < 0x80000 then viewSnap m off
  else if off < 0x82400 then viewLink m ((off - 0x80000) / 0x100) (off % 0x100)
  else if off < 0x90000 then none
  else if off < 0xA0000 then viewMem m off
  else if off < 0x100000 then viewFoc m off
  else viewTest m off

/-- What a follower returns for the registers of the timing set: its master's values in effect (R47). -/
def followedWord (m : Mach) (off : Nat) : Option Nat :=
  if !following m then none
  else
    let t := timing m
    (timingOffs.zip [t.period, t.sweepLen, t.fill, t.steady, t.drain, t.fold, t.update, t.grace]).lookup off

/-- The word that a read of the aligned offset returns: a follower's timing, a view, 0 for a write-only register and a reserved address, the
value in effect otherwise. -/
def readWord (m : Mach) (off : Nat) : Word :=
  match regFind off with
  | some r => if r.acc = .wo then 0 else (followedWord m off).elim (regGet m off) word
  | none => word ((viewWord m off).getD 0)

/-- The bytes of a read through BAR0 (R533): zeros for an access that the window does not take, and before READY for every
register but those of the ID_ block (R512). -/
def readBar (m : Mach) (off size : Nat) : List Byte :=
  if accessBad false off size || (m.boot.state != 3 && decide (0x1000 ≤ off)) then List.replicate size 0
  else (List.range size).map fun i => (leBytes 8 (readWord m ((off + i) / 8 * 8)).toNat).getD ((off + i) % 8) 0

end Sys2Proof.Machine
end

