-- ==== Sys2Proof/WellFormed.lean ====
section
/-!
DEFINITION. Which commands name units that the module has: command rings 0–31, the event, statistics and snapshot rings
32–34 (Table 3.1), endpoints 0 and 1 (R73), jobs 0–15, pipelines 0–3 (R103), logical facets 0–95 and all 104 dies
(Table 0.3), stage contexts 0–3, strands 0–16,383 (R266), chords 0–1,023 (R110), fold channels 0–31, links 0–35, lanes
0–7, focus groups 0–63, cores 0–15, lines 0–11, sites 0–103, modules 0–4,095 (R35), HBM channels 0–15, banks 0 and 1.
A command that names no such unit cannot be sent; the machine answers it with the state as it was.
-/
namespace Sys2Proof

/-- Every unit that the command names exists. -/
def Instr.wf : Instr → Bool
  | .registerWrite w => decide (w.ep < 2)
  | .setupBadAccess _ _ _ => true
  | .w1cClear r _ _ => decide (r < 14)
  | .jobKey job _ _ _ => decide (job < 16)
  | .idModuleNum _ _ => true
  | .tickRole _ => true
  | .tickUplink _ => true
  | .start _ => true
  | .stop => true
  | .latClr => true
  | .ringEnable ring _ => decide (ring < 35)
  | .ringDisable ring _ => decide (ring < 35)
  | .ringPort ring port => decide (ring < 35 ∧ port < 2)
  | .dbPoll => true
  | .doorbellReadDone ep _ => decide (ep < 2)
  | .descriptorFetch ring _ => decide (ring < 32)
  | .heldCompletionWrite ring => decide (ring < 32)
  | .coalesceTimeout ring => decide (ring < 34)
  | .msixUnmask ep vector => decide (ep < 2 ∧ vector < 64)
  | .portDown ep => decide (ep < 2)
  | .endpointReset ep _ => decide (ep < 2)
  | .nop d => decide (d.ring < 32)
  | .setField d => decide (d.ring < 32)
  | .copy d => decide (d.ring < 32)
  | .copyDone ring _ _ => decide (ring < 32)
  | .mapLoad d => decide (d.ring < 32)
  | .schedLoad d => decide (d.ring < 32)
  | .mbAdmit d => decide (d.ring < 32)
  | .verBuildAlloc d => decide (d.ring < 32)
  | .verBuildSeal d => decide (d.ring < 32)
  | .verBuildFree d => decide (d.ring < 32)
  | .crcReadDone facet sc entry => decide (facet < 104 ∧ sc < 4 ∧ entry < 4)
  | .verPublish d => decide (d.ring < 32)
  | .modelLoad d => decide (d.ring < 32)
  | .modelLoadDone ring _ => decide (ring < 32)
  | .progLoad d => decide (d.ring < 32)
  | .progLoadFree d => decide (d.ring < 32)
  | .foldSetup d => decide (d.ring < 32)
  | .updateSetup d => decide (d.ring < 32)
  | .actPolicy d => decide (d.ring < 32)
  | .snapTakeCut d => decide (d.ring < 32)
  | .snapTakeArm d => decide (d.ring < 32)
  | .snapTakeDisarm d => decide (d.ring < 32)
  | .snapRestore d => decide (d.ring < 32)
  | .jobAdmit d => decide (d.ring < 32)
  | .jobRelease d => decide (d.ring < 32)
  | .switchIn d => decide (d.ring < 32)
  | .yieldJob d => decide (d.ring < 32)
  | .rolloutCfg d => decide (d.ring < 32)
  | .tickEdge _ _ => true
  | .tickSymbolSend => true
  | .tickSymbol link _ => decide (link < 36)
  | .tickHoldover => true
  | .tickRefPulse _ => true
  | .tickRefLost => true
  | .sweepStateReport link _ _ => decide (link < 36)
  | .slotComplete facet sc => decide (facet < 96 ∧ sc < 4)
  | .chordWrite facet _ _ _ => decide (facet < 96)
  | .waveDeadline facet sc dir => decide (facet < 96 ∧ sc < 4 ∧ dir < 2)
  | .credit chord _ => decide (chord < 1024)
  | .creditTimeout chord => decide (chord < 1024)
  | .chordCheck chord _ _ _ _ => decide (chord < 1024)
  | .chordLoss chord _ _ _ => decide (chord < 1024)
  | .mbLost job pipe _ => decide (job < 16 ∧ pipe < 4)
  | .rebalCopyDone job pipe => decide (job < 16 ∧ pipe < 4)
  | .verQuery _ job pipe _ _ => decide (job < 16 ∧ pipe < 4)
  | .verReply _ job pipe _ _ _ => decide (job < 16 ∧ pipe < 4)
  | .verSwitch job pipe _ _ _ _ => decide (job < 16 ∧ pipe < 4)
  | .verLastUnit job pipe _ _ => decide (job < 16 ∧ pipe < 4)
  | .verRetire job pipe _ _ => decide (job < 16 ∧ pipe < 4)
  | .load link _ _ => decide (link ≤ 36)
  | .loadOrphan link => decide (link < 36)
  | .prismCommand facet sc => decide (facet < 96 ∧ sc < 4)
  | .prismComplete facet prism => decide (facet < 96 ∧ prism < 4)
  | .rayCommand facet sc => decide (facet < 96 ∧ sc < 4)
  | .rayComplete facet => decide (facet < 96)
  | .strandLaunch facet sc => decide (facet < 96 ∧ sc < 4)
  | .strandStart facet _ => decide (facet < 96)
  | .groupEnd facet _ => decide (facet < 96)
  | .strandNop facet strand => decide (facet < 96 ∧ strand < 16384)
  | .halt facet strand => decide (facet < 96 ∧ strand < 16384)
  | .strandIntegerOp facet strand => decide (facet < 96 ∧ strand < 16384)
  | .strandFloatOp facet strand => decide (facet < 96 ∧ strand < 16384)
  | .fcvt facet strand => decide (facet < 96 ∧ strand < 16384)
  | .fcmp facet strand => decide (facet < 96 ∧ strand < 16384)
  | .strandBranch facet strand => decide (facet < 96 ∧ strand < 16384)
  | .ldl facet strand => decide (facet < 96 ∧ strand < 16384)
  | .stl facet strand => decide (facet < 96 ∧ strand < 16384)
  | .get facet strand => decide (facet < 96 ∧ strand < 16384)
  | .put facet strand => decide (facet < 96 ∧ strand < 16384)
  | .getb facet strand => decide (facet < 96 ∧ strand < 16384)
  | .putb facet strand => decide (facet < 96 ∧ strand < 16384)
  | .atom facet strand => decide (facet < 96 ∧ strand < 16384)
  | .red facet strand => decide (facet < 96 ∧ strand < 16384)
  | .tadd facet strand => decide (facet < 96 ∧ strand < 16384)
  | .tread facet strand => decide (facet < 96 ∧ strand < 16384)
  | .twait facet strand => decide (facet < 96 ∧ strand < 16384)
  | .bar facet strand => decide (facet < 96 ∧ strand < 16384)
  | .fence facet strand => decide (facet < 96 ∧ strand < 16384)
  | .tallyWait facet sc => decide (facet < 96 ∧ sc < 4)
  | .tallyAdd facet sc => decide (facet < 96 ∧ sc < 4)
  | .remoteCopy facet sc => decide (facet < 96 ∧ sc < 4)
  | .barrierArrive facet sc => decide (facet < 96 ∧ sc < 4)
  | .fenceRecord facet sc => decide (facet < 96 ∧ sc < 4)
  | .tallyTimeout facet _ _ => decide (facet < 96)
  | .req _ _ => true
  | .resp _ _ => true
  | .tally _ _ _ _ _ => true
  | .remoteTimeout _ => true
  | .gradAcc facet sc => decide (facet < 96 ∧ sc < 4)
  | .gradAccComplete facet => decide (facet < 96)
  | .foldSeg _ chan _ _ _ _ _ => decide (chan < 32)
  | .foldLayerDone chan => decide (chan < 32)
  | .foldStall chan => decide (chan < 32)
  | .foldCheck link chan _ => decide (link < 36 ∧ chan < 32)
  | .foldTotals _ job pipe _ _ _ _ => decide (job < 16 ∧ pipe < 4)
  | .updReport _ job pipe _ _ _ => decide (job < 16 ∧ pipe < 4)
  | .stepVerdict job pipe => decide (job < 16 ∧ pipe < 4)
  | .updValues job pipe _ => decide (job < 16 ∧ pipe < 4)
  | .updateStart facet sc => decide (facet < 96 ∧ sc < 4)
  | .updateComplete facet sc => decide (facet < 96 ∧ sc < 4)
  | .steer job pipe _ _ => decide (job < 16 ∧ pipe < 4)
  | .actPrefetchDone facet sc _ _ => decide (facet < 96 ∧ sc < 4)
  | .actWriteoutDone facet sc _ _ => decide (facet < 96 ∧ sc < 4)
  | .snapCheck src job _ => decide (src < 4096 ∧ job < 16)
  | .snapPolicyDecision job => decide (job < 16)
  | .snapCut job _ => decide (job < 16)
  | .shard src job _ _ _ _ _ => decide (src < 4096 ∧ job < 16)
  | .shardAck src job _ _ _ => decide (src < 4096 ∧ job < 16)
  | .snapDone src job _ => decide (src < 4096 ∧ job < 16)
  | .snapCommit src job _ _ _ _ => decide (src < 4096 ∧ job < 16)
  | .snapRingTimeout job => decide (job < 16)
  | .snapGens src job _ => decide (src < 4096 ∧ job < 16)
  | .snapChoice job _ _ => decide (job < 16)
  | .snapManifests src job _ _ => decide (src < 4096 ∧ job < 16)
  | .snapRestored job _ _ _ => decide (job < 16)
  | .facetFail facet => decide (facet < 96)
  | .shiftCopyDone row => decide (row < 8)
  | .heartbeatSend => true
  | .heartbeat link _ => decide (link < 36)
  | .twinFailSensed => true
  | .twinLost => true
  | .detach => true
  | .unfreeze => true
  | .twinLeaseExp _ => true
  | .twinLinks _ => true
  | .linkFrame link _ => decide (link < 36)
  | .linkReplayTimeout link => decide (link < 36)
  | .linkDown link => decide (link < 36)
  | .linkFlush link => decide (link < 36)
  | .linkTrainRetry link _ _ => decide (link < 36)
  | .linkUp link _ _ _ => decide (link < 36)
  | .linkHello link _ _ _ _ _ _ => decide (link < 36)
  | .retrainAll link => decide (link < 36)
  | .retrainLane link lane => decide (link < 36 ∧ lane < 8)
  | .clrCnt link => decide (link < 36)
  | .clrRetired link => decide (link < 36)
  | .laneFecThreshold link lane _ => decide (link < 36 ∧ lane < 8)
  | .laneRetrainDone link lane _ => decide (link < 36 ∧ lane < 8)
  | .laneLockLoss link lane => decide (link < 36 ∧ lane < 8)
  | .opticsRemoved link => decide (link < 36)
  | .opticsInserted link => decide (link < 36)
  | .retire facet channel => decide (facet < 128 ∧ channel < 16)
  | .memRetired facet _ => decide (facet < 96)
  | .memRekeyed facet => decide (facet < 96)
  | .imbalance facet channel _ _ => decide (facet < 104 ∧ channel < 16)
  | .scrubPass facet corrected uncorrectable => decide (facet < 104) && (corrected ++ uncorrectable).all fun u => decide (u.1 < 2)
  | .periodicRetrain facet channel _ => decide (facet < 104 ∧ channel < 16)
  | .focusRelease => true
  | .holdoffExpiry group => decide (group < 64)
  | .focRaise core _ _ _ => decide (core < 16)
  | .focClaim core => decide (core < 16)
  | .focComplete core _ => decide (core < 16)
  | .focStackRst core => decide (core < 16)
  | .lineAsserted line => decide (line < 12)
  | .lineDeasserted line => decide (line < 12)
  | .standbyLineLatch line _ => decide (line < 12)
  | .ctrCoreReset core => decide (core < 16)
  | .idFwCtl _ => true
  | .dvfsRampEnd facet => decide (facet < 104)
  | .pwrCapEmerg _ => true
  | .pwrCap size _ => decide (size = 4 ∨ size = 8)
  | .thermalSample _ => true
  | .energyRecord _ => true
  | .droopEpisode die => decide (die < 104 ∨ die = 127)
  | .pwrPhaseFail _ _ => true
  | .coolLow => true
  | .coolLeak => true
  | .leakGrace => true
  | .failFacet facet => decide (facet < 128)
  | .clearFaults => true
  | .statusWord => true
  | .statusInput => true
  | .statusTemperature => true
  | .readVin => true
  | .readIin _ => true
  | .readPin => true
  | .readTemperature1 => true
  | .readTemperature2 => true
  | .readTemperature3 => true
  | .pmbusRevision => true
  | .mfrId => true
  | .pmbusOtherCommand _ => true
  | .smbReadIdCode => true
  | .smbReadIdSerial => true
  | .smbReadBootStatus => true
  | .smbReadTwinStatus => true
  | .smbReadLineStatus => true
  | .smbOtherCommand _ => true
  | .inputOutOfRange => true
  | .inputInRange _ _ => true
  | .wake _ _ => true
  | .bootStepEnd _ _ => true
  | .resetN => true
  | .moduleReset => true
  | .jtagInstruction _ => true
  | .jtagRun _ => true
  | .wireTest site => decide (site < 104)
  | .testDone _ _ _ => true
  | .ucode site => decide (site < 104)
  | .ucodeLoadDone _ => true
  | .flashProg bank => decide (bank < 2)
  | .flashDone _ _ _ _ => true
  | .fwCommit bank => decide (bank < 2)
  | .pair => true
  | .phaseUpdate => true
  | .phaseUpdated _ => true
  | .hbmRetrain facet channel => decide (facet < 104 ∧ channel < 16)
  | .spillFillDone facet => decide (facet < 96)
  | .rotationHandover group => decide (group < 16)
  | .debtHoldEnd job => decide (job < 16)
  | .waveMiss job pipe user _ => decide (job < 16 ∧ pipe < 4 ∧ user < 255)
  | .decodeStepComplete job pipe user => decide (job < 16 ∧ pipe < 4 ∧ user < 255)
  | .failingWire site edge _ _ _ _ => decide (site < 104 ∧ edge < 7)
  | .snapStreamRead job _ => decide (job < 16)
  | .decodePosition job pipe user _ => decide (job < 16 ∧ pipe < 4 ∧ user < 255)

end Sys2Proof
end

