-- ==== Sys2Proof/Safety.lean ====
section
/-!
DEFINITION. The terms in which claims speak of a run: the READY state, the commands that the always-on domain takes, a
queue of well-formed commands, and a run that does not stop.
-/
namespace Sys2Proof.Machine

/-- The module is READY (Table 18.1). -/
abbrev Ready (s : State) : Prop := s.m.boot.state = 3

/-- Commands that units outside the READY-only domain take: the power states, resets and boot (R507–R511), the TAP
(R517), the external lines with their latches (R482–R485), and the management targets (R504–R506, R549–R552). -/
def alwaysOn : Instr → Bool
  | .registerWrite _ => false
  | .setupBadAccess _ _ _ => false
  | .w1cClear _ _ _ => false
  | .jobKey _ _ _ _ => false
  | .idModuleNum _ _ => false
  | .tickRole _ => false
  | .tickUplink _ => false
  | .start _ => false
  | .stop => false
  | .latClr => false
  | .ringEnable _ _ => false
  | .ringDisable _ _ => false
  | .ringPort _ _ => false
  | .dbPoll => false
  | .doorbellReadDone _ _ => false
  | .descriptorFetch _ _ => false
  | .heldCompletionWrite _ => false
  | .coalesceTimeout _ => false
  | .msixUnmask _ _ => false
  | .portDown _ => false
  | .endpointReset _ _ => false
  | .nop _ => false
  | .setField _ => false
  | .copy _ => false
  | .copyDone _ _ _ => false
  | .mapLoad _ => false
  | .schedLoad _ => false
  | .mbAdmit _ => false
  | .verBuildAlloc _ => false
  | .verBuildSeal _ => false
  | .verBuildFree _ => false
  | .crcReadDone _ _ _ => false
  | .verPublish _ => false
  | .modelLoad _ => false
  | .modelLoadDone _ _ => false
  | .progLoad _ => false
  | .progLoadFree _ => false
  | .foldSetup _ => false
  | .updateSetup _ => false
  | .actPolicy _ => false
  | .snapTakeCut _ => false
  | .snapTakeArm _ => false
  | .snapTakeDisarm _ => false
  | .snapRestore _ => false
  | .jobAdmit _ => false
  | .jobRelease _ => false
  | .switchIn _ => false
  | .yieldJob _ => false
  | .rolloutCfg _ => false
  | .tickEdge _ _ => false
  | .tickSymbolSend => false
  | .tickSymbol _ _ => false
  | .tickHoldover => false
  | .tickRefPulse _ => false
  | .tickRefLost => false
  | .sweepStateReport _ _ _ => false
  | .slotComplete _ _ => false
  | .chordWrite _ _ _ _ => false
  | .waveDeadline _ _ _ => false
  | .credit _ _ => false
  | .creditTimeout _ => false
  | .chordCheck _ _ _ _ _ => false
  | .chordLoss _ _ _ _ => false
  | .mbLost _ _ _ => false
  | .rebalCopyDone _ _ => false
  | .verQuery _ _ _ _ _ => false
  | .verReply _ _ _ _ _ _ => false
  | .verSwitch _ _ _ _ _ _ => false
  | .verLastUnit _ _ _ _ => false
  | .verRetire _ _ _ _ => false
  | .load _ _ _ => false
  | .loadOrphan _ => false
  | .prismCommand _ _ => false
  | .prismComplete _ _ => false
  | .rayCommand _ _ => false
  | .rayComplete _ => false
  | .strandLaunch _ _ => false
  | .strandStart _ _ => false
  | .groupEnd _ _ => false
  | .strandNop _ _ => false
  | .halt _ _ => false
  | .strandIntegerOp _ _ => false
  | .strandFloatOp _ _ => false
  | .fcvt _ _ => false
  | .fcmp _ _ => false
  | .strandBranch _ _ => false
  | .ldl _ _ => false
  | .stl _ _ => false
  | .get _ _ => false
  | .put _ _ => false
  | .getb _ _ => false
  | .putb _ _ => false
  | .atom _ _ => false
  | .red _ _ => false
  | .tadd _ _ => false
  | .tread _ _ => false
  | .twait _ _ => false
  | .bar _ _ => false
  | .fence _ _ => false
  | .tallyWait _ _ => false
  | .tallyAdd _ _ => false
  | .remoteCopy _ _ => false
  | .barrierArrive _ _ => false
  | .fenceRecord _ _ => false
  | .tallyTimeout _ _ _ => false
  | .req _ _ => false
  | .resp _ _ => false
  | .tally _ _ _ _ _ => false
  | .remoteTimeout _ => false
  | .gradAcc _ _ => false
  | .gradAccComplete _ => false
  | .foldSeg _ _ _ _ _ _ _ => false
  | .foldLayerDone _ => false
  | .foldStall _ => false
  | .foldCheck _ _ _ => false
  | .foldTotals _ _ _ _ _ _ _ => false
  | .updReport _ _ _ _ _ _ => false
  | .stepVerdict _ _ => false
  | .updValues _ _ _ => false
  | .updateStart _ _ => false
  | .updateComplete _ _ => false
  | .steer _ _ _ _ => false
  | .actPrefetchDone _ _ _ _ => false
  | .actWriteoutDone _ _ _ _ => false
  | .snapCheck _ _ _ => false
  | .snapPolicyDecision _ => false
  | .snapCut _ _ => false
  | .shard _ _ _ _ _ _ _ => false
  | .shardAck _ _ _ _ _ => false
  | .snapDone _ _ _ => false
  | .snapCommit _ _ _ _ _ _ => false
  | .snapRingTimeout _ => false
  | .snapGens _ _ _ => false
  | .snapChoice _ _ _ => false
  | .snapManifests _ _ _ _ => false
  | .snapRestored _ _ _ _ => false
  | .facetFail _ => false
  | .shiftCopyDone _ => false
  | .heartbeatSend => false
  | .heartbeat _ _ => false
  | .twinFailSensed => false
  | .twinLost => false
  | .detach => false
  | .unfreeze => false
  | .twinLeaseExp _ => false
  | .twinLinks _ => false
  | .linkFrame _ _ => false
  | .linkReplayTimeout _ => false
  | .linkDown _ => false
  | .linkFlush _ => false
  | .linkTrainRetry _ _ _ => false
  | .linkUp _ _ _ _ => false
  | .linkHello _ _ _ _ _ _ _ => false
  | .retrainAll _ => false
  | .retrainLane _ _ => false
  | .clrCnt _ => false
  | .clrRetired _ => false
  | .laneFecThreshold _ _ _ => false
  | .laneRetrainDone _ _ _ => false
  | .laneLockLoss _ _ => false
  | .opticsRemoved _ => false
  | .opticsInserted _ => false
  | .retire _ _ => false
  | .memRetired _ _ => false
  | .memRekeyed _ => false
  | .imbalance _ _ _ _ => false
  | .scrubPass _ _ _ => false
  | .periodicRetrain _ _ _ => false
  | .focusRelease => false
  | .holdoffExpiry _ => false
  | .focRaise _ _ _ _ => false
  | .focClaim _ => false
  | .focComplete _ _ => false
  | .focStackRst _ => false
  | .lineAsserted _ => true
  | .lineDeasserted _ => true
  | .standbyLineLatch _ _ => true
  | .ctrCoreReset _ => false
  | .idFwCtl _ => false
  | .dvfsRampEnd _ => false
  | .pwrCapEmerg _ => false
  | .pwrCap _ _ => false
  | .thermalSample _ => false
  | .energyRecord _ => false
  | .droopEpisode _ => false
  | .pwrPhaseFail _ _ => false
  | .coolLow => false
  | .coolLeak => false
  | .leakGrace => false
  | .failFacet _ => false
  | .clearFaults => true
  | .statusWord => true
  | .statusInput => true
  | .statusTemperature => true
  | .readVin => true
  | .readIin _ => true
  | .readPin => true
  | .readTemperature1 => true
  | .readTemperature2 => true
  | .readTemperature3 => true
  | .pmbusRevision => true
  | .mfrId => true
  | .pmbusOtherCommand _ => true
  | .smbReadIdCode => true
  | .smbReadIdSerial => true
  | .smbReadBootStatus => true
  | .smbReadTwinStatus => true
  | .smbReadLineStatus => true
  | .smbOtherCommand _ => true
  | .inputOutOfRange => true
  | .inputInRange _ _ => true
  | .wake _ _ => true
  | .bootStepEnd _ _ => true
  | .resetN => true
  | .moduleReset => false
  | .jtagInstruction _ => true
  | .jtagRun _ => false
  | .wireTest _ => false
  | .testDone _ _ _ => false
  | .ucode _ => false
  | .ucodeLoadDone _ => false
  | .flashProg _ => false
  | .flashDone _ _ _ _ => false
  | .fwCommit _ => false
  | .pair => false
  | .phaseUpdate => false
  | .phaseUpdated _ => false
  | .hbmRetrain _ _ => false
  | .spillFillDone _ => false
  | .rotationHandover _ => false
  | .debtHoldEnd _ => false
  | .waveMiss _ _ _ _ => false
  | .decodeStepComplete _ _ _ => false
  | .failingWire _ _ _ _ _ _ => false
  | .snapStreamRead _ _ => false
  | .decodePosition _ _ _ _ => false

/-- Every waiting command names units that exist. -/
abbrev QueueWf (s : State) : Prop := ∀ c ∈ s.pending, c.wf = true

/-- Every waiting command needs a READY module. -/
abbrev QueueGated (s : State) : Prop := ∀ c ∈ s.pending, alwaysOn c = false

/-- A safe run: no number of steps ends in a fault or a refusal. -/
def Safe (s : State) : Prop := ∀ k, ∃ s', Host.Core.run Sys2Proof.core k s = .next s'

/-- Keys of uncorrectable units are the first keys of such units (R459, R460). -/
abbrev UeAligned (m : Mach) : Prop := ∀ u ∈ m.ue, unitBase u = u

/-- Keys of a sparse map strictly rise. -/
def kvRise {α : Type} : List (Nat × α) → Bool
  | [] => true
  | (k, _) :: t => kvFrom (k + 1) t && kvRise t

/-- The words in effect stand in canonical form: offsets strictly rise and no word is the reset value of its offset. -/
abbrev RegsWf (m : Mach) : Prop := kvRise m.regs = true ∧ ∀ e ∈ m.regs, e.2 ≠ regReset e.1

/-- Memory and tallies stand in canonical form. -/
abbrev Canonical (m : Mach) : Prop := Memory.wf m.mem = true ∧ kvWf (0 : W32) m.tallies = true

/-- A strand stands before an instruction word that it can execute now: it waits for nothing, its facet works, no
register of the word awaits a reply (R277), and its group's STEPS are not used up (R270). -/
abbrev StrandAt (m : Mach) (f i : Nat) (a : Strand) (g : Group) (w : Word) : Prop :=
  strandOf m f i = some a ∧ launchGroup m f a.group = some g ∧ g.prog[a.pc]? = some w ∧
  (a.wait = .run ∨ a.wait = .blocked) ∧ (facetOf m f).failed = false ∧ regsBusy m f i w = false ∧ a.steps < gSteps g

/-- The sequencer of a stage context can issue a record of the opcode for a job now (R105, R287, R417). -/
abbrev RecordAt (m : Mach) (f c : Nat) (r : Rec) (j op : Nat) : Prop :=
  issuable m f c = some (r, j) ∧ recOp r = op ∧ prefillGate f c r m = true

/-- An operation number is that of no shard's write of a cut and of no rebuilt shard's (R370, R379). -/
abbrev NoShard (m : Mach) (opid : Nat) : Prop :=
  ∀ j < 16, (∀ c ∈ (snapOf m j).cut, ∀ y ∈ c.sent, y.1 ≠ opid) ∧ ∀ y ∈ (snapOf m j).moving, y.op ≠ opid

end Sys2Proof.Machine
end

