-- ==== Sys2Proof/Certificates/Slice0/Obligations.lean ====
section
/-!
DEFINITION. The statements about the model: steps and reset, the operations that all commands share, and for every family
of commands what they do and what they leave.  A clause `exec c s = .next t` also is the frame of the command: `t` names
everything that differs from `s`.
-/
open Sys2Proof Sys2Proof.Machine
/-! ### Steps, runs and reset -/

/-- A step is `exec` of the front command on the state with the queue's rest.  On an empty queue 10 ns pass, up to a
coming edge, and loads that are overdue end: the model's choice, log entries 4, 5 and 53. -/
def Obligations.StepRunsFrontCommand : Prop :=
  (∀ (m : Mach) (c : Instr) (rest : List Instr), step ⟨m, c :: rest⟩ = exec c ⟨m, rest⟩) ∧
  (∀ m : Mach, step ⟨m, []⟩ = .next ⟨atReady endOverdue (atTime m (m.now + 1)), []⟩)

/-- No command stops the block; one of a unit that does not exist changes nothing (the model's own, log entry 66). -/
def Obligations.CommandsOfExistingUnitsComplete : Prop :=
  ∀ (c : Instr) (s : State),
    (∃ m', exec c s = .next ⟨m', s.pending⟩) ∧ (c.wf = false → exec c s = .next s)

/-- Progress of every queue. -/
def Obligations.WellFormedQueuesRunSafely : Prop :=
  (∀ s : State, QueueWf s → ∀ s', step s = .next s' → QueueWf s') ∧
  (∀ s : State, ∀ k, ∃ m', Host.Core.run Sys2Proof.core k s = .next ⟨m', s.pending.drop k⟩) ∧
  (∀ s : State, Safe s)

/-- Only READY modules do work (R507, R512). -/
def Obligations.BeforeReadyNothingHappens : Prop :=
  (∀ (c : Instr) (s : State), alwaysOn c = false → ¬Ready s → exec c s = .next s) ∧
  (∀ s : State, QueueGated s → ¬Ready s →
    Host.Core.run Sys2Proof.core s.pending.length s = .next ⟨s.m, []⟩)

/-- Writes before READY (R512), and what reads return. -/
def Obligations.WritesBeforeReadyHaveNoEffect : Prop :=
  (∀ (s : State) (w : BusWrite), ¬Ready s → exec (.registerWrite w) s = .next s) ∧
  (∀ (s : State) (r : Nat) (v same : Word), ¬Ready s → exec (.w1cClear r v same) s = .next s) ∧
  (∀ (s : State) (j o n : Nat) (v : Word), ¬Ready s → exec (.jobKey j o n v) s = .next s) ∧
  (∀ (s : State) (n : Nat) (v : Word), ¬Ready s → exec (.idModuleNum n v) s = .next s) ∧
  (∀ (s : State) (b : Bool), ¬Ready s → exec (.start b) s = .next s) ∧
  (∀ s : State, ¬Ready s → exec .stop s = .next s) ∧
  (∀ (s : State) (off size : Nat), ¬Ready s → 0x1000 ≤ off → readBar s.m off size = List.replicate size 0)

/-- The values the spec gives for reset. -/
def Obligations.ResetLeavesEverySettingAtItsResetValue : Prop :=
  State.reset.m.boot.state = 1 ∧ State.reset.pending = [] ∧
  (∀ off, regGet State.reset.m off = regReset off) ∧ State.reset.m.pend = [] ∧ State.reset.m.pendLate = [] ∧
  regReset offPeriod = 100000 ∧ regReset offSweepLen = 1000 ∧ regReset offGrace = 8 ∧
  regReset (offJob 15) = 0x100 ∧ regReset (offLinkCtl 35) = 0x11 ∧ regReset offKeyDef = 0x0B5E2D7 ∧
  regReset (offSrc 2303) = 0x401 ∧
  (∀ k, readByte State.reset.m k = 0) ∧ (∀ f t, tallyGet State.reset.m f t = 0) ∧
  State.reset.m.tick.running = false ∧ (∀ j, (jobOf State.reset.m j).admitted = false) ∧
  (∀ n, n < 35 → enabledRing State.reset.m n = false)

/-- The canonical form at reset. -/
def Obligations.ResetIsCanonical : Prop :=
  Canonical State.reset.m ∧ RegsWf State.reset.m ∧ UeAligned State.reset.m ∧ QueueWf State.reset

/-! ### Registers, memory and events: the operations that every command uses -/

/-- One store of a register word. -/
def Obligations.RegisterStoresAreLocal : Prop :=
  (∀ (m : Mach) (off off' : Nat) (v : Word), RegsWf m →
    regGet (regSet m off v) off' = (if off' = off then v else regGet m off') ∧ RegsWf (regSet m off v) ∧
    { regSet m off v with regs := m.regs } = m) ∧
  (∀ (old v : Word) (ofs size i : Nat), i < 64 → ofs + size ≤ 8 →
    (mergeBytes old ofs size v).getLsbD i =
      if 8 * ofs ≤ i ∧ i < 8 * (ofs + size) then v.getLsbD (i - 8 * ofs) else old.getLsbD i)

/-- One memory write (R461). -/
def Obligations.MemoryWritesAreLocal : Prop :=
  ∀ (m : Mach) (f sp off : Nat) (bs : List Byte), Memory.wf m.mem = true → UeAligned m →
    let k := locate m f sp off
    let m' := writeMem m f sp off bs
    (∀ i, i < bs.length → readByte m' (k + i) = if unitBase (k + i) ∈ m'.ue then 0xFF else bs.getD i 0) ∧
    (∀ a, (a < k ∨ k + bs.length ≤ a) → readByte m' a = readByte m a) ∧
    (∀ u, u ∈ m'.ue ↔ u ∈ m.ue ∧ ¬(k ≤ u ∧ u + unitSize u ≤ k + bs.length)) ∧
    Memory.wf m'.mem = true ∧ UeAligned m' ∧
    { m' with mem := m.mem, scrambled := m.scrambled, ue := m.ue } = m

/-- Tallies (R36, R282) and contents that are lost (R392, R410). -/
def Obligations.TallyStoresAndLostContentsAreLocal : Prop :=
  (∀ (m : Mach) (f t : Nat) (v : W32), kvWf (0 : W32) m.tallies = true →
    tallyGet (tallySet m f t v) f t = v ∧ kvWf (0 : W32) (tallySet m f t v).tallies = true ∧
    tallySet m f t v = { m with tallies := (tallySet m f t v).tallies, scrambled := (tallySet m f t v).scrambled }) ∧
  (∀ (m : Mach) (f g t u : Nat) (v : W32), kvWf (0 : W32) m.tallies = true → tallyKey m f t ≠ tallyKey m g u →
    (tallyMem m g u + 4 ≤ tallyMem m f t ∨ tallyMem m f t + 4 ≤ tallyMem m g u) →
    tallyGet (tallySet m f t v) g u = tallyGet m g u) ∧
  (∀ (m : Mach) (f t n : Nat), tallyAddN m f t n = tallySet m f t (tallyGet m f t + BitVec.ofNat 32 n)) ∧
  (∀ (m : Mach) (f sp off n : Nat), Memory.wf m.mem = true →
    let k := locate m f sp off
    let m' := loseMem m f sp off n
    (∀ i, i < n → unitBase (k + i) ∉ m'.ue → readByte m' (k + i) = Config.free 8 m.free (k + i)) ∧
    (∀ a, (a < k ∨ k + n ≤ a) → unitBase a ∉ m.ue → readByte m' a = readByte m a) ∧
    Memory.wf m'.mem = true)

/-- Raising an event (R470, R471, R543). -/
def Obligations.RaisedEventsAreStickyAndQueued : Prop :=
  ∀ (m : Mach) (code src : Nat) (job : Option Nat) (detail : List Nat) (off n : Nat),
    RegsWf m → deadSource m src = false → stickyReg (code / 256) = some (off, n) → code % 256 < n →
    let w := (regGet m (offSrc src)).toNat
    let m' := raise m code src job detail
    (regGet m' off).getLsbD (code % 256) = true ∧
    (tb w 0 = false → code ≠ focOrderFault → m' = regOr m off (word (2 ^ (code % 256)))) ∧
    (tb w 0 = true → m.focus.queue.length < 1024 →
      m' = { regOr m off (word (2 ^ (code % 256))) with focus := { m.focus with queue := m.focus.queue ++ [⟨code, src, bf w 4 1, job, detail, (stamp m).1, (stamp m).2, m.now⟩] } }) ∧
    { m' with regs := m.regs, focus := m.focus } = m

/-! ### The set-up window -/

/-- Stores by access kind.  The endpoint of a write is up: DEDUCED. -/
def Obligations.RegisterWritesStoreByAccessKind : Prop :=
  (∀ (s : State) (w : BusWrite), Ready s → w.ep < 2 → w.both = none →
    let m := modEp s.m w.ep fun e => { e with up := true }
    let off := w.offset / 8 * 8
    let ofs := w.offset % 8
    let late (m : Mach) (off : Nat) : Bool := timingOffs.contains off && nearSweepEdge m
    ((accessBad true w.offset w.size = true →
        exec (.registerWrite w) s = .next ⟨raise m hostCfgErr srcHost none [], s.pending⟩) ∧
     (accessBad true w.offset w.size = false → regFind off = none →
        exec (.registerWrite w) s = .next ⟨m, s.pending⟩) ∧
     (∀ r, accessBad true w.offset w.size = false → regFind off = some r →
       (r.acc = .w1c → exec (.registerWrite w) s = .next ⟨
          regSet m off (regGet m off &&& ~~~(mergeBytes 0 ofs w.size w.value)), s.pending⟩) ∧
       (r.acc = .rwt ∨ r.acc = .rws → off ≠ offFwCtl → late m off = false →
          exec (.registerWrite w) s = .next ⟨{ m with
            pend := pendPut m.pend off (mergeBytes (pendGet m off) ofs w.size w.value &&& word r.mask)
            pendLate := m.pendLate.filter fun e => e.1 != off }, s.pending⟩) ∧
       (r.acc = .rwt ∨ r.acc = .rws → off ≠ offFwCtl → late m off = true →
          ∃ old, (old = pendGet m off ∨ (off, old) ∈ m.pendLate) ∧
          exec (.registerWrite w) s = .next ⟨{ m with pendLate := pendPut m.pendLate off (mergeBytes old ofs w.size w.value &&& word r.mask) }, s.pending⟩) ∧
       (r.acc = .rw → ctlRing off = none → baseRing off = none →
          off ∉ [offModuleNum, offRole, offUplink, offLeaseExp, offTwinLinks, offTestCtl, offThermHi, offThermCrit] →
          (off < 0x80000 ∨ 0x84000 ≤ off) → (off < 0xA0100 ∨ 0xA0160 ≤ off) →
          let v := mergeBytes (regGet m off) ofs w.size w.value &&& word r.mask
          (r.ok v.toNat = true → exec (.registerWrite w) s = .next ⟨regSet m off v, s.pending⟩) ∧
          (r.ok v.toNat = false → exec (.registerWrite w) s = .next ⟨raise m hostCfgErr srcHost none [], s.pending⟩)) ∧
       (off = offThermHi ∨ off = offThermCrit →
          let v := mergeBytes (regGet m off) ofs w.size w.value &&& word r.mask
          let hi := if off = offThermHi then v.toNat else regN m offThermHi
          let crit := if off = offThermCrit then v.toNat else regN m offThermCrit
          (r.ok v.toNat = true → hi ≤ crit → exec (.registerWrite w) s = .next ⟨regSet m off v, s.pending⟩) ∧
          ((r.ok v.toNat = false ∨ crit < hi) →
            exec (.registerWrite w) s = .next ⟨raise m hostCfgErr srcHost none [], s.pending⟩))))) ∧
  (∀ (s t : State) (o z o' z' : Nat) (v v' : Word), Ready s →
    exec (.registerWrite ⟨0, o, z, v, none⟩) s = .next t → Ready t →
    exec (.registerWrite ⟨0, o, z, v, some (o', z', v')⟩) s = exec (.registerWrite ⟨1, o', z', v', none⟩) t ∧
    exec (.registerWrite ⟨1, o', z', v', some (o, z, v)⟩) s = exec (.registerWrite ⟨1, o', z', v', none⟩) t)

/-- Writes of command bits and the rows that stand for them. -/
def Obligations.CommandBitsRunTheirRows : Prop :=
  ∀ (s : State) (ep : Nat), Ready s → ep < 2 →
    let s' : State := { s with m := modEp s.m ep fun e => { e with up := true } }
    let put (off v : Nat) : Res := exec (.registerWrite ⟨ep, off, 8, word v, none⟩) s
    put 0x1000 1 = exec (.start false) s' ∧ put 0x1000 2 = exec .stop s' ∧ put 0x10000 1 = exec .latClr s' ∧
    put 0x4010 1 = exec .detach s' ∧ put 0x4010 2 = exec .unfreeze s' ∧
    (∀ f, f < 96 → put 0x2048 (1 + 2 ^ 8 * f) = exec (.failFacet f) s') ∧
    (∀ f c, f < 96 → c < 16 → put 0x90030 (1 + 2 ^ 8 * f + 2 ^ 16 * c) = exec (.retire f c) s') ∧
    (∀ site, site < 104 → put 0x3008 (1 + 2 ^ 8 * site) = exec (.wireTest site) s' ∧
      put 0x3008 (2 + 2 ^ 8 * site) = exec (.ucode site) s') ∧
    (∀ b, b < 2 → put 0x3008 (3 + 2 ^ 24 * b) = exec (.flashProg b) s' ∧ put 0x3008 (4 + 2 ^ 24 * b) = exec (.fwCommit b) s') ∧
    put 0x3008 5 = exec .pair s' ∧ put 0x3008 6 = exec .phaseUpdate s' ∧
    (∀ f c, f < 104 → c < 16 → put 0x3008 (7 + 2 ^ 8 * f + 2 ^ 16 * c) = exec (.hbmRetrain f c) s') ∧
    put 0x3008 8 = exec .moduleReset s' ∧
    (∀ l, l < 36 → put (0x80008 + 0x100 * l) 1 = exec (.retrainAll l) s' ∧
      (∀ n, n < 8 → put (0x80008 + 0x100 * l) (2 + 2 ^ 4 * n) = exec (.retrainLane l n) s') ∧
      put (0x80008 + 0x100 * l) (2 ^ 7) = exec (.clrCnt l) s' ∧ put (0x80008 + 0x100 * l) (2 ^ 8) = exec (.clrRetired l) s') ∧
    (∀ v, v < 2 → put offTestCtl v = exec (.jtagRun (word v)) s' ∧ put offRole v = exec (.tickRole (word v)) s') ∧
    (∀ v, v < 36 → put offUplink v = exec (.tickUplink (word v)) s') ∧
    (∀ v, put offLeaseExp v = exec (.twinLeaseExp (word v)) s') ∧
    (∀ v, v < 2 ^ 36 → 2 ≤ popc 36 v → popc 36 v ≤ 8 → put offTwinLinks v = exec (.twinLinks (word v)) s') ∧
    (∀ v, v < 2 ^ 12 → put offModuleNum v = exec (.idModuleNum 8 (word v)) s') ∧
    (∀ j b v, j < 16 → b < 2 → put (offJob j + 0x20 + 8 * b) v = exec (.jobKey j (8 * b) 8 (word v)) s') ∧
    (∀ r v, r < 14 → put (eventOffs.getD r 0) v = exec (.w1cClear r (word v) 0) s')

/-- Register commands. -/
def Obligations.RegisterCommandsAct : Prop :=
  ∀ s : State, Ready s →
    (∀ isWrite off size,
      (accessBad isWrite off size = true →
        exec (.setupBadAccess isWrite off size) s = .next ⟨raise s.m hostCfgErr srcHost none [], s.pending⟩) ∧
      (accessBad isWrite off size = false → exec (.setupBadAccess isWrite off size) s = .next s)) ∧
    (∀ r off v same, eventOffs[r]? = some off → exec (.w1cClear r v same) s = .next ⟨
      regSet s.m off ((regGet s.m off &&& ~~~v) ||| (same &&& word (maskOf off))), s.pending⟩) ∧
    (∀ j ofs size v, j < 16 → accessBad true ofs size = false → ofs + size ≤ 16 →
      let off := offJob j + 0x20 + 8 * (ofs / 8)
      ((jobOf s.m j).admitted = false → (jobOf s.m j).releasing = false → exec (.jobKey j ofs size v) s =
        .next ⟨regSet s.m off (mergeBytes (regGet s.m off) (ofs % 8) size v), s.pending⟩) ∧
      (((jobOf s.m j).admitted = true ∨ (jobOf s.m j).releasing = true) → exec (.jobKey j ofs size v) s =
        .next ⟨raise s.m hostCfgErr srcHost none [], s.pending⟩)) ∧
    (∀ size v, size = 4 ∨ size = 8 →
      (s.m.tick.running = true → exec (.idModuleNum size v) s =
        .next ⟨raise s.m tickConfigErr (srcUnit 0) none [], s.pending⟩) ∧
      (s.m.tick.running = false → exec (.idModuleNum size v) s = .next ⟨
        regSet s.m offModuleNum (mergeBytes (regGet s.m offModuleNum) 0 size v &&& word (ones 0 12)), s.pending⟩)) ∧
    (∀ v, s.m.tick.holdover = false → exec (.tickRole v) s = .next ⟨regSet s.m offRole (v &&& 1), s.pending⟩) ∧
    (∀ v : Word, s.m.tick.holdover = false → wf v 5 0 ≤ 35 →
      exec (.tickUplink v) s = .next ⟨regSet s.m offUplink (word (wf v 5 0)), s.pending⟩) ∧
    (∀ v : Word, s.m.tick.running = true → s.m.tick.holdover = true → wf v 5 0 ≤ 35 →
      exec (.tickUplink v) s = .next ⟨
        modTick (regSet s.m offUplink (word (wf v 5 0))) fun t => { t with uplink := wf v 5 0, relock := true }, s.pending⟩) ∧
    exec .latClr s = .next ⟨modEp (modEp s.m 0 fun e => { e with latMax := 0 }) 1 fun e => { e with latMax := 0 }, s.pending⟩

/-- START and STOP. -/
def Obligations.StartAndStopOfTheTickGenerator : Prop :=
  ∀ s : State, Ready s →
    (∀ b, s.m.tick.running = true → exec (.start b) s = .next s) ∧
    (∀ b, s.m.tick.running = false →
      (b = true ∨ (regN s.m offRole = 0 ∧ 35 < regN s.m offUplink) ∨
        (tb (regN s.m offRefCtl) 0 = true ∧ (bf (regN s.m offRefCtl) 52 32 = 0 ∨ 1048576 < bf (regN s.m offRefCtl) 52 32)) ∨
        tb (regN s.m offTestCtl) 0 = true) →
      exec (.start b) s = .next ⟨raise s.m tickConfigErr (srcUnit 0) none [], s.pending⟩) ∧
    (s.m.tick.running = false → ¬(regN s.m offRole = 0 ∧ 35 < regN s.m offUplink) →
      ¬(tb (regN s.m offRefCtl) 0 = true ∧ (bf (regN s.m offRefCtl) 52 32 = 0 ∨ 1048576 < bf (regN s.m offRefCtl) 52 32)) →
      tb (regN s.m offTestCtl) 0 = false →
      ∃ t, exec (.start false) s = .next ⟨{ s.m with tick := t }, s.pending⟩ ∧
        t.armed = true ∧ t.running = false ∧ t.master = tb (regN s.m offRole) 0 ∧ t.uplink = regN s.m offUplink ∧
        t.refEn = tb (regN s.m offRefCtl) 0 ∧ t.refDiv = bf (regN s.m offRefCtl) 52 32 ∧
        t.baseTick = regN s.m offBaseTick ∧ t.baseSweep = regN s.m offBaseSweep ∧ t.nextEdge = s.m.now + 200 ∧
        t.stopIn = 0 ∧ t.tickNo = s.m.tick.tickNo ∧ t.sweepNo = s.m.tick.sweepNo) ∧
    (s.m.tick.running = true → s.m.tick.master = true → exec .stop s = .next ⟨
      modTick s.m fun t => { t with stopIn := if t.stopIn = 1 then 1 else if nearSweepEdge s.m then 2 else 1 }, s.pending⟩) ∧
    (s.m.tick.running = false ∨ s.m.tick.master = false → exec .stop s = .next s)

/-! ### Rings, completions and endpoints -/

/-- Ring control. -/
def Obligations.RingsEnableDisableAndMove : Prop :=
  ∀ (s : State) (n : Nat), Ready s → n < 35 →
    let off := ctlOff n
    let mask := word (maskOf off)
    (∀ ctl : Word, tb ctl.toNat (enBit n) = false → exec (.ringEnable n ctl) s = .next s) ∧
    (∀ ctl : Word, tb ctl.toNat (enBit n) = true → enabledRing s.m n = false →
      (∀ r, regFind off = some r → r.ok (ctl &&& mask).toNat = true) → mayEnable s.m n = true →
      exec (.ringEnable n ctl) s = .next ⟨
        (if n < 32 then modRing (regSet s.m off (ctl &&& mask)) n fun r => { r with
            cons := 0, prod := 0, cplProd := 0, cplCons := 0, idle := false, halted := false, cause := 0, used := true
            disabledAt := none, unsig := 0, firstUnsig := none, reads := [] }
          else if n = 32 then modHost (regSet s.m off (ctl &&& mask)) fun h =>
            { h with evt := { h.evt with prod := 0, cons := 0, unsig := 0, firstUnsig := none } }
          else if n = 33 then modHost (regSet s.m off (ctl &&& mask)) fun h =>
            { h with stat := { h.stat with prod := 0, cons := 0, unsig := 0, firstUnsig := none } }
          else modHost (regSet s.m off (ctl &&& mask)) fun h => { h with snapProd := 0, snapCons := 0 }), s.pending⟩) ∧
    (∀ ctl : Word, tb ctl.toNat (enBit n) = true → enabledRing s.m n = false → mayEnable s.m n = false →
      exec (.ringEnable n ctl) s = .next ⟨raise s.m hostCfgErr srcHost none [], s.pending⟩) ∧
    (∀ ctl : Word, enabledRing s.m n = false → exec (.ringDisable n ctl) s = .next s) ∧
    (∀ ctl : Word, ctl &&& mask = regGet s.m off &&& ~~~(word (2 ^ enBit n)) → tb ctl.toNat (enBit n) = false →
      enabledRing s.m n = true → (∀ r, regFind off = some r → r.ok (ctl &&& mask).toNat = true) →
      (32 ≤ n → exec (.ringDisable n ctl) s = .next ⟨regSet s.m off (ctl &&& mask), s.pending⟩) ∧
      (RegsWf s.m → n < s.m.host.rings.length → n < 32 → (ringOf s.m n).used = true → (ringOf s.m n).live = [] →
        (ringOf s.m n).held = [] → (∀ x ∈ s.m.descs, x.d.ring ≠ n) →
        exec (.ringDisable n ctl) s = .next ⟨modRing (regSet s.m off (ctl &&& mask)) n fun r =>
          { r with disabledAt := none, reads := [], idle := true }, s.pending⟩) ∧
      (n < s.m.host.rings.length → n < 32 → (ringOf s.m n).live ≠ [] → (∀ x ∈ s.m.descs, x.d.ring = n → x.wait = .work) →
        exec (.ringDisable n ctl) s = .next ⟨modRing (regSet s.m off (ctl &&& mask)) n fun r =>
          { r with disabledAt := some s.m.tick.tickNo, reads := [] }, s.pending⟩)) ∧
    (∀ port, port < 2 → n < 32 → portOf s.m n ≠ port → enabledRing s.m n = true → (ringOf s.m n).halted = false →
      exec (.ringPort n port) s = .next ⟨raise s.m hostCfgErr srcHost none [], s.pending⟩) ∧
    (∀ port, RegsWf s.m → port < 2 → n < 32 → portOf s.m n ≠ port → (ringOf s.m n).held = [] →
      (enabledRing s.m n = true ∧ (ringOf s.m n).halted = true ∨ enabledRing s.m n = false ∧ (ringOf s.m n).used = false) →
      let b := word (2 ^ portBit n)
      let v := if port = 0 then regGet s.m off &&& ~~~b else regGet s.m off ||| b
      exec (.ringPort n port) s = .next ⟨regSet s.m off (v &&& mask), s.pending⟩)

/-- Completions (R89, R91). -/
def Obligations.CompletionsGoToTheirRing : Prop :=
  ∀ (m : Mach) (quiet : Bool) (c : CplRec), c.ring < 32 → c.ring < m.host.rings.length →
    let n := c.ring
    let m' := completeAt m quiet c
    (∀ i ∈ (ringOf m' n).live, i ≠ c.index) ∧
    (quiet = true → c.status < 2 → m'.out = m.out ∧ (ringOf m' n).held = (ringOf m n).held) ∧
    ((quiet = false ∨ 2 ≤ c.status) → (ringOf m n).held = [] → cplBlocked m n = false →
      (let put (head : Bool) : Output :=
        .cplWrite (portOf m n) (entryAddr (regN m (offCplBase n)) (ringOf m n).cplProd.toNat (regN m (offCplSize n)) 32) head
          (phaseAt (ringOf m n).cplProd.toNat (regN m (offCplSize n))) c
      m'.out = m.out ++ [put false, put true]) ∧
      (ringOf m' n).cplProd = (ringOf m n).cplProd + 1) ∧
    ((quiet = false ∨ 2 ≤ c.status) → ((ringOf m n).held ≠ [] ∨ cplBlocked m n = true) →
      m'.out = m.out ∧ (ringOf m' n).held = (ringOf m n).held ++ [c]) ∧
    m'.mem = m.mem ∧ m'.jobs = m.jobs ∧ m'.facets = m.facets ∧ m'.chans = m.chans ∧ m'.tallies = m.tallies

/-- Traffic of the rings. -/
def Obligations.RingsPollFetchAndWriteBack : Prop :=
  ∀ s : State, Ready s →
    (∀ due,
      due = (match s.m.host.polledAt with | some t => t + regN s.m offDbPoll | none => 0) → due ≤ (atTime s.m due).now →
      let m := endOverdue (atTime s.m due)
      let k := m.host.pollNum
      exec .dbPoll s = .next ⟨pumpAll (forAll (List.range 2) (fun x ep =>
        if (epOf x ep).up = false ∨ pollSpan x ep = 0 then x
        else emit (modEp x ep fun e => { e with reading := e.reading ++ [(m.now, k)] })
          (.doorbellRead ep (regGet x (offDbBase ep)) (pollSpan x ep)))
      (modHost m fun h => { h with
        polledAt := some m.now, pollNum := k + 1
        polls := (h.polls.filter fun p => h.eps.any fun e => e.reading.any fun r => r.2 == p.num) ++ [⟨k, 1024, none⟩] })),
      s.pending⟩) ∧
    (∀ ep r, ep < 2 → (epOf s.m ep).reading = [] → exec (.doorbellReadDone ep r) s = .next s) ∧
    (∀ ep t k rest, ep < 2 → (epOf s.m ep).reading = (t, k) :: rest →
      let lat := s.m.now - t
      let m := modEp s.m ep fun e => { e with reading := rest, latMax := max e.latMax lat }
      let f := (epOf s.m ep).fails + 1
      (f = 3 → exec (.doorbellReadDone ep none) s =
        .next ⟨raise (modEp m ep fun e => { e with fails := 0 }) hostDmaErr srcHost none [], s.pending⟩) ∧
      (f ≠ 3 → exec (.doorbellReadDone ep none) s = .next ⟨modEp m ep fun e => { e with fails := f }, s.pending⟩)) ∧
    (∀ ep l t k rest, ep < 2 → (epOf s.m ep).reading = (t, k) :: rest →
      let lat := s.m.now - t
      let m := modEp (modEp s.m ep fun e => { e with reading := rest, latMax := max e.latMax lat }) ep fun e => { e with fails := 0 }
      exec (.doorbellReadDone ep (some l)) s = .next ⟨pumpAll (fetchPoll ep k (((List.range 35).zip l).foldl (fun m x =>
        if portOf m x.1 = ep ∧ polled m x.1 = true then takeRecordOf x.1 x.2 m else m) m)), s.pending⟩) ∧
    (∀ (m : Mach) (n : Nat) (r : DoorbellRec), n < 32 → r.epoch.toNat ≠ regN m (offRingEpoch n) →
      takeRecordOf n r m = raise m hostDbStale srcHost none []) ∧
    (∀ (m : Mach) (n : Nat) (r : DoorbellRec), n < 32 → n < m.host.rings.length → r.epoch.toNat = regN m (offRingEpoch n) →
      enabledRing m n = true → (ringOf m n).halted = false → (ringOf m n).held = [] →
      let m1 := modRing m n fun x => { x with cplCons := r.cons }
      (2 ^ regN m (offRingSize n) < (r.prod - (ringOf m n).cons).toNat → takeRecordOf n r m =
        raise (modRing m1 n fun x => { x with halted := true, cause := 1 }) hostRingErr srcHost none []) ∧
      ((r.prod - (ringOf m n).cons).toNat ≤ 2 ^ regN m (offRingSize n) → takeRecordOf n r m =
        modRing m1 n fun x => { x with prod := r.prod })) ∧
    (∀ n k t rest, n < 32 → (ringOf s.m n).reads = (k, t) :: rest →
      exec (.descriptorFetch n none) s = .next ⟨raise (modRing s.m n fun x =>
        { x with reads := [], halted := true, cause := 2 }) hostDmaErr srcHost none [], s.pending⟩) ∧
    (∀ n k t rest l, n < 32 → (ringOf s.m n).reads = (k, t) :: rest → l.length = k →
      let lat := s.m.now - 20 - t
      exec (.descriptorFetch n (some l)) s = .next ⟨pumpAll (l.foldl (intake n) (modEp (modRing s.m n fun x =>
        { x with reads := rest }) (portOf (modRing s.m n fun x => { x with reads := rest }) n) fun e => { e with latMax := max e.latMax lat })), s.pending⟩) ∧
    (∀ n c, n < 32 → n < s.m.host.rings.length → (ringOf s.m n).held = [c] → cplBlocked s.m n = false →
      exec (.heldCompletionWrite n) s = .next ⟨pumpAll (settleIdle (putCpl (modRing s.m n fun r => { r with held := [] }) n c) n), s.pending⟩)

/-- Interrupts and endpoints. -/
def Obligations.InterruptsAndEndpoints : Prop :=
  ∀ s : State, Ready s →
    (∀ n t0, n < 34 → (unsigOf s.m n).2 = some t0 → (unsigOf s.m n).1 ≠ 0 →
      let t := bf (regN s.m (coalesceReg n)) 29 20
      t ≠ 0 → t0 + 100 * t ≤ (atTime s.m (t0 + 100 * t)).now →
      exec (.coalesceTimeout n) s = .next ⟨signalRing (atTime s.m (t0 + 100 * t)) n, s.pending⟩) ∧
    (∀ ep v, ep < 2 → v < 64 →
      let b := word (2 ^ v)
      let m := modEp s.m ep fun e => { e with mask := e.mask &&& ~~~b, pba := e.pba &&& ~~~b }
      ((epOf s.m ep).pba.getLsbD v = true → exec (.msixUnmask ep v) s = .next ⟨emit m (.msix ep v), s.pending⟩) ∧
      ((epOf s.m ep).pba.getLsbD v = false → exec (.msixUnmask ep v) s = .next ⟨m, s.pending⟩)) ∧
    (∀ ep, ep < 2 → (epOf s.m ep).up = false → exec (.portDown ep) s = .next s) ∧
    (∀ ep, ep < 2 → (epOf s.m ep).up = true →
      let m := raise (modEp s.m ep fun e => { e with up := false, reading := [] }) portDownEv srcHost none []
      let down := forAll ((List.range 32).filter fun n => portOf m n == ep) (fun m n =>
        modRing m n fun r => { r with halted := true, cause := 3, reads := [] }) m
      exec (.portDown ep) s = .next ⟨down, s.pending⟩ ∧
      ∀ cause, exec (.endpointReset ep cause) s = .next ⟨modEp down ep fun e =>
        { e with mask := BitVec.allOnes 64, pba := 0, fails := 0 }, s.pending⟩) ∧
    (∀ ep cause, ep < 2 → (epOf s.m ep).up = false → exec (.endpointReset ep cause) s = .next ⟨modEp s.m ep fun e =>
      { e with mask := BitVec.allOnes 64, pba := 0, fails := 0 }, s.pending⟩)

/-! ### Descriptors -/

/-- The intake checks of R84 stand before every effect. -/
def Obligations.DescriptorsAreCheckedBeforeTheyAct : Prop :=
  (∀ (m : Mach) (sp : OpSpec) (d : DescIn), earlyStatus m sp d =
    if headerBad m d = true ∨ dKind d ∉ sp.kinds ∨ sp.bad d = true then 0x04
    else if (sp.admin = true ∧ ringAdmin m d.ring = false) ∨ (sp.code ≠ 0x48 ∧ jobCounts m (dJob m d) = false) then 0x06
    else if sp.addr m d ≠ 0 then sp.addr m d
    else if admitLen m < sp.wcet d then 0x0B else 0) ∧
  (∀ (s : State) (d : DescIn), Ready s → d.ring < 32 →
    let fails (c : Instr) (sp : OpSpec) : Prop :=
      (dOpcode d ≠ sp.code → exec c s = .next s) ∧
      (dOpcode d = sp.code → earlyStatus s.m sp d ≠ 0 →
        exec c s = .next ⟨finishDesc d false (earlyStatus s.m sp d) 0 s.m, s.pending⟩)
    fails (.nop d) specNop ∧ fails (.setField d) specField ∧ fails (.copy d) specCopy ∧ fails (.mapLoad d) specMap ∧
    fails (.schedLoad d) specSched ∧ fails (.mbAdmit d) specAdmit ∧ fails (.verPublish d) specPublish ∧
    fails (.modelLoad d) specLoad ∧ fails (.foldSetup d) specFold ∧ fails (.updateSetup d) specUpdate ∧
    fails (.actPolicy d) specAct ∧ fails (.snapRestore d) specRestore ∧ fails (.jobAdmit d) specJobAdmit ∧
    fails (.jobRelease d) specRelease ∧ fails (.rolloutCfg d) specRollout ∧
    (vbAction d = 0 → fails (.verBuildAlloc d) specBuild) ∧ (vbAction d = 1 → fails (.verBuildSeal d) specBuild) ∧
    (vbAction d = 2 → fails (.verBuildFree d) specBuild) ∧
    (pgKind d ≠ 2 → fails (.progLoad d) specProg) ∧ (pgKind d = 2 → fails (.progLoadFree d) specProg) ∧
    (stAction d = 0 → fails (.snapTakeCut d) specSnapTake) ∧ (stAction d = 1 → fails (.snapTakeArm d) specSnapTake) ∧
    (stAction d = 2 → fails (.snapTakeDisarm d) specSnapTake) ∧
    (jpAction d = 0 → fails (.switchIn d) specPreempt) ∧ (jpAction d = 1 → fails (.yieldJob d) specPreempt))

/-- NOP, SET_FIELD and COPY. -/
def Obligations.PlainDescriptorsComplete : Prop :=
  (∀ (old : Word) (d : DescIn) (i : Nat), i < 64 → (fieldWord old d).getLsbD i =
    if (sfMask d &&& maskOf (sfReg d)).testBit i then (sfValue d).testBit i else old.getLsbD i) ∧
  ∀ (s : State) (d : DescIn), Ready s → d.ring < 32 →
    (dOpcode d = 0 → earlyStatus s.m specNop d = 0 → exec (.nop d) s = .next ⟨finishDesc d false 0 0 s.m, s.pending⟩) ∧
    (dOpcode d = 0x01 → earlyStatus s.m specField d = 0 → rekeyHolds s.m (sfReg d) = false →
      (∀ r, regFind (sfReg d) = some r → r.ok (regN (writeField d s.m) (sfReg d)) = true) →
      (∀ g ∈ judgeGroups (writeField d s.m) [sfReg d], g.2.1 = false) →
      exec (.setField d) s = .next ⟨finishDesc d false 0 0
        (regSet s.m (sfReg d) (fieldWord (regGet s.m (sfReg d)) d)), s.pending⟩) ∧
    (dOpcode d = 0x02 → earlyStatus s.m specCopy d = 0 → (∀ x ∈ s.m.descs, x.d.ring ≠ d.ring ∨ x.d.index ≠ d.index) →
      let c : CopyRun := ⟨d.ring, d.index, dTag d, dJob s.m d, dQuiet d, false, cpToHost d, cpLen d, none, word (cpLat d),
        cpHost d, portOf s.m d.ring⟩
      let x : Desc := ⟨d, dJob s.m d, ringAdmin s.m d.ring, s.m.tick.tickNo, .work, false⟩
      let m := if cpToHost d then s.m else readHost (portOf s.m d.ring) (cpHost d) (cpLen d) true s.m
      exec (.copy d) s = .next ⟨{ m with copies := s.m.copies ++ [c], descs := s.m.descs ++ [x] }, s.pending⟩) ∧
    (∀ c r, s.m.copies = [c] → c.ring < 32 → s.m.descs = [] → (c.ring ≠ d.ring ∨ c.index ≠ d.index) →
      exec (.copyDone d.ring d.index r) s = .next s) ∧
    (∀ c bs, s.m.copies = [c] → c.ring < 32 →
      (∀ x ∈ s.m.descs, x.d.ring = c.ring ∧ x.d.index = c.index) → bs.length = c.len → c.lost = none →
      let l := latOf c.lattice.toNat
      let st := if c.floated then 1 else 0
      let m : Mach := { s.m with copies := [] }
      (c.toHost = true → (l.space = 0 ∨ l.space = 1) → ueHit m l.facet l.space l.off c.len = [] →
        exec (.copyDone c.ring c.index (.bytes bs)) s = .next ⟨completeAt
          (emit m (.hostWrite c.ep c.host (readMem m l.facet l.space l.off c.len) true)) c.quiet
          ⟨c.ring, c.index, c.tag, st, 2, c.job, c.len, 0, (stamp s.m).1, (stamp s.m).2⟩, s.pending⟩) ∧
      (c.toHost = false → (l.space = 0 ∨ l.space = 1) → bs ≠ [] → targetMissing s.m l false = false →
        uePart m l.facet l.space l.off c.len = [] →
        exec (.copyDone c.ring c.index (.bytes bs)) s = .next ⟨completeAt
          (writeMem m l.facet l.space l.off bs) c.quiet
          ⟨c.ring, c.index, c.tag, st, 2, c.job, c.len, 0, (stamp s.m).1, (stamp s.m).2⟩, s.pending⟩))

/-- Placement, schedules and admission. -/
def Obligations.MapsSchedulesAndAdmissions : Prop :=
  ∀ (s : State) (d : DescIn), Ready s → d.ring < 32 →
    let j := dJob s.m d
    let l := (imageBytes d).getD []
    (dOpcode d = 0x10 → earlyStatus s.m specMap d = 0 → (imageBytes d).isSome = true →
      (∀ k i, mapFault s.m j (mapPhases d) (mapLen d) l = some (k, i) →
        exec (.mapLoad d) s = .next ⟨finishDesc d false 0x40 (k * 2 ^ 24 + i) s.m, s.pending⟩) ∧
      (mapFault s.m j (mapPhases d) (mapLen d) l = none →
        let phases := (List.range 6).filter fun k => tb (mapPhases d) k
        let m1 := modJob s.m j fun x => { x with
          coming := (x.coming.filter fun e => !phases.contains e.1) ++ phases.map fun k => (k, fixRoutes s.m (readMap l)) }
        exec (.mapLoad d) s = .next ⟨finishDesc d false 0 (slowLoads (timing s.m) d (readMap l) m1) m1, s.pending⟩)) ∧
    (dOpcode d = 0x11 → earlyStatus s.m specSched d = 0 → (imageBytes d).isSome = true →
      let t := timing s.m
      let pm := match (jobOf s.m j).coming.find? fun e => e.1 == 0 with
        | some e => some e.2
        | none => fillMap s.m j
      let stages := stageTotal s.m j (schedPipe d) pm
      let span := if schedFwdOnly d then schedM d + stages - 1 else schedM d + 2 * stages - 1 + schedReserve d
      (schedFwdOnly d = false → preemptible s.m j = true →
        exec (.schedLoad d) s = .next ⟨finishDesc d false 0x80 0 s.m, s.pending⟩) ∧
      ((schedFwdOnly d = true ∨ preemptible s.m j = false) →
        (t.period - 1 < schedBudget d ∨ t.fill + t.steady + t.drain < span) →
        exec (.schedLoad d) s = .next ⟨finishDesc d false 0x41 0 s.m, s.pending⟩) ∧
      ((schedFwdOnly d = true ∨ preemptible s.m j = false) →
        schedBudget d ≤ t.period - 1 → span ≤ t.fill + t.steady + t.drain →
        let cost := (List.range 64).map fun i => (imgNat l (8 * i) 4, imgNat l (8 * i + 4) 4)
        exec (.schedLoad d) s = .next ⟨finishDesc d false 0 0 (modPipe s.m j (schedPipe d) fun x => { x with
          sched := some ⟨schedFwdOnly d, schedReserve d, schedM d, schedBudget d, cost, s.m.tick.tickNo⟩, steerAt := none,
          rollout := if schedFwdOnly d then x.rollout else none }), s.pending⟩)) ∧
    (dOpcode d = 0x12 → earlyStatus s.m specAdmit d = 0 →
      let p := admitPipe d
      let a := admitOf s.m d
      (256 ≤ (pipeOf s.m j p).queue.length → exec (.mbAdmit d) s = .next ⟨finishDesc d false 0x44 0 s.m, s.pending⟩) ∧
      ((pipeOf s.m j p).queue.length < 256 → (pipeOf s.m j p).sched = none →
        exec (.mbAdmit d) s = .next ⟨finishDesc d false 0x42 0 s.m, s.pending⟩) ∧
      ((pipeOf s.m j p).queue.length < 256 → (pipeOf s.m j p).sched ≠ none → a.len = 0 →
        exec (.mbAdmit d) s = .next ⟨finishDesc d false 0x45 0 s.m, s.pending⟩) ∧
      ((pipeOf s.m j p).queue.length < 256 → (pipeOf s.m j p).sched ≠ none → a.len ≠ 0 →
        exec (.mbAdmit d) s = .next ⟨keepDesc d (modPipe s.m j p fun x => { x with queue := x.queue ++ [a] }), s.pending⟩))

/-! ### Versions and loading -/

/-- Building versions. -/
def Obligations.VersionsAreBuiltSealedAndFreed : Prop :=
  (∀ (s : State) (d : DescIn), Ready s → d.ring < 32 → dOpcode d = 0x18 → earlyStatus s.m specBuild d = 0 →
    (vbImage d = 0 ∨ (imageBytes d).isSome = true) →
    let f := vbFacet d
    let c := vbSc d
    let src := vbSource d
    let e : VerEntry := { VerEntry.init with
      source := src, srcSc := if src = 1 ∨ src = 3 then vbSrcSc d else 0, srcTag := if src = 0 then 0 else vbSrcTag d
      vtag := vbTag d, pipe := vbPipe d, job := dJob s.m d, space := vbSpace d, base := vbBase d, size := vbSize d }
    let inst : Mach := if vbImage d = 0 then s.m else modLocus s.m f c fun _ => vbLocus s.m d
    let put (e : VerEntry) : Mach := modLocus inst f c fun l =>
      { l with entries := (match freeIdx l with | some i => l.entries.set i e | none => l.entries) }
    (vbStatus s.m d ≠ 0 →
      (vbAction d = 0 → exec (.verBuildAlloc d) s = .next ⟨finishDesc d false (vbStatus s.m d) 0 s.m, s.pending⟩) ∧
      (vbAction d = 1 → exec (.verBuildSeal d) s = .next ⟨finishDesc d false (vbStatus s.m d) 0 s.m, s.pending⟩) ∧
      (vbAction d = 2 → exec (.verBuildFree d) s = .next ⟨finishDesc d false (vbStatus s.m d) 0 s.m, s.pending⟩)) ∧
    (vbStatus s.m d = 0 → vbAction d = 0 →
      (src = 0 ∨ src = 2 → exec (.verBuildAlloc d) s = .next ⟨finishDesc d false 0 0 (put { e with state := 1 }), s.pending⟩) ∧
      (src = 1 → exec (.verBuildAlloc d) s = .next ⟨keepDesc d (put { e with busy := [(d.ring, d.index)] }), s.pending⟩) ∧
      (src = 3 → ∀ y, vbSourceEntry s.m d = some y →
        exec (.verBuildAlloc d) s = .next ⟨finishDesc d false 0 0 (addRef f (vbSrcSc d) (vbSrcTag d)
          (put { e with state := 2, sealTick := s.m.tick.tickNo, space := y.space, base := y.base, size := y.size, crc := y.crc })), s.pending⟩)) ∧
    (∀ i, vbStatus s.m d = 0 → vbAction d = 1 → entryOf (locusOf s.m f c) (vbTag d) = some i →
      exec (.verBuildSeal d) s = .next ⟨keepDesc d (modLocus s.m f c fun l =>
        { l with entries := l.entries.modify i fun e => { e with busy := e.busy ++ [(d.ring, d.index)] } }), s.pending⟩) ∧
    (∀ i, vbStatus s.m d = 0 → vbAction d = 2 → entryOf (locusOf s.m f c) (vbTag d) = some i →
      let y := (locusOf s.m f c).entries.getD i VerEntry.init
      let m := modLocus s.m f c fun l => match l.entries[i]? with
        | some e => { l with freed := l.freed ++ e.busy.map fun b => ⟨i, b.1, b.2, e.space, e.base, e.size⟩ }
        | none => l
      exec (.verBuildFree d) s = .next ⟨finishDesc d false 0 0 (dropRow y.job y.pipe y.vtag (freeEntry f c i m)), s.pending⟩) ∧
    (vbStatus s.m d = 0 → vbAction d = 2 → entryOf (locusOf s.m f c) (vbTag d) = none →
      exec (.verBuildFree d) s = .next ⟨finishDesc d false 0 0 inst, s.pending⟩)) ∧
  (∀ (s : State) (f c i : Nat) (e : VerEntry) (x : Desc), Ready s → f < 104 → c < 4 → i < 4 →
    (locusOf s.m f c).freed = [] → (locusOf s.m f c).entries[i]? = some e → e.busy = [(x.d.ring, x.d.index)] →
    s.m.descs = [x] → ueHit s.m f e.space (4096 * e.base) (4096 * e.size) = [] → (e.source ≠ 1 ∨ e.state ≠ 0) →
    let crc := crc32 (readMem s.m f e.space (4096 * e.base) (4096 * e.size))
    exec (.crcReadDone f c i) s = .next ⟨finishDesc x.d false 0 crc (modLocus s.m f c fun l =>
      { l with entries := l.entries.modify i fun e =>
        if e.state < 2 then { e with busy := [], state := 2, sealTick := s.m.tick.tickNo, crc := BitVec.ofNat 32 crc }
        else { e with busy := [] } }), s.pending⟩) ∧
  (∀ (s : State) (f c i : Nat) (e y : VerEntry) (x : Desc), Ready s → f < 104 → c < 4 → i < 4 →
    (locusOf s.m f c).freed = [] → (locusOf s.m f c).entries[i]? = some e → e.busy = [(x.d.ring, x.d.index)] →
    s.m.descs = [x] → e.source = 1 → e.state = 0 → resolveTag (locusOf s.m f e.srcSc) e.srcTag = some y →
    ueHit s.m f y.space (4096 * y.base) (4096 * min y.size e.size) = [] →
    let src := readMem s.m f y.space (4096 * y.base) (4096 * min y.size e.size)
    let m := writeMem s.m f e.space (4096 * e.base) src
    uePart s.m f e.space (4096 * e.base) src.length = [] →
    ueHit m f e.space (4096 * e.base) (4096 * e.size) = [] →
    let crc := crc32 (readMem m f e.space (4096 * e.base) (4096 * e.size))
    exec (.crcReadDone f c i) s = .next ⟨finishDesc x.d false 0 crc (modLocus m f c fun l =>
      { l with entries := l.entries.modify i fun e =>
        if e.state < 2 then { e with busy := [], state := 2, sealTick := s.m.tick.tickNo, crc := BitVec.ofNat 32 crc }
        else { e with busy := [] } }), s.pending⟩) ∧
  (∀ (s : State) (f c i : Nat) (r : FreedRead) (x : Desc), Ready s → f < 104 → c < 4 → i < 4 →
    (locusOf s.m f c).freed = [r] → r.entry = i → r.ring = x.d.ring → r.index = x.d.index → s.m.descs = [x] →
    ueHit s.m f r.space (4096 * r.base) (4096 * r.size) = [] →
    exec (.crcReadDone f c i) s = .next ⟨finishDesc x.d false 0 (crc32 (readMem s.m f r.space (4096 * r.base) (4096 * r.size)))
      (modLocus s.m f c fun l => { l with freed := l.freed.erase r }), s.pending⟩)

/-- Publishing. -/
def Obligations.PublishingFollowsTheReadinessCheck : Prop :=
  (∀ (s : State) (d : DescIn), Ready s → d.ring < 32 → dOpcode d = 0x19 → earlyStatus s.m specPublish d = 0 →
    let j := dJob s.m d
    let p := vpPipe d
    (isHome s.m j p = false → exec (.verPublish d) s = .next ⟨finishDesc d false 0x4D 0 s.m, s.pending⟩) ∧
    (∀ c, isHome s.m j p = true → ((pipeOf s.m j p).checks.find? fun c => c.tag == vpTag d && decide (dEdge d ≤ c.sweep)) = some c →
      let ended := modTag j p (vpTag d) (fun e => if e.pendTill ≤ max c.sweep s.m.tick.sweepNo then { e with pend := false } else e) s.m
      (checkPassed s.m j p (some c) = true → exec (.verPublish d) s =
        .next ⟨finishDesc d false 0 0 (publish j p (vpTag d) (vpKeep d) ended), s.pending⟩) ∧
      (checkPassed s.m j p (some c) = false → exec (.verPublish d) s =
        .next ⟨finishDesc d false 0x4C 0 ended, s.pending⟩))) ∧
  (∀ (s : State) (j p vtag : Nat), Ready s → j < 16 → p < 4 →
    (∀ src sweep,
      let scs := match fillMapFor s.m j sweep with
        | some pm => scsIn p pm
        | none => []
      exec (.verQuery src j p vtag sweep) s = .next ⟨sendMsg
        (modTagOn scs vtag (fun e => { e with pend := true, pendTill := max e.pendTill sweep }) s.m)
        src (.verReply (self s.m) j p vtag (locallyReady s.m scs vtag) scs.length), s.pending⟩) ∧
    (∀ src ready n,
      let a := takeAsked src vtag (pipeOf s.m j p).asked
      exec (.verReply src j p vtag ready n) s = .next ⟨modPipe s.m j p fun x => { x with
        asked := a.2
        checks := x.checks.map fun c =>
          if c.tag = vtag ∧ a.1 = some c.sweep ∧ (nearSweepEdge s.m = false ∨ s.m.tick.sweepNo + 1 < c.sweep) then
            { c with ready := c.ready.filter (· != src) ++ (if ready then [src] else []) }
          else c }, s.pending⟩) ∧
    (∀ old keep edge, s.m.tick.running = true → s.m.tick.tickNo < edge →
      exec (.verSwitch j p vtag old keep edge) s = .next ⟨modPipe s.m j p fun x =>
        { x with switches := x.switches ++ [(edge, vtag, old, keep)] }, s.pending⟩) ∧
    (∀ old keep edge, (s.m.tick.running = false ∨ edge ≤ s.m.tick.tickNo) →
      let m1 := modTag j p vtag (fun e => if e.state == 2 || e.state == 3 then { e with state := 3, pend := false, retired := false } else e) s.m
      let m2 := if old = vtag then m1
        else modTag j p old (fun e => if e.state == 3 then { e with state := 4, hold := keep, retired := false } else e) m1
      exec (.verSwitch j p vtag old keep edge) s = .next ⟨forAll (pipeScs s.m j p) (fun m sc =>
        modLocus m sc.1 sc.2 fun l => if l.keepTag = vtag then l else { l with keepTag := vtag, keptValid := [] }) m2, s.pending⟩) ∧
    (∀ id,
      let len := (((pipeOf s.m j p).admitted.find? fun a => a.1 == id).map (·.2.1)).getD 0
      exec (.verLastUnit j p vtag id) s = .next ⟨liveDown j p vtag (modPipe s.m j p fun x => { x with
        liveMbs := x.liveMbs.filter fun e => e.1 != id, tokensDone := x.tokensDone + len, mbDone := x.mbDone + 1 }), s.pending⟩) ∧
    (∀ tick, exec (.verRetire j p vtag tick) s = .next ⟨
      modTag j p vtag (fun e => if e.state == 4 then { e with retired := true } else e) s.m, s.pending⟩) ∧
    (∀ ids, isHome s.m j p = true → (∀ id ∈ ids, (pipeOf s.m j p).abandoned.contains id = true) →
      exec (.mbLost j p ids) s = .next ⟨sendReport false s.m, s.pending⟩) ∧
    (∀ id, (pipeOf s.m j p).abandoned.contains id = false →
      let m1 := modPipe s.m j p fun x => { x with
        abandoned := x.abandoned ++ [id]
        lostAt := (x.lostAt.filter fun e => !([id].contains e.1)) ++ [(id, s.m.tick.tickNo)]
        liveMbs := x.liveMbs.filter fun e => !([id].contains e.1), mbLoss := x.mbLoss.filter fun e => !([id].contains e.1) }
      let m2 := forAll (pipeScs m1 j p) (fun m sc => modSc m sc.1 sc.2 fun x =>
        { x with tokLoss := x.tokLoss.filter fun t => !([id].contains (t.1 / 8)) }) m1
      (isHome s.m j p = false → exec (.mbLost j p [id]) s = .next ⟨sendReport false m2, s.pending⟩) ∧
      (∀ v, isHome s.m j p = true → liveTag s.m j p id = some v →
        let m3 := liveDown j p v m2
        exec (.mbLost j p [id]) s = .next ⟨
          sendReport false (forAll (pipeModules m3 j p) (fun m d => sendMsg m d (.mbLost j p [id])) m3), s.pending⟩)))

/-- Loading. -/
def Obligations.LoadStreamsAreReceived : Prop :=
  (∀ (s : State) (d : DescIn), Ready s → d.ring < 32 → dOpcode d = 0x1A → earlyStatus s.m specLoad d = 0 →
    let r : LoadRun :=
      { ring := d.ring, index := d.index, tag := dTag d, quiet := dQuiet d, job := dJob s.m d, fromLink := mlFromLink d
        len := mlLen d, received := 0, buf := [], segs := 0, bad := 0, err := false, ended := false, lastEdge := s.m.edges
        targets := [], discard := false, ahead := [] }
    let m : Mach := { s.m with loads := s.m.loads ++ [r] }
    (mlFromLink d = false → exec (.modelLoad d) s = .next ⟨keepDesc d
      (readHost (portOf s.m d.ring) (mlSrc d) (mlLen d) false m), s.pending⟩) ∧
    (mlFromLink d = true → exec (.modelLoad d) s = .next ⟨keepDesc d (drainHeld (heldCount s.m + 1) m), s.pending⟩)) ∧
  (∀ (s : State) (r : LoadRun) (ofs : Nat) (data : List Byte), Ready s →
    let m := endOverdue s.m
    m.loads = [r] → r.fromLink = false → r.ended = false → r.err = false →
    (data ≠ [] → exec (.load 36 ofs data) s = .next ⟨pumpAll (feedStream 0 data (forwardLoad ofs data m)), s.pending⟩) ∧
    (exec (.load 36 ofs []) s = .next ⟨pumpAll (completeAt { m with loads := [] } r.quiet
      ⟨r.ring, r.index, r.tag, 0x0C, 0x1A, r.job, r.received, 0, (stamp m).1, (stamp m).2⟩), s.pending⟩)) ∧
  (∀ (s : State) (link ofs : Nat) (data : List Byte), Ready s → link < 36 →
    (let m0 := endOverdue s.m
     (tb (regN m0 offLoadUp) link = false → exec (.load link ofs data) s = .next ⟨
      pumpAll (raise (freeRx link 3 (flitsOf data.length) m0) loadOrphanEv (srcLink link) none [link, data.length]), s.pending⟩) ∧
     (tb (regN m0 offLoadUp) link = true → (∀ r ∈ m0.loads, r.discard = false) →
      let m := modLink m0 link fun x => { x with
        loadHeld := x.loadHeld ++ [(ofs, data)], loadSince := some (x.loadSince.getD m0.edges) }
      exec (.load link ofs data) s = .next ⟨pumpAll (drainHeld (heldCount m + 1) m), s.pending⟩)) ∧
    (∀ t, (linkOf s.m link).loadSince = some t → expired s.m t (regN s.m offLoadTimeout) = true → s.m.loads = [] →
      let n := ((linkOf s.m link).loadHeld.map fun h => h.2.length).foldl (· + ·) 0
      exec (.loadOrphan link) s = .next ⟨
        drainAhead (heldCount s.m + 1) (discardHeld (raise s.m loadOrphanEv (srcLink link) none [link, n])), s.pending⟩) ∧
    (∀ m : Mach, (discardHeld m).loads.length = m.loads.length + 1 ∧
      (∀ r ∈ (discardHeld m).loads.getLast?, r.discard = true ∧ r.ahead = m.links.flatMap (·.loadHeld)) ∧
      ∀ l, l < 36 → (linkOf (discardHeld m) l).loadHeld = []) ∧
    ((linkOf s.m link).loadSince = none → exec (.loadOrphan link) s = .next s)) ∧
  (∀ (s : State) (r : LoadRun), Ready s → s.m.loads = [r] → r.discard = false → r.ring < 32 →
    (∀ x ∈ s.m.descs, x.d.ring = r.ring ∧ x.d.index = r.index) →
    let done (st det : Nat) : Mach := completeAt { s.m with loads := [] } r.quiet
      ⟨r.ring, r.index, r.tag, st, 0x1A, r.job, det, 0, (stamp s.m).1, (stamp s.m).2⟩
    (r.err = true → exec (.modelLoadDone r.ring r.index) s = .next ⟨pumpAll (done 0x4F r.received), s.pending⟩) ∧
    (r.err = false → r.ended = false → r.len ≤ r.received →
      exec (.modelLoadDone r.ring r.index) s = .next ⟨pumpAll (done 0x4F r.received), s.pending⟩) ∧
    (r.err = false → r.ended = true → forwarding s.m = false → 0 < r.bad → exec (.modelLoadDone r.ring r.index) s = .next ⟨pumpAll (done 0x4E r.bad), s.pending⟩) ∧
    (r.err = false → r.ended = true → forwarding s.m = false → r.bad = 0 → exec (.modelLoadDone r.ring r.index) s = .next ⟨pumpAll (done 0 0), s.pending⟩))

/-- Programs and setups. -/
def Obligations.ProgramsAndSetupsAreInstalled : Prop :=
  ∀ (s : State) (d : DescIn), Ready s → d.ring < 32 →
    let j := dJob s.m d
    let l := (imageBytes d).getD []
    (dOpcode d = 0x28 → pgKind d ≠ 2 → earlyStatus s.m specProg d = 0 → (imageBytes d).isSome = true →
      let p (h : Nat) : Prog := ⟨h, j, pgKind d == 1, imageRecs l (pgLen d)⟩
      let full (h : Nat) : Bool := decide (16777216 < storeUsed s.m h + pgLen d)
      ((progStatus s.m d).1 ≠ 0 → exec (.progLoad d) s = .next ⟨
        finishDesc d false (progStatus s.m d).1 (progStatus s.m d).2 s.m, s.pending⟩) ∧
      ((progStatus s.m d).1 = 0 → pgHandle d = 0 →
        (∀ h, freeHandle s.m = some h → full h = false →
          exec (.progLoad d) s = .next ⟨finishDesc d false 0 h (putProg s.m (p h)), s.pending⟩) ∧
        ((freeHandle s.m = none ∨ ∃ h, freeHandle s.m = some h ∧ full h = true) →
          exec (.progLoad d) s = .next ⟨finishDesc d false 0x56 0 s.m, s.pending⟩)) ∧
      (∀ o, (progStatus s.m d).1 = 0 → pgHandle d ≠ 0 → progImage s.m (pgHandle d) = some o →
        let other : Prop := o.job ≠ j ∨ o.strand ≠ (pgKind d == 1) ∨ (dKind d = 0 ∧ handleNamed s.m (pgHandle d) = true)
        (other → exec (.progLoad d) s = .next ⟨finishDesc d false 0x55 0 s.m, s.pending⟩) ∧
        (¬other → full (pgHandle d) = true → exec (.progLoad d) s = .next ⟨finishDesc d false 0x56 0 s.m, s.pending⟩) ∧
        (¬other → full (pgHandle d) = false →
          exec (.progLoad d) s = .next ⟨finishDesc d false 0 0 (putProg s.m (p (pgHandle d))), s.pending⟩)) ∧
      ((progStatus s.m d).1 = 0 → pgHandle d ≠ 0 → progImage s.m (pgHandle d) = none →
        exec (.progLoad d) s = .next ⟨finishDesc d false 0x55 0 s.m, s.pending⟩)) ∧
    (dOpcode d = 0x28 → pgKind d = 2 → earlyStatus s.m specProg d = 0 →
      let h := pgHandle d
      ((∀ o, progImage s.m h = some o → h = 0 ∨ o.job ≠ j ∨ handleNamed s.m h = true) →
        exec (.progLoadFree d) s = .next ⟨finishDesc d false 0x55 0 s.m, s.pending⟩) ∧
      (∀ o, progImage s.m h = some o → h ≠ 0 → o.job = j → handleNamed s.m h = false → exec (.progLoadFree d) s = .next ⟨
        finishDesc d false 0 0 { s.m with progs := s.m.progs.filter fun x => x.handle != h }, s.pending⟩)) ∧
    (dOpcode d = 0x30 → earlyStatus s.m specFold d = 0 →
      let n := fsChan d
      let foreign : Prop := (chanOf s.m n).en = true ∧ ((chanOf s.m n).job ≠ j ∨ (chanOf s.m n).pipe ≠ fsPipe d)
      (fsEn d = false → foreign → exec (.foldSetup d) s = .next ⟨finishDesc d false 0x6D 0 s.m, s.pending⟩) ∧
      (fsEn d = false → ¬foreign → exec (.foldSetup d) s = .next ⟨finishDesc d false 0 0
        (modChan (freeParts (chanOf s.m n).parts s.m) n fun _ => { Channel.init with widened := (chanOf s.m n).widened }), s.pending⟩) ∧
      (∀ c, fsEn d = true → (imageBytes d).isSome = true → foldFault s.m d l = some c →
        exec (.foldSetup d) s = .next ⟨finishDesc d false 0x6C c s.m, s.pending⟩) ∧
      (fsEn d = true → (imageBytes d).isSome = true → foldFault s.m d l = none → ¬foreign →
        (∀ c, c < 32 → c ≠ n → (chanOf s.m c).en = true → (chanOf s.m c).job = j → (chanOf s.m c).pipe = fsPipe d →
          fsLoss d = true → (chanOf s.m c).lossEn = false) →
        (fsOrdered d = true → fsTopo d = 2 → regN s.m (offFoldWindow n) ≠ 0) →
        let c := readChannel s.m d l
        let m := modChan (freeParts (chanOf s.m n).parts s.m) n fun _ => c
        exec (.foldSetup d) s = .next ⟨finishDesc d false 0 0 (openChannel n
          (if c.fmt = 2 then ((c.layers.filter fun y => y.rank == 0).map (·.tensor)).foldl (declareTensor j) m else m)), s.pending⟩)) ∧
    (dOpcode d = 0x34 → earlyStatus s.m specUpdate d = 0 → (imageBytes d).isSome = true →
      (∀ c, updFault s.m d l = some c → exec (.updateSetup d) s = .next ⟨finishDesc d false 0x66 c s.m, s.pending⟩) ∧
      (updFault s.m d l = none → exec (.updateSetup d) s = .next ⟨
        finishDesc d false 0 0 (modPipe s.m j (usPipe d) fun x => { x with setup := some (readSetup d l) }), s.pending⟩)) ∧
    (dOpcode d = 0x38 → earlyStatus s.m specAct d = 0 →
      let a := readPolicy s.m d
      let m := modPipe s.m j (apPipe d) fun x => { x with
        acts := a :: x.acts.filter fun b => !(decide (a.first ≤ b.first) && decide (b.last ≤ a.last)) }
      let excess : Prop := a.policy = 1 ∧ regN s.m offHostShare * 24 * (timing s.m).period < offloadBytes m
      (actBad s.m d a = true → exec (.actPolicy d) s = .next ⟨finishDesc d false 0x67 0 s.m, s.pending⟩) ∧
      (actBad s.m d a = false → excess → exec (.actPolicy d) s = .next ⟨finishDesc d false 0x68 0 s.m, s.pending⟩) ∧
      (actBad s.m d a = false → ¬excess → exec (.actPolicy d) s = .next ⟨finishDesc d false 0 0 m, s.pending⟩))

/-- Snapshot descriptors. -/
def Obligations.SnapshotDescriptorsActAtTheirEdge : Prop :=
  (∀ (m : Mach) (j : Nat) (l : List Byte), j < m.jobs.length →
    let h := dtHead l
    let x := snapOf (armTable j l m) j
    x.armed = true ∧ x.cut = none ∧ x.mirror = tb h 51 ∧ x.m = bf h 50 49 ∧ x.k = bf h 48 44 ∧ x.leader = bf h 36 25 ∧
    x.self = bf h 24 13 ∧ x.members = readMembers l ∧ x.targets = readTargets l ∧ x.lastCut = m.tick.sweepNo) ∧
  (∀ (m : Mach) (j : Nat), j < m.jobs.length →
    (snapOf (disarm j m) j).armed = false ∧ (snapOf (disarm j m) j).cut = none ∧ (snapOf (disarm j m) j).gens = []) ∧
  ∀ (s : State) (d : DescIn), Ready s → d.ring < 32 →
    let j := dJob s.m d
    let l := (imageBytes d).getD []
    (dOpcode d = 0x40 → earlyStatus s.m specSnapTake d = 0 →
      (stAction d = 0 → (snapOf s.m j).armed = false →
        exec (.snapTakeCut d) s = .next ⟨finishDesc d false 0x72 0 s.m, s.pending⟩) ∧
      (stAction d = 0 → (snapOf s.m j).armed = true → (snapOf s.m j).cut.isSome = true →
        exec (.snapTakeCut d) s = .next ⟨finishDesc d false 0x71 0 s.m, s.pending⟩) ∧
      (stAction d = 0 → (snapOf s.m j).armed = true → (snapOf s.m j).cut = none →
        exec (.snapTakeCut d) s = .next ⟨finishDesc d false 0 0 (takeCut j false s.m), s.pending⟩) ∧
      (stAction d = 1 → (imageBytes d).isSome = true → tableBad s.m (stLen d) l = true →
        exec (.snapTakeArm d) s = .next ⟨finishDesc d false 0x70 0 s.m, s.pending⟩) ∧
      (stAction d = 1 → (imageBytes d).isSome = true → tableBad s.m (stLen d) l = false →
        exec (.snapTakeArm d) s = .next ⟨finishDesc d false 0 0 (armTable j l s.m), s.pending⟩) ∧
      (stAction d = 2 → exec (.snapTakeDisarm d) s = .next ⟨finishDesc d false 0 0 (disarm j s.m), s.pending⟩)) ∧
    (dOpcode d = 0x41 → earlyStatus s.m specRestore d = 0 → (imageBytes d).isSome = true →
      (s.m.tick.running = true → exec (.snapRestore d) s = .next ⟨finishDesc d false 0x73 0 s.m, s.pending⟩) ∧
      (s.m.tick.running = false → tableBad s.m (srLen d) l = true →
        exec (.snapRestore d) s = .next ⟨finishDesc d false 0x70 0 s.m, s.pending⟩) ∧
      (s.m.tick.running = false → tableBad s.m (srLen d) l = false → layoutBad s.m j = true →
        exec (.snapRestore d) s = .next ⟨finishDesc d false 0x76 0 s.m, s.pending⟩) ∧
      (∀ f, s.m.tick.running = false → tableBad s.m (srLen d) l = false → layoutBad s.m j = false → noRoom s.m j = some f →
        exec (.snapRestore d) s = .next ⟨finishDesc d false 0x75 f s.m, s.pending⟩) ∧
      (s.m.tick.running = false → tableBad s.m (srLen d) l = false → layoutBad s.m j = false → noRoom s.m j = none →
        let m := armTable j l s.m
        let peers := ((((snapOf m j).targets.filter fun t => t.1 == 1 && t.2 != self m).map (·.2)
          ++ if m.twin.paired then [m.twin.modNum] else []).eraseDups).filter fun p => p != self m && (routeOf m p).isSome
        let n := if enabledRing m 34 then min (srHostN d) (m.host.snapProd - m.host.snapCons).toNat else 0
        let places := (List.range n).map fun i => entryAddr (regN m offSnapBase) (m.host.snapCons.toNat + i) (regN m 0x10058) 64
        let reads := forAll places (fun m a => emit m (.hostRead (portOf m 34) a 64 false)) m
        let r : Restore :=
          { ring := d.ring, index := d.index, tag := dTag d, want := db d 191 128, exclHist := db d 288 288 == 1
            exclProj := db d 289 289 == 1, verify := db d 290 290 == 1, quiet := dQuiet d, places := places
            awaited := peers ++ (if n = 0 then [] else [self m]), answered := [], manifests := heldManifests m j, refused := [], reports := []
            chosen := none, held := none }
        let asked := forAll peers (fun m p => sendMsg m p (.snapManifests (self m) j true []))
          (modSnap (modHost reads fun h => { h with snapCons := h.snapCons + BitVec.ofNat 32 n }) j fun x => { x with restore := some r })
        (r.awaited = [] → exec (.snapRestore d) s = .next ⟨reportGens j (keepDesc d asked), s.pending⟩) ∧
        (r.awaited ≠ [] → exec (.snapRestore d) s = .next ⟨keepDesc d asked, s.pending⟩)))

/-- Job contexts and rollout. -/
def Obligations.JobDescriptorsActAtTheirEdge : Prop :=
  ∀ (s : State) (d : DescIn), Ready s → d.ring < 32 →
    let j := dJob s.m d
    let l := (imageBytes d).getD []
    let x := jobOf s.m j
    (dOpcode d = 0x48 → earlyStatus s.m specJobAdmit d = 0 → (imageBytes d).isSome = true →
      let cs := readClaims l
      let nospill := (jobPreempt s.m j || jobGroup s.m j != 0) && cs.any (fun c => c.liveSize != 0 && !c.spillEn)
      let others := (List.range 16).filter fun k => k != j && (jobOf s.m k).admitted && claimsMeet cs (jobOf s.m k).claims
      ((x.admitted = true ∨ x.releasing = true) → exec (.jobAdmit d) s = .next ⟨finishDesc d false 0x78 0 s.m, s.pending⟩) ∧
      (∀ i, x.admitted = false → x.releasing = false → claimFault s.m (jaLen d) l = some i →
        exec (.jobAdmit d) s = .next ⟨finishDesc d false 0x79 i s.m, s.pending⟩) ∧
      (x.admitted = false → x.releasing = false → claimFault s.m (jaLen d) l = none → nospill = true →
        exec (.jobAdmit d) s = .next ⟨finishDesc d false 0x7A 0 s.m, s.pending⟩) ∧
      (∀ k, x.admitted = false → x.releasing = false → claimFault s.m (jaLen d) l = none → nospill = false →
        (others.find? fun k => !mayOverlap s.m j k) = some k →
        exec (.jobAdmit d) s = .next ⟨finishDesc d false 0x7B k s.m, s.pending⟩) ∧
      (x.admitted = false → x.releasing = false → claimFault s.m (jaLen d) l = none → nospill = false →
        (∀ k ∈ others, mayOverlap s.m j k = true) →
        let susp := others.any (running s.m)
        let key := writtenKey s.m j
        let put (x : Job) : Job :=
          { x with admitted := true, suspended := susp, claims := cs, key := key, srKey := key, debt := 0, suspTicks := 0 }
        let m := regSet (regSet (modJob s.m j put) (offJob j + 0x20) 0) (offJob j + 0x28) 0
        (susp = true → exec (.jobAdmit d) s = .next ⟨finishDesc d false 0 0 m, s.pending⟩) ∧
        (susp = false → exec (.jobAdmit d) s = .next ⟨finishDesc d false 0 0 (startTurn j m), s.pending⟩))) ∧
    (dOpcode d = 0x49 → earlyStatus s.m specRelease d = 0 →
      ((x.admitted = false ∨ x.releasing = true) → exec (.jobRelease d) s = .next ⟨finishDesc d false 0x7C 0 s.m, s.pending⟩) ∧
      (x.admitted = true → x.releasing = false → j < s.m.jobs.length →
        ∃ m', exec (.jobRelease d) s = .next ⟨finishDesc d false 0 0 m', s.pending⟩ ∧
          (jobOf m' j).releasing = true ∧ (jobOf m' j).turnEnd = none ∧ (jobOf m' j).holdUntil = none ∧
          (∀ p ∈ (jobOf m' j).pipes, p.queue = []) ∧ (∀ p ∈ m'.progs, p.job ≠ j))) ∧
    (dOpcode d = 0x4A → earlyStatus s.m specPreempt d = 0 →
      (jpAction d = 0 →
        let victims := (List.range 16).filter fun k => k != j && running s.m k && jobsMeet s.m k j
        (waitsSwitch s.m j = false → exec (.switchIn d) s = .next ⟨finishDesc d false 0x7C 0 s.m, s.pending⟩) ∧
        (∀ k, waitsSwitch s.m j = true → (victims.find? fun k => !preemptible s.m k || decide (jobPrio s.m j ≤ jobPrio s.m k)) = some k →
          exec (.switchIn d) s = .next ⟨finishDesc d false 0x7D k s.m, s.pending⟩) ∧
        (waitsSwitch s.m j = true → (∀ k ∈ victims, preemptible s.m k = true ∧ jobPrio s.m k < jobPrio s.m j) →
          exec (.switchIn d) s = .next ⟨finishDesc d false 0 0 (switchJobs victims [j] (forAll victims (fun m k =>
            modJob m k fun x => { x with missesTurns := x.missesTurns || (jobGroup m k != 0 && jobGroup m k != jobGroup m j) }) s.m)), s.pending⟩)) ∧
      (jpAction d = 1 → running s.m j = true →
        exec (.yieldJob d) s = .next ⟨finishDesc d false 0 0
        (modJob (switchJobs [j] (comeIn s.m [j]) s.m) j fun x => { x with yielded := true }), s.pending⟩) ∧
      (jpAction d = 1 → running s.m j = false → exec (.yieldJob d) s = .next ⟨finishDesc d false 0x7C 0 s.m, s.pending⟩)) ∧
    (dOpcode d = 0x50 → earlyStatus s.m specRollout d = 0 →
      let live := match (pipeOf s.m j (rcPipe d)).rollout with | some r => r.slots.any (·.isSome) | none => false
      (∀ c, rolloutFault s.m d = some c → exec (.rolloutCfg d) s = .next ⟨finishDesc d false 0x7E c s.m, s.pending⟩) ∧
      (rolloutFault s.m d = none → live = true → exec (.rolloutCfg d) s = .next ⟨finishDesc d false 0x7F 0 s.m, s.pending⟩) ∧
      (rolloutFault s.m d = none → live = false → rcEn d = true → exec (.rolloutCfg d) s = .next ⟨finishDesc d false 0 0
        (modPipe s.m j (rcPipe d) fun x => { x with rollout := some (readRollout s.m d) }), s.pending⟩) ∧
      (rolloutFault s.m d = none → live = false → rcEn d = false → exec (.rolloutCfg d) s = .next ⟨finishDesc d false 0 0
        (modPipe s.m j (rcPipe d) fun x => { x with rollout := none }), s.pending⟩))

/-! ### Ticks -/

/-- The edge. -/
def Obligations.TickEdgesAdvanceAndRunTheirSteps : Prop :=
  (∀ (s : State) (missed : List Nat) (meter : PowerMeter), Ready s →
    (edgeDue s.m = false → exec (.tickEdge missed meter) s = .next s) ∧
    (edgeDue s.m = true →
      let a := pumpAll (overdueLoads s.m)
      let m0 : Mach := { startHeld a { a with now := gridEdge a } with now := a.now }
      let i := edgeInfo m0
      let m1 := stepOne i missed m0
      let m3 := stepTwoThree i m1
      let m4 := nextTick (gridEdge m0) (stepFour i m0 (if i.sweep then settleSweep meter m1 m3 else m3))
      let m := (List.range 16).foldl (fun m j => match (jobOf m j).holdUntil with
        | some t => if t ≤ m.now then debtHoldEndOp j m else m
        | none => m) m4
      (i.stop = true → exec (.tickEdge missed meter) s = .next ⟨stopEdge (overdueLoads m), s.pending⟩) ∧
      (i.stop = false → exec (.tickEdge missed meter) s =
        .next ⟨sendReport true (announceMaps (pumpAll (stepFive m0 m))), s.pending⟩))) ∧
  (∀ (i : EdgeInfo) (m : Mach), i.first = false → i.sym = none →
    (advance i m).tick.tickNo = m.tick.tickNo + 1 ∧
    (advance i m).tick.sweepNo = m.tick.sweepNo + (if i.sweep then 1 else 0) ∧
    (advance i m).tick.overtime = m.tick.overtime + (if i.sweep = false ∧ sweepDue m = true then 1 else 0)) ∧
  (∀ (i : EdgeInfo) (m : Mach), i.first = true → i.sym = none →
    (advance i m).tick.tickNo = m.tick.baseTick ∧ (advance i m).tick.sweepNo = m.tick.baseSweep) ∧
  (∀ (i : EdgeInfo) (m : Mach) (y : TickSym), i.sym = some y →
    (advance i m).tick.tickNo = y.tick ∧ (advance i m).tick.sweepNo = y.sweep ∧
    (advance i m).tick.follow = some ⟨y.period, y.sweepLen, y.fill, y.steady, y.drain, y.fold, y.update, y.grace⟩) ∧
  (∀ (i : EdgeInfo) (m : Mach),
    (advance i m).tick.running = true ∧ (advance i m).edges = m.edges + 1 ∧ m.now ≤ (advance i m).now ∧
    (advance i m).tick.edgeAt = (advance i m).now ∧
    { advance i m with now := m.now, edges := m.edges, tick := m.tick } = m)

/-- Phases of a sweep (R48). -/
def Obligations.PhasesLastTheirSetTicks : Prop :=
  ∀ t : Timing, t.used < t.sweepLen →
    (∀ k, phaseOf t k ≤ phaseOf t (k + 1)) ∧ (∀ k, t.sweepLen ≤ k → phaseOf t k = 5) ∧
    (∀ p, p ≤ 5 → ((List.range t.sweepLen).filter fun k => phaseOf t k == p).length =
      [t.fill, t.steady, t.drain, t.fold, t.update, t.sweepLen - t.used].getD p 0)

/-- Symbols, reports, holdover, reference. -/
def Obligations.TickSymbolsHoldoverAndReference : Prop :=
  ∀ s : State, Ready s →
    let t := s.m.tick
    let own := (t.running && (t.master || t.holdover)) || (t.armed && !t.running && t.master)
    (own = false ∨ t.sampled.isSome = true → exec .tickSymbolSend s = .next s) ∧
    (own = true → t.sampled = none →
      let m : Mach := if t.armed && t.refEn then s.m else endOverdue (atTime s.m (gridEdge s.m - 200))
      exec .tickSymbolSend s = .next ⟨sendSym (nextSym m) (2 ^ 32 - 1)
        (modTick (if (nextSym m).sweepEdge then announceSwitches m else m) fun t => { t with sampled := some (nextSym m) }), s.pending⟩) ∧
    (∀ link sym, link < 36 →
      (link ≠ t.uplink ∨ (t.holdover = true ∧ t.relock = false) ∨ (t.holdover = false ∧ t.master = true) →
        exec (.tickSymbol link sym) s = .next s) ∧
      (link = t.uplink → t.holdover = false → t.master = false → t.running = true →
        let took := (linkOf s.m link).lat + sym.delay
        (2000000 < took + 100000 → exec (.tickSymbol link sym) s = .next ⟨
          raise s.m tickAnnLate (srcLink link) none [link, sym.tick, (2000000 - took) / 1000], s.pending⟩) ∧
        (took + 100000 ≤ 2000000 →
          let edge := s.m.now + 200 - took / 10000
          let m1 := sendSym { sym with delay := took % 2 ^ 32 } 40000 (modTick s.m fun t =>
            { t with sym := some sym, symEdge := edge, missed := 0,
                     slew := if t.nextEdge < edge then 1 else if edge < t.nextEdge then -1 else 0 })
          exec (.tickSymbol link sym) s = .next ⟨
            if sym.sweepEdge = true ∧ t.sym ≠ some sym then announceSwitches m1 else m1, s.pending⟩)) ∧
      (link = t.uplink → t.holdover = true → t.relock = true →
        let took := (linkOf s.m link).lat + sym.delay
        (2000000 < took + 100000 → exec (.tickSymbol link sym) s = .next ⟨
          raise s.m tickAnnLate (srcLink link) none [link, sym.tick, (2000000 - took) / 1000], s.pending⟩) ∧
        (took + 100000 ≤ 2000000 → sym.tick ≠ t.tickNo + 1 →
          exec (.tickSymbol link sym) s = .next ⟨raise (modTick s.m fun t => { t with relock := false })
            tickConfigErr (srcUnit 0) none [], s.pending⟩) ∧
        (took + 100000 ≤ 2000000 → sym.tick = t.tickNo + 1 →
          let m1 := takeSym link sym (modTick s.m fun t => { t with holdover := false, relock := false, sampled := none })
          exec (.tickSymbol link sym) s = .next ⟨
            if sym.sweepEdge = true ∧ t.sym ≠ some sym then announceSwitches m1 else m1, s.pending⟩))) ∧
    (let due : Prop := t.running = true ∧ t.master = false ∧ t.holdover = false ∧ 2 ≤ t.missed
     (due → exec .tickHoldover s = .next ⟨raise (modTick s.m fun t =>
       { t with holdover := true, relock := false, locked := false }) tickHoldoverEv (srcUnit 0) none [], s.pending⟩) ∧
     (¬due → exec .tickHoldover s = .next s)) ∧
    (∀ err, t.master = false ∨ t.refEn = false → exec (.tickRefPulse err) s = .next s) ∧
    (∀ err, t.master = true → t.refEn = true →
      (t.armed = true → t.running = false → t.refOk = false → exec (.tickRefPulse err) s = .next ⟨modTick s.m fun t =>
        { t with refOk := true, nextEdge := s.m.now, refEdge := s.m.edges + 1 }, s.pending⟩) ∧
      (t.running = true → t.armed = false → t.refOk = true → -1000000 ≤ err → err ≤ 1000000 →
        exec (.tickRefPulse err) s = .next ⟨modTick s.m fun t => { t with
          refEdge := if s.m.now - t.edgeAt ≤ gridEdge s.m - s.m.now then s.m.edges else s.m.edges + 1
          slew := if 5000 ≤ err then 1 else if err ≤ -5000 then -1 else 0 }, s.pending⟩) ∧
      (t.running = true → t.armed = false → t.refOk = true → (err < -1000000 ∨ 1000000 < err) →
        exec (.tickRefPulse err) s = .next ⟨
          raise (modTick s.m fun t => { t with refOk := false }) tickRefLostEv (srcUnit 0) none [], s.pending⟩) ∧
      (t.running = true → t.armed = false → t.refOk = false → exec (.tickRefPulse err) s = .next s)) ∧
    (let due : Prop := t.running = true ∧ t.master = true ∧ t.refEn = true ∧ t.refOk = true ∧ t.refEdge + 2 * t.refDiv ≤ s.m.edges
     (due → exec .tickRefLost s = .next ⟨
       raise (modTick s.m fun t => { t with refOk := false }) tickRefLostEv (srcUnit 0) none [], s.pending⟩) ∧
     (¬due → exec .tickRefLost s = .next s)) ∧
    (∀ link done sweep, link < 36 → link ∉ downlinks s.m → exec (.sweepStateReport link done sweep) s = .next s) ∧
    (∀ link done sweep, link < 36 → link ∈ downlinks s.m → exec (.sweepStateReport link done sweep) s = .next ⟨
      sendReport false (modTick s.m fun t =>
        { t with reports := t.reports ++ [(link, sweep, done, s.m.now)] }), s.pending⟩)

/-! ### Slots and chords -/

/-- Slots, waves, activation transfers, boundary copies. -/
def Obligations.SlotsCompleteAndWaitForEntries : Prop :=
  ∀ (s : State) (f c : Nat), Ready s → f < 96 → c < 4 →
    let x := scOf s.m f c
    (slotDone s.m f c = false → exec (.slotComplete f c) s = .next ⟨sendReport false s.m, s.pending⟩) ∧
    (∀ j e r, slotDone s.m f c = true → x.owner = some (j, e) → x.run = some r →
      let m1 := finishUnits f c j e s.m
      let t := m1.now - r.startAt
      let m2 := if r.units.isEmpty then m1
        else if r.fetched then slotStats f c j e t (min t (freeVal m1 32).toNat) (spendFree m1)
        else slotStats f c j e t 0 m1
      let rets := (inChords m2 f c 3 false).flatMap fun q => List.replicate q.taken q.e.chord
      let m3 := forAll rets (fun m n => releaseEntry n m) m2
      let m4 := modFacet m3 f fun y => { y with prisms := y.prisms.map fun p => { p with kept := p.kept.filter fun k => k.sc != c } }
      exec (.slotComplete f c) s = .next ⟨sendReport false
        (modSc m4 f c fun x => { x with run := none, owner := mapOwner m4 f c }), s.pending⟩) ∧
    (∀ dir, dir < 2 → (∀ j e r w, x.owner = some (j, e) → x.run = some r →
      (r.waves.find? fun w => w.1 == dir) = some w → w.2 ≤ (atTime s.m w.2).now →
      let m := waveArrive f c dir (atTime s.m w.2)
      let waits := ((scOf m f c).run.map fun r => r.waves.any fun w => w.1 == dir).getD false
      let p := passClass m dir j e (inChords m f c dir false) m
      (waits = false → exec (.waveDeadline f c dir) s = .next ⟨m, s.pending⟩) ∧
      (waits = true → exec (.waveDeadline f c dir) s = .next ⟨
        poke f c (dropWave f c dir (countBubble j e.pipe p.1 (modSc p.2 f c fun x =>
          { x with shift := x.shift + (if p.1 = 3 then 1 else 0), fwd := if dir = 0 then p.1 else x.fwd,
                   bwd := if dir = 1 then p.1 else x.bwd }))), s.pending⟩))) ∧
    (∀ key j e a y, x.owner = some (j, e) → actOf x key = some y → actPolicyOf s.m j e = some a →
      (∀ bs, y.state = 4 → exec (.actPrefetchDone f c key (.bytes bs)) s = .next ⟨poke f c (openUnit f c
        (setAct f c key (fun s => some { s with state := 5 }) (writeChecked s.m f 1 (actAddr a y.slot) (bs.take a.bytes)))), s.pending⟩) ∧
      (∀ g, y.state = 4 → exec (.actPrefetchDone f c key (.error g)) s = .next ⟨
        setAct f c key (fun s => some { s with state := 3 }) s.m, s.pending⟩) ∧
      (∀ r, y.state ≠ 4 → exec (.actPrefetchDone f c key r) s = .next s) ∧
      (y.state = 2 → exec (.actWriteoutDone f c key true) s = .next ⟨poke f c (openUnit f c
        (setAct f c key (fun s => some { s with state := 3 })
          (emit s.m (.hostWrite a.ep (actHost a e.stage y.u) (readMem s.m f 1 (actAddr a y.slot) a.bytes) true)))), s.pending⟩) ∧
      (y.state = 2 → exec (.actWriteoutDone f c key false) s = .next ⟨
        setAct f c key (fun s => some { s with state := 1 }) s.m, s.pending⟩) ∧
      (∀ ok, y.state ≠ 2 → exec (.actWriteoutDone f c key ok) s = .next s)) ∧
    (∀ j p, j < 16 → p < 4 →
      ((∀ r, (pipeOf s.m j p).rebal = some r → r.copied.isSome = true) → exec (.rebalCopyDone j p) s = .next s) ∧
      (∀ r a b y, (pipeOf s.m j p).rebal = some r → r.copied = none → stageEntry s.m j p r.from_ = some a →
        stageEntry s.m j p r.toStage = some b →
        (let ls := (locusOf s.m a.facet a.sc).layers
         (if r.from_ < r.toStage then ls.getLast? else ls.head?) = some y) →
        let tags := ((locusOf s.m a.facet a.sc).entries.filter fun e => e.state != 0).map (·.vtag)
        exec (.rebalCopyDone j p) s = .next ⟨modPipe (copyVersions a b y (layoutEnd (locusOf s.m b.facet b.sc)) [] s.m) j p fun x =>
          { x with rebal := some { r with copied := some s.m.tick.tickNo, tags := tags } }, s.pending⟩))

/-- Chords. -/
def Obligations.ChordEntriesCommitAndCreditsReturn : Prop :=
  (∀ (m : Mach) (f off : Nat) (bs : List Byte), ringChord m f off = none →
    windowWrite f off bs m = (none, windowDrop arcFault f off none m)) ∧
  (∀ (m : Mach) (f off : Nat) (bs : List Byte) (c : Chord), ringChord m f off = some c →
    let rel := off - c.e.hdrBase * 4096
    let h := headerMb (leNat bs)
    let d := chordDepth c.e
    (bs.length ≠ 64 ∨ rel % 256 ≠ 0 → windowWrite f off bs m = (none, windowDrop arcFault f off (some c) m)) ∧
    (bs.length = 64 → rel % 256 = 0 →
      (h.2.1 = c.rxSeq → rel / 256 ≠ c.rxSeq % d → windowWrite f off bs m = (none, windowDrop arcFault f off (some c) m)) ∧
      (h.2.1 = c.rxSeq → rel / 256 = c.rxSeq % d → d ≤ c.queue.length + c.taken →
        windowWrite f off bs m = (none, windowDrop arcOverrun f off (some c) m)) ∧
      (h.2.1 = c.rxSeq → rel / 256 = c.rxSeq % d → c.queue.length + c.taken < d →
        windowWrite f off bs m = (some c.e.chord, commitEntry c.e.chord f off h.1 c.rxSeq bs m)) ∧
      (h.2.1 ≠ c.rxSeq → (rel / 256 = h.2.1 % d ∨ rel / 256 = c.rxSeq % d) →
        windowWrite f off bs m = (none, seqError c.e.chord h.2.1 m)) ∧
      (h.2.1 ≠ c.rxSeq → rel / 256 ≠ h.2.1 % d → rel / 256 ≠ c.rxSeq % d →
        windowWrite f off bs m = (none, windowDrop arcFault f off (some c) m)))) ∧
  (∀ (m : Mach) (n f off : Nat) (mb : MbInfo) (seq : Nat) (bs : List Byte) (c : Chord), chordBy m n = some c →
    ∃ c', chordBy (commitEntry n f off mb seq bs m) n = some c' ∧
      c'.queue.map (·.mb) = c.queue.map (·.mb) ++ [mb] ∧ c'.rxSeq = (c.rxSeq + 1) % 65536 ∧ c'.taken = c.taken ∧
      (c.e.mode = 1 → ∀ q ∈ c'.queue, q.visible = true)) ∧
  ∀ s : State, Ready s →
    (∀ f off data, f < 96 →
      (∀ e, nextHeader s.m f off data = some e →
        let m0 : Mach := { s.m with chordNet := s.m.chordNet.erase e }
        exec (.chordWrite f off data none) s = .next ⟨sendReport false
          (settleHeader e.srcFacet e.srcSc (bf e.header.toNat 105 96)
            (if e.stale then m0 else afterWindow f off (windowWrite f off data m0))), s.pending⟩) ∧
      (nextHeader s.m f off data = none → exec (.chordWrite f off data none) s = .next ⟨sendReport false s.m, s.pending⟩) ∧
      (∀ w : ChordFar,
        let answer (m : Mach) : Mach := sendMsg m w.src (.resp w.opid (some (0, [])))
        (lateWrite s.m w.chord = true →
          exec (.chordWrite f off data (some w)) s = .next ⟨sendReport false (answer s.m), s.pending⟩) ∧
        (lateWrite s.m w.chord = false → w.space = 3 → exec (.chordWrite f off data (some w)) s = .next ⟨
          sendReport false (answer (afterWindow f off (windowWrite f off data s.m))), s.pending⟩) ∧
        (lateWrite s.m w.chord = false → w.space ≠ 3 → exec (.chordWrite f off data (some w)) s = .next ⟨sendReport false
          (reqFar w.src w.opid ⟨word (latAddr ⟨self s.m, f, w.space, off⟩), 0x33, 0, data.length, data, 0⟩ s.m), s.pending⟩))) ∧
    (∀ n, n < 1024 →
      (chordBy s.m n = none → (∀ cnt, exec (.credit n cnt) s = .next ⟨sendReport false s.m, s.pending⟩) ∧ exec (.creditTimeout n) s = .next s ∧
        (∀ a b d, exec (.chordLoss n a b d) s = .next ⟨sendReport false s.m, s.pending⟩) ∧
        (∀ depth kind mode keep, exec (.chordCheck n depth kind mode keep) s = .next ⟨{ s.m with
          earlyChecks := (s.m.earlyChecks.filter fun x => x.1 != n) ++ [(n, depth, kind)] }, s.pending⟩)) ∧
      (∀ c, chordBy s.m n = some c →
        ((chordOpen c = false ∨ hasProducer c.e = false) → ∀ cnt,
          exec (.credit n cnt) s = .next ⟨sendReport false s.m, s.pending⟩) ∧
        (chordOpen c = true → hasProducer c.e = true → ∀ cnt, exec (.credit n cnt) s = .next ⟨
          sendReport false (tallyWake c.e.srcFacet c.e.creditTally (serveWaiting 32 n
            (modChord (tallyAddN s.m c.e.srcFacet c.e.creditTally cnt) n fun c => { c with sent := c.sent.drop cnt }))),
          s.pending⟩) ∧
        (∀ t, c.waitFrom = some t →
          (c.waitRaised = false → expired s.m t (regN s.m offCreditTimeout) = true → exec (.creditTimeout n) s = .next ⟨
            raise (modChord s.m n fun c => { c with waitRaised := true }) creditTimeoutEv (srcFacet c.e.srcFacet 1) (some c.job)
              [n, c.e.srcFacet, c.e.srcSc], s.pending⟩) ∧
          ((c.waitRaised = true ∨ expired s.m t (regN s.m offCreditTimeout) = false) →
            exec (.creditTimeout n) s = .next s)) ∧
        (c.waitFrom = none → exec (.creditTimeout n) s = .next s) ∧
        (∀ first cnt dropped,
          let ids := (c.sent.filter fun p => decide ((p.1 + 65536 - first) % 65536 < cnt) || p.1 == dropped).map (·.2)
          (ids = [] → exec (.chordLoss n first cnt dropped) s = .next ⟨sendReport false s.m, s.pending⟩) ∧
          (ids ≠ [] → exec (.chordLoss n first cnt dropped) s =
            .next ⟨sendReport false (abandonMb c.job (chordPipe s.m c) ids.eraseDups s.m), s.pending⟩)) ∧
        (∀ depth kind mode keep,
          ((depth ≠ c.e.depth ∨ kind ≠ c.e.kind) →
            let m1 := modChord s.m n fun c => { c with closed := true }
            let m2 := if hasProducer c.e then tallySet m1 c.e.srcFacet c.e.creditTally 0 else m1
            (c.closed = true → exec (.chordCheck n depth kind mode keep) s = .next s) ∧
            (c.closed = false → exec (.chordCheck n depth kind mode keep) s = .next ⟨
              raise m2 chordMismatch (srcFacet (if hasProducer c.e then c.e.srcFacet else c.e.dstFacet) 1) (some c.job)
                [n, if depth ≠ c.e.depth then 1 else 2], s.pending⟩)) ∧
          (depth = c.e.depth → kind = c.e.kind → c.checked = false →
            exec (.chordCheck n depth kind mode keep) s = .next ⟨serveWaiting 32 n
              (modChord s.m n fun c => { c with checked := true }), s.pending⟩) ∧
          (depth = c.e.depth → kind = c.e.kind → c.checked = true →
            let m := modChord s.m n fun c => { c with farKeep := some (keep && !nearSweepEdge s.m) }
            (c.asked = true → exec (.chordCheck n depth kind mode keep) s = .next ⟨m, s.pending⟩) ∧
            (c.asked = false → exec (.chordCheck n depth kind mode keep) s =
              .next ⟨sendCheck n (keepsNext s.m n) m, s.pending⟩)))))

/-! ### Prisms and rays -/

/-- Prism and ray commands. -/
def Obligations.EngineCommandsIssueAndComplete : Prop :=
  (∀ (s : State) (f c : Nat) (r : Rec) (j : Nat), Ready s → f < 96 → c < 4 →
    let x := facetOf s.m f
    let turn (e : Nat) : Bool := hasTurn s.m f e j (readyJobs s.m f e)
    -- the record was taken: the turn on engine `e` is noted and the slot goes on
    let go (e : Nat) (m : Mach) : Mach := poke f c (countPrefill f c r (noteTurn f e j m))
    (RecordAt s.m f c r j 1 →
      let i := pickPrism x r
      let p := x.prisms.getD i ⟨[], []⟩
      let st := prismStatus s.m f c j r p
      let held := (prismFeet x c ++ (rayFeet s.m f c ++ sideFeet s.m f c)).any fun e => hazard e (prismFoot r)
      (turn i = false → exec (.prismCommand f c) s = .next s) ∧
      (turn i = true → st ≠ 0 →
        exec (.prismCommand f c) s = .next ⟨go i (failRecord f c (recTag r) st 1 prismFault (stepRec f c 0 s.m)), s.pending⟩) ∧
      (turn i = true → st = 0 → (8 ≤ p.queue.length ∨ held = true) → exec (.prismCommand f c) s = .next s) ∧
      (turn i = true → st = 0 → p.queue.length < 8 → held = false →
        (∀ n, placeResults f c (prismResults r) r s.m = .wait n →
          exec (.prismCommand f c) s = .next ⟨beginWait n s.m, s.pending⟩) ∧
        (placeResults f c (prismResults r) r s.m = .go r s.m → exec (.prismCommand f c) s = .next ⟨go i (stepRec f c 1
          (modPrism s.m f i fun p => { p with queue := p.queue ++ [⟨c, j, r⟩], kept := keepAtIssue c r p.kept })), s.pending⟩))) ∧
    (RecordAt s.m f c r j 2 →
      let st := rayStatus s.m f j r
      let held := (rayFeet s.m f c ++ (prismFeet x c ++ sideFeet s.m f c)).any fun e => hazard e (rayFoot s.m f r)
      let waits := maskHeld r (rayFeet s.m f c ++ (prismFeet x c ++ sideFeet s.m f c))
      ((turn 4 = false ∨ waits = true) → exec (.rayCommand f c) s = .next s) ∧
      (turn 4 = true → waits = false → st ≠ 0 →
        exec (.rayCommand f c) s = .next ⟨go 4 (failRecord f c (recTag r) st 2 rayFault (stepRec f c 0 s.m)), s.pending⟩) ∧
      (st = 0 → (16 ≤ x.ray.length ∨ held = true) → exec (.rayCommand f c) s = .next s) ∧
      (turn 4 = true → waits = false → st = 0 → x.ray.length < 16 → held = false →
        (∀ n, placeResults f c (rayResults r) r s.m = .wait n →
          exec (.rayCommand f c) s = .next ⟨beginWait n s.m, s.pending⟩) ∧
        (placeResults f c (rayResults r) r s.m = .go r s.m → exec (.rayCommand f c) s = .next ⟨
          go 4 (stepRec f c 1 (modFacet s.m f fun x => { x with ray := x.ray ++ [⟨c, j, r⟩] })), s.pending⟩)))) ∧
  ∀ (s : State) (f : Nat), Ready s → f < 96 → (facetOf s.m f).failed = false →
    (∀ i q rest, i < 4 → ((facetOf s.m f).prisms.getD i ⟨[], []⟩).queue = q :: rest →
      let r := q.cmd
      let kept := (facetOf s.m f).prisms.getD i ⟨[], []⟩ |>.kept
      let acc := accAll s.m f r (((continued q.sc r kept).map (·.vals)).getD [])
      let ue := ueSpans s.m f (prismReadRows r)
      let out : Fl (List (List Byte × List Byte)) :=
        if pOut r = 0 then ([], 0) else flMap (dRow s.m f r) ((List.range acc.1.length).zip acc.1)
      let m1 := writeRows f r out.1 (raiseUe s.m ue)
      let m2 := modPrism m1 f i fun p => { p with
        queue := rest, kept := keepAtEnd q.sc r s.m.free acc.1.flatten p.kept }
      exec (.prismComplete f i) s = .next ⟨endCommand f q.sc q.job (giveWord f q.sc (recTag r)
        (acc.2 ||| out.2 ||| (if ue.isEmpty then 0 else flInvalid)) (if ue.isEmpty then 0 else 0x0F) 1 { m2 with free := m2.free + 1 }), s.pending⟩) ∧
    (∀ q rest, (facetOf s.m f).ray = q :: rest →
      let r := q.cmd
      let rows := flMap (rayRow s.m f r) (List.range (yRows r))
      let outs := flMap (fun (e : Nat × RowOut) => rayPieces s.m f r e.1 e.2) ((List.range rows.1.length).zip rows.1)
      let counts := activeCounts s.m f r
      let ue := ueSpans s.m f (rayReads rowSpans r counts)
      let m1 := outs.1.flatten.foldl (fun m (p : Piece) => writeChecked m f 0 p.1 p.2) (raiseUe s.m ue)
      let m2 := if yOp r = 0x1D then writeChecked m1 f 0 (yY r) (counts.flatMap (leBytes 4)) else m1
      let m3 := giveWord f q.sc (recTag r) (rows.2 ||| outs.2 ||| (if ue.isEmpty then 0 else flInvalid))
        (if ue.isEmpty then 0 else 0x0F) 2 (modFacet m2 f fun x => { x with ray := rest })
      exec (.rayComplete f) s = .next ⟨endCommand f q.sc q.job (noteLosses f q.sc (lossValues s.m f r) m3), s.pending⟩) ∧
    ((∀ i, i < 4 → ((facetOf s.m f).prisms.getD i ⟨[], []⟩).queue = [] → exec (.prismComplete f i) s = .next s) ∧
      ((facetOf s.m f).ray = [] → exec (.rayComplete f) s = .next s))

/-! ### Strands -/

/-- Launch groups. -/
def Obligations.LaunchGroupsOpenStartAndEnd : Prop :=
  (∀ (s : State) (f c : Nat) (r : Rec) (j : Nat), Ready s → f < 96 → c < 4 → RecordAt s.m f c r j 3 →
    let go (m : Mach) : Mach := poke f c (countPrefill f c r (noteTurn f 5 j m))
    let turn := hasTurn s.m f 5 j (readyJobs s.m f 5)
    let x := facetOf s.m f
    let h := rb r 31 16
    (turn = false → exec (.strandLaunch f c) s = .next s) ∧
    (turn = true → (x.strandProgs.find? fun p => p.1 == h) = none →
      let m1 := stepRec f c 0 s.m
      let m2 := if x.scs.any fun y => y.missing.contains h then m1
        else raise (modSc m1 f c fun y => { y with missing := h :: y.missing }) progMissing (srcFacet f 4) (some j) [j, f, c, h]
      exec (.strandLaunch f c) s = .next ⟨go (giveWord f c (recTag r) 0 0x62 3 m2), s.pending⟩) ∧
    (∀ p, turn = true → (x.strandProgs.find? fun p => p.1 == h) = some p →
      let g : Group :=
        { gid := x.nextGroup, sc := c, job := j, cmd := r, prog := strandWords p.2, started := 0, ended := 0, flags := 0,
          fault := none, nFault := 0, asyncDone := false, touched := [] }
      exec (.strandLaunch f c) s = .next ⟨go (stepRec f c 1 (modFacet s.m f fun x =>
        { x with groups := x.groups ++ [g], nextGroup := x.nextGroup + 1 })), s.pending⟩)) ∧
  ∀ (s : State) (f gid : Nat) (g : Group), Ready s → f < 96 → launchGroup s.m f gid = some g →
    ((gCount g ≤ g.started ∨ (facetOf s.m f).failed = true ∨ freeStrand (facetOf s.m f) (g.started % 8) = none) →
      exec (.strandStart f gid) s = .next s) ∧
    (∀ i, g.started < gCount g → (facetOf s.m f).failed = false → freeStrand (facetOf s.m f) (g.started % 8) = some i →
      i % 8 = g.started % 8 ∧
      (let m1 := modFacet s.m f fun x => { x with strands := x.strands ++ [
        { idx := i, group := gid, member := g.started
          regs := [0, word g.started, word (gCount g), word (gArg g), 0, 0, 0, 0, 0, 0, 0, 0, 0, 0, 0, 0]
          pc := 0, flags := 0, steps := 0, waits := 0, bytes := 0, wait := .run }] }
       let m2 := modGroup m1 f gid fun g => { g with started := g.started + 1 }
       (gAsync g = true → g.started + 1 = gCount g → exec (.strandStart f gid) s = .next ⟨
          poke f g.sc (modRun (modGroup m2 f gid fun g => { g with asyncDone := true }) f g.sc fun r =>
            { r with inFlight := r.inFlight - 1 }), s.pending⟩) ∧
       ((gAsync g = false ∨ g.started + 1 ≠ gCount g) → exec (.strandStart f gid) s = .next ⟨m2, s.pending⟩))) ∧
    ((g.started < gCount g ∨ g.ended < g.started) → exec (.groupEnd f gid) s = .next s) ∧
    (gCount g ≤ g.started → g.started ≤ g.ended →
      let m1 := modFacet s.m f fun x => { x with groups := x.groups.filter fun y => y.gid != gid }
      let m2 := if gDoneEn g then tallyOp f (gDoneTally g) 0 1 m1 else m1
      let m3 := match g.fault with
        | some (st, k, pc) => raise m2 strandFault (srcFacet f 3) (some g.job) [f, g.sc, k, pc, st, g.nFault]
        | none => m2
      let m4 := match currentUnit m3 f g.sc with
        | some u => forAll g.touched (fun m n =>
            sendEntry n u.mb (modRun m f g.sc fun r => { r with away := r.away + 1 })) m3
        | none => m3
      let m5 := giveWord f g.sc (recTag g.cmd) g.flags ((g.fault.map (·.1)).getD 0) 3 m4
      (g.asyncDone = true → exec (.groupEnd f gid) s = .next ⟨poke f g.sc (countDebt f g.job m5), s.pending⟩) ∧
      (g.asyncDone = false → exec (.groupEnd f gid) s =
        .next ⟨poke f g.sc (countDebt f g.job (modRun m5 f g.sc fun r => { r with inFlight := r.inFlight - 1 })), s.pending⟩))

/-- Local strand instructions. -/
def Obligations.StrandInstructionsComputeByTheirTables : Prop :=
  (∀ (a : Strand) (r q : Nat) (v : Word), getReg a 0 = 0 ∧ setReg a 0 v = a ∧
    (r ≠ 0 → r < a.regs.length → getReg (setReg a r v) r = v) ∧ (q ≠ r → getReg (setReg a r v) q = getReg a q)) ∧
  (∀ (s : State) (f i : Nat) (a : Strand) (g : Group) (w : Word), Ready s → f < 96 → i < 16384 → StrandAt s.m f i a g w →
    let ra := getReg a (iRa w)
    let b := getReg a (iRb w) + iImm w
    let lo (r : Nat) : Nat := (getReg a r).toNat % 2 ^ 32
    -- the strand executed the instruction, wrote `v` to RD and ORed the flags `fl`
    let wrote (v : Word) (fl : Nat) (m : Mach) : Res := .next ⟨modStrand m f i fun t =>
      setReg { t with steps := t.steps + 1, pc := t.pc + 1, wait := .run, flags := t.flags ||| fl } (iRd w) v, s.pending⟩
    let n := 2 ^ iSize w
    let addr := (ra + iImm w).toNat
    (iOp w = 0 → exec (.strandNop f i) s = .next ⟨modStrand s.m f i fun t =>
      { t with steps := t.steps + 1, pc := t.pc + 1, wait := .run }, s.pending⟩) ∧
    (2 ≤ iOp w → iOp w ≤ 0x10 → exec (.strandIntegerOp f i) s = wrote (strandInt (iOp w) ra b) 0 s.m) ∧
    (0x18 ≤ iOp w → iOp w ≤ 0x1D →
      let v := strandFp (iOp w) (lo (iRa w)) (lo (iRb w)) (lo (iRc w))
      exec (.strandFloatOp f i) s = wrote (word v.1) v.2 s.m) ∧
    (iOp w = 0x1E → exec (.fcvt f i) s = wrote (strandCvt (iMod w) ra).1 (strandCvt (iMod w) ra).2 s.m) ∧
    (iOp w = 0x1F →
      let x := v32 (lo (iRa w))
      let y := v32 (lo (iRb w))
      exec (.fcmp f i) s = wrote (word (b2n (if iMod w = 0 then fpEq x y
        else if iMod w = 1 then fpLt false x y else fpLt false x y || fpEq x y))) 0 s.m) ∧
    (0x20 ≤ iOp w → iOp w ≤ 0x26 → exec (.strandBranch f i) s = .next ⟨modStrand s.m f i fun t =>
      { t with steps := t.steps + 1, wait := .run,
               pc := if strandTaken (iOp w) ra (getReg a (iRb w)) then (word a.pc + iImm w).toNat else a.pc + 1 }, s.pending⟩) ∧
    (iOp w = 0x28 →
      let st := if addr % n ≠ 0 then 0x5C else localStatus s.m g.job f addr n .read
      let x := readChecked s.m f 0 addr n
      (st ≠ 0 → exec (.ldl f i) s = .next ⟨strandFaultAt f i a.pc st s.m, s.pending⟩) ∧
      (st = 0 → x.2.1 = true → exec (.ldl f i) s = .next ⟨strandFaultAt f i a.pc 0x0F x.2.2, s.pending⟩) ∧
      (st = 0 → x.2.1 = false → exec (.ldl f i) s = wrote (word (leNat x.1)) 0 x.2.2)) ∧
    (iOp w = 0x29 →
      let st := if addr % n ≠ 0 then 0x5C else localStatus s.m g.job f addr n .write
      (st ≠ 0 → exec (.stl f i) s = .next ⟨strandFaultAt f i a.pc st s.m, s.pending⟩) ∧
      (∀ k, st = 0 → payloadWrite s.m f g.sc ⟨self s.m, f, 0, addr⟩ n = .wait k →
        exec (.stl f i) s = .next ⟨blockStrand f a g .blocked (beginWait k s.m), s.pending⟩) ∧
      (∀ l k m, st = 0 → payloadWrite s.m f g.sc ⟨self s.m, f, 0, addr⟩ n = .go l k m →
        exec (.stl f i) s = .next ⟨modStrand (writeChecked m f 0 l.off (leBytes n (getReg a (iRb w)).toNat)) f i fun t =>
          { t with steps := t.steps + 1, pc := t.pc + 1, wait := .run }, s.pending⟩)) ∧
    (iOp w = 1 →
      (strandFlights s.m f i = [] → exec (.halt f i) s =
        .next ⟨reapStrand f i (modStrand s.m f i fun t => { t with wait := .done }), s.pending⟩) ∧
      (strandFlights s.m f i ≠ [] → gWaits g ≤ a.waits → exec (.halt f i) s = .next ⟨strandFaultAt f i a.pc 0x5D s.m, s.pending⟩) ∧
      (strandFlights s.m f i ≠ [] → a.waits < gWaits g → exec (.halt f i) s =
        .next ⟨modStrand s.m f i fun t => { t with wait := .halting, waits := t.waits + 1 }, s.pending⟩)) ∧
    (iOp w ≠ 0 → exec (.strandNop f i) s = .next s)) ∧
  ∀ (s : State) (f i : Nat) (a : Strand) (g : Group) (w : Word), Ready s → f < 96 → i < 16384 →
    strandOf s.m f i = some a → launchGroup s.m f a.group = some g → g.prog[a.pc]? = some w → a.wait = .run →
    (facetOf s.m f).failed = false → regsBusy s.m f i w = false → gSteps g ≤ a.steps →
    (iOp w = 0 → exec (.strandNop f i) s = .next ⟨strandFaultAt f i a.pc 0x5D s.m, s.pending⟩) ∧
    (2 ≤ iOp w → iOp w ≤ 0x10 → exec (.strandIntegerOp f i) s = .next ⟨strandFaultAt f i a.pc 0x5D s.m, s.pending⟩)

/-- Remote strand instructions and waits. -/
def Obligations.StrandRemoteOperationsAndWaits : Prop :=
  (∀ (m : Mach) (f i : Nat) (a : Strand) (g : Group) (w : Word) (n al : Nat) (data : List Byte) (dest : Option Nat),
    let addr := getReg a (iRa w) + iImm w
    let st := remoteStatus m g.job (iOp w) al n addr
    (st ≠ 0 → strandRemote f i a g w n al data dest m = strandFaultAt f i a.pc st m) ∧
    (st = 0 → 8 ≤ (strandFlights m f i).length → strandRemote f i a g w n al data dest m = blockStrand f a g .blocked m) ∧
    (st = 0 → (strandFlights m f i).length < 8 →
      let retired (m : Mach) : Mach := modStrand m f i fun t =>
        { t with bytes := t.bytes + (if iOp w = 0x32 ∨ iOp w = 0x33 then n else 0), steps := t.steps + 1, pc := t.pc + 1, wait := .run }
      -- the operation sets out for the place `l`, as a write of the payload of `chord` where there is one
      let gone (l : Sys2Proof.Machine.Lat) (chord : Option Nat) (m : Mach) : Mach := sendFlight
        { opid := m.nextOp, issuer := .strand f i, job := g.job
          req := ⟨word (latAddr l), BitVec.ofNat 8 (iOp w), iMod w, n, data, getReg a (iRc w)⟩
          dest := dest, localOfs := (getReg a (iRb w)).toNat, isWrite := opIsWrite (iOp w), sentAt := m.now
          state := .requested, word := none, via := none, chord := chord, pc := a.pc, orphan := false, ue := false
          stale := false }
        (retired { m with nextOp := m.nextOp + 1 })
      let touch (k : Nat) (m : Mach) : Mach := modGroup m f a.group fun g => { g with
        touched := if g.touched.contains k then g.touched else g.touched ++ [k] }
      (iOp w ≠ 0x31 → iOp w ≠ 0x33 → strandRemote f i a g w n al data dest m = gone (latOf addr.toNat) none m) ∧
      ((iOp w = 0x31 ∨ iOp w = 0x33) →
        let placed := placeToken m f g.sc (iOp w) (latOf addr.toNat)
        (∀ m1, placed = .lost m1 → strandRemote f i a g w n al data dest m = retired m1) ∧
        (∀ l m1 k, placed = .go l m1 → payloadWrite m1 f g.sc l n = .wait k →
          strandRemote f i a g w n al data dest m = blockStrand f a g .blocked (beginWait k m)) ∧
        (∀ l m1 l2 k m2, placed = .go l m1 → payloadWrite m1 f g.sc l n = .go l2 k m2 →
          (∀ x, payloadChord m2 f g.sc (word (latAddr l2)) = some x → strandRemote f i a g w n al data dest m = gone l2 k (touch x m2)) ∧
          (payloadChord m2 f g.sc (word (latAddr l2)) = none → strandRemote f i a g w n al data dest m = gone l2 k m2))))) ∧
  ∀ (s : State) (f i : Nat) (a : Strand) (g : Group) (w : Word), Ready s → f < 96 → i < 16384 → StrandAt s.m f i a g w →
    let n := 2 ^ iSize w
    let issue (n al : Nat) (data : List Byte) (dest : Option Nat) (m : Mach) : Res :=
      .next ⟨strandRemote f i a g w n al data dest m, s.pending⟩
    let fault (st : Nat) (m : Mach) : Res := .next ⟨strandFaultAt f i a.pc st m, s.pending⟩
    let block : Res := .next ⟨blockStrand f a g .blocked s.m, s.pending⟩
    let rbv := (getReg a (iRb w)).toNat
    (iOp w = 0x30 → exec (.get f i) s = issue n n [] (some (iRd w)) s.m) ∧
    (iOp w = 0x31 → exec (.put f i) s = issue n n (leBytes n rbv) none s.m) ∧
    (iOp w = 0x34 → exec (.atom f i) s = issue n n (leBytes n rbv) (some (iRd w)) s.m) ∧
    (iOp w = 0x35 → exec (.red f i) s = issue n n (leBytes n rbv) none s.m) ∧
    (iOp w = 0x38 →
      ((iMod w).testBit 1 = true → strandOpen s.m f i false true = true → exec (.tadd f i) s = block) ∧
      (((iMod w).testBit 1 = false ∨ strandOpen s.m f i false true = false) →
        exec (.tadd f i) s = issue 4 4 (leBytes 4 rbv) none s.m)) ∧
    (iOp w = 0x39 → exec (.tread f i) s = issue 4 4 [] (some (iRd w)) s.m) ∧
    ((iOp w = 0x32 ∨ iOp w = 0x33) →
      let st0 := remoteStatus s.m g.job (iOp w) 64 n (getReg a (iRa w) + iImm w)
      let perm : Perm := if iOp w = 0x32 then .write else .read
      let st := if st0 ≠ 0 then st0 else if rbv % 64 ≠ 0 then 0x5C else localStatus s.m g.job f rbv n perm
      let full := 8 ≤ (strandFlights s.m f i).length
      let x := readChecked s.m f 0 rbv n
      let i1 := if iOp w = 0x32 then Instr.getb f i else Instr.putb f i
      (st ≠ 0 → exec i1 s = fault st s.m) ∧
      (st = 0 → gBytes g < a.bytes + n → exec i1 s = fault 0x5D s.m) ∧
      (st = 0 → a.bytes + n ≤ gBytes g → full → exec i1 s = block) ∧
      (st = 0 → a.bytes + n ≤ gBytes g → ¬ full → iOp w = 0x32 → exec (.getb f i) s = issue n 64 [] none s.m) ∧
      (st = 0 → a.bytes + n ≤ gBytes g → ¬ full → iOp w = 0x33 →
        (x.2.1 = true → exec (.putb f i) s = fault 0x0F x.2.2) ∧
        (x.2.1 = false → exec (.putb f i) s = issue n 64 x.1 none x.2.2))) ∧
    (iOp w = 0x3A →
      let t := (getReg a (iRa w) + iImm w).toNat
      let st := waitStatus s.m g.job f t
      let target : W32 := (getReg a (iRb w)).setWidth 32
      let lim := (getReg a (iRc w)).toNat
      let met := tallyMet (tallyGet s.m f t) target (iMod w == 1)
      let waiting (dl : Option Nat) : Res := .next ⟨modStrand s.m f i fun u =>
        { u with steps := u.steps + 1, pc := u.pc + 1, waits := u.waits + 1,
                 wait := .tally t target (iMod w == 1) dl (iRd w) }, s.pending⟩
      (st ≠ 0 → exec (.twait f i) s = fault st s.m) ∧
      (st = 0 → met = true → exec (.twait f i) s = .next ⟨modStrand s.m f i fun t =>
        setReg { t with steps := t.steps + 1, pc := t.pc + 1, wait := .run } (iRd w) 0, s.pending⟩) ∧
      (st = 0 → met = false → gWaits g ≤ a.waits → exec (.twait f i) s = fault 0x5D s.m) ∧
      (st = 0 → met = false → a.waits < gWaits g →
        (lim = 0 → exec (.twait f i) s = waiting none) ∧
        (lim ≠ 0 → exec (.twait f i) s = waiting (some (s.m.now + lim))))) ∧
    (iOp w = 0x3B → exec (.bar f i) s = .next ⟨barArrive g.job (iMod w) f (modStrand s.m f i fun t =>
      { t with steps := t.steps + 1, pc := t.pc + 1, wait := .run }), s.pending⟩) ∧
    (iOp w = 0x3C →
      let held := strandOpen s.m f i ((iMod w).testBit 0) ((iMod w).testBit 1)
      (held = true → exec (.fence f i) s = block) ∧
      (held = false → exec (.fence f i) s = .next ⟨modStrand s.m f i fun t =>
        { t with steps := t.steps + 1, pc := t.pc + 1, wait := .run }, s.pending⟩))

/-! ### Records 0x04 to 0x08, remote operations, tallies and barriers -/

/-- Records of stage programs. -/
def Obligations.SequencerRecordsRun : Prop :=
  (∀ (m : Mach) (j b f : Nat),
    let bar := ((jobOf m j).bars[b]?).getD ⟨[]⟩
    let bad : Prop := tb (regN m (offJobBar j b)) 0 = false ∨ barMember m j b f = false ∨ f ∈ bar.arrived
    let members := (List.range 96).filter (barMember m j b)
    let setBar (l : List Nat) : Mach := modJob m j fun x => { x with bars := x.bars.set b ⟨l⟩ }
    (bad → barArrive j b f m = raise m barErr (srcJob j) (some j) [j, b, f]) ∧
    (¬bad → (∃ k ∈ members, k ∉ bar.arrived ++ [f]) → barArrive j b f m = setBar (bar.arrived ++ [f])) ∧
    (¬bad → (∀ k ∈ members, k ∈ bar.arrived ++ [f]) → barArrive j b f m =
      forAll members (fun m' g => tallyOp g (bf (regN m (offJobBar j b)) 15 4) 0 1 m') (setBar []))) ∧
  (∀ (s : State) (f c : Nat) (r : Rec) (j : Nat), Ready s → f < 96 → c < 4 →
    let go (m : Mach) : Res := .next ⟨poke f c (countPrefill f c r m), s.pending⟩
    let ended (m : Mach) : Mach := giveWord f c (recTag r) 0 0 (recOp r) (stepRec f c 0 m)
    let bad (st : Nat) : Mach := failRecord f c (recTag r) st (recOp r) seqFault (stepRec f c 0 s.m)
    (RecordAt s.m f c r j 4 →
      let t := sTally r
      let st := waitStatus s.m j f t
      let met := tallyMet (tallyGet s.m f t) (sValue r) (sMod r == 1)
      let waits (dl : Option Nat) : Res := go (modRun (stepRec f c 0 s.m) f c fun x =>
        { x with wait := .tally t (sValue r) (sMod r == 1) dl (recTag r) })
      (st ≠ 0 → exec (.tallyWait f c) s = go (bad st)) ∧
      (st = 0 → met = true → exec (.tallyWait f c) s = go (ended s.m)) ∧
      (st = 0 → met = false → sTimeout r = 0 → exec (.tallyWait f c) s = waits none) ∧
      (st = 0 → met = false → sTimeout r ≠ 0 → exec (.tallyWait f c) s = waits (some (s.m.now + sTimeout r)))) ∧
    (RecordAt s.m f c r j 5 →
      let st := remoteStatus s.m j 0x38 4 4 (sLaddr r)
      (st ≠ 0 → exec (.tallyAdd f c) s = go (bad st)) ∧
      (st = 0 → tb (sMod r) 1 = true → scOpen s.m f c false true = true → exec (.tallyAdd f c) s = .next s) ∧
      (st = 0 → (tb (sMod r) 1 = false ∨ scOpen s.m f c false true = false) → exec (.tallyAdd f c) s =
        go (sendRecord f c j r ⟨sLaddr r, 0x38, sMod r, 4, leBytes 4 (sValue r).toNat, 0⟩ 0 false none s.m))) ∧
    (RecordAt s.m f c r j 6 →
      let isGet := sMod r == 1
      let n := sLength r
      let st0 := remoteStatus s.m j (if isGet then 0x32 else 0x33) 64 n (sLaddr r)
      let st := if st0 ≠ 0 then st0 else strandLocal s.m j f (sLocal r) n 64 (if isGet then .write else .read)
      let held := heldByHazard s.m f c (if isGet then ⟨[], [(sLocal r, n)]⟩ else ⟨[(sLocal r, n)], []⟩)
      let l := actRedirect s.m f c (latOf (sLaddr r).toNat)
      (st ≠ 0 → exec (.remoteCopy f c) s = go (bad st)) ∧
      (st = 0 → held = true → exec (.remoteCopy f c) s = .next s) ∧
      (st = 0 → held = false → isGet = true →
        exec (.remoteCopy f c) s = go (sendRecord f c j r ⟨word (latAddr l), 0x32, 0, n, [], 0⟩ (sLocal r) false none s.m)) ∧
      (st = 0 → held = false → isGet = false →
        (∀ k, payloadWrite s.m f c l n = .wait k → exec (.remoteCopy f c) s = .next ⟨beginWait k s.m, s.pending⟩) ∧
        (∀ l2 k m2, payloadWrite s.m f c l n = .go l2 k m2 →
          let y := readChecked m2 f 0 (sLocal r) n
          exec (.remoteCopy f c) s =
            go (sendRecord f c j r ⟨word (latAddr l2), 0x33, 0, n, y.1, 0⟩ (sLocal r) y.2.1 k y.2.2)))) ∧
    (RecordAt s.m f c r j 7 → exec (.barrierArrive f c) s = go (barArrive j (sBar r) f (ended s.m))) ∧
    (RecordAt s.m f c r j 8 →
      (scOpen s.m f c (tb (sMod r) 0) (tb (sMod r) 1) = true → exec (.fenceRecord f c) s = .next s) ∧
      (scOpen s.m f c (tb (sMod r) 0) (tb (sMod r) 1) = false → exec (.fenceRecord f c) s = go (ended s.m)))) ∧
  ∀ (s : State) (f k : Nat), Ready s → f < 96 →
    (∀ a t target eq d rd, strandOf s.m f k = some a → a.wait = .tally t target eq (some d) rd → d ≤ (atTime s.m d).now →
      let met := tallyMet (tallyGet (atTime s.m d) f t) target eq
      let ended (v : Word) : Mach := modStrand (atTime s.m d) f k fun u => setReg { u with wait := .run } rd v
      (met = true → exec (.tallyTimeout f true k) s = .next ⟨ended 0, s.pending⟩) ∧
      (met = false → exec (.tallyTimeout f true k) s = .next ⟨raise (ended 1) tallyTimeoutEv (srcFacet f 3)
        ((launchGroup (atTime s.m d) f a.group).map (·.job)) [f, k, t], s.pending⟩)) ∧
    (∀ a t target eq rd, strandOf s.m f k = some a → a.wait = .tally t target eq none rd →
      exec (.tallyTimeout f true k) s = .next s) ∧
    (∀ r t target eq d tag, (scOf s.m f k).run = some r → r.wait = .tally t target eq (some d) tag → d ≤ (atTime s.m d).now →
      let met := tallyMet (tallyGet (atTime s.m d) f t) target eq
      (met = true → exec (.tallyTimeout f false k) s = .next ⟨endTallyWait f k tag 0 (atTime s.m d), s.pending⟩) ∧
      (met = false → exec (.tallyTimeout f false k) s = .next ⟨endTallyWait f k tag 0x61
        (raise (atTime s.m d) tallyTimeoutEv (srcFacet f 3) (scJob (atTime s.m d) f k) [f, k, t]), s.pending⟩)) ∧
    (∀ r t target eq tag, (scOf s.m f k).run = some r → r.wait = .tally t target eq none tag →
      exec (.tallyTimeout f false k) s = .next s)

/-- Remote operations. -/
def Obligations.RemoteOperationsTakeEffectAndSettle : Prop :=
  (∀ (m : Mach) (r : RemoteReq) (far : Bool),
    let l := latOf r.laddr.toNat
    let op := r.op.toNat
    (targetMissing m l far = true → perform r far m = (0x5E, [], m)) ∧
    (targetMissing m l far = false →
      ((op = 0x30 ∨ op = 0x32) → perform r far m =
        (if (readSpace m l r.bytes).2.1 then 0x0F else 0, (readSpace m l r.bytes).1, (readSpace m l r.bytes).2.2)) ∧
      ((op = 0x31 ∨ op = 0x33) → l.space ≠ 3 → perform r far m = (0, [], writeChecked m l.facet l.space l.off r.data)) ∧
      ((op = 0x31 ∨ op = 0x33) → l.space = 3 →
        let w := windowWrite l.facet l.off r.data m
        perform r far m = (0, [], afterWindow l.facet l.off (w.1, countForeign w.1 w.2))) ∧
      ((op = 0x34 ∨ op = 0x35) →
        let x := readChecked m l.facet l.space l.off r.bytes
        let w := 2 ^ (8 * r.bytes)
        perform r far m = (if x.2.1 then 0x0F else 0, if op = 0x34 then x.1 else [],
          writeChecked x.2.2 l.facet l.space l.off (leBytes r.bytes
            (atomValue r.mod r.bytes (leNat x.1) (leNat r.data % w) (r.compare.toNat % w))))) ∧
      (op = 0x38 → perform r far m = (0, [], tallyOp l.facet (l.off / 4) r.mod (BitVec.ofNat 32 (leNat r.data)) m)) ∧
      (op = 0x39 → perform r far m = (0, leBytes 4 (tallyGet m l.facet (l.off / 4)).toNat, m)))) ∧
  ∀ s : State, Ready s →
    (∀ opid fl, (s.m.flights.find? fun fl => fl.opid == opid) = some fl → (latOf fl.req.laddr.toNat).mod = self s.m →
      fl.state = .requested →
      let l := latOf fl.req.laddr.toNat
      let x := if fl.stale then (0, [], s.m) else perform fl.req false s.m
      let stop := earlierOp s.m fl || targetHeld s.m l
      let fs := if fl.orphan then x.2.2.flights.filter fun g => g.opid != opid
        else x.2.2.flights.map fun g => if g.opid == opid then { g with state := .replied x.1 x.2.1 } else g
      let t : State := ⟨{ x.2.2 with flights := fs }, s.pending⟩
      (stop = true → exec (.req opid none) s = .next s ∧ ∀ laddr mod v, exec (.tally (self s.m) opid laddr mod v) s = .next s) ∧
      (stop = false → exec (.req opid none) s = .next t ∧ ∀ laddr mod v, exec (.tally (self s.m) opid laddr mod v) s = .next t)) ∧
    (∀ opid src (r : RemoteReq),
      let l := latOf r.laddr.toNat
      let x := perform r true s.m
      (l.mod ≠ self s.m → exec (.req opid (some (src, r))) s = .next ⟨misrouted s.m src 0x10 l.mod, s.pending⟩) ∧
      (l.mod = self s.m → targetHeld s.m l = true →
        exec (.req opid (some (src, r))) s = .next ⟨{ s.m with heldReqs := s.m.heldReqs ++ [(src, opid, r)] }, s.pending⟩) ∧
      (l.mod = self s.m → targetHeld s.m l = false →
        exec (.req opid (some (src, r))) s = .next ⟨sendMsg x.2.2 src (.resp opid (some (x.1, x.2.1))), s.pending⟩)) ∧
    (∀ src opid laddr mod v, src ≠ self s.m →
      exec (.tally src opid laddr mod (some v)) s = exec (.req opid (some (src, ⟨laddr, 0x38, mod, 4, leBytes 4 v.toNat, 0⟩))) s ∧
      exec (.tally src opid laddr mod none) s = exec (.req opid (some (src, ⟨laddr, 0x39, mod, 4, [], 0⟩))) s) ∧
    (∀ opid, (s.m.flights.find? fun fl => fl.opid == opid) = none →
      (∀ far, exec (.resp opid far) s = .next ⟨sendReport false s.m, s.pending⟩) ∧
      (NoShard s.m opid → exec (.remoteTimeout opid) s = .next s)) ∧
    (∀ opid j c x, j < 16 → (snapOf s.m j).cut = some c → (c.sent.find? fun y => y.1 == opid) = some x →
      (∀ i < j, ∀ c' ∈ (snapOf s.m i).cut, ∀ y ∈ c'.sent, y.1 ≠ opid) →
      let d := x.2.2.2 + 100 * regN s.m offRemoteTimeout
      d ≤ (atTime s.m d).now → exec (.remoteTimeout opid) s = .next ⟨turnAway j x.2.1 x.2.2.1
        (modCut j (fun c => { c with sent := c.sent.filter fun y => y != x }) (atTime s.m d)), s.pending⟩) ∧
    (∀ opid j v, j < 16 → (∀ i < 16, ∀ c' ∈ (snapOf s.m i).cut, ∀ y ∈ c'.sent, y.1 ≠ opid) →
      ((snapOf s.m j).moving.find? fun y => y.op == opid) = some v → (∀ i < j, ∀ y ∈ (snapOf s.m i).moving, y.op ≠ opid) →
      let d := v.sentAt + 100 * regN s.m offRemoteTimeout
      d ≤ (atTime s.m d).now → exec (.remoteTimeout opid) s = .next ⟨settleMoved j v true (atTime s.m d), s.pending⟩) ∧
    (∀ opid fl, (s.m.flights.find? fun fl => fl.opid == opid) = some fl →
      (∀ st data, fl.state = .replied st data → exec (.resp opid none) s =
        .next ⟨sendReport false (settle fl st data s.m), s.pending⟩) ∧
      (∀ st data, fl.state = .requested → (latOf fl.req.laddr.toNat).mod ≠ self s.m →
        exec (.resp opid (some (st, data))) s = .next ⟨sendReport false (settle fl st data s.m), s.pending⟩) ∧
      (NoShard s.m opid → (fl.orphan = true ∨ isHeader fl = true) → exec (.remoteTimeout opid) s = .next s) ∧
      (NoShard s.m opid → fl.orphan = false → isHeader fl = false →
        let d := fl.sentAt + 100 * regN s.m offRemoteTimeout
        d ≤ (atTime s.m d).now →
        let f := match fl.issuer with | .strand f _ => f | .sc f _ => f | .gather f _ => f | .fold _ => fl.pc
        let m := settle fl 0x60 [] (raise (atTime s.m d) remoteTimeoutEv (srcFacet f 3)
          (some fl.job) [f, fl.req.laddr.toNat])
        let lives := fl.state == .waiting || (decide ((latOf fl.req.laddr.toNat).mod = self s.m) && fl.state == .requested)
        (lives = true → exec (.remoteTimeout opid) s =
          .next ⟨{ m with flights := m.flights ++ [{ fl with orphan := true }] }, s.pending⟩) ∧
        (lives = false → exec (.remoteTimeout opid) s = .next ⟨m, s.pending⟩)))

/-! ### Gradients, fold and update -/

/-- Gradients and folds. -/
def Obligations.GradientsAccumulateAndFoldsProceed : Prop :=
  (∀ (s : State) (f c : Nat) (r : Rec) (j j' : Nat) (e : MapSc), Ready s → f < 96 → c < 4 → RecordAt s.m f c r j 0x10 →
    (scOf s.m f c).owner = some (j', e) →
    let go (m : Mach) : Res := .next ⟨poke f c (countPrefill f c r (noteTurn f 6 j m)), s.pending⟩
    let turn := hasTurn s.m f 6 j (updateJobs s.m f)
    let st := gradStatus s.m f c j e r
    let held := heldByHazard s.m f c ⟨[(gSrc r, gLength r)], []⟩
    (turn = false → exec (.gradAcc f c) s = .next s) ∧
    (turn = true → st ≠ 0 → exec (.gradAcc f c) s = go (failRecord f c (recTag r) st (recOp r) seqFault (stepRec f c 0 s.m))) ∧
    (st = 0 → held = true → exec (.gradAcc f c) s = .next s) ∧
    (turn = true → st = 0 → held = false → exec (.gradAcc f c) s = go (stepRec f c 1 (modFacet s.m f fun x =>
      { x with grads := x.grads ++ [(c, j, r)] })))) ∧
  (∀ (s : State) (f c j j' : Nat) (r : Rec) (t : List (Nat × Nat × Rec)) (e : MapSc), Ready s → f < 96 →
    (facetOf s.m f).grads = (c, j, r) :: t → (facetOf s.m f).failed = false → (scOf s.m f c).owner = some (j', e) →
    let m0 := modFacet s.m f fun x => { x with grads := t }
    let late := (scOf m0 f c).handed.contains (gLayer r)
    let a := match gradAddr m0 e (gLayer r) with
      | some a => addGrad f c (a + gOfs r) (gSrc r) (gLength r) m0
      | none => (0, false, m0)
    let m1 := giveWord f c (recTag r) a.1 (if a.2.1 then 0x0F else 0) 0x10 a.2.2
    let ended (m : Mach) : Res := .next ⟨sendReport false (endCommand f c j m), s.pending⟩
    (late = true → exec (.gradAccComplete f) s =
      ended (raise (giveWord f c (recTag r) 0 0x65 0x10 m0) seqFault (srcFacet f 3) (some j) [f, c, recTag r, 0x65])) ∧
    (late = false → gEnd r = true → exec (.gradAccComplete f) s = ended (endLayerAcc f c j e (gLayer r) m1)) ∧
    (late = false → gEnd r = false → exec (.gradAccComplete f) s = ended m1)) ∧
  ∀ (s : State) (n : Nat), Ready s → n < 32 →
    let ch := chanOf s.m n
    -- the message leaves the receive buffer
    let drop (link entry pass seq src : Nat) (segs : List FoldSegIn) (m : Mach) : Mach :=
      freeRx link 1 (msgFlits m (.foldSeg link n entry pass seq src segs)) m
    (∀ link entry pass seq src segs, (ch.en = false ∨ memberPos ch src = none) →
      exec (.foldSeg link n entry pass seq src segs) s = .next ⟨sendReport false (drop link entry pass seq src segs s.m), s.pending⟩) ∧
    (∀ link entry pass seq src segs p, ch.en = true → memberPos ch src = some p →
      let m0 := modChan s.m n fun c => { c with lastMove := s.m.edges, stalled := false }
      let want := ((ch.rxSeq.find? fun t => t.1 == p).map (·.2)).getD 0
      let rx := (ch.rxSeq.filter fun t => t.1 != p) ++ [(p, (seq + segs.length) % 65536)]
      let m1 := modChan m0 n fun c => { c with rxSeq := rx }
      let y := chanLayer ch entry
      let f := ((y.bind fun y => layerHolder m1 ch.job ch.pipe y.layer).map (·.facet)).getD 0
      let i := Instr.foldSeg link n entry pass seq src segs
      (pass = 2 → exec i s = .next ⟨sendReport false (abortLayer n entry (some p) (drop link entry pass seq src segs m0)), s.pending⟩) ∧
      (pass ≠ 2 → seq ≠ want → exec i s = .next ⟨sendReport false (abortLayer n entry none (drop link entry pass seq src segs
        (raise m1 foldSeqEv (srcFacet f 8) (some ch.job) [n, src, want, seq, (y.map (·.layer)).getD 0]))), s.pending⟩) ∧
      (pass ≠ 2 → seq = want → exec i s = .next ⟨sendReport false (runFold n (modChan m1 n fun c =>
        { c with parts := c.parts ++ partsOf m1 n entry p link 32 segs })), s.pending⟩)) ∧
    (ch.done = [] → exec (.foldLayerDone n) s = .next ⟨sendReport false s.m, s.pending⟩) ∧
    (∀ d t y, ch.done = d :: t → (∀ fl ∈ s.m.flights, fl.issuer = .fold n → fl.dest ≠ some d.entry ∨ fl.orphan = true) → chanLayer ch d.entry = some y →
      let m0 := modChan s.m n fun c => { c with done := t }
      let m1 := if ch.fmt = 2 ∧ y.rank = 0 ∧ d.failed = false then
          match layerHolder m0 ch.job ch.pipe y.layer with
          | some e => modJob m0 ch.job fun x => { x with amaxPend := x.amaxPend ++
              [(ch.pipe, y.tensor, BitVec.ofNat 32 (maxMag (gradVals m0 e y.layer 0 (layerElems m0 e y.layer))))] }
          | none => m0
        else m0
      exec (.foldLayerDone n) s = .next ⟨sendReport false (checkPipeFolded ch.job ch.pipe
        (shareTotals n d (completeLayer ch.job ch.pipe y.layer ch.members.length d m1))), s.pending⟩) ∧
    (∀ y, chanLayer ch ch.cur = some y → ch.en = true → (ch.began = true ∨ ch.parts ≠ []) → ch.stalled = false →
      expired s.m ch.lastMove (regN s.m offFoldTimeout) = true →
      let ring := legRing ch 0
      -- the neighbour from which the channel waits, and the link to it
      let q := if ch.topo = 2 then treeParent ch ch.self else ring.pos ((ring.idx + ring.len - 1) % max 1 ring.len)
      let link := ((ch.members[q]?).map (·.2.1)).getD 63
      let facet := ((layerHolder s.m ch.job ch.pipe y.layer).map (·.facet)).getD 0
      exec (.foldStall n) s = .next ⟨sendReport false (raise (modChan s.m n fun c => { c with stalled := true }) foldStallEv
        (srcFacet facet 8) (some ch.job) [n, y.layer, link, s.m.edges - ch.lastMove]), s.pending⟩) ∧
    ((ch.en = false ∨ ch.stalled = true ∨ expired s.m ch.lastMove (regN s.m offFoldTimeout) = false) →
      exec (.foldStall n) s = .next ⟨sendReport false s.m, s.pending⟩) ∧
    (∀ link st, link < 36 →
      let md := (linkOf s.m link).farModule
      let m1 := raise (modChan s.m n fun c => { c with closed := true }) foldMismatch (srcChan n) (some ch.job)
      (ch.en = true → (memberPos ch md).isSome = true → settingsDiffer (foldSettings ch) st = none →
        exec (.foldCheck link n st) s = .next s) ∧
      (∀ k : Nat, ch.en = true → (memberPos ch md).isSome = true → settingsDiffer (foldSettings ch) st = some k →
        (ch.began = true → exec (.foldCheck link n st) s =
          .next ⟨runFold n (modChan (m1 [n, md, k]) n fun c => { c with aborted := c.aborted ++ [c.cur] }), s.pending⟩) ∧
        (ch.began = false → exec (.foldCheck link n st) s = .next ⟨m1 [n, md, k], s.pending⟩)) ∧
      ((ch.en = false ∨ memberPos ch md = none) → exec (.foldCheck link n st) s = .next ⟨modChan s.m n fun c =>
        { c with early := (c.early.filter fun e => e.1 != md) ++ [(md, st)] }, s.pending⟩))

/-- Verdict and update. -/
def Obligations.SweepsAreJudgedAndUpdatesRun : Prop :=
  (∀ (s : State) (j p : Nat), Ready s → j < 16 → p < 4 →
    let x := pipeOf s.m j p
    (∀ src layer nonf gsq, exec (.updReport src j p layer nonf gsq) s = .next ⟨modPipe s.m j p fun x =>
      { x with gather := { x.gather with
        layers := (x.gather.layers.filter fun l => l.1 != layer) ++ [(layer, nonf, gsq)] } }, s.pending⟩) ∧
    (∀ src sweep mb tokens loss, sweep ≠ s.m.tick.sweepNo → exec (.foldTotals src j p sweep mb tokens loss) s =
      .next ⟨sendReport false s.m, s.pending⟩) ∧
    (∀ src mb tokens loss,
      let m1 := noteLoss j p (modPipe s.m j p fun x => { x with
        gather := { x.gather with mb := mb, tokens := tokens, totalsIn := true, loss := loss }, foldLoss := loss })
      exec (.foldTotals src j p s.m.tick.sweepNo mb tokens loss) s = .next ⟨sendReport false
        (if src ≠ self m1 ∧ pipeFolded m1 j p = true then verifyLoss j p m1 else m1), s.pending⟩) ∧
    (∀ u, x.setup = some u →
      ((updEnabled s.m j p = false ∨ isHome s.m j p = false ∨ x.verdict.isSome = true ∨ (jobOf s.m j).halted = true ∨
          gathered s.m j p = false) →
        exec (.stepVerdict j p) s = .next ⟨sendReport false s.m, s.pending⟩) ∧
      (updEnabled s.m j p = true → isHome s.m j p = true → x.verdict = none → (jobOf s.m j).halted = false →
        gathered s.m j p = true →
        let ls := layersInOrder s.m j p
        let nonf : Nat := (ls.map fun l => l.2.1).foldl (· + ·) 0
        let g := (pairTo32 (wordPair (sumP (ls.map fun l => l.2.2)).toNat)).1
        let tokens := (groupTotals s.m j p).1
        let empty := tokens == 0
        let poisoned := !empty && (decide (0 < nonf) || !isFin (v32 g))
        let verdict := if empty then 1 else if !poisoned then 0 else if u.policy = 0 then 1 else if u.policy = 1 then 2 else 3
        let v := stepValues s.m j p u verdict tokens g
        let m1 := takeValues j p v (!poisoned) (forAll (pipeModules s.m j p) (fun m d => sendMsg m d (.updValues j p v)) s.m)
        let m2 := if empty then raise m1 updEmpty (srcJob j) (some j) [j, p, m1.tick.sweepNo] else m1
        let m3 := modPipe m2 j p fun y => { y with
          poisoned := sat32 (y.poisoned + 1), skipped := if u.policy = 0 then sat32 (y.skipped + 1) else y.skipped
          zeroed := if u.policy = 1 then min (y.zeroed + nonf) (2 ^ 64 - 1) else y.zeroed }
        let done (m : Mach) : Res :=
          .next ⟨sendReport false (summaryOp j p v nonf empty poisoned (poisoned && u.policy == 0) m), s.pending⟩
        (poisoned = true → exec (.stepVerdict j p) s =
          done (raise m3 sweepPoisoned (srcJob j) (some j) [j, p, m3.tick.sweepNo, u.policy, nonf])) ∧
        (poisoned = false → exec (.stepVerdict j p) s = done m2))) ∧
    (∀ v, (v.sweep ≠ s.m.tick.sweepNo ∨ x.verdict.isSome = true ∨ (jobOf s.m j).halted = true) →
      exec (.updValues j p v) s = .next ⟨sendReport false s.m, s.pending⟩) ∧
    (∀ v, v.sweep = s.m.tick.sweepNo → x.verdict = none → (jobOf s.m j).halted = false →
      let fine := v.verdict == 0 || (v.verdict == 1 && tokenless s.m j p)
      let m1 := settleAmax j p fine (modPipe s.m j p fun x => { x with
        values := some v, verdict := some v.verdict, step := if v.verdict ≠ 1 ∧ autoOn s.m j p then v.t.toNat else x.step })
      let m2 := if v.verdict = 1 ∧ m1.tick.phase = 5 then skipAuto j p m1 else m1
      (fine = true → exec (.updValues j p v) s = .next ⟨sendReport false m2, s.pending⟩) ∧
      (fine = false → exec (.updValues j p v) s =
        .next ⟨sendReport false (notePoisoned j p (v.verdict - 1) (pipeOf m2 j p).gather.ownNonf m2), s.pending⟩)) ∧
    (∀ n edge, exec (.steer j p n edge) s = .next ⟨modPipe s.m j p fun x => { x with steerAt := some (edge, n) }, s.pending⟩)) ∧
  ∀ (s : State) (f c : Nat), Ready s → f < 96 → c < 4 →
    let us := (scOf s.m f c).update
    let told (m : Mach) : Res := .next ⟨sendReport false m, s.pending⟩
    ((us.find? fun r => !r.started && !r.copy) = none → exec (.updateStart f c) s = told s.m) ∧
    (∀ r, (us.find? fun r => !r.started && !r.copy) = some r →
      let sel (x : UpdateRun) : Bool := !x.started && !x.copy
      let skipped := (pipeOf s.m r.job r.pipe).verdict == some 1 || (jobOf s.m r.job).halted
      let ready := !s.m.twin.frozen && runReady s.m r
      (skipped = true → exec (.updateStart f c) s = told (modRunOf f c sel (fun _ => none) s.m)) ∧
      (skipped = false → ready = false → exec (.updateStart f c) s = told s.m) ∧
      (skipped = false → ready = true → momentHeld s.m r.entry = true → (facetOf s.m f).updWaited = true →
        exec (.updateStart f c) s = told s.m) ∧
      (skipped = false → ready = true → momentHeld s.m r.entry = true → (facetOf s.m f).updWaited = false →
        exec (.updateStart f c) s = told (raise (modFacet s.m f fun x => { x with updWaited := true }) updWait (srcFacet f 7)
          (some r.job) [f, c, s.m.tick.sweepNo])) ∧
      (skipped = false → ready = true → momentHeld s.m r.entry = false → hasTurn s.m f 6 r.job (updateJobs s.m f) = false →
        exec (.updateStart f c) s = told s.m) ∧
      (skipped = false → ready = true → momentHeld s.m r.entry = false → hasTurn s.m f 6 r.job (updateJobs s.m f) = true →
        exec (.updateStart f c) s = told (noteTurn f 6 r.job (modRunOf f c sel (fun x => some { x with started := true }) s.m)))) ∧
    ((s.m.twin.frozen = true ∨ ∀ r ∈ us, r.started = false) →
      exec (.updateComplete f c) s = .next ⟨sendReport false s.m, s.pending⟩) ∧
    (∀ r e st v src dst, s.m.twin.frozen = false → (us.find? fun r => r.started) = some r →
      let m1 := modRunOf f c (·.started) (fun _ => none) s.m
      (jobOf s.m r.job).halted = false → ownerOf m1 r.job r.entry = some e → (pipeOf m1 r.job r.pipe).setup = some st →
      (pipeOf m1 r.job r.pipe).values = some v → publishedOf m1 e.facet e.sc r.job r.pipe = some src →
      autoTarget m1 e.facet e.sc r.job r.pipe = some dst →
      exec (.updateComplete f c) s = .next ⟨sendReport false (updLayers r.job r.entry e src dst st v
        ((List.range (r.entry.lastLayer + 1 - r.entry.firstLayer)).map (r.entry.firstLayer + ·)) (4096 * r.entry.area) m1), s.pending⟩)

/-! ### Snapshots and restores -/

/-- Cuts. -/
def Obligations.SnapshotsAreCutStoredAndCommitted : Prop :=
  ∀ (s : State) (j : Nat), Ready s → j < 16 →
    let sn := snapOf s.m j
    (∀ src crc, src < 4096 →
      ((sn.armed = false ∨ crc = sn.crc ∨ (isLeader sn = false ∧ src ≠ memberModule sn sn.leader)) →
        exec (.snapCheck src j crc) s = .next s) ∧
      (sn.armed = true → crc ≠ sn.crc → isLeader sn = true →
        exec (.snapCheck src j crc) s = .next ⟨sendMsg s.m src (.snapCheck (self s.m) j sn.crc), s.pending⟩) ∧
      (sn.armed = true → crc ≠ sn.crc → isLeader sn = false → src = memberModule sn sn.leader →
        exec (.snapCheck src j crc) s = .next ⟨raise (modSnap s.m j fun x => { x with armed := false }) snapMismatch (srcUnit 5)
          (some j) [j, s.m.tick.sweepNo], s.pending⟩)) ∧
    ((sn.armed = false ∨ isLeader sn = false ∨ s.m.tick.running = false ∨ s.m.twin.frozen = true) →
      exec (.snapPolicyDecision j) s = .next s) ∧
    (sn.armed = true → isLeader sn = true → s.m.tick.running = true → s.m.twin.frozen = false →
      let m0 := if s.m.tick.tickNo = s.m.tick.sweepFirst then atTime s.m (s.m.tick.edgeAt + 2000) else s.m
      let score := domainScore m0 sn
      let m1 := if sn.members.length ≤ 1 then m0 else spendFree (spendFree m0)
      let nxt := sn.lastCut + cutInterval m0 j
      let m2 := modSnap m1 j fun x => { x with score := score, prevScore := sn.score, next := nxt }
      let pol := policyOf m2 j
      let rate := (pol == 1 || pol == 3) && decide (nxt ≤ cutSweep m2)
      let thr := bf (regN m2 (offSnapJob j)) 25 16
      let risk := (pol == 2 || pol == 3) && decide (thr ≤ score)
        && (decide (sn.score < thr) || decide (sn.lastRisk + regN m2 offRiskRepeat ≤ m2.tick.sweepNo))
      let m3 := if risk then modSnap m2 j fun x => { x with riskDue := true } else m2
      let decided (m : Mach) : Prop := exec (.snapPolicyDecision j) s = .next ⟨m, s.pending⟩
      (rate = false → risk = false → decided m2) ∧
      (∀ sweep, sn.cutAt = some sweep → decided m2) ∧
      ((rate = true ∨ risk = true) → sn.cutAt = none →
        (sn.cut = none → decided (announceCut j m3)) ∧
        (∀ c, sn.cut = some c → sn.deferred = true → decided m3) ∧
        (∀ c, sn.cut = some c → sn.deferred = false → decided
          (raise (modSnap m3 j fun x => { x with deferred := true }) snapDeferred (srcUnit 5) (some j) [j, m3.tick.sweepNo])))) ∧
    (∀ sweep, (sn.armed = true → exec (.snapCut j sweep) s = .next ⟨modSnap s.m j fun x => { x with cutAt := some sweep }, s.pending⟩) ∧
      (sn.armed = false → exec (.snapCut j sweep) s = .next s)) ∧
    (sn.cut = none → (∀ e, exec (.snapStreamRead j e) s = .next s) ∧ exec (.snapRingTimeout j) s = .next s ∧
      (∀ src gen, src < 4096 → exec (.snapDone src j gen) s = .next s)) ∧
    (∀ src gen shard ofs mirror data, src < 4096 → shard ≠ manifestIdx →
      let m1 := freeRxFrom src 3 (flitsOf data.length) s.m
      let m0 : Mach := { m1 with store := m1.store.filter fun i =>
        !(i.owner == src && i.job == j && !i.committed && decide (i.gen < gen)) }
      let same := sameItem src j gen shard mirror
      -- the bytes join the item `i`, and the last ones are acknowledged
      let put (m : Mach) (i : StoreItem) : Mach :=
        let m1 := writeChecked m (i.slot % 96) 1 (storeOfs m i.slot + ofs) data
        { m1 with store := m1.store.map fun x => if same x then { x with len := max i.len (ofs + data.length) } else x }
      let stored (m : Mach) : Prop :=
        (ofs + data.length = shardBytes → exec (.shard src j gen shard ofs mirror data) s =
          .next ⟨sendMsg m src (.shardAck (self m) j gen shard false), s.pending⟩) ∧
        (ofs + data.length ≠ shardBytes → exec (.shard src j gen shard ofs mirror data) s = .next ⟨m, s.pending⟩)
      (∀ i, m0.store.find? same = some i → stored (put m0 i)) ∧
      (∀ n, (∀ i ∈ m0.store, same i = false) → ofs = 0 → freeSlot m0 = some n →
        let com := (m0.store.find? fun i => i.owner == src && i.job == j && i.gen == gen && i.committed).map (·.commit)
        let i : StoreItem := ⟨n, src, j, gen, shard, mirror, 0, com.getD 0, com.isSome⟩
        stored (put { m0 with store := m0.store ++ [i] } i)) ∧
      ((∀ i ∈ m0.store, same i = false) → ofs ≠ 0 → exec (.shard src j gen shard ofs mirror data) s = .next ⟨m0, s.pending⟩) ∧
      ((∀ i ∈ m0.store, same i = false) → ofs = 0 → freeSlot m0 = none →
        exec (.shard src j gen shard ofs mirror data) s = .next ⟨sendMsg (raise m0 snapStoreFull (srcUnit 5) (some j) [src, j]) src
          (.shardAck (self m0) j gen shard true), s.pending⟩)) ∧
    (∀ src gen shard refused, src < 4096 →
      let isMoved (v : MovedShard) : Bool := v.gen == gen && v.shard == shard && targetModule s.m sn v.target == some src
      (∀ v, sn.moving.find? isMoved = some v →
        exec (.shardAck src j gen shard refused) s = .next ⟨settleMoved j v refused s.m, s.pending⟩) ∧
      (sn.moving.find? isMoved = none → (∀ c, sn.cut = some c → c.gen ≠ gen) →
        exec (.shardAck src j gen shard refused) s = .next ⟨if refused then shardLostOp j gen shard s.m else s.m, s.pending⟩)) ∧
    (∀ c, sn.cut = some c →
      (∀ e,
        let m1 := pumpCut j (takeEntry j e s.m)
        (0x1000000 < bufferBytes m1 + 65536 → exec (.snapStreamRead j e) s = .next ⟨pumpCut j m1, s.pending⟩) ∧
        (bufferBytes m1 + 65536 ≤ 0x1000000 → exec (.snapStreamRead j e) s = .next ⟨pumpCut j (readBlock j m1), s.pending⟩)) ∧
      (∀ src shard refused w, src < 4096 →
        (∀ v ∈ sn.moving, ¬(v.gen = c.gen ∧ v.shard = shard ∧ targetModule s.m sn v.target = some src)) →
        sentTo s.m j src shard = some w →
        let m1 := modCut j (fun c => { c with sent := c.sent.filter fun x => x != w }) s.m
        let t := w.2.2.1
        let m2 := modCut j (fun c => { c with manifested := if c.manifested.contains t then c.manifested else c.manifested ++ [t] }) m1
        let after (m : Mach) : Prop := exec (.shardAck src j c.gen shard refused) s = .next ⟨m, s.pending⟩
        (refused = true → after (turnAway j shard t m1)) ∧
        (refused = false → shard = manifestIdx → c.committing.isSome = true → after (ackCommit j m2)) ∧
        (refused = false → shard = manifestIdx → c.committing = none → after (checkDone j m2)) ∧
        (refused = false → shard ≠ manifestIdx →
          after (pumpCut j (modCut j (fun c => { c with acked := c.acked ++ [(shard, t)] }) m1)))) ∧
      (∀ src shard, src < 4096 →
        (∀ v ∈ sn.moving, ¬(v.gen = c.gen ∧ v.shard = shard ∧ targetModule s.m sn v.target = some src)) →
        sentTo s.m j src shard = none →
        exec (.shardAck src j c.gen shard false) s = .next s ∧
        (placedOn s.m j src shard = none → exec (.shardAck src j c.gen shard true) s = .next s) ∧
        (∀ t, placedOn s.m j src shard = some t → exec (.shardAck src j c.gen shard true) s = .next ⟨turnAway j shard t
          (modCut j (fun c => { c with acked := c.acked.filter fun x => x != (shard, t) }) s.m), s.pending⟩)) ∧
      (∀ src, src < 4096 →
        (isLeader sn = true → exec (.snapDone src j c.gen) s = .next ⟨tryCommit j (modCut j (fun c => { c with
          membersDone := if c.membersDone.contains src then c.membersDone else c.membersDone ++ [src] }) s.m), s.pending⟩) ∧
        (isLeader sn = false → exec (.snapDone src j c.gen) s = .next s)) ∧
      (∀ src commit losses, src < 4096 →
        exec (.snapCommit src j c.gen true commit losses) s = .next ⟨finishCommit j (modCut j (fun c => { c with
          membersAck := if c.membersAck.contains src then c.membersAck else c.membersAck ++ [src] }) s.m), s.pending⟩ ∧
        (c.done = true → c.committing = none →
          exec (.snapCommit src j c.gen false commit losses) s = .next ⟨memberCommit j commit losses s.m, s.pending⟩) ∧
        ((c.done = false ∨ c.committing.isSome = true) → exec (.snapCommit src j c.gen false commit losses) s = .next s)) ∧
      (∀ src gen ack commit losses, src < 4096 → gen ≠ c.gen → exec (.snapCommit src j gen ack commit losses) s = .next s ∧
        exec (.snapDone src j gen) s = .next s) ∧
      (∀ e, c.ringEmpty = some e →
        let late := expired s.m e (regN s.m offRingTimeout) && needsSlot s.m j
        (late = true → exec (.snapRingTimeout j) s = .next ⟨abortCut j 5 s.m, s.pending⟩) ∧
        (late = false → exec (.snapRingTimeout j) s = .next s)) ∧
      (c.ringEmpty = none → exec (.snapRingTimeout j) s = .next s))

/-- Restores. -/
def Obligations.RestoresGatherChooseAndWrite : Prop :=
  ∀ (s : State) (j : Nat), Ready s → j < 16 →
    let sn := snapOf s.m j
    (∀ src ms, src < 4096 → exec (.snapManifests src j true ms) s = .next ⟨
      pumpAll (sendMsg s.m src (.snapManifests (self s.m) j false ((heldManifests s.m j).map some))), s.pending⟩) ∧
    (sn.restore = none → ∀ src ms gen none_ polygon mirrors, src < 4096 →
      exec (.snapManifests src j false ms) s = .next ⟨pumpAll s.m, s.pending⟩ ∧
      exec (.snapChoice j gen none_) s = .next ⟨pumpAll s.m, s.pending⟩ ∧
      exec (.snapRestored j gen polygon mirrors) s = .next ⟨pumpAll s.m, s.pending⟩) ∧
    (∀ src gens, src < 4096 →
      (isLeader sn = false → exec (.snapGens src j gens) s = .next ⟨pumpAll s.m, s.pending⟩) ∧
      (isLeader sn = true → sn.restore = none →
        let l := (sn.lastReports.filter fun x => x.1 != src) ++ [(src, gens)]
        (chooseFrom s.m sn l sn.lastWant = none → exec (.snapGens src j gens) s = .next ⟨pumpAll s.m, s.pending⟩) ∧
        (∀ c, chooseFrom s.m sn l sn.lastWant = some c → exec (.snapGens src j gens) s = .next ⟨pumpAll (sendMsg
          (modSnap s.m j fun x => { x with lastReports := l }) src (.snapChoice j (c.getD 0) c.isNone)), s.pending⟩))) ∧
    (∀ r, sn.restore = some r →
      (∀ src ms, src < 4096 → (src ∉ r.awaited ∨ src ∈ r.answered) →
        exec (.snapManifests src j false ms) s = .next ⟨pumpAll s.m, s.pending⟩) ∧
      (∀ src ms, src < 4096 → src ∈ r.awaited → src ∉ r.answered →
        let m1 := modRestore j (fun r => { r with manifests := r.manifests ++ ms.filterMap id, answered := r.answered ++ [src] })
          (if src = self s.m then doneEntries j ms s.m else s.m)
        ((∀ d ∈ r.awaited, d = src ∨ d ∈ r.answered) →
          exec (.snapManifests src j false ms) s = .next ⟨pumpAll (reportGens j m1), s.pending⟩) ∧
        ((∃ d ∈ r.awaited, d ≠ src ∧ d ∉ r.answered) → exec (.snapManifests src j false ms) s = .next ⟨pumpAll m1, s.pending⟩)) ∧
      (∀ src gens, src < 4096 → isLeader sn = true →
        let l := (r.reports.filter fun x => x.1 != src) ++ [(src, gens)]
        let m1 := modRestore j (fun r => { r with reports := l }) s.m
        (chooseFrom m1 sn l r.want = none → exec (.snapGens src j gens) s = .next ⟨pumpAll m1, s.pending⟩) ∧
        (∀ c, chooseFrom m1 sn l r.want = some c → exec (.snapGens src j gens) s = .next ⟨pumpAll (choiceOp j (c.getD 0) c.isNone
          (forAll ((domainModules sn).filter fun d => d != self m1) (fun m d => sendMsg m d (.snapChoice j (c.getD 0) c.isNone)) m1)),
          s.pending⟩)) ∧
      (∀ gen, exec (.snapChoice j gen true) s = .next ⟨pumpAll (endRestore j 0x74 0 s.m), s.pending⟩ ∧
        exec (.snapChoice j gen false) s =
          .next ⟨pumpAll (modRestore j (fun r => { r with chosen := some gen, held := none }) s.m), s.pending⟩) ∧
      (∀ gen polygon mirrors, r.chosen ≠ some gen →
        exec (.snapRestored j gen polygon mirrors) s = .next ⟨pumpAll s.m, s.pending⟩) ∧
      (∀ g polygon mirrors, r.chosen = some g → jobShifting s.m j = true → exec (.snapRestored j g polygon mirrors) s =
        .next ⟨pumpAll (modRestore j (fun r => { r with held := some (polygon ++ mirrors) }) s.m), s.pending⟩) ∧
      (∀ g polygon mirrors own w, r.chosen = some g → jobShifting s.m j = false → winning r (self s.m) g = some own →
        winning r (writerModule sn) g = some w →
        ((recover own (polygon ++ mirrors) = none ∨ recover w (polygon ++ mirrors) = none) →
          exec (.snapRestored j g polygon mirrors) s = .next ⟨pumpAll (reportGens j (modRestore j (fun r =>
            { r with refused := r.refused ++ [g], chosen := none }) (raise s.m snapFallback (srcUnit 5) (some j) [j, g, self s.m]))),
            s.pending⟩) ∧
        (∀ a b, recover own (polygon ++ mirrors) = some a → recover w (polygon ++ mirrors) = some b →
          let sec (i : Nat) : Nat := w.sections.getD i 0
          let st := a.1.take (own.sections.getD 1 0)
          let ok := (List.range 4).filter fun p => strNat st (48 + 64 * p + 8) 8 == 1
          (readerDiffers s.m j w ok = true → exec (.snapRestored j g polygon mirrors) s =
            .next ⟨pumpAll (endRestore j 0x76 0 s.m), s.pending⟩) ∧
          let m1 := replaceShards j r own a.1 a.2 (rebuiltEvents j g (if own.modNum = w.modNum then a.2 else a.2 ++ b.2) s.m)
          let m2 := putMoments j (if w.mzero then none else some ((b.1.drop (sec 1)).take (sec 2 - sec 1))) m1
          let m3 := putWeights j ok ((b.1.drop (sec 2)).take (sec 3 - sec 2)) m2
          let m4 := modJob m3 j fun x => { x with srKey := BitVec.ofNat 128 (strNat st 16 16), halted := false }
          let m5 := putProj j st (b.1.drop (sec 3)) r.exclProj (putHist j st r.exclHist (forAll (List.range 4) (putPipe j st) m4))
          let m6 := modSnap m5 j fun x => { x with
            sRun := strNat st 32 8, nFail := strNat st 40 8, commitCtr := (r.manifests.map (·.commit)).foldl max 0, lastCut := g
            roomless := none, verify := if r.verify then some (g, own.losses) else none }
          (readerDiffers s.m j w ok = false → exec (.snapRestored j g polygon mirrors) s =
            .next ⟨pumpAll (raise (endRestore j 0 (g % 2 ^ 32) m6) snapRestoredEv (srcUnit 5) (some j) [j, g]), s.pending⟩))))

/-! ### Facets, twins and links -/

/-- Facets and twins. -/
def Obligations.FacetsFailAndTwinsWatchEachOther : Prop :=
  ∀ s : State, Ready s →
    (∀ f, f < 96 → (facetOf s.m f).failed = true → exec (.facetFail f) s = .next ⟨sendReport false s.m, s.pending⟩) ∧
    (∀ f, f < 96 → (facetOf s.m f).failed = false →
      let site := (anySiteOf s.m f).getD 255
      let row := rowOf site
      let gone := f :: guestsOf s.m f
      let lost := s.m.store.filter fun i => i.slot % 96 == f
      let m0 := forAll gone (fun m g => modFacet m g fun y => { y with
        failed := true, holding := false, hostedBy := none, prisms := List.replicate 4 ⟨[], []⟩, ray := [], strands := [], groups := [],
        grads := [], scs := y.scs.map fun c => { c with run := none }, moves := [], retireDue := [], retrain := none })
        (flashRecord s.m fun fl => modSite fl site fun y => { y with state := 1 })
      let m1 := loseMem (loseMem (loseMem m0 f 0 0 Config.spadSize) f 1 0 Config.hbmSize) f 2 0 0x4000
      let m2 : Mach := { m1 with
        jobs := m1.jobs.map fun y => { y with guests := y.guests.filter fun g => g.2.2.1 != f }
        flights := m1.flights.filter fun fl => match fl.issuer with
          | .strand g _ => !gone.contains g
          | .sc g _ => !gone.contains g
          | .gather g _ => !gone.contains g
          | .fold _ => true
        store := m1.store.filter fun i => i.slot % 96 != f }
      let m3 := raise m2 facetFailEv (srcFacet f 11) none [f, site, (siteOf s.m (96 + row)).getD 255]
      let m4 := forAll (jobsOn s.m f) (fun m j =>
        raise (abortCut j 2 (modJob m j fun y => { y with halted := true })) jobHit (srcJob j) (some j) [j, f]) m3
      let m4 := { m4 with jobs := m4.jobs.map fun y => if y.snap.armed then { y with snap := { y.snap with nFail := y.snap.nFail + 1 } } else y }
      let m5 := forAll (lost.filter fun i => i.owner != self m4)
        (fun m i => sendMsg m i.owner (.shardAck (self m) i.job i.gen i.shard true)) m4
      let taken (m : Mach) := sendReport false (forAll gone (fun m g => takeOver g m) m)
      let updating := m5.test.ucode.any fun u => rowOf u.site == row && u.step < 4
      (updating = true → exec (.facetFail f) s = .next ⟨taken (abortUcode row 1 m5), s.pending⟩) ∧
      (updating = false → exec (.facetFail f) s = .next ⟨taken m5, s.pending⟩)) ∧
    (∀ row sh before after, row < 8 → s.m.shifts = before ++ sh :: after → sh.row = row → (∀ x ∈ before ++ after, x.row ≠ row) →
      exec (.shiftCopyDone row) s = .next ⟨{ s.m with shifts := before ++ { sh with copied := true } :: after }, s.pending⟩) ∧
    (∀ row, row < 8 → (∀ x ∈ s.m.shifts, x.row ≠ row) → exec (.shiftCopyDone row) s = .next s) ∧
    ((twinOn s.m = false ∨ s.m.tick.running = false) → exec .heartbeatSend s = .next s ∧ exec .twinLost s = .next s) ∧
    (twinOn s.m = true → s.m.tick.running = true →
      let m0 := atTime s.m (s.m.tick.edgeAt + 100)
      exec .heartbeatSend s = .next ⟨forAll ((bridgeLinks m0).filter (linkIsUp m0)) (fun m l =>
        sendTick m l (.heartbeat l (ourHeartbeat m))) m0, s.pending⟩) ∧
    (∀ link h, link < 36 →
      ((twinOn s.m = false ∨ link ∉ bridgeLinks s.m ∨ ∃ x, s.m.twin.last = some x ∧ x.tick = h.tick) →
        exec (.heartbeat link h) s = .next s) ∧
      (twinOn s.m = true → link ∈ bridgeLinks s.m → (∀ x, s.m.twin.last = some x → x.tick ≠ h.tick) →
        exec (.heartbeat link h) s = .next ⟨modTwin s.m fun t => { t with
          last := some h, beat := t.beat || h.tick == s.m.tick.tickNo, lost := t.lost && h.detach }, s.pending⟩)) ∧
    (twinOn s.m = true → exec .twinFailSensed s = .next ⟨modTwin s.m fun t => { t with failSensed := true }, s.pending⟩) ∧
    (twinOn s.m = false → exec .twinFailSensed s = .next s) ∧
    ((s.m.twin.lost = true ∨ s.m.twin.missed < hbMiss s.m) → exec .twinLost s = .next s) ∧
    (twinOn s.m = true → s.m.tick.running = true → s.m.twin.lost = false → hbMiss s.m ≤ s.m.twin.missed →
      let det := s.m.twin.last.any (·.detach)
      let m1 := raise s.m twinLostEv (srcUnit 1) none [if det then 3 else if s.m.twin.failSensed then 2 else 1]
      exec .twinLost s = .next ⟨modTwin m1 fun t => { t with
        lost := true, lostTick := m1.tick.tickNo, failSensed := false
        freezeDue := t.freezeDue || !(leaseHeld m1 || det) }, s.pending⟩)

/-- Links. -/
def Obligations.LinksCarryTrainAndRecover : Prop :=
  ∀ (s : State) (l : Nat), Ready s → l < 36 →
    let x := linkOf s.m l
    (x.state ≠ 2 → (∀ f, exec (.linkFrame l f) s = .next ⟨sendReport false s.m, s.pending⟩) ∧ exec (.linkReplayTimeout l) s = .next s ∧
      exec (.linkDown l) s = .next s ∧ ∀ n, n < 8 → exec (.laneLockLoss l n) s = .next s) ∧
    (x.state = 2 →
      (∀ f : FrameIn,
        let m1 := modLink s.m l fun x => { x with
          cntCorr := sat64 (x.cntCorr + f.corrected), cntUncorr := sat64 (x.cntUncorr + b2n (!f.good))
          cntSym := (x.cntSym.zip (f.symbols ++ List.replicate 8 0)).map fun p => sat64 (p.1 + p.2) }
        let answer (m : Mach) := pumpLink l (modLink m l fun x => { x with ackDue := true })
        let m2 := takeControl l f.ctrl (modLink m1 l fun x => { x with rxLast := f.seqNum, rxNak := false })
        let slot (i : Nat) : Nat × BitVec 256 := (bf f.ctrl.toNat (4 * i + 3) (4 * i), f.heads.getD i 0)
        let nxt := f.seqNum = (x.rxLast + 1) % 4096
        (f.good = false → exec (.linkFrame l f) s =
          .next ⟨sendReport false (answer (modLink m1 l fun x => { x with rxNak := true })), s.pending⟩) ∧
        (f.good = true → f.align = true → exec (.linkFrame l f) s = .next ⟨sendReport false (settleLanes l m1), s.pending⟩) ∧
        (f.good = true → f.align = false → ¬nxt → exec (.linkFrame l f) s = .next ⟨sendReport false (answer m1), s.pending⟩) ∧
        (f.good = true → f.align = false → nxt →
          ((linkOf m2 l).state ≠ 2 → exec (.linkFrame l f) s = .next ⟨sendReport false m2, s.pending⟩) ∧
          ((linkOf m2 l).state = 2 → exec (.linkFrame l f) s = .next ⟨sendReport false (settleLanes l
            (answer (forAll [slot 0, slot 1, slot 2, slot 3, slot 4] (takeSlot l) m2))), s.pending⟩))) ∧
      (x.held = [] → exec (.linkReplayTimeout l) s = .next s) ∧
      (∀ a t, x.held = a :: t → let m0 := atTime s.m (x.replayAt + 400)
        (m0.now < x.replayAt + 400 → exec (.linkReplayTimeout l) s = .next s) ∧
        (x.replayAt + 400 ≤ m0.now → x.ackAt + 6400 ≤ m0.now → exec (.linkReplayTimeout l) s = .next ⟨downLink l m0, s.pending⟩) ∧
        (x.replayAt + 400 ≤ m0.now → m0.now < x.ackAt + 6400 → exec (.linkReplayTimeout l) s = .next ⟨(a :: t).foldl
          (fun m g => emit m (.frame l (activeLanes m0 l) g.seqNum (frameCtrl (linkOf m0 l) (withoutTicks g)) (withoutTicks g).slots))
          (modLink m0 l fun y => { y with cntReplay := sat64 (x.cntReplay + 1), replayAt := m0.now }), s.pending⟩)) ∧
      exec (.linkDown l) s = .next ⟨updatePaired (raise (modLink s.m l fun x => { x with
        state := if linkEn s.m l then 1 else 0, downAt := s.m.now, prevFar := some x.farModule, naks := 0, retraining := none
        riseDue := none, retrainQ := [], tryAt := none, farLast := none
        cntDown := sat64 (x.cntDown + 1) }) linkDownEv (srcLink l) none [l, x.farModule, x.width]), s.pending⟩ ∧
      (∀ n, n < 8 → x.retraining = some n → exec (.laneLockLoss l n) s = .next s) ∧
      (∀ n, n < 8 → x.retraining ≠ some n → n ∉ activeLanes s.m l →
        exec (.laneLockLoss l n) s = .next ⟨modLink s.m l fun x => { x with
          good := x.good &&& ~~~(1#8 <<< n), riseDue := x.riseDue.filter (· != n) }, s.pending⟩) ∧
      (∀ n, n < 8 → x.retraining ≠ some n → n ∈ activeLanes s.m l →
        let m1 := modLink s.m l fun x => { x with good := x.good &&& ~~~(1#8 <<< n), riseDue := x.riseDue.filter (· != n) }
        let k := ((usableLanes m1 l (linkOf m1 l).good).filter fun k => x.retraining != some k).length
        let w := widthFor (min k x.width) (linkMinW m1 l)
        (w = 0 → exec (.laneLockLoss l n) s = .next ⟨downLink l m1, s.pending⟩) ∧
        (w ≠ 0 → exec (.laneLockLoss l n) s = .next ⟨resendHeld l (setWidth l n w m1), s.pending⟩))) ∧
    ((x.state = 2 ∨ x.prevFar = none) → exec (.linkFlush l) s = .next s) ∧
    (x.state ≠ 2 → x.prevFar.isSome = true →
      let d := x.downAt + 100000 * regN s.m offLinkHold
      let m0 := atTime s.m d
      d ≤ m0.now →
      exec (.linkFlush l) s = .next ⟨raise (modLink m0 l fun x => { x with
        held := [], prevFar := none, txQ := x.txQ.filter fun t => !t.begun }) linkFlushEv (srcLink l) none [l, x.held.length],
        s.pending⟩) ∧
    (∀ failStep good, (linkEn s.m l = false ∨ x.state = 2) → exec (.linkTrainRetry l failStep good) s = .next s) ∧
    (∀ failStep good, linkEn s.m l = true → x.state ≠ 2 →
      let m0 := match x.tryAt with | some t => atTime s.m (t + 100000000) | none => s.m
      let m1 := modLink m0 l fun x => { x with state := 1, good := good, tryAt := some m0.now, farLast := none }
      let w := widthFor (usableLanes m1 l good).length (linkMinW m1 l)
      let fails := if linkOptics m1 l && !(linkOf m1 l).optics then some 1 else failStep
      (∀ t, x.tryAt = some t → m0.now < t + 100000000 → exec (.linkTrainRetry l failStep good) s = .next s) ∧
      ((∀ t, x.tryAt = some t → t + 100000000 ≤ m0.now) →
      (∀ st, fails = some st → exec (.linkTrainRetry l failStep good) s = .next ⟨failTraining l st m1, s.pending⟩) ∧
      (fails = none → w = 0 → exec (.linkTrainRetry l failStep good) s = .next ⟨failTraining l 1 m1, s.pending⟩) ∧
      (fails = none → w ≠ 0 → exec (.linkTrainRetry l failStep good) s = .next ⟨
        emit m1 (.linkHello l (self m1) m1.flash.serial w (linkOf m1 l).rxLast), s.pending⟩))) ∧
    (∀ fm fl width last serial twin, (x.state ≠ 1 ∨ x.tryAt = none) →
      exec (.linkHello l fm fl width last serial twin) s = .next s) ∧
    (∀ fm fl width last serial twin, x.state = 1 → x.tryAt ≠ none →
      let m1 := modLink s.m l fun x => { x with
        farModule := fm, farLink := fl, farWidth := width, farSerial := serial, farTwin := twin, farLast := some (last % 4096) }
      let w := widthFor (min width (usableLanes m1 l (linkOf m1 l).good).length) (linkMinW m1 l)
      (w = 0 → exec (.linkHello l fm fl width last serial twin) s = .next ⟨failTraining l 3 m1, s.pending⟩) ∧
      (w ≠ 0 → exec (.linkHello l fm fl width last serial twin) s = .next ⟨m1, s.pending⟩)) ∧
    (∀ rtt lat resumed, (x.state ≠ 1 ∨ linkEn s.m l = false ∨ x.tryAt = none ∨ x.farLast = none) →
      exec (.linkUp l rtt lat resumed) s = .next ⟨sendReport false s.m, s.pending⟩) ∧
    (∀ rtt lat resumed t last, x.state = 1 → linkEn s.m l = true → x.tryAt = some t → x.farLast = some last →
      let w := widthFor (min x.farWidth (usableLanes s.m l x.good).length) (linkMinW s.m l)
      let m1 := readmitLanes l s.m
      let m2 := modLink m1 l fun x => { x with
        state := 2, twinOk := m1.flash.twinSerial != 0 && x.farSerial == m1.flash.twinSerial, rtt := rtt, lat := lat
        credits := vcBuffers, rxBuf := List.replicate 6 0, rxOwed := List.replicate 6 0, rxNak := false, ackDue := false, naks := 0
        ackAt := m1.now, tryAt := none, farLast := none }
      let m3 := raise (resumeFrames l last (setWidth l ((usableLanes m2 l x.good).getD (w - 1) 0) w m2)) linkUpEv (srcLink l) none [l, x.farModule, w]
      let stranger := (bridgeLinks m3).contains l && m3.flash.twinSerial != 0 && !leadsToTwin m3 l
      let m4 := if stranger then raise m3 twinBridgeErr (srcLink l) none [l, x.farModule] else m3
      (t + 100000000 < s.m.now → exec (.linkUp l rtt lat resumed) s = .next ⟨sendReport false (failTraining l 4 s.m), s.pending⟩) ∧
      (s.m.now ≤ t + 100000000 → w = 0 →
        exec (.linkUp l rtt lat resumed) s = .next ⟨sendReport false (failTraining l 3 s.m), s.pending⟩) ∧
      (s.m.now ≤ t + 100000000 → w ≠ 0 → exec (.linkUp l rtt lat resumed) s = .next ⟨sendReport false
        (forAll (List.range 32) (fun m n => flushFold n m) (flushWaiting (pumpLink l (updatePaired m4)))), s.pending⟩)) ∧
    (∀ n symbols, n < 8 →
      let excess : Prop := (regN s.m (offLinkCtl l)).testBit 4 = true ∧ regN s.m offRetrainThr < symbols
      (excess → exec (.laneFecThreshold l n symbols) s = .next ⟨retrainLaneOp l n s.m, s.pending⟩) ∧
      (¬excess → exec (.laneFecThreshold l n symbols) s = .next s)) ∧
    (∀ n ok, n < 8 → x.retraining ≠ some n → exec (.laneRetrainDone l n ok) s = .next s) ∧
    (∀ n ok, n < 8 → x.retraining = some n →
      let m1 := modLink s.m l fun x => { x with retraining := none }
      (ok = true → s.m.now ≤ x.retrainAt + 10000000 → exec (.laneRetrainDone l n ok) s =
        .next ⟨settleLanes l (modLink m1 l fun x => { x with riseDue := some n }), s.pending⟩) ∧
      ((ok = false ∨ x.retrainAt + 10000000 < s.m.now) → exec (.laneRetrainDone l n ok) s =
        .next ⟨settleLanes l (retireLane l n m1), s.pending⟩)) ∧
    (let m1 := modLink s.m l fun x => { x with optics := false }
     let carries := linkEn m1 l && linkOptics m1 l
     (carries = true → exec (.opticsRemoved l) s = .next ⟨downLink l m1, s.pending⟩) ∧
     (carries = false → exec (.opticsRemoved l) s = .next ⟨m1, s.pending⟩)) ∧
    exec (.opticsInserted l) s = .next ⟨emit (modLink s.m l fun x => { x with optics := true }) (.pin .cageInt true), s.pending⟩

/-- Twin commands and PWR_CMD. -/
def Obligations.TwinCommandsAct : Prop :=
  ∀ s : State, Ready s →
    exec .detach s = .next ⟨modTwin s.m fun t => { t with detaching := true }, s.pending⟩ ∧
    (s.m.twin.frozen = true ∨ s.m.twin.freezeDue = true → exec .unfreeze s = .next ⟨sendReport false
      (emit (modTwin s.m fun t => { t with frozen := false, freezeDue := false })
        (.pin .twinFail (s.m.twin.detached || s.m.ctr.halted))), s.pending⟩) ∧
    (s.m.twin.frozen = false → s.m.twin.freezeDue = false → exec .unfreeze s = .next ⟨sendReport false s.m, s.pending⟩) ∧
    (∀ v h, s.m.twin.last = some h → h.lease = true → exec (.twinLeaseExp v) s =
      .next ⟨raise s.m twinLeaseErr (srcUnit 1) none [s.m.tick.tickNo, s.m.twin.modNum], s.pending⟩) ∧
    (∀ v, (∀ h, s.m.twin.last = some h → h.lease = false) → exec (.twinLeaseExp v) s =
      .next ⟨regSet s.m offLeaseExp v, s.pending⟩) ∧
    (∀ v, tb (regN s.m offTwinCtl) 0 = true → exec (.twinLinks v) s =
      .next ⟨raise s.m twinBridgeErr (srcUnit 1) none
        [(bridgeLinks s.m).headD 0, (linkOf s.m ((bridgeLinks s.m).headD 0)).farModule], s.pending⟩) ∧
    (∀ v : Word, tb (regN s.m offTwinCtl) 0 = false → 2 ≤ popc 36 (wf v 35 0) → popc 36 (wf v 35 0) ≤ 8 →
      exec (.twinLinks v) s = .next ⟨updatePaired (regSet s.m offTwinLinks (word (wf v 35 0))), s.pending⟩) ∧
    (∀ v : Word, tb (regN s.m offTwinCtl) 0 = false → (popc 36 (wf v 35 0) < 2 ∨ 8 < popc 36 (wf v 35 0)) →
      exec (.twinLinks v) s = .next ⟨raise s.m hostCfgErr srcHost none [], s.pending⟩) ∧
    (∀ f, f < 96 → exec (.failFacet f) s = .next ⟨sendReport false (failFacetOp f s.m), s.pending⟩ ∧ exec (.failFacet f) s = exec (.facetFail f) s) ∧
    (∀ f, 96 ≤ f → f < 128 → exec (.failFacet f) s = .next ⟨sendReport false s.m, s.pending⟩)

/-- Link commands and RETIRE. -/
def Obligations.LinkCommandsAct : Prop :=
  ∀ s : State, Ready s →
    (∀ l, l < 36 →
      let x := linkOf s.m l
      exec (.clrCnt l) s = .next ⟨modLink s.m l fun x => { x with
        cntCorr := 0, cntUncorr := 0, cntSym := [0, 0, 0, 0, 0, 0, 0, 0], cntReplay := 0, cntDown := 0, cntVc := 0 }, s.pending⟩ ∧
      exec (.clrRetired l) s = .next ⟨modLink s.m l fun x => { x with clrAsked := true }, s.pending⟩ ∧
      (let m1 := modLink s.m l fun x => { x with offerRetired := x.offerRetired || x.clrAsked, clrAsked := false }
       (x.state ≠ 2 → exec (.retrainAll l) s = .next ⟨m1, s.pending⟩) ∧
       (x.state = 2 → exec (.retrainAll l) s = .next ⟨updatePaired (raise (modLink m1 l fun x => { x with
          state := if linkEn m1 l then 1 else 0, downAt := s.m.now, prevFar := some x.farModule, naks := 0, retraining := none
          riseDue := none, retrainQ := [], tryAt := none, farLast := none, cntDown := sat64 (x.cntDown + 1) }) linkDownEv (srcLink l) none [l, x.farModule, x.width]), s.pending⟩)) ∧
      (∀ n, n < 8 →
        let q := (x.retrainQ ++ [n]).mergeSort fun a b => decide (a ≤ b)
        let m1 := modLink s.m l fun x => { x with retrainQ := q }
        let fits (k : Nat) : Prop := x.width ≠ 4 ∧ linkMinW s.m l ≤ nextLower x.width ∧ k ∈ activeLanes s.m l
        ((x.state ≠ 2 ∨ x.retraining = some n ∨ x.riseDue = some n ∨ n ∈ x.retrainQ) → exec (.retrainLane l n) s = .next s) ∧
        (x.state = 2 → x.retraining ≠ some n → x.riseDue ≠ some n → n ∉ x.retrainQ →
          ((mayPause s.m = false ∨ (x.retraining ≠ none ∧ x.riseDue = none)) →
            exec (.retrainLane l n) s = .next ⟨m1, s.pending⟩) ∧
          (mayPause s.m = true → x.retraining = none → x.riseDue = none →
            (∀ before k after, q = before ++ k :: after → (∀ y ∈ before, ¬fits y) → fits k →
              exec (.retrainLane l n) s = .next ⟨setWidth l k (nextLower x.width)
                (modLink m1 l fun x => { x with retraining := some k, retrainAt := s.m.now, retrainQ := after }), s.pending⟩) ∧
            ((∀ y ∈ q, ¬fits y) → exec (.retrainLane l n) s =
              .next ⟨modLink m1 l fun x => { x with retrainQ := [] }, s.pending⟩))))) ∧
    (∀ f c, f < 128 → c < 16 →
      ((96 ≤ f ∨ (facetOf s.m f).failed = true) → exec (.retire f c) s = .next s) ∧
      (f < 96 → (facetOf s.m f).failed = false → freeReserve s.m (facetRow s.m f) = none → exec (.retire f c) s =
        .next ⟨raise s.m memRetireNone (srcFacet f 6) none [f, c], s.pending⟩) ∧
      (∀ r, f < 96 → (facetOf s.m f).failed = false → freeReserve s.m (facetRow s.m f) = some r → exec (.retire f c) s =
        .next ⟨decideRetire f c s.m, s.pending⟩))

/-! ### Memory control and focus -/

/-- Memory control. -/
def Obligations.ChannelsMoveScrubAndRetrain : Prop :=
  ∀ (s : State) (f : Nat), Ready s →
    (∀ bad ch rc, f < 96 → runningMove s.m f = some (.channel ch rc) →
      let m1 := flashRecord s.m fun fl => { fl with remaps := fl.remaps ++ [(f, ch, facetRow s.m f, rc)] }
      let units := (bad.map fun o => locate m1 f 1 (o - o % 32)).filter fun u => !m1.ue.contains u
      exec (.memRetired f bad) s = .next ⟨raise (endMove f { m1 with ue := m1.ue ++ units.eraseDups }) memRetiredEv (srcFacet f 6)
        none [f, ch, rc], s.pending⟩) ∧
    (∀ r k0 k, f < 96 → runningMove s.m f = some (.rekey r k0 k) →
      exec (.memRekeyed f) s = .next ⟨raise (endMove f (spendFree s.m)) memRekeyedEv (srcFacet f 6) none
        [f, r, k.toNat, (freeVal s.m 32).toNat], s.pending⟩) ∧
    (f < 96 → runningMove s.m f = none → (∀ bad, exec (.memRetired f bad) s = .next s) ∧ exec (.memRekeyed f) s = .next s) ∧
    (∀ ch r, f < 104 → ch < 16 →
      exec (.imbalance f ch r false) s = .next ⟨modFacet s.m f fun x => { x with imbRun := 0, imbRaised := false }, s.pending⟩ ∧
      (let m1 := modFacet s.m f fun x => { x with imbRun := (facetOf s.m f).imbRun + 1 }
       (100 ≤ (facetOf s.m f).imbRun + 1 → (facetOf m1 f).imbRaised = false → exec (.imbalance f ch r true) s = .next ⟨
         autoRekey f r (raise (modFacet m1 f fun x => { x with imbRaised := true }) imbalanceEv (srcFacet f 6) none [f, ch, r]), s.pending⟩) ∧
       (((facetOf s.m f).imbRun + 1 < 100 ∨ (facetOf m1 f).imbRaised = true) →
         exec (.imbalance f ch r true) s = .next ⟨m1, s.pending⟩))) ∧
    (∀ ce ue, f < 104 → (∀ u ∈ ce ++ ue, u.1 < 2) →
      let m1 := forAll ce (countCe f) s.m
      let units := (ue.map fun u => unitBase (locate m1 f u.1 u.2)).eraseDups
      exec (.scrubPass f ce ue) s = .next ⟨raiseUe { m1 with ue := m1.ue ++ units.filter fun u => !m1.ue.contains u } units, s.pending⟩) ∧
    (∀ ch ok, f < 104 → ch < 16 →
      let x := facetOf s.m f
      let asked := x.retrainReq.head?
      ((retrainPhase s.m = false ∨ asked.or x.retrain ≠ some ch ∨ x.retrainAt = some s.m.tick.edgeAt) →
        exec (.periodicRetrain f ch ok) s = .next s) ∧
      (retrainPhase s.m = true → asked.or x.retrain = some ch → x.retrainAt ≠ some s.m.tick.edgeAt →
        let m0 := modFacet s.m f fun x => { x with retrainAt := some s.m.tick.edgeAt }
        let m1 := modFacet m0 f fun x =>
          if asked.isSome then { x with retrainReq := x.retrainReq.drop 1 }
          else { x with retrain := if ch < 15 then some (ch + 1) else none }
        let st := stackOf m1 f
        let m2 := if asked.isNone && ch == 15 then modPower m1 fun p => { p with
          trainTemps := (p.trainTemps.filter fun t => t.1 != st) ++ [(st, stackTempOf m1 st)] } else m1
        (ok = true → exec (.periodicRetrain f ch ok) s = .next ⟨m2, s.pending⟩) ∧
        (ok = false → exec (.periodicRetrain f ch ok) s =
          .next ⟨decideRetire f ch (raise m2 memTrainFail (srcFacet f 6) none [f, ch]), s.pending⟩)))

/-- Focus and lines. -/
def Obligations.FocusReleasesAndCoresClaim : Prop :=
  (∀ (m : Mach) (i : Nat) (r : EvRec), nextRelease m = some (i, r) →
    m.focus.queue[i]? = some r ∧ timerClear m (groupOf r.source) = true ∧
    ∀ q ∈ m.focus.queue, timerClear m (groupOf q.source) = true → evBefore q r = false) ∧
  (∀ s : State, Ready s →
    (let m0 := atTime s.m s.m.focus.relAt
     (m0.now < s.m.focus.relAt → exec .focusRelease s = .next s) ∧
     (s.m.focus.relAt ≤ m0.now → nextRelease m0 = none → exec .focusRelease s = .next ⟨m0, s.pending⟩) ∧
     (∀ i r, s.m.focus.relAt ≤ m0.now → nextRelease m0 = some (i, r) →
      let g := groupOf r.source
      let hold := regN m0 (offGrpHold g)
      exec .focusRelease s = .next ⟨deliver (roomReturned (modFocus m0 fun x => { x with
        queue := x.queue.eraseIdx i, relAt := m0.now + 1
        timers := if hold = 0 then x.timers else x.timers.set g (edge25 m0.now + 100 * hold) })) r, s.pending⟩)) ∧
    (∀ g, g < 64 → let d := s.m.focus.timers.getD g 0
      d ≤ (atTime s.m d).now →
      exec (.holdoffExpiry g) s = .next ⟨modFocus (atTime s.m d) fun x => { x with timers := x.timers.set g 0 }, s.pending⟩) ∧
    (∀ core src code detail, core < 16 →
      let w := regN s.m (offSrc src)
      (1476 ≤ src → src ≤ 2231 → tb w 0 = true → exec (.focRaise core src code detail) s = .next ⟨enqueue s.m
        ⟨code.toNat, src, bf w 4 1, none, [detail.toNat], (stamp s.m).1, (stamp s.m).2, s.m.now⟩, s.pending⟩) ∧
      ((src < 1476 ∨ 2231 < src ∨ tb w 0 = false) → exec (.focRaise core src code detail) s = .next s)) ∧
    (∀ c, c < 16 →
      let x := coreOf s.m c
      ((x.frozen = true ∨ claimPick x = none) →
        exec (.focClaim c) s = .next ⟨changeCore s.m c fun x => { x with claimed := none }, s.pending⟩) ∧
      (∀ i r, x.frozen = false → claimPick x = some (i, r) → exec (.focClaim c) s = .next ⟨changeCore s.m c fun x => { x with
        pending := x.pending.eraseIdx i, stack := (r.source, r.prio) :: x.stack, claimed := some r, lastRec := some r },
        s.pending⟩) ∧
      (∀ src, x.frozen = true → exec (.focComplete c src) s = .next s) ∧
      (∀ src prio t, x.frozen = false → x.stack = (src, prio) :: t →
        exec (.focComplete c src) s = .next ⟨changeCore s.m c fun x => { x with stack := t }, s.pending⟩) ∧
      (∀ src top prio t, x.frozen = false → x.stack = (top, prio) :: t → top ≠ src →
        exec (.focComplete c src) s = .next ⟨raise (changeCore s.m c fun x => { x with frozen := true }) focOrderFault (2268 + c) none
          [c, src, top, x.stack.length], s.pending⟩) ∧
      exec (.focStackRst c) s = .next ⟨changeCore s.m c fun x => { x with
        stack := [], frozen := false, stackDrop := sat32 (x.stackDrop + x.stack.length) }, s.pending⟩)) ∧
  ∀ (s : State) (l : Nat) (up : Bool), l < 12 →
    let was := (s.m.focus.lines.getD l ⟨false, none⟩).asserted
    let line : Instr := if up then .lineAsserted l else .lineDeasserted l
    ((s.m.focus.sampling = false ∨ was = up) → exec line s = .next s) ∧
    (s.m.focus.sampling = true → was ≠ up →
      let m1 := modFocus s.m fun x => { x with lines := x.lines.modify l fun y => { y with asserted := up } }
      let m2 := if modeSelects m1 l up then raise m1 (if up then lineAssertedEv else lineDeassertedEv) (srcLine l) none [l] else m1
      (l ≠ 4 → l ≠ 5 → exec line s = .next ⟨m2, s.pending⟩) ∧
      (l = 5 → exec line s = .next ⟨modPower m2 fun p => { p with flowLow := up }, s.pending⟩) ∧
      (l = 4 → exec line s = .next ⟨modPower m2 fun p => { p with leak := up }, s.pending⟩)) ∧
    (s.m.focus.sampling = true → exec (.standbyLineLatch l up) s = .next s) ∧
    (s.m.focus.sampling = false →
      let flow := if l = 5 then up else s.m.power.flowLow
      let leak := if l = 4 then up else s.m.power.leak
      let m1 := modFocus { s.m with power := { s.m.power with flowLow := flow, leak := leak } } fun x => { x with lines := x.lines.modify l fun y =>
        { y with latch := if modeSelects s.m l up && y.latch.isNone then some up else y.latch } }
      let wakes := up && tb (regN s.m (offLineCtl l)) 11 && s.m.boot.state == 1
      (leak = true → exec (.standbyLineLatch l up) s =
        .next ⟨{ m1 with boot := { s.m.boot with wakeCause := false } }, s.pending⟩) ∧
      (leak = false → wakes = true → exec (.standbyLineLatch l up) s =
        .next ⟨{ m1 with boot := { s.m.boot with wakeCause := true } }, s.pending⟩) ∧
      (leak = false → wakes = false → exec (.standbyLineLatch l up) s = .next ⟨m1, s.pending⟩))

/-! ### Power, cooling and management targets -/

/-- Power and cooling. -/
def Obligations.PowerFollowsCapHeatAndCoolant : Prop :=
  ∀ s : State, Ready s →
    (∀ core, core < 16 →
      let m0 := emptyStack core s.m
      let role := m0.ctr.roles.idxOf core
      let std := [14, 15].find? fun c => c != core && !m0.ctr.roles.contains c
      let roles := match std with
        | some n => if role < m0.ctr.roles.length then m0.ctr.roles.set role n else m0.ctr.roles
        | none => m0.ctr.roles
      let m1 := modCtr m0 fun c => { c with resetsSweep := c.resetsSweep + 1, roles := roles }
      let m2 := raise m1 ctrCoreResetEv (srcCore core) none [core, if role < m1.ctr.roles.length then std.getD core else core]
      (core = 0 → exec (.ctrCoreReset core) s = .next ⟨haltCentroid m0, s.pending⟩) ∧
      (core ≠ 0 → 2 < m2.ctr.resetsSweep → exec (.ctrCoreReset core) s = .next ⟨haltCentroid m2, s.pending⟩) ∧
      (core ≠ 0 → m2.ctr.resetsSweep ≤ 2 → exec (.ctrCoreReset core) s = .next ⟨m2, s.pending⟩)) ∧
    (∀ v, exec (.idFwCtl v) s = .next ⟨modCtr { s.m with pend := pendPut s.m.pend offFwCtl (word (bf v.toNat 0 0)) } fun c =>
      { c with switching := if bf v.toNat 0 0 = c.bank then none else some (bf v.toNat 0 0) }, s.pending⟩) ∧
    (∀ f, f < 104 → exec (.dvfsRampEnd f) s = .next ⟨modFacet s.m f fun x =>
      { x with point := x.ramp.getD x.point, ramp := none }, s.pending⟩) ∧
    (∀ mean,
      let m0 := modPower s.m fun p => { p with inputW := mean, peak := max p.peak mean }
      let low := (liveFacets m0).filter fun f =>
        decide (floorPoint m0 < max (facetOf m0 f).point ((facetOf m0 f).ramp.getD (facetOf m0 f).point))
      let lowered := forAll low (fun m f => setPoint f (max (floorPoint m) ((facetOf m f).point - 1)) m) m0
      let m1 := addStatus 2 (match m0.power.lastPlan with
        | some (t, meter, base) => if t = m0.now then replan meter base m0 else lowered
        | none => lowered)
      let m2 := if low.isEmpty then m1 else modPower m1 fun p => { p with emergWins := p.emergWins + 1 }
      (mean ≤ regN m0 offCap → exec (.pwrCapEmerg mean) s = .next ⟨m0, s.pending⟩) ∧
      (regN m0 offCap < mean → m2.power.emergRaised = true → exec (.pwrCapEmerg mean) s = .next ⟨m2, s.pending⟩) ∧
      (regN m0 offCap < mean → m2.power.emergRaised = false → exec (.pwrCapEmerg mean) s =
        .next ⟨raise (modPower m2 fun p => { p with emergRaised := true }) pwrCapEmergEv (srcUnit 7) none [mean], s.pending⟩)) ∧
    (∀ size v, size = 4 ∨ size = 8 →
      let w := mergeBytes (regGet s.m offCap) 0 size v &&& word (ones 0 14)
      let legal : Prop := 6000 ≤ w.toNat ∧ w.toNat ≤ 11500 ∧ w.toNat % 10 = 0
      (legal → exec (.pwrCap size v) s = .next ⟨regSet s.m offCap w, s.pending⟩) ∧
      (¬legal → exec (.pwrCap size v) s = .next ⟨raise s.m hostCfgErr srcHost none [], s.pending⟩)) ∧
    (∀ r : ThermalReading,
      let hot := (r.facets ++ r.stackDegs).foldl (fun a e => max a e.2) r.axis
      let m0 := modPower s.m fun p => { p with
        axisTemp := r.axis, inlet := r.inlet, tmaxSweep := max p.tmaxSweep hot, tmax := max p.tmax hot }
      let m1 := forAll (r.stackDegs.filter fun e => decide (e.1 < 52)) stackTemp
        (forAll (r.facets.filter fun e => decide (e.1 < 104)) facetTemp m0)
      let m2 := if s.m.power.axisTemp < 100 * 16 ∧ 100 * 16 ≤ r.axis then raise m1 pwrAxisHot (srcUnit 8) none [127, r.axis] else m1
      let warm : Prop := s.m.power.inlet ≤ 45 * 16 ∧ 45 * 16 < r.inlet
      (warm → exec (.thermalSample r) s =
        .next ⟨sendReport false (raise m2 coolWarm (srcUnit 9) none [r.inlet, 0]), s.pending⟩) ∧
      (¬warm → exec (.thermalSample r) s = .next ⟨sendReport false m2, s.pending⟩)) ∧
    (∀ e, (regN s.m offStatDiv = 0 ∨ s.m.power.statTicks < regN s.m offStatDiv) → exec (.energyRecord e) s = .next s) ∧
    (∀ e, regN s.m offStatDiv ≠ 0 → regN s.m offStatDiv ≤ s.m.power.statTicks →
      let p := s.m.power
      exec (.energyRecord e) s = .next ⟨modPower (putStat (spendFree s.m)
        ⟨3, energyPayload s.m e p.statTicks, p.statFirst + p.statTicks - 1, energyOfs s.m⟩) fun q =>
        { q with statFirst := q.statFirst + q.statTicks, statTicks := 0, peak := 0, tmax := 0, emergWins := 0 }, s.pending⟩) ∧
    (∀ die, die < 104 ∨ die = 127 →
      let n := ((s.m.power.droops.find? fun d => d.1 == die).map (·.2)).getD 0
      exec (.droopEpisode die) s = .next ⟨modPower s.m fun p => { p with
        droops := (p.droops.filter fun d => d.1 != die) ++ [(die, sat32 (n + 1))] }, s.pending⟩) ∧
    (∀ rail phase,
      let spent := s.m.power.spentRails.contains rail
      let m1 := raise (modPower s.m fun p => { p with
        spentRails := if spent then p.spentRails else p.spentRails ++ [rail], failedPhases := p.failedPhases ++ [(rail, phase)] })
        pwrPhaseFailEv (srcUnit 7) none [rail, phase]
      (spent = true → rail < 104 → exec (.pwrPhaseFail rail phase) s = .next ⟨sendReport false (failSite rail m1), s.pending⟩) ∧
      ((spent = false ∨ 104 ≤ rail) → exec (.pwrPhaseFail rail phase) s = .next ⟨sendReport false m1, s.pending⟩)) ∧
    (let m1 := allToFloor (modPower s.m fun p => { p with flowLow := true })
     exec .coolLow s = .next ⟨raise m1 coolLowEv (srcUnit 9) none [s.m.power.inlet, 5],
      s.pending⟩) ∧
    (let m1 := allToFloor (modPower s.m fun p => { p with leak := true, leakAt := some (p.leakAt.getD s.m.now) })
     exec .coolLeak s = .next ⟨raise m1 coolLeakEv (srcUnit 9) none [s.m.power.inlet, 4], s.pending⟩)

/-- Management targets. -/
def Obligations.ManagementTargetsAnswer : Prop :=
  ∀ s : State,
    let answer (bs : List Byte) : Res := .next ⟨emit s.m (.mgmtReply bs), s.pending⟩
    let nack : Res := .next ⟨emit s.m .mgmtNack, s.pending⟩
    let cmds : List Instr := [.clearFaults, .statusWord, .statusInput, .statusTemperature, .readVin, .readPin,
      .readTemperature1, .readTemperature2, .readTemperature3, .pmbusRevision, .mfrId, .smbReadIdCode, .smbReadIdSerial,
      .smbReadBootStatus, .smbReadTwinStatus, .smbReadLineStatus]
    (s.m.boot.state = 0 → (∀ c ∈ cmds, exec c s = .next s) ∧ (∀ ma, exec (.readIin ma) s = .next s) ∧
      ∀ code, exec (.pmbusOtherCommand code) s = .next s ∧ exec (.smbOtherCommand code) s = .next s) ∧
    (s.m.boot.state ≠ 0 →
      exec .readVin s = answer (leBytes 2 (linear11 s.m.power.inputMv 1000)) ∧
      (∀ ma, exec (.readIin ma) s = answer (leBytes 2 (linear11 ma 1000))) ∧
      exec .readPin s = answer (leBytes 2 (linear11 s.m.power.inputW 1)) ∧
      exec .readTemperature3 s = answer (leBytes 2 (linear11 s.m.power.inlet 16)) ∧
      exec .pmbusRevision s = answer [0x44] ∧ exec .mfrId s = answer [0x4F, 0x48, 0x4D, 0x45, 0x54] ∧
      (∀ code, exec (.pmbusOtherCommand code) s = nack ∧ exec (.smbOtherCommand code) s = nack) ∧
      exec .smbReadIdCode s = answer (leBytes 8 (0x100000000 + s.m.flash.code * 0x1000000 + 0x10000 + 0x9600)) ∧
      exec .smbReadIdSerial s = answer (leBytes 8 s.m.flash.serial.toNat) ∧
      exec .smbReadBootStatus s = answer (leBytes 8 (s.m.boot.state + 16 * s.m.boot.step + 256 * s.m.boot.cause)) ∧
      exec .smbReadTwinStatus s = answer (leBytes 8 (if s.m.boot.state = 3 then twinStatus s.m else 0)) ∧
      exec .smbReadLineStatus s = answer (leBytes 8 (if s.m.boot.state = 3 then lineStatus s.m else 0))) ∧
    (s.m.boot.state ≠ 0 → s.m.boot.state ≠ 3 →
      exec .clearFaults s = nack ∧ exec .statusWord s = nack ∧ exec .statusInput s = nack ∧ exec .statusTemperature s = nack ∧
      exec .readTemperature1 s = nack ∧ exec .readTemperature2 s = nack) ∧
    (s.m.boot.state = 3 →
      exec .clearFaults s = .next ⟨setStatus [] s.m, s.pending⟩ ∧ (setStatus [] s.m).power.statusBits = [] ∧
      exec .statusWord s = answer (leBytes 2 (statusWordBits s.m)) ∧
      exec .statusInput s = answer (leBytes 1 (statusInputBits s.m)) ∧
      exec .statusTemperature s = answer (leBytes 1 (statusTempBits s.m)) ∧
      exec .readTemperature1 s = answer (leBytes 2 (linear11 (((s.m.facets.take 96).map (·.temp)).foldl max 0) 16)) ∧
      exec .readTemperature2 s = answer (leBytes 2 (linear11 ((s.m.power.stackTemps.map (·.2)).foldl max 0) 16)))

/-! ### Power states, boot, test access and hot updates -/

/-- Power states. -/
def Obligations.PowerStatesFollowTheirRules : Prop :=
  ∀ s : State,
    let b := s.m.boot
    (b.state = 0 → exec .inputOutOfRange s = .next s ∧ exec .resetN s = .next s) ∧
    (b.state ≠ 0 → ∀ mv addr, exec (.inputInRange mv addr) s = .next s) ∧
    (b.state ≠ 0 → ∃ m, exec .inputOutOfRange s = .next ⟨m, s.pending⟩ ∧ m.boot.state = 0 ∧ m.flash = s.m.flash ∧ m.regs = [] ∧
      m.jobs = State.reset.m.jobs ∧ m.facets = State.reset.m.facets ∧ m.now = s.m.now) ∧
    (b.state = 0 → ∀ mv addr, ∃ m, exec (.inputInRange mv addr) s = .next ⟨m, s.pending⟩ ∧ m.boot.state = 1 ∧ m.power.addr = addr ∧
      m.power.inputMv = mv ∧ m.flash = s.m.flash ∧ m.regs = []) ∧
    (b.state ≠ 0 → ∃ m, exec .resetN s = .next ⟨m, s.pending⟩ ∧ m.boot.state = 1 ∧ m.boot.resetN = true ∧ m.boot.cause = b.cause ∧
      m.flash = s.m.flash ∧ m.jobs = State.reset.m.jobs ∧ m.facets = State.reset.m.facets ∧ m.tick = State.reset.m.tick ∧
      m.focus.lines = s.m.focus.lines ∧ m.regs = s.m.regs.filter fun e => decide (0xA0100 ≤ e.1) && decide (e.1 < 0xA0160)) ∧
    (b.state ≠ 1 → ∀ c l, exec (.wake c l) s = .next s) ∧
    (b.state = 1 → ∀ n l,
      let held := b.resetN || s.m.power.flowLow || s.m.power.leak || !b.wakeCause
      (held = true → exec (.wake (.line n) l) s = .next s) ∧
      (held = false → exec (.wake (.line n) l) s =
        .next ⟨judgeLatches l { s.m with boot := { b with state := 2, step := 1, cause := 0, wakeCause := false } }, s.pending⟩)) ∧
    (b.state = 1 → s.m.power.flowLow = false → s.m.power.leak = false → (b.wakeCause = true ∨ b.resetN = true) → ∀ l,
      exec (.wake .resetRelease l) s = .next ⟨judgeLatches l { s.m with
        boot := { b with state := 2, step := 1, cause := 0, resetN := false, wakeCause := false } }, s.pending⟩) ∧
    (b.state ≠ 2 → ∀ ok l, exec (.bootStepEnd ok l) s = .next s) ∧
    (b.state = 2 → ∀ l,
      let onward (m : Mach) : Mach := { m with boot := { m.boot with step := b.step + 1 } }
      (b.step ≤ 2 → exec (.bootStepEnd true l) s = .next ⟨onward s.m, s.pending⟩ ∧
        exec (.bootStepEnd false l) s = .next ⟨moduleResetOp 3 s.m, s.pending⟩) ∧
      (∀ bank, b.step = 3 → bootBank s.m.flash = some bank →
        exec (.bootStepEnd true l) s = .next ⟨onward { s.m with boot := { b with fellBack := bank != s.m.flash.committed } }, s.pending⟩ ∧
        exec (.bootStepEnd false l) s = .next ⟨moduleResetOp 1 s.m, s.pending⟩) ∧
      (∀ ok, b.step = 3 → bootBank s.m.flash = none →
        ∃ m, exec (.bootStepEnd ok l) s = .next ⟨m, s.pending⟩ ∧ m.boot.state = 1 ∧ m.boot.cause = 1) ∧
      (∀ x, b.step = 4 → bootCopy s.m.flash = some x →
        exec (.bootStepEnd true l) s = .next ⟨onward { s.m with boot := { b with fmapFell := s.m.flash.copies.any fun c => !c.1 } }, s.pending⟩) ∧
      (b.step = 4 → exec (.bootStepEnd false l) s = .next ⟨moduleResetOp 2 s.m, s.pending⟩) ∧
      (∀ ok, b.step = 4 → bootCopy s.m.flash = none → exec (.bootStepEnd ok l) s = .next ⟨moduleResetOp 2 s.m, s.pending⟩) ∧
      (∀ ok, b.step = 5 ∨ b.step = 6 → (∀ x ∈ l, 104 ≤ x) → exec (.bootStepEnd ok l) s = .next ⟨onward s.m, s.pending⟩) ∧
      (∀ ok, 7 ≤ b.step → (∀ x ∈ s.m.flash.sites, x.state ≠ 1) →
        ∃ m, exec (.bootStepEnd ok l) s = .next ⟨m, s.pending⟩ ∧ m.boot.state = 3 ∧ m.ctr.bank = (bootBank s.m.flash).getD 0)) ∧
    (∀ t, b.state = 3 → s.m.power.leakAt = some t →
      let d := t + regN s.m offLeakGrace * 100000
      d ≤ (atTime s.m d).now →
      ∃ m, exec .leakGrace s = .next ⟨m, s.pending⟩ ∧ m.boot.state = 1 ∧ m.now = (atTime s.m d).now ∧ m.flash = s.m.flash) ∧
    (b.state = 3 → s.m.power.leakAt = none → exec .leakGrace s = .next s)

/-- Ends of tests and hot updates: every command's next state. -/
def Obligations.TestsAndHotUpdatesEnd : Prop :=
  ∀ s : State, Ready s →
    let t := s.m.test
    ((t.busy = false ∨ t.op ≠ 1 ∨ t.started = false) → ∀ a b c, exec (.testDone a b c) s =
      .next ⟨sendReport false (releaseHeld s.m), s.pending⟩) ∧
    (t.busy = true → t.op = 1 → t.started = true → ∀ loop time,
      let ended (passed : List Nat) (m : Mach) : Mach := modTest
        (modFacet (flashRecord m fun fl => { fl with tests := fl.tests ++ [(t.site, passed, time)] })
          (logicalAt m t.site) fun x => { x with holding := false }) fun t => { t with busy := false, started := false, result := 0 }
      let done (rep bad : Nat) (m : Mach) : Res :=
        .next ⟨sendReport false (releaseHeld (raise m testDoneEv (siteSrc s.m t.site) none [t.site, 1, rep, bad])), s.pending⟩
      exec (.testDone [] loop time) s = done 0 0 (ended [0, 1, 2, 3, 4, 5, 6] s.m) ∧
      (∀ e g failing, failing ≠ [] → (∀ x ∈ failing, x.1 = e ∧ x.2.1 = g) →
        let new := (failing.map (·.2.2)).eraseDups.filter fun w => !wireKnown s.m t.site e g w
        let old := (groupWires s.m t.site e g).length
        let m1 := forAll new.zipIdx (fun m (w, i) => raise m wireRepaired (siteSrc s.m t.site) none [t.site, e, g, w, old + i])
          (flashRecord s.m fun fl => { fl with wires := fl.wires ++ new.map fun w => ⟨t.site, e, g, w, true⟩ })
        let fails (x : Nat) : Bool := loop.contains (x, e, g)
        let m2 := ended ([0, 1, 2, 3, 4, 5, 6].filter fun k => k != e) s.m
        (old + new.length ≤ 2 → exec (.testDone failing loop time) s = done new.length 0 (ended [0, 1, 2, 3, 4, 5, 6] m1)) ∧
        (2 < old + new.length → exec (.testDone failing loop time) s =
          done 0 1 (failSite (failedEnd m2 t.site e (fails t.site) (fails ((neighbour t.site e).getD 255))) m2))) ∧
      (∀ failing, ∃ m rep bad, exec (.testDone failing loop time) s = done rep bad m)) ∧
    (t.ucode = none → ∀ ok, exec (.ucodeLoadDone ok) s = .next ⟨sendReport false s.m, s.pending⟩) ∧
    (∀ u, t.ucode = some u →
      let row := rowOf u.site
      let ver := ((s.m.flash.banks[s.m.ctr.bank]?).map (·.ucode)).getD 0
      let loaded (site step wait : Nat) : Mach := modTest (modFlash s.m fun fl => modSite fl site fun y => { y with ucode := ver }) fun t =>
        { t with ucode := some { u with step := step, readyAt := s.m.tick.tickNo + wait } }
      let r := (reserveSite s.m row).getD 255
      (u.step = 1 → exec (.ucodeLoadDone true) s = .next ⟨sendReport false (loaded r 2 2), s.pending⟩ ∧
        exec (.ucodeLoadDone false) s = .next ⟨sendReport false (abortUcode row 3 (failSite r s.m)), s.pending⟩) ∧
      (u.step = 3 → exec (.ucodeLoadDone true) s = .next ⟨sendReport false (loaded u.site 4 1), s.pending⟩ ∧
        exec (.ucodeLoadDone false) s = .next ⟨sendReport false (abortUcode row 2 (failSite u.site s.m)), s.pending⟩) ∧
      (u.step ≠ 1 → u.step ≠ 3 → ∀ ok, exec (.ucodeLoadDone ok) s = .next ⟨sendReport false s.m, s.pending⟩)) ∧
    ((t.busy = false ∨ t.op ≠ 3) → ∀ valid ver acc uc, exec (.flashDone valid ver acc uc) s = .next s) ∧
    (t.busy = true → t.op = 3 → ∀ valid ver acc uc,
      let m1 := modFlash s.m fun fl => { fl with banks := fl.banks.modify t.bank fun _ => ⟨valid, ver, acc, uc⟩ }
      exec (.flashDone valid ver acc uc) s = .next ⟨raise (modTest m1 fun t => { t with
        busy := false, result := if valid then 0 else 2 }) (if valid then flashDoneEv else flashFail) (srcUnit 11) none
        [t.bank, ver.toNat, if valid then 0 else 1], s.pending⟩) ∧
    ((t.busy = false ∨ t.op ≠ 6) → ∀ failed, exec (.phaseUpdated failed) s = .next ⟨sendReport false s.m, s.pending⟩) ∧
    (t.busy = true → t.op = 6 → ∀ failed,
      let m1 := modTest (forAll failed (fun m e => phaseFailOp e.1 e.2 m) s.m) fun t => { t with busy := false, result := 0 }
      exec (.phaseUpdated failed) s = .next ⟨sendReport false (raise (spendFree (spendFree m1)) phaseUpdatedEv (srcUnit 7) none
        [(freeVal m1 32).toNat, (freeVal (spendFree m1) 32).toNat, failed.length]), s.pending⟩) ∧
    (∀ site edge g w near far, site < 104 → edge < 7 →
      let known := groupWires s.m site edge g
      ((∃ x ∈ known, x.wire = w) → exec (.failingWire site edge g w near far) s = .next ⟨sendReport false s.m, s.pending⟩) ∧
      ((∀ x ∈ known, x.wire ≠ w) → known.length < 2 → exec (.failingWire site edge g w near far) s =
        .next ⟨sendReport false (flashRecord s.m fun fl => { fl with wires := fl.wires ++ [⟨site, edge, g, w, true⟩] }), s.pending⟩) ∧
      ((∀ x ∈ known, x.wire ≠ w) → 2 ≤ known.length → exec (.failingWire site edge g w near far) s =
        .next ⟨sendReport false (failSite (failedEnd s.m site edge near far) s.m), s.pending⟩))

/-- Module reset and test access. -/
def Obligations.ModuleResetAndTestAccess : Prop :=
  (∀ s : State, Ready s →
    let kept := s.m.regs.filter fun e => decide (0xA0100 ≤ e.1) && decide (e.1 < 0xA0160)
    let r := State.reset.m
    exec .moduleReset s = .next ⟨{ r with
      now := s.m.now, free := s.m.free, flash := s.m.flash, regs := kept
      out := s.m.out ++ [.pin .twinFail true, .pin .pwrGood false]
      boot := { r.boot with state := 1, cause := s.m.boot.cause, resetN := s.m.boot.resetN }
      focus := { r.focus with lines := s.m.focus.lines }
      power := { r.power with addr := s.m.power.addr, flowLow := s.m.power.flowLow, leak := s.m.power.leak
                              inputMv := s.m.power.inputMv, inlet := s.m.power.inlet, inputW := s.m.power.inputW } }, s.pending⟩ ∧
    (∀ v : Word, v.getLsbD 0 = true → s.m.tick.running = true → exec (.jtagRun v) s = .next s) ∧
    (∀ v : Word, (v.getLsbD 0 = false ∨ s.m.tick.running = false) →
      exec (.jtagRun v) s = .next ⟨regSet s.m offTestCtl (v &&& 1), s.pending⟩)) ∧
  (∀ (s : State) (i : TapInstr),
    let eff : TapInstr := if s.m.boot.state = 1 ∨ tb (regN s.m offTestCtl) 0 = true then i
      else match i with | .test _ => .bypass | x => x
    let m1 := modTest s.m fun t => { t with tap := eff }
    (s.m.boot.state = 0 → exec (.jtagInstruction i) s = .next s) ∧
    (s.m.boot.state ≠ 0 → eff = .idcode → exec (.jtagInstruction i) s = .next ⟨emit m1 (.tapId 0x19600A4B), s.pending⟩) ∧
    (s.m.boot.state ≠ 0 → eff ≠ .idcode → exec (.jtagInstruction i) s = .next ⟨m1, s.pending⟩))

/-- TEST_CMD. -/
def Obligations.TestOperationsStartOrAreRefused : Prop :=
  ∀ s : State, Ready s →
    let t := s.m.test
    let refused (op site src : Nat) : Res := .next ⟨raise
      (modTest s.m fun t => { t with op := if t.busy then t.op else op, result := 1 }) testRefused src none [site, op, 0, 0], s.pending⟩
    (∀ n, n < 104 →
      let src := if logicalAt s.m n < 104 then srcFacet (logicalAt s.m n) 11 else srcUnit 11
      let ver := ((s.m.flash.banks[s.m.ctr.bank]?).map (·.ucode)).getD 0
      ((siteInUse s.m n = true ∨ rowBusy s.m n = true ∨ t.busy = true) → exec (.wireTest n) s = refused 1 n src) ∧
      (siteInUse s.m n = false → rowBusy s.m n = false → t.busy = false → exec (.wireTest n) s =
        .next ⟨modTest s.m fun t => { t with busy := true, op := 1, result := 0, site := n, started := false }, s.pending⟩) ∧
      (∀ y, s.m.flash.sites[n]? = some y →
        ((reserveSite s.m (rowOf n) = none ∨ y.state ≠ 0 ∨ 96 ≤ logicalAt s.m n ∨ y.ucode = ver ∨ t.busy = true ∨ rowBusy s.m n = true) →
          exec (.ucode n) s = refused 2 n src) ∧
        (∀ r, reserveSite s.m (rowOf n) = some r → y.state = 0 → logicalAt s.m n < 96 → y.ucode ≠ ver → t.busy = false →
          rowBusy s.m n = false → exec (.ucode n) s =
            .next ⟨modTest s.m fun t => { t with busy := true, op := 2, result := 0, site := n, ucode := some ⟨n, 1, 0⟩ }, s.pending⟩))) ∧
    (∀ b, b < 2 →
      ((b = s.m.ctr.bank ∨ t.busy = true) → exec (.flashProg b) s = refused 3 0 (srcUnit 11)) ∧
      (b ≠ s.m.ctr.bank → t.busy = false → exec (.flashProg b) s = .next ⟨modTest
        (modFlash (readHost 0 (regN s.m offFlashSrc) (regN s.m offFlashLen) false s.m) fun fl =>
          { fl with banks := fl.banks.modify b fun x => { x with valid := false } })
        fun t => { t with busy := true, op := 3, result := 0, bank := b }, s.pending⟩) ∧
      ((t.busy = true ∨ bankOk s.m.flash b = false) → exec (.fwCommit b) s = refused 4 0 (srcUnit 11)) ∧
      (t.busy = false → bankOk s.m.flash b = true → exec (.fwCommit b) s = .next ⟨modTest
        (modFlash s.m fun fl => { fl with committed := b }) fun t => { t with op := 4, result := 0 }, s.pending⟩)) ∧
    ((t.busy = true ∨ tb (regN s.m offTwinCtl) 0 = true) → exec .pair s = refused 5 0 (srcUnit 1)) ∧
    (t.busy = false → tb (regN s.m offTwinCtl) 0 = false → exec .pair s = .next ⟨modTest
      (flashRecord s.m fun fl => { fl with twinSerial := regGet s.m offPairSerial }) fun t => { t with op := 5, result := 0 }, s.pending⟩) ∧
    (t.busy = true → exec .phaseUpdate s = refused 6 0 (srcUnit 7)) ∧
    (t.busy = false → exec .phaseUpdate s =
      .next ⟨modTest s.m fun t => { t with busy := true, op := 6, result := 0 }, s.pending⟩) ∧
    (∀ f c, f < 104 → c < 16 →
      (t.busy = true → exec (.hbmRetrain f c) s = refused 7 f (srcFacet f 11)) ∧
      (t.busy = false → exec (.hbmRetrain f c) s = .next ⟨modTest
        (modFacet s.m f fun x => { x with retrainReq := x.retrainReq ++ [c] }) fun t => { t with op := 7, result := 0 }, s.pending⟩))

/-! ### Job switches, rotation and rollout steps -/

/-- Switches and rollout. -/
def Obligations.SwitchesRotateAndRolloutSteps : Prop :=
  ∀ s : State, Ready s →
    (∀ f, f < 96 → (facetOf s.m f).switching = none → exec (.spillFillDone f) s = .next s) ∧
    (∀ f o i t, f < 96 → (facetOf s.m f).switching = some (o, i, t) →
      let m1 := modFacet (forAll i (fillJob f) (forAll o (spillJob f) s.m)) f fun x => { x with switching := none }
      let m2 := forAll (List.range 4) (fun m c =>
        match (scOf m f c).owner with
        | some (j, _) => if i.contains j then openHeld f c (startSlot m f c m) else m
        | none => m) m1
      ((∃ j ∈ o, inFlightOn s.m f j = true) → exec (.spillFillDone f) s = .next s) ∧
      ((∀ j ∈ o, inFlightOn s.m f j = false) → exec (.spillFillDone f) s =
        .next ⟨forAll i (fun m j => if switchesOf m j then m else resumedEvent j m.tick.tickNo m) m2, s.pending⟩)) ∧
    (∀ j, j < 16 → (jobOf s.m j).holdUntil = none → exec (.debtHoldEnd j) s = .next s) ∧
    (∀ j t, j < 16 → (jobOf s.m j).holdUntil = some t → t ≤ (atTime s.m t).now →
      let m1 := modJob (atTime s.m t) j fun x => { x with holdUntil := none, debt := 0 }
      exec (.debtHoldEnd j) s = .next ⟨forAll (List.range 96) (fun m f => forAll (List.range 4) (fun m c =>
        if scJob m f c = some j then poke f c m else m) m) m1, s.pending⟩) ∧
    exec (.rotationHandover 0) s = .next s ∧
    (∀ g, g < 16 → g ≠ 0 → exec (.rotationHandover g) s = .next ⟨forAll (List.range 16) (fun m j =>
      let due := match (jobOf m j).turnEnd with | some t => decide (t ≤ m.tick.tickNo) | none => false
      if running m j && jobGroup m j == g && due then
        (match nextMember m g j with | some k => switchJobs [j] [k] m | none => startTurn j m)
      else m) (forAll ((List.range 16).filter fun j => running s.m j && jobGroup s.m j == g) (fun m j =>
        if jobSlice m j = 0 then modJob m j fun x => { x with turnEnd := none }
        else if (jobOf m j).turnEnd.isNone then startTurn j m else m) s.m), s.pending⟩) ∧
    (∀ j p u st r x, j < 16 → p < 4 → u < 255 → rollOf s.m j p = some r → userOf s.m j p u = some x →
      (stepDue s.m r x u st = false → exec (.decodePosition j p u st) s = .next s) ∧
      ((stepDue s.m r x u st = false ∨ (jobOf s.m j).suspended = true) → exec (.waveMiss j p u st) s = .next s) ∧
      (stepDue s.m r x u st = true →
        let d := positionStart s.m r u st
        let late := positionStart s.m r u st + r.tau - r.d
        (d ≤ (atTime s.m d).now → exec (.decodePosition j p u st) s = .next ⟨tryStep j p u st (atTime s.m d), s.pending⟩) ∧
        ((jobOf s.m j).suspended = false → late ≤ (atTime s.m late).now →
          let m1 := tryStep j p u st (atTime s.m late)
          (∀ y, userOf m1 j p u = some y → stepDue m1 r y u st = true → exec (.waveMiss j p u st) s = .next ⟨
            raise (modUser j p u (fun y => some { y with late := y.late + 1 }) m1) waveMissEv (srcJob j) (some j) [j, p, st, u],
            s.pending⟩) ∧
          (∀ y, userOf m1 j p u = some y → stepDue m1 r y u st = false → exec (.waveMiss j p u st) s = .next ⟨m1, s.pending⟩) ∧
          (userOf m1 j p u = none → exec (.waveMiss j p u st) s = .next ⟨m1, s.pending⟩)))) ∧
    (∀ j p u r x e run w, j < 16 → p < 4 → u < 255 → rollOf s.m j p = some r → userOf s.m j p u = some x →
      stageEntry s.m j p (pipeStages s.m j p - 1) = some e → (scOf s.m e.facet e.sc).run = some run →
      run.units[run.unitIdx]? = some w → w.dir = 3 → w.mb.mbId = x.mb.mbId → unitDone s.m (scOf s.m e.facet e.sc) run = true →
      let f := e.facet
      let c := e.sc
      let at_ := r.tokenOfs + 8 * u
      let word := readChecked s.m f 0 at_ 8
      let v := leNat word.1
      let m1 := modUser j p u (fun y => some { y with
        tokens := y.tokens + 1, buf := y.buf ++ [BitVec.ofNat 32 (v % 2 ^ 32)], begun := [] })
        (writeChecked word.2.2 f 0 at_ (leBytes 8 (v % 2 ^ 63)))
      let m2 := if x.buf.length = 15 then flushTokens j p u m1 else m1
      let ended (why : Nat) : Mach := poke f c (endUnitOn [] f c j e w (endSequence j p u why (lastUnit j p x.mb.vtag x.mb.mbId m2)))
      let stops := r.stopEn && v % 2 ^ 32 == r.stop.toNat
      let after (m : Mach) : Prop := exec (.decodeStepComplete j p u) s = .next ⟨sendReport false m, s.pending⟩
      (v.testBit 63 = false → after (poke f c (endUnitOn [] f c j e w (endSequence j p u 4 (abandonMb j p [x.mb.mbId] word.2.2))))) ∧
      (v.testBit 63 = true → x.tokens + 1 = x.targetLen / 4 → after (ended 1)) ∧
      (v.testBit 63 = true → x.tokens + 1 ≠ x.targetLen / 4 → stops = true → after (ended 2)) ∧
      (v.testBit 63 = true → x.tokens + 1 ≠ x.targetLen / 4 → stops = false → after (poke f c (endUnit f c j e w m2))))

/-! ### Numbers -/

/-- Numbers (chapter 7). -/
def Obligations.NumbersConvertByTheirFormats : Prop :=
  (∀ F ∈ [f32, fBf16, fF16, fUbf16, fE4m3, fE5m2, fE2m1], ∀ bits, bits < 2 ^ (F.w + b2n F.sgn) →
    isFin (fpDec F bits) = true → fpEnc F (fpDec F bits) = (bits, 0)) ∧
  (∀ (neg : Bool) (m e : Nat),
    (2 ^ 128 ≤ m * 2 ^ e → fpEnc f32 (.fin neg m e) = (0x7F800000 + (if neg then 2 ^ 31 else 0), flOverflow ||| flInexact)) ∧
    (512 ≤ m * 2 ^ e → fpEnc fE4m3 (.fin neg m e) = (0x7E + (if neg then 0x80 else 0), flOverflow ||| flInexact))) ∧
  (∀ a : Fp, isFin a = true → (fpAdd a (fpNeg a)).1 = .fin false 0 0) ∧
  (∀ e1 e2 : Int, (fpAdd (.fin true 0 e1) (.fin true 0 e2)).1 = .fin true 0 0 ∧
    fpMin (.fin true 0 e1) (.fin false 0 e2) = .fin true 0 e1 ∧ fpMin (.fin false 0 e2) (.fin true 0 e1) = .fin true 0 e1 ∧
    fpMax (.fin true 0 e1) (.fin false 0 e2) = .fin false 0 e2 ∧ fpMax (.fin false 0 e2) (.fin true 0 e1) = .fin false 0 e2) ∧
  (∀ a : Fp, fpMin .nan a = .nan ∧ fpMin a .nan = .nan ∧ fpMax .nan a = .nan ∧ fpMax a .nan = .nan) ∧
  (∀ w ∈ [8, 32], ∀ x : Int,
    (-(2 ^ (w - 1)) ≤ x → x < 2 ^ (w - 1) → fpToInt w (fpInt x) = (x, 0)) ∧
    (2 ^ (w - 1) ≤ x → fpToInt w (fpInt x) = (2 ^ (w - 1) - 1, flOverflow ||| flInexact)) ∧
    (x < -(2 ^ (w - 1)) → fpToInt w (fpInt x) = (-(2 ^ (w - 1)), flOverflow ||| flInexact)) ∧
    fpToInt w .nan = (0, flInvalid))
end

