-- ==== Sys2Proof/Laws/PerInstr.lean ====
section
/-!
SUPPORT. Per-instruction facts.  `Form`: the one shape of every meaning — the command of a unit that exists changes the
module by a function, in every power state for a command of the always-on domain and at READY otherwise; the command of
a unit that does not exist changes nothing.
-/
namespace Sys2Proof.Laws

/-- The meaning of `i` is one function of the module. -/
def Form.Statement (i : Instr) : Prop :=
  ∃ f : Machine.Mach → Machine.Mach, ∀ s : Machine.State,
    Machine.exec i s = if Machine.alwaysOn i = true then Machine.act i.wf f s else Machine.actReady i.wf f s

theorem Form.registerWrite (w : BusWrite) : Form.Statement (.registerWrite w) := ⟨_, fun _ => rfl⟩
theorem Form.setupBadAccess (isWrite : Bool) (offset size : Nat) : Form.Statement (.setupBadAccess isWrite offset size) := ⟨_, fun _ => rfl⟩
theorem Form.w1cClear (r : Nat) (value same : Word) : Form.Statement (.w1cClear r value same) := ⟨_, fun _ => rfl⟩
theorem Form.jobKey (job : Nat) (byteOfs size : Nat) (value : Word) : Form.Statement (.jobKey job byteOfs size value) := ⟨_, fun _ => rfl⟩
theorem Form.idModuleNum (size : Nat) (value : Word) : Form.Statement (.idModuleNum size value) := ⟨_, fun _ => rfl⟩
theorem Form.tickRole (value : Word) : Form.Statement (.tickRole value) := ⟨_, fun _ => rfl⟩
theorem Form.tickUplink (value : Word) : Form.Statement (.tickUplink value) := ⟨_, fun _ => rfl⟩
theorem Form.start (withStop : Bool) : Form.Statement (.start withStop) := ⟨_, fun _ => rfl⟩
theorem Form.stop : Form.Statement .stop := ⟨_, fun _ => rfl⟩
theorem Form.latClr : Form.Statement .latClr := ⟨_, fun _ => rfl⟩
theorem Form.ringEnable (ring : Nat) (ctl : Word) : Form.Statement (.ringEnable ring ctl) := ⟨_, fun _ => rfl⟩
theorem Form.ringDisable (ring : Nat) (ctl : Word) : Form.Statement (.ringDisable ring ctl) := ⟨_, fun _ => rfl⟩
theorem Form.ringPort (ring : Nat) (port : Nat) : Form.Statement (.ringPort ring port) := ⟨_, fun _ => rfl⟩
theorem Form.dbPoll : Form.Statement .dbPoll := ⟨_, fun _ => rfl⟩
theorem Form.doorbellReadDone (ep : Nat) (r : Option (List DoorbellRec)) : Form.Statement (.doorbellReadDone ep r) := ⟨_, fun _ => rfl⟩
theorem Form.descriptorFetch (ring : Nat) (r : Option (List (Rec × HostData))) : Form.Statement (.descriptorFetch ring r) := ⟨_, fun _ => rfl⟩
theorem Form.heldCompletionWrite (ring : Nat) : Form.Statement (.heldCompletionWrite ring) := ⟨_, fun _ => rfl⟩
theorem Form.coalesceTimeout (ring : Nat) : Form.Statement (.coalesceTimeout ring) := ⟨_, fun _ => rfl⟩
theorem Form.msixUnmask (ep vector : Nat) : Form.Statement (.msixUnmask ep vector) := ⟨_, fun _ => rfl⟩
theorem Form.portDown (ep : Nat) : Form.Statement (.portDown ep) := ⟨_, fun _ => rfl⟩
theorem Form.endpointReset (ep : Nat) (cause : EndpointCause) : Form.Statement (.endpointReset ep cause) := ⟨_, fun _ => rfl⟩
theorem Form.nop (d : DescIn) : Form.Statement (.nop d) := ⟨_, fun _ => rfl⟩
theorem Form.setField (d : DescIn) : Form.Statement (.setField d) := ⟨_, fun _ => rfl⟩
theorem Form.copy (d : DescIn) : Form.Statement (.copy d) := ⟨_, fun _ => rfl⟩
theorem Form.copyDone (ring : Nat) (index : W32) (r : HostData) : Form.Statement (.copyDone ring index r) := ⟨_, fun _ => rfl⟩
theorem Form.mapLoad (d : DescIn) : Form.Statement (.mapLoad d) := ⟨_, fun _ => rfl⟩
theorem Form.schedLoad (d : DescIn) : Form.Statement (.schedLoad d) := ⟨_, fun _ => rfl⟩
theorem Form.mbAdmit (d : DescIn) : Form.Statement (.mbAdmit d) := ⟨_, fun _ => rfl⟩
theorem Form.verBuildAlloc (d : DescIn) : Form.Statement (.verBuildAlloc d) := ⟨_, fun _ => rfl⟩
theorem Form.verBuildSeal (d : DescIn) : Form.Statement (.verBuildSeal d) := ⟨_, fun _ => rfl⟩
theorem Form.verBuildFree (d : DescIn) : Form.Statement (.verBuildFree d) := ⟨_, fun _ => rfl⟩
theorem Form.crcReadDone (facet sc entry : Nat) : Form.Statement (.crcReadDone facet sc entry) := ⟨_, fun _ => rfl⟩
theorem Form.verPublish (d : DescIn) : Form.Statement (.verPublish d) := ⟨_, fun _ => rfl⟩
theorem Form.modelLoad (d : DescIn) : Form.Statement (.modelLoad d) := ⟨_, fun _ => rfl⟩
theorem Form.modelLoadDone (ring : Nat) (index : W32) : Form.Statement (.modelLoadDone ring index) := ⟨_, fun _ => rfl⟩
theorem Form.progLoad (d : DescIn) : Form.Statement (.progLoad d) := ⟨_, fun _ => rfl⟩
theorem Form.progLoadFree (d : DescIn) : Form.Statement (.progLoadFree d) := ⟨_, fun _ => rfl⟩
theorem Form.foldSetup (d : DescIn) : Form.Statement (.foldSetup d) := ⟨_, fun _ => rfl⟩
theorem Form.updateSetup (d : DescIn) : Form.Statement (.updateSetup d) := ⟨_, fun _ => rfl⟩
theorem Form.actPolicy (d : DescIn) : Form.Statement (.actPolicy d) := ⟨_, fun _ => rfl⟩
theorem Form.snapTakeCut (d : DescIn) : Form.Statement (.snapTakeCut d) := ⟨_, fun _ => rfl⟩
theorem Form.snapTakeArm (d : DescIn) : Form.Statement (.snapTakeArm d) := ⟨_, fun _ => rfl⟩
theorem Form.snapTakeDisarm (d : DescIn) : Form.Statement (.snapTakeDisarm d) := ⟨_, fun _ => rfl⟩
theorem Form.snapRestore (d : DescIn) : Form.Statement (.snapRestore d) := ⟨_, fun _ => rfl⟩
theorem Form.jobAdmit (d : DescIn) : Form.Statement (.jobAdmit d) := ⟨_, fun _ => rfl⟩
theorem Form.jobRelease (d : DescIn) : Form.Statement (.jobRelease d) := ⟨_, fun _ => rfl⟩
theorem Form.switchIn (d : DescIn) : Form.Statement (.switchIn d) := ⟨_, fun _ => rfl⟩
theorem Form.yieldJob (d : DescIn) : Form.Statement (.yieldJob d) := ⟨_, fun _ => rfl⟩
theorem Form.rolloutCfg (d : DescIn) : Form.Statement (.rolloutCfg d) := ⟨_, fun _ => rfl⟩
theorem Form.tickEdge (missed : List Nat) (meter : PowerMeter) : Form.Statement (.tickEdge missed meter) := ⟨_, fun _ => rfl⟩
theorem Form.tickSymbolSend : Form.Statement .tickSymbolSend := ⟨_, fun _ => rfl⟩
theorem Form.tickSymbol (link : Nat) (sym : TickSym) : Form.Statement (.tickSymbol link sym) := ⟨_, fun _ => rfl⟩
theorem Form.tickHoldover : Form.Statement .tickHoldover := ⟨_, fun _ => rfl⟩
theorem Form.tickRefPulse (phaseErr : Int) : Form.Statement (.tickRefPulse phaseErr) := ⟨_, fun _ => rfl⟩
theorem Form.tickRefLost : Form.Statement .tickRefLost := ⟨_, fun _ => rfl⟩
theorem Form.sweepStateReport (link : Nat) (done : Bool) (sweep : Nat) : Form.Statement (.sweepStateReport link done sweep) := ⟨_, fun _ => rfl⟩
theorem Form.slotComplete (facet sc : Nat) : Form.Statement (.slotComplete facet sc) := ⟨_, fun _ => rfl⟩
theorem Form.chordWrite (facet offset : Nat) (data : List Byte) (far : Option ChordFar) : Form.Statement (.chordWrite facet offset data far) := ⟨_, fun _ => rfl⟩
theorem Form.waveDeadline (facet sc : Nat) (dir : Nat) : Form.Statement (.waveDeadline facet sc dir) := ⟨_, fun _ => rfl⟩
theorem Form.credit (chord count : Nat) : Form.Statement (.credit chord count) := ⟨_, fun _ => rfl⟩
theorem Form.creditTimeout (chord : Nat) : Form.Statement (.creditTimeout chord) := ⟨_, fun _ => rfl⟩
theorem Form.chordCheck (chord depth kind mode : Nat) (keep : Bool) : Form.Statement (.chordCheck chord depth kind mode keep) := ⟨_, fun _ => rfl⟩
theorem Form.chordLoss (chord firstLost lostCount dropped : Nat) : Form.Statement (.chordLoss chord firstLost lostCount dropped) := ⟨_, fun _ => rfl⟩
theorem Form.mbLost (job pipe : Nat) (ids : List Nat) : Form.Statement (.mbLost job pipe ids) := ⟨_, fun _ => rfl⟩
theorem Form.rebalCopyDone (job pipe : Nat) : Form.Statement (.rebalCopyDone job pipe) := ⟨_, fun _ => rfl⟩
theorem Form.verQuery (src job pipe vtag sweep : Nat) : Form.Statement (.verQuery src job pipe vtag sweep) := ⟨_, fun _ => rfl⟩
theorem Form.verReply (src job pipe vtag : Nat) (ready : Bool) (answering : Nat) : Form.Statement (.verReply src job pipe vtag ready answering) := ⟨_, fun _ => rfl⟩
theorem Form.verSwitch (job pipe newTag oldTag : Nat) (keepOld : Bool) (edgeTick : Nat) : Form.Statement (.verSwitch job pipe newTag oldTag keepOld edgeTick) := ⟨_, fun _ => rfl⟩
theorem Form.verLastUnit (job pipe vtag mbId : Nat) : Form.Statement (.verLastUnit job pipe vtag mbId) := ⟨_, fun _ => rfl⟩
theorem Form.verRetire (job pipe vtag tick : Nat) : Form.Statement (.verRetire job pipe vtag tick) := ⟨_, fun _ => rfl⟩
theorem Form.load (link : Nat) (streamOfs : Nat) (data : List Byte) : Form.Statement (.load link streamOfs data) := ⟨_, fun _ => rfl⟩
theorem Form.loadOrphan (link : Nat) : Form.Statement (.loadOrphan link) := ⟨_, fun _ => rfl⟩
theorem Form.prismCommand (facet sc : Nat) : Form.Statement (.prismCommand facet sc) := ⟨_, fun _ => rfl⟩
theorem Form.prismComplete (facet prism : Nat) : Form.Statement (.prismComplete facet prism) := ⟨_, fun _ => rfl⟩
theorem Form.rayCommand (facet sc : Nat) : Form.Statement (.rayCommand facet sc) := ⟨_, fun _ => rfl⟩
theorem Form.rayComplete (facet : Nat) : Form.Statement (.rayComplete facet) := ⟨_, fun _ => rfl⟩
theorem Form.strandLaunch (facet sc : Nat) : Form.Statement (.strandLaunch facet sc) := ⟨_, fun _ => rfl⟩
theorem Form.strandStart (facet group : Nat) : Form.Statement (.strandStart facet group) := ⟨_, fun _ => rfl⟩
theorem Form.groupEnd (facet group : Nat) : Form.Statement (.groupEnd facet group) := ⟨_, fun _ => rfl⟩
theorem Form.strandNop (facet strand : Nat) : Form.Statement (.strandNop facet strand) := ⟨_, fun _ => rfl⟩
theorem Form.halt (facet strand : Nat) : Form.Statement (.halt facet strand) := ⟨_, fun _ => rfl⟩
theorem Form.strandIntegerOp (facet strand : Nat) : Form.Statement (.strandIntegerOp facet strand) := ⟨_, fun _ => rfl⟩
theorem Form.strandFloatOp (facet strand : Nat) : Form.Statement (.strandFloatOp facet strand) := ⟨_, fun _ => rfl⟩
theorem Form.fcvt (facet strand : Nat) : Form.Statement (.fcvt facet strand) := ⟨_, fun _ => rfl⟩
theorem Form.fcmp (facet strand : Nat) : Form.Statement (.fcmp facet strand) := ⟨_, fun _ => rfl⟩
theorem Form.strandBranch (facet strand : Nat) : Form.Statement (.strandBranch facet strand) := ⟨_, fun _ => rfl⟩
theorem Form.ldl (facet strand : Nat) : Form.Statement (.ldl facet strand) := ⟨_, fun _ => rfl⟩
theorem Form.stl (facet strand : Nat) : Form.Statement (.stl facet strand) := ⟨_, fun _ => rfl⟩
theorem Form.get (facet strand : Nat) : Form.Statement (.get facet strand) := ⟨_, fun _ => rfl⟩
theorem Form.put (facet strand : Nat) : Form.Statement (.put facet strand) := ⟨_, fun _ => rfl⟩
theorem Form.getb (facet strand : Nat) : Form.Statement (.getb facet strand) := ⟨_, fun _ => rfl⟩
theorem Form.putb (facet strand : Nat) : Form.Statement (.putb facet strand) := ⟨_, fun _ => rfl⟩
theorem Form.atom (facet strand : Nat) : Form.Statement (.atom facet strand) := ⟨_, fun _ => rfl⟩
theorem Form.red (facet strand : Nat) : Form.Statement (.red facet strand) := ⟨_, fun _ => rfl⟩
theorem Form.tadd (facet strand : Nat) : Form.Statement (.tadd facet strand) := ⟨_, fun _ => rfl⟩
theorem Form.tread (facet strand : Nat) : Form.Statement (.tread facet strand) := ⟨_, fun _ => rfl⟩
theorem Form.twait (facet strand : Nat) : Form.Statement (.twait facet strand) := ⟨_, fun _ => rfl⟩
theorem Form.bar (facet strand : Nat) : Form.Statement (.bar facet strand) := ⟨_, fun _ => rfl⟩
theorem Form.fence (facet strand : Nat) : Form.Statement (.fence facet strand) := ⟨_, fun _ => rfl⟩
theorem Form.tallyWait (facet sc : Nat) : Form.Statement (.tallyWait facet sc) := ⟨_, fun _ => rfl⟩
theorem Form.tallyAdd (facet sc : Nat) : Form.Statement (.tallyAdd facet sc) := ⟨_, fun _ => rfl⟩
theorem Form.remoteCopy (facet sc : Nat) : Form.Statement (.remoteCopy facet sc) := ⟨_, fun _ => rfl⟩
theorem Form.barrierArrive (facet sc : Nat) : Form.Statement (.barrierArrive facet sc) := ⟨_, fun _ => rfl⟩
theorem Form.fenceRecord (facet sc : Nat) : Form.Statement (.fenceRecord facet sc) := ⟨_, fun _ => rfl⟩
theorem Form.tallyTimeout (facet : Nat) (isStrand : Bool) (issuer : Nat) : Form.Statement (.tallyTimeout facet isStrand issuer) := ⟨_, fun _ => rfl⟩
theorem Form.req (opid : Nat) (src : Option (Nat × RemoteReq)) : Form.Statement (.req opid src) := ⟨_, fun _ => rfl⟩
theorem Form.resp (opid : Nat) (far : Option (Nat × List Byte)) : Form.Statement (.resp opid far) := ⟨_, fun _ => rfl⟩
theorem Form.tally (src : Nat) (opid : Nat) (laddr : Word) (mod : Nat) (operand : Option W32) : Form.Statement (.tally src opid laddr mod operand) := ⟨_, fun _ => rfl⟩
theorem Form.remoteTimeout (opid : Nat) : Form.Statement (.remoteTimeout opid) := ⟨_, fun _ => rfl⟩
theorem Form.gradAcc (facet sc : Nat) : Form.Statement (.gradAcc facet sc) := ⟨_, fun _ => rfl⟩
theorem Form.gradAccComplete (facet : Nat) : Form.Statement (.gradAccComplete facet) := ⟨_, fun _ => rfl⟩
theorem Form.foldSeg (link chan layerEntry pass seqNum : Nat) (src : Nat) (segs : List FoldSegIn) : Form.Statement (.foldSeg link chan layerEntry pass seqNum src segs) := ⟨_, fun _ => rfl⟩
theorem Form.foldLayerDone (chan : Nat) : Form.Statement (.foldLayerDone chan) := ⟨_, fun _ => rfl⟩
theorem Form.foldStall (chan : Nat) : Form.Statement (.foldStall chan) := ⟨_, fun _ => rfl⟩
theorem Form.foldCheck (link chan : Nat) (settings : FoldSettings) : Form.Statement (.foldCheck link chan settings) := ⟨_, fun _ => rfl⟩
theorem Form.foldTotals (src job pipe sweep mb : Nat) (tokens : Nat) (loss : Word) : Form.Statement (.foldTotals src job pipe sweep mb tokens loss) := ⟨_, fun _ => rfl⟩
theorem Form.updReport (src job pipe layer : Nat) (nonfinite : Nat) (globalSq : Word) : Form.Statement (.updReport src job pipe layer nonfinite globalSq) := ⟨_, fun _ => rfl⟩
theorem Form.stepVerdict (job pipe : Nat) : Form.Statement (.stepVerdict job pipe) := ⟨_, fun _ => rfl⟩
theorem Form.updValues (job pipe : Nat) (v : UpdValues) : Form.Statement (.updValues job pipe v) := ⟨_, fun _ => rfl⟩
theorem Form.updateStart (facet sc : Nat) : Form.Statement (.updateStart facet sc) := ⟨_, fun _ => rfl⟩
theorem Form.updateComplete (facet sc : Nat) : Form.Statement (.updateComplete facet sc) := ⟨_, fun _ => rfl⟩
theorem Form.steer (job pipe m : Nat) (edgeSweep : Nat) : Form.Statement (.steer job pipe m edgeSweep) := ⟨_, fun _ => rfl⟩
theorem Form.actPrefetchDone (facet sc unit : Nat) (r : HostData) : Form.Statement (.actPrefetchDone facet sc unit r) := ⟨_, fun _ => rfl⟩
theorem Form.actWriteoutDone (facet sc unit : Nat) (ok : Bool) : Form.Statement (.actWriteoutDone facet sc unit ok) := ⟨_, fun _ => rfl⟩
theorem Form.snapCheck (src job : Nat) (crc : W32) : Form.Statement (.snapCheck src job crc) := ⟨_, fun _ => rfl⟩
theorem Form.snapPolicyDecision (job : Nat) : Form.Statement (.snapPolicyDecision job) := ⟨_, fun _ => rfl⟩
theorem Form.snapCut (job sweep : Nat) : Form.Statement (.snapCut job sweep) := ⟨_, fun _ => rfl⟩
theorem Form.shard (src job gen shardIdx ofs : Nat) (mirror : Bool) (data : List Byte) : Form.Statement (.shard src job gen shardIdx ofs mirror data) := ⟨_, fun _ => rfl⟩
theorem Form.shardAck (src job gen shardIdx : Nat) (refused : Bool) : Form.Statement (.shardAck src job gen shardIdx refused) := ⟨_, fun _ => rfl⟩
theorem Form.snapDone (src job gen : Nat) : Form.Statement (.snapDone src job gen) := ⟨_, fun _ => rfl⟩
theorem Form.snapCommit (src job gen : Nat) (ack : Bool) (commit : Nat) (losses : List Word) : Form.Statement (.snapCommit src job gen ack commit losses) := ⟨_, fun _ => rfl⟩
theorem Form.snapRingTimeout (job : Nat) : Form.Statement (.snapRingTimeout job) := ⟨_, fun _ => rfl⟩
theorem Form.snapGens (src job : Nat) (gens : List Nat) : Form.Statement (.snapGens src job gens) := ⟨_, fun _ => rfl⟩
theorem Form.snapChoice (job gen : Nat) (none_ : Bool) : Form.Statement (.snapChoice job gen none_) := ⟨_, fun _ => rfl⟩
theorem Form.snapManifests (src job : Nat) (request : Bool) (ms : List (Option ManifestInfo)) : Form.Statement (.snapManifests src job request ms) := ⟨_, fun _ => rfl⟩
theorem Form.snapRestored (job gen : Nat) (polygon mirrors : List ShardRead) :
    Form.Statement (.snapRestored job gen polygon mirrors) := ⟨_, fun _ => rfl⟩
theorem Form.facetFail (facet : Nat) : Form.Statement (.facetFail facet) := ⟨_, fun _ => rfl⟩
theorem Form.shiftCopyDone (row : Nat) : Form.Statement (.shiftCopyDone row) := ⟨_, fun _ => rfl⟩
theorem Form.heartbeatSend : Form.Statement .heartbeatSend := ⟨_, fun _ => rfl⟩
theorem Form.heartbeat (link : Nat) (h : HeartbeatMsg) : Form.Statement (.heartbeat link h) := ⟨_, fun _ => rfl⟩
theorem Form.twinFailSensed : Form.Statement .twinFailSensed := ⟨_, fun _ => rfl⟩
theorem Form.twinLost : Form.Statement .twinLost := ⟨_, fun _ => rfl⟩
theorem Form.detach : Form.Statement .detach := ⟨_, fun _ => rfl⟩
theorem Form.unfreeze : Form.Statement .unfreeze := ⟨_, fun _ => rfl⟩
theorem Form.twinLeaseExp (value : Word) : Form.Statement (.twinLeaseExp value) := ⟨_, fun _ => rfl⟩
theorem Form.twinLinks (value : Word) : Form.Statement (.twinLinks value) := ⟨_, fun _ => rfl⟩
theorem Form.linkFrame (link : Nat) (f : FrameIn) : Form.Statement (.linkFrame link f) := ⟨_, fun _ => rfl⟩
theorem Form.linkReplayTimeout (link : Nat) : Form.Statement (.linkReplayTimeout link) := ⟨_, fun _ => rfl⟩
theorem Form.linkDown (link : Nat) : Form.Statement (.linkDown link) := ⟨_, fun _ => rfl⟩
theorem Form.linkFlush (link : Nat) : Form.Statement (.linkFlush link) := ⟨_, fun _ => rfl⟩
theorem Form.linkTrainRetry (link : Nat) (failStep : Option Nat) (goodLanes : BitVec 8) : Form.Statement (.linkTrainRetry link failStep goodLanes) := ⟨_, fun _ => rfl⟩
theorem Form.linkUp (link : Nat) (rtt lat : Nat) (resumed : Option Nat) : Form.Statement (.linkUp link rtt lat resumed) := ⟨_, fun _ => rfl⟩
theorem Form.linkHello (link farModule farLink width lastFrame : Nat) (serial twinSerial : Word) : Form.Statement (.linkHello link farModule farLink width lastFrame serial twinSerial) := ⟨_, fun _ => rfl⟩
theorem Form.retrainAll (link : Nat) : Form.Statement (.retrainAll link) := ⟨_, fun _ => rfl⟩
theorem Form.retrainLane (link lane : Nat) : Form.Statement (.retrainLane link lane) := ⟨_, fun _ => rfl⟩
theorem Form.clrCnt (link : Nat) : Form.Statement (.clrCnt link) := ⟨_, fun _ => rfl⟩
theorem Form.clrRetired (link : Nat) : Form.Statement (.clrRetired link) := ⟨_, fun _ => rfl⟩
theorem Form.laneFecThreshold (link lane : Nat) (symbols : Nat) : Form.Statement (.laneFecThreshold link lane symbols) := ⟨_, fun _ => rfl⟩
theorem Form.laneRetrainDone (link lane : Nat) (ok : Bool) : Form.Statement (.laneRetrainDone link lane ok) := ⟨_, fun _ => rfl⟩
theorem Form.laneLockLoss (link lane : Nat) : Form.Statement (.laneLockLoss link lane) := ⟨_, fun _ => rfl⟩
theorem Form.opticsRemoved (link : Nat) : Form.Statement (.opticsRemoved link) := ⟨_, fun _ => rfl⟩
theorem Form.opticsInserted (link : Nat) : Form.Statement (.opticsInserted link) := ⟨_, fun _ => rfl⟩
theorem Form.retire (facet channel : Nat) : Form.Statement (.retire facet channel) := ⟨_, fun _ => rfl⟩
theorem Form.memRetired (facet : Nat) (badWords : List Nat) : Form.Statement (.memRetired facet badWords) := ⟨_, fun _ => rfl⟩
theorem Form.memRekeyed (facet : Nat) : Form.Statement (.memRekeyed facet) := ⟨_, fun _ => rfl⟩
theorem Form.imbalance (facet channel region : Nat) (imbalanced : Bool) : Form.Statement (.imbalance facet channel region imbalanced) := ⟨_, fun _ => rfl⟩
theorem Form.scrubPass (facet : Nat) (corrected uncorrectable : List (Nat × Nat)) : Form.Statement (.scrubPass facet corrected uncorrectable) := ⟨_, fun _ => rfl⟩
theorem Form.periodicRetrain (facet channel : Nat) (ok : Bool) : Form.Statement (.periodicRetrain facet channel ok) := ⟨_, fun _ => rfl⟩
theorem Form.focusRelease : Form.Statement .focusRelease := ⟨_, fun _ => rfl⟩
theorem Form.holdoffExpiry (group : Nat) : Form.Statement (.holdoffExpiry group) := ⟨_, fun _ => rfl⟩
theorem Form.focRaise (core : Nat) (source : Nat) (code : BitVec 16) (detail : Word) : Form.Statement (.focRaise core source code detail) := ⟨_, fun _ => rfl⟩
theorem Form.focClaim (core : Nat) : Form.Statement (.focClaim core) := ⟨_, fun _ => rfl⟩
theorem Form.focComplete (core source : Nat) : Form.Statement (.focComplete core source) := ⟨_, fun _ => rfl⟩
theorem Form.focStackRst (core : Nat) : Form.Statement (.focStackRst core) := ⟨_, fun _ => rfl⟩
theorem Form.lineAsserted (line : Nat) : Form.Statement (.lineAsserted line) := ⟨_, fun _ => rfl⟩
theorem Form.lineDeasserted (line : Nat) : Form.Statement (.lineDeasserted line) := ⟨_, fun _ => rfl⟩
theorem Form.standbyLineLatch (line : Nat) (assertedEdge : Bool) : Form.Statement (.standbyLineLatch line assertedEdge) := ⟨_, fun _ => rfl⟩
theorem Form.ctrCoreReset (core : Nat) : Form.Statement (.ctrCoreReset core) := ⟨_, fun _ => rfl⟩
theorem Form.idFwCtl (value : Word) : Form.Statement (.idFwCtl value) := ⟨_, fun _ => rfl⟩
theorem Form.dvfsRampEnd (facet : Nat) : Form.Statement (.dvfsRampEnd facet) := ⟨_, fun _ => rfl⟩
theorem Form.pwrCapEmerg (meanWatts : Nat) : Form.Statement (.pwrCapEmerg meanWatts) := ⟨_, fun _ => rfl⟩
theorem Form.pwrCap (size : Nat) (value : Word) : Form.Statement (.pwrCap size value) := ⟨_, fun _ => rfl⟩
theorem Form.thermalSample (r : ThermalReading) : Form.Statement (.thermalSample r) := ⟨_, fun _ => rfl⟩
theorem Form.energyRecord (e : EnergyReading) : Form.Statement (.energyRecord e) := ⟨_, fun _ => rfl⟩
theorem Form.droopEpisode (die : Nat) : Form.Statement (.droopEpisode die) := ⟨_, fun _ => rfl⟩
theorem Form.pwrPhaseFail (rail phase : Nat) : Form.Statement (.pwrPhaseFail rail phase) := ⟨_, fun _ => rfl⟩
theorem Form.coolLow : Form.Statement .coolLow := ⟨_, fun _ => rfl⟩
theorem Form.coolLeak : Form.Statement .coolLeak := ⟨_, fun _ => rfl⟩
theorem Form.leakGrace : Form.Statement .leakGrace := ⟨_, fun _ => rfl⟩
theorem Form.failFacet (facet : Nat) : Form.Statement (.failFacet facet) := ⟨_, fun _ => rfl⟩
theorem Form.clearFaults : Form.Statement .clearFaults := ⟨_, fun _ => rfl⟩
theorem Form.statusWord : Form.Statement .statusWord := ⟨_, fun _ => rfl⟩
theorem Form.statusInput : Form.Statement .statusInput := ⟨_, fun _ => rfl⟩
theorem Form.statusTemperature : Form.Statement .statusTemperature := ⟨_, fun _ => rfl⟩
theorem Form.readVin : Form.Statement .readVin := ⟨_, fun _ => rfl⟩
theorem Form.readIin (milliAmps : Nat) : Form.Statement (.readIin milliAmps) := ⟨_, fun _ => rfl⟩
theorem Form.readPin : Form.Statement .readPin := ⟨_, fun _ => rfl⟩
theorem Form.readTemperature1 : Form.Statement .readTemperature1 := ⟨_, fun _ => rfl⟩
theorem Form.readTemperature2 : Form.Statement .readTemperature2 := ⟨_, fun _ => rfl⟩
theorem Form.readTemperature3 : Form.Statement .readTemperature3 := ⟨_, fun _ => rfl⟩
theorem Form.pmbusRevision : Form.Statement .pmbusRevision := ⟨_, fun _ => rfl⟩
theorem Form.mfrId : Form.Statement .mfrId := ⟨_, fun _ => rfl⟩
theorem Form.pmbusOtherCommand (code : BitVec 8) : Form.Statement (.pmbusOtherCommand code) := ⟨_, fun _ => rfl⟩
theorem Form.smbReadIdCode : Form.Statement .smbReadIdCode := ⟨_, fun _ => rfl⟩
theorem Form.smbReadIdSerial : Form.Statement .smbReadIdSerial := ⟨_, fun _ => rfl⟩
theorem Form.smbReadBootStatus : Form.Statement .smbReadBootStatus := ⟨_, fun _ => rfl⟩
theorem Form.smbReadTwinStatus : Form.Statement .smbReadTwinStatus := ⟨_, fun _ => rfl⟩
theorem Form.smbReadLineStatus : Form.Statement .smbReadLineStatus := ⟨_, fun _ => rfl⟩
theorem Form.smbOtherCommand (code : BitVec 8) : Form.Statement (.smbOtherCommand code) := ⟨_, fun _ => rfl⟩
theorem Form.inputOutOfRange : Form.Statement .inputOutOfRange := ⟨_, fun _ => rfl⟩
theorem Form.inputInRange (milliVolts : Nat) (addr : BitVec 2) : Form.Statement (.inputInRange milliVolts addr) := ⟨_, fun _ => rfl⟩
theorem Form.wake (cause : WakeCause) (confirmed : List (Nat × Nat)) : Form.Statement (.wake cause confirmed) := ⟨_, fun _ => rfl⟩
theorem Form.bootStepEnd (ok : Bool) (failedSites : List Nat) : Form.Statement (.bootStepEnd ok failedSites) := ⟨_, fun _ => rfl⟩
theorem Form.resetN : Form.Statement .resetN := ⟨_, fun _ => rfl⟩
theorem Form.moduleReset : Form.Statement .moduleReset := ⟨_, fun _ => rfl⟩
theorem Form.jtagInstruction (i : TapInstr) : Form.Statement (.jtagInstruction i) := ⟨_, fun _ => rfl⟩
theorem Form.jtagRun (value : Word) : Form.Statement (.jtagRun value) := ⟨_, fun _ => rfl⟩
theorem Form.wireTest (site : Nat) : Form.Statement (.wireTest site) := ⟨_, fun _ => rfl⟩
theorem Form.testDone (failing : List (Nat × Nat × Nat)) (loopbackFails : List (Nat × Nat × Nat)) (time : Nat) : Form.Statement (.testDone failing loopbackFails time) := ⟨_, fun _ => rfl⟩
theorem Form.ucode (site : Nat) : Form.Statement (.ucode site) := ⟨_, fun _ => rfl⟩
theorem Form.ucodeLoadDone (ok : Bool) : Form.Statement (.ucodeLoadDone ok) := ⟨_, fun _ => rfl⟩
theorem Form.flashProg (bank : Nat) : Form.Statement (.flashProg bank) := ⟨_, fun _ => rfl⟩
theorem Form.flashDone (valid : Bool) (version : W32) (accepts : List Nat) (ucodeVer : Nat) : Form.Statement (.flashDone valid version accepts ucodeVer) := ⟨_, fun _ => rfl⟩
theorem Form.fwCommit (bank : Nat) : Form.Statement (.fwCommit bank) := ⟨_, fun _ => rfl⟩
theorem Form.pair : Form.Statement .pair := ⟨_, fun _ => rfl⟩
theorem Form.phaseUpdate : Form.Statement .phaseUpdate := ⟨_, fun _ => rfl⟩
theorem Form.phaseUpdated (failedPhases : List (Nat × Nat)) : Form.Statement (.phaseUpdated failedPhases) := ⟨_, fun _ => rfl⟩
theorem Form.hbmRetrain (facet channel : Nat) : Form.Statement (.hbmRetrain facet channel) := ⟨_, fun _ => rfl⟩
theorem Form.spillFillDone (facet : Nat) : Form.Statement (.spillFillDone facet) := ⟨_, fun _ => rfl⟩
theorem Form.rotationHandover (group : Nat) : Form.Statement (.rotationHandover group) := ⟨_, fun _ => rfl⟩
theorem Form.debtHoldEnd (job : Nat) : Form.Statement (.debtHoldEnd job) := ⟨_, fun _ => rfl⟩
theorem Form.waveMiss (job pipe user stage : Nat) : Form.Statement (.waveMiss job pipe user stage) := ⟨_, fun _ => rfl⟩
theorem Form.decodeStepComplete (job pipe user : Nat) : Form.Statement (.decodeStepComplete job pipe user) := ⟨_, fun _ => rfl⟩
theorem Form.failingWire (site edge group wire : Nat) (nearLoopbackFails farLoopbackFails : Bool) : Form.Statement (.failingWire site edge group wire nearLoopbackFails farLoopbackFails) := ⟨_, fun _ => rfl⟩
theorem Form.snapStreamRead (job : Nat) (entry : Option SnapEntryIn) : Form.Statement (.snapStreamRead job entry) := ⟨_, fun _ => rfl⟩
theorem Form.decodePosition (job pipe user stage : Nat) : Form.Statement (.decodePosition job pipe user stage) := ⟨_, fun _ => rfl⟩

end Sys2Proof.Laws
end

