-- ==== Sys2Proof/Laws/State.lean ====
section
/-!
SUPPORT. One lemma per field of `Mach` for each of the shared updates: what the update gives the field it changes, and that
every other field stands.
-/
namespace Sys2Proof.Machine

variable (m : Mach)

/-! modFacet -/

@[simp] theorem modFacet_now (f : Nat) (g : Facet → Facet) : (modFacet m f g).now = m.now := rfl
@[simp] theorem modFacet_edges (f : Nat) (g : Facet → Facet) : (modFacet m f g).edges = m.edges := rfl
@[simp] theorem modFacet_boot (f : Nat) (g : Facet → Facet) : (modFacet m f g).boot = m.boot := rfl
@[simp] theorem modFacet_flash (f : Nat) (g : Facet → Facet) : (modFacet m f g).flash = m.flash := rfl
@[simp] theorem modFacet_tick (f : Nat) (g : Facet → Facet) : (modFacet m f g).tick = m.tick := rfl
@[simp] theorem modFacet_regs (f : Nat) (g : Facet → Facet) : (modFacet m f g).regs = m.regs := rfl
@[simp] theorem modFacet_pend (f : Nat) (g : Facet → Facet) : (modFacet m f g).pend = m.pend := rfl
@[simp] theorem modFacet_pendLate (f : Nat) (g : Facet → Facet) : (modFacet m f g).pendLate = m.pendLate := rfl
@[simp] theorem modFacet_host (f : Nat) (g : Facet → Facet) : (modFacet m f g).host = m.host := rfl
@[simp] theorem modFacet_descs (f : Nat) (g : Facet → Facet) : (modFacet m f g).descs = m.descs := rfl
@[simp] theorem modFacet_copies (f : Nat) (g : Facet → Facet) : (modFacet m f g).copies = m.copies := rfl
@[simp] theorem modFacet_jobs (f : Nat) (g : Facet → Facet) : (modFacet m f g).jobs = m.jobs := rfl
@[simp] theorem modFacet_chords (f : Nat) (g : Facet → Facet) : (modFacet m f g).chords = m.chords := rfl
@[simp] theorem modFacet_loads (f : Nat) (g : Facet → Facet) : (modFacet m f g).loads = m.loads := rfl
@[simp] theorem modFacet_progs (f : Nat) (g : Facet → Facet) : (modFacet m f g).progs = m.progs := rfl
@[simp] theorem modFacet_facets (f : Nat) (g : Facet → Facet) : (modFacet m f g).facets = m.facets.modify f g := rfl
@[simp] theorem modFacet_flights (f : Nat) (g : Facet → Facet) : (modFacet m f g).flights = m.flights := rfl
@[simp] theorem modFacet_nextOp (f : Nat) (g : Facet → Facet) : (modFacet m f g).nextOp = m.nextOp := rfl
@[simp] theorem modFacet_chordNet (f : Nat) (g : Facet → Facet) : (modFacet m f g).chordNet = m.chordNet := rfl
@[simp] theorem modFacet_earlyChecks (f : Nat) (g : Facet → Facet) : (modFacet m f g).earlyChecks = m.earlyChecks := rfl
@[simp] theorem modFacet_heldReqs (f : Nat) (g : Facet → Facet) : (modFacet m f g).heldReqs = m.heldReqs := rfl
@[simp] theorem modFacet_mem (f : Nat) (g : Facet → Facet) : (modFacet m f g).mem = m.mem := rfl
@[simp] theorem modFacet_tallies (f : Nat) (g : Facet → Facet) : (modFacet m f g).tallies = m.tallies := rfl
@[simp] theorem modFacet_ue (f : Nat) (g : Facet → Facet) : (modFacet m f g).ue = m.ue := rfl
@[simp] theorem modFacet_scrambled (f : Nat) (g : Facet → Facet) : (modFacet m f g).scrambled = m.scrambled := rfl
@[simp] theorem modFacet_chans (f : Nat) (g : Facet → Facet) : (modFacet m f g).chans = m.chans := rfl
@[simp] theorem modFacet_store (f : Nat) (g : Facet → Facet) : (modFacet m f g).store = m.store := rfl
@[simp] theorem modFacet_twin (f : Nat) (g : Facet → Facet) : (modFacet m f g).twin = m.twin := rfl
@[simp] theorem modFacet_links (f : Nat) (g : Facet → Facet) : (modFacet m f g).links = m.links := rfl
@[simp] theorem modFacet_focus (f : Nat) (g : Facet → Facet) : (modFacet m f g).focus = m.focus := rfl
@[simp] theorem modFacet_ctr (f : Nat) (g : Facet → Facet) : (modFacet m f g).ctr = m.ctr := rfl
@[simp] theorem modFacet_power (f : Nat) (g : Facet → Facet) : (modFacet m f g).power = m.power := rfl
@[simp] theorem modFacet_test (f : Nat) (g : Facet → Facet) : (modFacet m f g).test = m.test := rfl
@[simp] theorem modFacet_shifts (f : Nat) (g : Facet → Facet) : (modFacet m f g).shifts = m.shifts := rfl
@[simp] theorem modFacet_failWait (f : Nat) (g : Facet → Facet) : (modFacet m f g).failWait = m.failWait := rfl
@[simp] theorem modFacet_out (f : Nat) (g : Facet → Facet) : (modFacet m f g).out = m.out := rfl
@[simp] theorem modFacet_free (f : Nat) (g : Facet → Facet) : (modFacet m f g).free = m.free := rfl

/-! modJob -/

@[simp] theorem modJob_now (j : Nat) (g : Job → Job) : (modJob m j g).now = m.now := rfl
@[simp] theorem modJob_edges (j : Nat) (g : Job → Job) : (modJob m j g).edges = m.edges := rfl
@[simp] theorem modJob_boot (j : Nat) (g : Job → Job) : (modJob m j g).boot = m.boot := rfl
@[simp] theorem modJob_flash (j : Nat) (g : Job → Job) : (modJob m j g).flash = m.flash := rfl
@[simp] theorem modJob_tick (j : Nat) (g : Job → Job) : (modJob m j g).tick = m.tick := rfl
@[simp] theorem modJob_regs (j : Nat) (g : Job → Job) : (modJob m j g).regs = m.regs := rfl
@[simp] theorem modJob_pend (j : Nat) (g : Job → Job) : (modJob m j g).pend = m.pend := rfl
@[simp] theorem modJob_pendLate (j : Nat) (g : Job → Job) : (modJob m j g).pendLate = m.pendLate := rfl
@[simp] theorem modJob_host (j : Nat) (g : Job → Job) : (modJob m j g).host = m.host := rfl
@[simp] theorem modJob_descs (j : Nat) (g : Job → Job) : (modJob m j g).descs = m.descs := rfl
@[simp] theorem modJob_copies (j : Nat) (g : Job → Job) : (modJob m j g).copies = m.copies := rfl
@[simp] theorem modJob_jobs (j : Nat) (g : Job → Job) : (modJob m j g).jobs = m.jobs.modify j g := rfl
@[simp] theorem modJob_chords (j : Nat) (g : Job → Job) : (modJob m j g).chords = m.chords := rfl
@[simp] theorem modJob_loads (j : Nat) (g : Job → Job) : (modJob m j g).loads = m.loads := rfl
@[simp] theorem modJob_progs (j : Nat) (g : Job → Job) : (modJob m j g).progs = m.progs := rfl
@[simp] theorem modJob_facets (j : Nat) (g : Job → Job) : (modJob m j g).facets = m.facets := rfl
@[simp] theorem modJob_flights (j : Nat) (g : Job → Job) : (modJob m j g).flights = m.flights := rfl
@[simp] theorem modJob_nextOp (j : Nat) (g : Job → Job) : (modJob m j g).nextOp = m.nextOp := rfl
@[simp] theorem modJob_chordNet (j : Nat) (g : Job → Job) : (modJob m j g).chordNet = m.chordNet := rfl
@[simp] theorem modJob_earlyChecks (j : Nat) (g : Job → Job) : (modJob m j g).earlyChecks = m.earlyChecks := rfl
@[simp] theorem modJob_heldReqs (j : Nat) (g : Job → Job) : (modJob m j g).heldReqs = m.heldReqs := rfl
@[simp] theorem modJob_mem (j : Nat) (g : Job → Job) : (modJob m j g).mem = m.mem := rfl
@[simp] theorem modJob_tallies (j : Nat) (g : Job → Job) : (modJob m j g).tallies = m.tallies := rfl
@[simp] theorem modJob_ue (j : Nat) (g : Job → Job) : (modJob m j g).ue = m.ue := rfl
@[simp] theorem modJob_scrambled (j : Nat) (g : Job → Job) : (modJob m j g).scrambled = m.scrambled := rfl
@[simp] theorem modJob_chans (j : Nat) (g : Job → Job) : (modJob m j g).chans = m.chans := rfl
@[simp] theorem modJob_store (j : Nat) (g : Job → Job) : (modJob m j g).store = m.store := rfl
@[simp] theorem modJob_twin (j : Nat) (g : Job → Job) : (modJob m j g).twin = m.twin := rfl
@[simp] theorem modJob_links (j : Nat) (g : Job → Job) : (modJob m j g).links = m.links := rfl
@[simp] theorem modJob_focus (j : Nat) (g : Job → Job) : (modJob m j g).focus = m.focus := rfl
@[simp] theorem modJob_ctr (j : Nat) (g : Job → Job) : (modJob m j g).ctr = m.ctr := rfl
@[simp] theorem modJob_power (j : Nat) (g : Job → Job) : (modJob m j g).power = m.power := rfl
@[simp] theorem modJob_test (j : Nat) (g : Job → Job) : (modJob m j g).test = m.test := rfl
@[simp] theorem modJob_shifts (j : Nat) (g : Job → Job) : (modJob m j g).shifts = m.shifts := rfl
@[simp] theorem modJob_failWait (j : Nat) (g : Job → Job) : (modJob m j g).failWait = m.failWait := rfl
@[simp] theorem modJob_out (j : Nat) (g : Job → Job) : (modJob m j g).out = m.out := rfl
@[simp] theorem modJob_free (j : Nat) (g : Job → Job) : (modJob m j g).free = m.free := rfl

/-! modHost -/

@[simp] theorem modHost_now (g : HostIf → HostIf) : (modHost m g).now = m.now := rfl
@[simp] theorem modHost_edges (g : HostIf → HostIf) : (modHost m g).edges = m.edges := rfl
@[simp] theorem modHost_boot (g : HostIf → HostIf) : (modHost m g).boot = m.boot := rfl
@[simp] theorem modHost_flash (g : HostIf → HostIf) : (modHost m g).flash = m.flash := rfl
@[simp] theorem modHost_tick (g : HostIf → HostIf) : (modHost m g).tick = m.tick := rfl
@[simp] theorem modHost_regs (g : HostIf → HostIf) : (modHost m g).regs = m.regs := rfl
@[simp] theorem modHost_pend (g : HostIf → HostIf) : (modHost m g).pend = m.pend := rfl
@[simp] theorem modHost_pendLate (g : HostIf → HostIf) : (modHost m g).pendLate = m.pendLate := rfl
@[simp] theorem modHost_host (g : HostIf → HostIf) : (modHost m g).host = g m.host := rfl
@[simp] theorem modHost_descs (g : HostIf → HostIf) : (modHost m g).descs = m.descs := rfl
@[simp] theorem modHost_copies (g : HostIf → HostIf) : (modHost m g).copies = m.copies := rfl
@[simp] theorem modHost_jobs (g : HostIf → HostIf) : (modHost m g).jobs = m.jobs := rfl
@[simp] theorem modHost_chords (g : HostIf → HostIf) : (modHost m g).chords = m.chords := rfl
@[simp] theorem modHost_loads (g : HostIf → HostIf) : (modHost m g).loads = m.loads := rfl
@[simp] theorem modHost_progs (g : HostIf → HostIf) : (modHost m g).progs = m.progs := rfl
@[simp] theorem modHost_facets (g : HostIf → HostIf) : (modHost m g).facets = m.facets := rfl
@[simp] theorem modHost_flights (g : HostIf → HostIf) : (modHost m g).flights = m.flights := rfl
@[simp] theorem modHost_nextOp (g : HostIf → HostIf) : (modHost m g).nextOp = m.nextOp := rfl
@[simp] theorem modHost_chordNet (g : HostIf → HostIf) : (modHost m g).chordNet = m.chordNet := rfl
@[simp] theorem modHost_earlyChecks (g : HostIf → HostIf) : (modHost m g).earlyChecks = m.earlyChecks := rfl
@[simp] theorem modHost_heldReqs (g : HostIf → HostIf) : (modHost m g).heldReqs = m.heldReqs := rfl
@[simp] theorem modHost_mem (g : HostIf → HostIf) : (modHost m g).mem = m.mem := rfl
@[simp] theorem modHost_tallies (g : HostIf → HostIf) : (modHost m g).tallies = m.tallies := rfl
@[simp] theorem modHost_ue (g : HostIf → HostIf) : (modHost m g).ue = m.ue := rfl
@[simp] theorem modHost_scrambled (g : HostIf → HostIf) : (modHost m g).scrambled = m.scrambled := rfl
@[simp] theorem modHost_chans (g : HostIf → HostIf) : (modHost m g).chans = m.chans := rfl
@[simp] theorem modHost_store (g : HostIf → HostIf) : (modHost m g).store = m.store := rfl
@[simp] theorem modHost_twin (g : HostIf → HostIf) : (modHost m g).twin = m.twin := rfl
@[simp] theorem modHost_links (g : HostIf → HostIf) : (modHost m g).links = m.links := rfl
@[simp] theorem modHost_focus (g : HostIf → HostIf) : (modHost m g).focus = m.focus := rfl
@[simp] theorem modHost_ctr (g : HostIf → HostIf) : (modHost m g).ctr = m.ctr := rfl
@[simp] theorem modHost_power (g : HostIf → HostIf) : (modHost m g).power = m.power := rfl
@[simp] theorem modHost_test (g : HostIf → HostIf) : (modHost m g).test = m.test := rfl
@[simp] theorem modHost_shifts (g : HostIf → HostIf) : (modHost m g).shifts = m.shifts := rfl
@[simp] theorem modHost_failWait (g : HostIf → HostIf) : (modHost m g).failWait = m.failWait := rfl
@[simp] theorem modHost_out (g : HostIf → HostIf) : (modHost m g).out = m.out := rfl
@[simp] theorem modHost_free (g : HostIf → HostIf) : (modHost m g).free = m.free := rfl

/-! modLink -/

@[simp] theorem modLink_now (l : Nat) (g : Link → Link) : (modLink m l g).now = m.now := rfl
@[simp] theorem modLink_edges (l : Nat) (g : Link → Link) : (modLink m l g).edges = m.edges := rfl
@[simp] theorem modLink_boot (l : Nat) (g : Link → Link) : (modLink m l g).boot = m.boot := rfl
@[simp] theorem modLink_flash (l : Nat) (g : Link → Link) : (modLink m l g).flash = m.flash := rfl
@[simp] theorem modLink_tick (l : Nat) (g : Link → Link) : (modLink m l g).tick = m.tick := rfl
@[simp] theorem modLink_regs (l : Nat) (g : Link → Link) : (modLink m l g).regs = m.regs := rfl
@[simp] theorem modLink_pend (l : Nat) (g : Link → Link) : (modLink m l g).pend = m.pend := rfl
@[simp] theorem modLink_pendLate (l : Nat) (g : Link → Link) : (modLink m l g).pendLate = m.pendLate := rfl
@[simp] theorem modLink_host (l : Nat) (g : Link → Link) : (modLink m l g).host = m.host := rfl
@[simp] theorem modLink_descs (l : Nat) (g : Link → Link) : (modLink m l g).descs = m.descs := rfl
@[simp] theorem modLink_copies (l : Nat) (g : Link → Link) : (modLink m l g).copies = m.copies := rfl
@[simp] theorem modLink_jobs (l : Nat) (g : Link → Link) : (modLink m l g).jobs = m.jobs := rfl
@[simp] theorem modLink_chords (l : Nat) (g : Link → Link) : (modLink m l g).chords = m.chords := rfl
@[simp] theorem modLink_loads (l : Nat) (g : Link → Link) : (modLink m l g).loads = m.loads := rfl
@[simp] theorem modLink_progs (l : Nat) (g : Link → Link) : (modLink m l g).progs = m.progs := rfl
@[simp] theorem modLink_facets (l : Nat) (g : Link → Link) : (modLink m l g).facets = m.facets := rfl
@[simp] theorem modLink_flights (l : Nat) (g : Link → Link) : (modLink m l g).flights = m.flights := rfl
@[simp] theorem modLink_nextOp (l : Nat) (g : Link → Link) : (modLink m l g).nextOp = m.nextOp := rfl
@[simp] theorem modLink_chordNet (l : Nat) (g : Link → Link) : (modLink m l g).chordNet = m.chordNet := rfl
@[simp] theorem modLink_earlyChecks (l : Nat) (g : Link → Link) : (modLink m l g).earlyChecks = m.earlyChecks := rfl
@[simp] theorem modLink_heldReqs (l : Nat) (g : Link → Link) : (modLink m l g).heldReqs = m.heldReqs := rfl
@[simp] theorem modLink_mem (l : Nat) (g : Link → Link) : (modLink m l g).mem = m.mem := rfl
@[simp] theorem modLink_tallies (l : Nat) (g : Link → Link) : (modLink m l g).tallies = m.tallies := rfl
@[simp] theorem modLink_ue (l : Nat) (g : Link → Link) : (modLink m l g).ue = m.ue := rfl
@[simp] theorem modLink_scrambled (l : Nat) (g : Link → Link) : (modLink m l g).scrambled = m.scrambled := rfl
@[simp] theorem modLink_chans (l : Nat) (g : Link → Link) : (modLink m l g).chans = m.chans := rfl
@[simp] theorem modLink_store (l : Nat) (g : Link → Link) : (modLink m l g).store = m.store := rfl
@[simp] theorem modLink_twin (l : Nat) (g : Link → Link) : (modLink m l g).twin = m.twin := rfl
@[simp] theorem modLink_links (l : Nat) (g : Link → Link) : (modLink m l g).links = m.links.modify l g := rfl
@[simp] theorem modLink_focus (l : Nat) (g : Link → Link) : (modLink m l g).focus = m.focus := rfl
@[simp] theorem modLink_ctr (l : Nat) (g : Link → Link) : (modLink m l g).ctr = m.ctr := rfl
@[simp] theorem modLink_power (l : Nat) (g : Link → Link) : (modLink m l g).power = m.power := rfl
@[simp] theorem modLink_test (l : Nat) (g : Link → Link) : (modLink m l g).test = m.test := rfl
@[simp] theorem modLink_shifts (l : Nat) (g : Link → Link) : (modLink m l g).shifts = m.shifts := rfl
@[simp] theorem modLink_failWait (l : Nat) (g : Link → Link) : (modLink m l g).failWait = m.failWait := rfl
@[simp] theorem modLink_out (l : Nat) (g : Link → Link) : (modLink m l g).out = m.out := rfl
@[simp] theorem modLink_free (l : Nat) (g : Link → Link) : (modLink m l g).free = m.free := rfl

/-! modChan -/

@[simp] theorem modChan_now (c : Nat) (g : Channel → Channel) : (modChan m c g).now = m.now := rfl
@[simp] theorem modChan_edges (c : Nat) (g : Channel → Channel) : (modChan m c g).edges = m.edges := rfl
@[simp] theorem modChan_boot (c : Nat) (g : Channel → Channel) : (modChan m c g).boot = m.boot := rfl
@[simp] theorem modChan_flash (c : Nat) (g : Channel → Channel) : (modChan m c g).flash = m.flash := rfl
@[simp] theorem modChan_tick (c : Nat) (g : Channel → Channel) : (modChan m c g).tick = m.tick := rfl
@[simp] theorem modChan_regs (c : Nat) (g : Channel → Channel) : (modChan m c g).regs = m.regs := rfl
@[simp] theorem modChan_pend (c : Nat) (g : Channel → Channel) : (modChan m c g).pend = m.pend := rfl
@[simp] theorem modChan_pendLate (c : Nat) (g : Channel → Channel) : (modChan m c g).pendLate = m.pendLate := rfl
@[simp] theorem modChan_host (c : Nat) (g : Channel → Channel) : (modChan m c g).host = m.host := rfl
@[simp] theorem modChan_descs (c : Nat) (g : Channel → Channel) : (modChan m c g).descs = m.descs := rfl
@[simp] theorem modChan_copies (c : Nat) (g : Channel → Channel) : (modChan m c g).copies = m.copies := rfl
@[simp] theorem modChan_jobs (c : Nat) (g : Channel → Channel) : (modChan m c g).jobs = m.jobs := rfl
@[simp] theorem modChan_chords (c : Nat) (g : Channel → Channel) : (modChan m c g).chords = m.chords := rfl
@[simp] theorem modChan_loads (c : Nat) (g : Channel → Channel) : (modChan m c g).loads = m.loads := rfl
@[simp] theorem modChan_progs (c : Nat) (g : Channel → Channel) : (modChan m c g).progs = m.progs := rfl
@[simp] theorem modChan_facets (c : Nat) (g : Channel → Channel) : (modChan m c g).facets = m.facets := rfl
@[simp] theorem modChan_flights (c : Nat) (g : Channel → Channel) : (modChan m c g).flights = m.flights := rfl
@[simp] theorem modChan_nextOp (c : Nat) (g : Channel → Channel) : (modChan m c g).nextOp = m.nextOp := rfl
@[simp] theorem modChan_chordNet (c : Nat) (g : Channel → Channel) : (modChan m c g).chordNet = m.chordNet := rfl
@[simp] theorem modChan_earlyChecks (c : Nat) (g : Channel → Channel) : (modChan m c g).earlyChecks = m.earlyChecks := rfl
@[simp] theorem modChan_heldReqs (c : Nat) (g : Channel → Channel) : (modChan m c g).heldReqs = m.heldReqs := rfl
@[simp] theorem modChan_mem (c : Nat) (g : Channel → Channel) : (modChan m c g).mem = m.mem := rfl
@[simp] theorem modChan_tallies (c : Nat) (g : Channel → Channel) : (modChan m c g).tallies = m.tallies := rfl
@[simp] theorem modChan_ue (c : Nat) (g : Channel → Channel) : (modChan m c g).ue = m.ue := rfl
@[simp] theorem modChan_scrambled (c : Nat) (g : Channel → Channel) : (modChan m c g).scrambled = m.scrambled := rfl
@[simp] theorem modChan_chans (c : Nat) (g : Channel → Channel) : (modChan m c g).chans = m.chans.modify c g := rfl
@[simp] theorem modChan_store (c : Nat) (g : Channel → Channel) : (modChan m c g).store = m.store := rfl
@[simp] theorem modChan_twin (c : Nat) (g : Channel → Channel) : (modChan m c g).twin = m.twin := rfl
@[simp] theorem modChan_links (c : Nat) (g : Channel → Channel) : (modChan m c g).links = m.links := rfl
@[simp] theorem modChan_focus (c : Nat) (g : Channel → Channel) : (modChan m c g).focus = m.focus := rfl
@[simp] theorem modChan_ctr (c : Nat) (g : Channel → Channel) : (modChan m c g).ctr = m.ctr := rfl
@[simp] theorem modChan_power (c : Nat) (g : Channel → Channel) : (modChan m c g).power = m.power := rfl
@[simp] theorem modChan_test (c : Nat) (g : Channel → Channel) : (modChan m c g).test = m.test := rfl
@[simp] theorem modChan_shifts (c : Nat) (g : Channel → Channel) : (modChan m c g).shifts = m.shifts := rfl
@[simp] theorem modChan_failWait (c : Nat) (g : Channel → Channel) : (modChan m c g).failWait = m.failWait := rfl
@[simp] theorem modChan_out (c : Nat) (g : Channel → Channel) : (modChan m c g).out = m.out := rfl
@[simp] theorem modChan_free (c : Nat) (g : Channel → Channel) : (modChan m c g).free = m.free := rfl

/-! modTick -/

@[simp] theorem modTick_now (g : Tick → Tick) : (modTick m g).now = m.now := rfl
@[simp] theorem modTick_edges (g : Tick → Tick) : (modTick m g).edges = m.edges := rfl
@[simp] theorem modTick_boot (g : Tick → Tick) : (modTick m g).boot = m.boot := rfl
@[simp] theorem modTick_flash (g : Tick → Tick) : (modTick m g).flash = m.flash := rfl
@[simp] theorem modTick_tick (g : Tick → Tick) : (modTick m g).tick = g m.tick := rfl
@[simp] theorem modTick_regs (g : Tick → Tick) : (modTick m g).regs = m.regs := rfl
@[simp] theorem modTick_pend (g : Tick → Tick) : (modTick m g).pend = m.pend := rfl
@[simp] theorem modTick_pendLate (g : Tick → Tick) : (modTick m g).pendLate = m.pendLate := rfl
@[simp] theorem modTick_host (g : Tick → Tick) : (modTick m g).host = m.host := rfl
@[simp] theorem modTick_descs (g : Tick → Tick) : (modTick m g).descs = m.descs := rfl
@[simp] theorem modTick_copies (g : Tick → Tick) : (modTick m g).copies = m.copies := rfl
@[simp] theorem modTick_jobs (g : Tick → Tick) : (modTick m g).jobs = m.jobs := rfl
@[simp] theorem modTick_chords (g : Tick → Tick) : (modTick m g).chords = m.chords := rfl
@[simp] theorem modTick_loads (g : Tick → Tick) : (modTick m g).loads = m.loads := rfl
@[simp] theorem modTick_progs (g : Tick → Tick) : (modTick m g).progs = m.progs := rfl
@[simp] theorem modTick_facets (g : Tick → Tick) : (modTick m g).facets = m.facets := rfl
@[simp] theorem modTick_flights (g : Tick → Tick) : (modTick m g).flights = m.flights := rfl
@[simp] theorem modTick_nextOp (g : Tick → Tick) : (modTick m g).nextOp = m.nextOp := rfl
@[simp] theorem modTick_chordNet (g : Tick → Tick) : (modTick m g).chordNet = m.chordNet := rfl
@[simp] theorem modTick_earlyChecks (g : Tick → Tick) : (modTick m g).earlyChecks = m.earlyChecks := rfl
@[simp] theorem modTick_heldReqs (g : Tick → Tick) : (modTick m g).heldReqs = m.heldReqs := rfl
@[simp] theorem modTick_mem (g : Tick → Tick) : (modTick m g).mem = m.mem := rfl
@[simp] theorem modTick_tallies (g : Tick → Tick) : (modTick m g).tallies = m.tallies := rfl
@[simp] theorem modTick_ue (g : Tick → Tick) : (modTick m g).ue = m.ue := rfl
@[simp] theorem modTick_scrambled (g : Tick → Tick) : (modTick m g).scrambled = m.scrambled := rfl
@[simp] theorem modTick_chans (g : Tick → Tick) : (modTick m g).chans = m.chans := rfl
@[simp] theorem modTick_store (g : Tick → Tick) : (modTick m g).store = m.store := rfl
@[simp] theorem modTick_twin (g : Tick → Tick) : (modTick m g).twin = m.twin := rfl
@[simp] theorem modTick_links (g : Tick → Tick) : (modTick m g).links = m.links := rfl
@[simp] theorem modTick_focus (g : Tick → Tick) : (modTick m g).focus = m.focus := rfl
@[simp] theorem modTick_ctr (g : Tick → Tick) : (modTick m g).ctr = m.ctr := rfl
@[simp] theorem modTick_power (g : Tick → Tick) : (modTick m g).power = m.power := rfl
@[simp] theorem modTick_test (g : Tick → Tick) : (modTick m g).test = m.test := rfl
@[simp] theorem modTick_shifts (g : Tick → Tick) : (modTick m g).shifts = m.shifts := rfl
@[simp] theorem modTick_failWait (g : Tick → Tick) : (modTick m g).failWait = m.failWait := rfl
@[simp] theorem modTick_out (g : Tick → Tick) : (modTick m g).out = m.out := rfl
@[simp] theorem modTick_free (g : Tick → Tick) : (modTick m g).free = m.free := rfl

/-! modFocus -/

@[simp] theorem modFocus_now (g : Focus → Focus) : (modFocus m g).now = m.now := rfl
@[simp] theorem modFocus_edges (g : Focus → Focus) : (modFocus m g).edges = m.edges := rfl
@[simp] theorem modFocus_boot (g : Focus → Focus) : (modFocus m g).boot = m.boot := rfl
@[simp] theorem modFocus_flash (g : Focus → Focus) : (modFocus m g).flash = m.flash := rfl
@[simp] theorem modFocus_tick (g : Focus → Focus) : (modFocus m g).tick = m.tick := rfl
@[simp] theorem modFocus_regs (g : Focus → Focus) : (modFocus m g).regs = m.regs := rfl
@[simp] theorem modFocus_pend (g : Focus → Focus) : (modFocus m g).pend = m.pend := rfl
@[simp] theorem modFocus_pendLate (g : Focus → Focus) : (modFocus m g).pendLate = m.pendLate := rfl
@[simp] theorem modFocus_host (g : Focus → Focus) : (modFocus m g).host = m.host := rfl
@[simp] theorem modFocus_descs (g : Focus → Focus) : (modFocus m g).descs = m.descs := rfl
@[simp] theorem modFocus_copies (g : Focus → Focus) : (modFocus m g).copies = m.copies := rfl
@[simp] theorem modFocus_jobs (g : Focus → Focus) : (modFocus m g).jobs = m.jobs := rfl
@[simp] theorem modFocus_chords (g : Focus → Focus) : (modFocus m g).chords = m.chords := rfl
@[simp] theorem modFocus_loads (g : Focus → Focus) : (modFocus m g).loads = m.loads := rfl
@[simp] theorem modFocus_progs (g : Focus → Focus) : (modFocus m g).progs = m.progs := rfl
@[simp] theorem modFocus_facets (g : Focus → Focus) : (modFocus m g).facets = m.facets := rfl
@[simp] theorem modFocus_flights (g : Focus → Focus) : (modFocus m g).flights = m.flights := rfl
@[simp] theorem modFocus_nextOp (g : Focus → Focus) : (modFocus m g).nextOp = m.nextOp := rfl
@[simp] theorem modFocus_chordNet (g : Focus → Focus) : (modFocus m g).chordNet = m.chordNet := rfl
@[simp] theorem modFocus_earlyChecks (g : Focus → Focus) : (modFocus m g).earlyChecks = m.earlyChecks := rfl
@[simp] theorem modFocus_heldReqs (g : Focus → Focus) : (modFocus m g).heldReqs = m.heldReqs := rfl
@[simp] theorem modFocus_mem (g : Focus → Focus) : (modFocus m g).mem = m.mem := rfl
@[simp] theorem modFocus_tallies (g : Focus → Focus) : (modFocus m g).tallies = m.tallies := rfl
@[simp] theorem modFocus_ue (g : Focus → Focus) : (modFocus m g).ue = m.ue := rfl
@[simp] theorem modFocus_scrambled (g : Focus → Focus) : (modFocus m g).scrambled = m.scrambled := rfl
@[simp] theorem modFocus_chans (g : Focus → Focus) : (modFocus m g).chans = m.chans := rfl
@[simp] theorem modFocus_store (g : Focus → Focus) : (modFocus m g).store = m.store := rfl
@[simp] theorem modFocus_twin (g : Focus → Focus) : (modFocus m g).twin = m.twin := rfl
@[simp] theorem modFocus_links (g : Focus → Focus) : (modFocus m g).links = m.links := rfl
@[simp] theorem modFocus_focus (g : Focus → Focus) : (modFocus m g).focus = g m.focus := rfl
@[simp] theorem modFocus_ctr (g : Focus → Focus) : (modFocus m g).ctr = m.ctr := rfl
@[simp] theorem modFocus_power (g : Focus → Focus) : (modFocus m g).power = m.power := rfl
@[simp] theorem modFocus_test (g : Focus → Focus) : (modFocus m g).test = m.test := rfl
@[simp] theorem modFocus_shifts (g : Focus → Focus) : (modFocus m g).shifts = m.shifts := rfl
@[simp] theorem modFocus_failWait (g : Focus → Focus) : (modFocus m g).failWait = m.failWait := rfl
@[simp] theorem modFocus_out (g : Focus → Focus) : (modFocus m g).out = m.out := rfl
@[simp] theorem modFocus_free (g : Focus → Focus) : (modFocus m g).free = m.free := rfl

/-! modPower -/

@[simp] theorem modPower_now (g : Power → Power) : (modPower m g).now = m.now := rfl
@[simp] theorem modPower_edges (g : Power → Power) : (modPower m g).edges = m.edges := rfl
@[simp] theorem modPower_boot (g : Power → Power) : (modPower m g).boot = m.boot := rfl
@[simp] theorem modPower_flash (g : Power → Power) : (modPower m g).flash = m.flash := rfl
@[simp] theorem modPower_tick (g : Power → Power) : (modPower m g).tick = m.tick := rfl
@[simp] theorem modPower_regs (g : Power → Power) : (modPower m g).regs = m.regs := rfl
@[simp] theorem modPower_pend (g : Power → Power) : (modPower m g).pend = m.pend := rfl
@[simp] theorem modPower_pendLate (g : Power → Power) : (modPower m g).pendLate = m.pendLate := rfl
@[simp] theorem modPower_host (g : Power → Power) : (modPower m g).host = m.host := rfl
@[simp] theorem modPower_descs (g : Power → Power) : (modPower m g).descs = m.descs := rfl
@[simp] theorem modPower_copies (g : Power → Power) : (modPower m g).copies = m.copies := rfl
@[simp] theorem modPower_jobs (g : Power → Power) : (modPower m g).jobs = m.jobs := rfl
@[simp] theorem modPower_chords (g : Power → Power) : (modPower m g).chords = m.chords := rfl
@[simp] theorem modPower_loads (g : Power → Power) : (modPower m g).loads = m.loads := rfl
@[simp] theorem modPower_progs (g : Power → Power) : (modPower m g).progs = m.progs := rfl
@[simp] theorem modPower_facets (g : Power → Power) : (modPower m g).facets = m.facets := rfl
@[simp] theorem modPower_flights (g : Power → Power) : (modPower m g).flights = m.flights := rfl
@[simp] theorem modPower_nextOp (g : Power → Power) : (modPower m g).nextOp = m.nextOp := rfl
@[simp] theorem modPower_chordNet (g : Power → Power) : (modPower m g).chordNet = m.chordNet := rfl
@[simp] theorem modPower_earlyChecks (g : Power → Power) : (modPower m g).earlyChecks = m.earlyChecks := rfl
@[simp] theorem modPower_heldReqs (g : Power → Power) : (modPower m g).heldReqs = m.heldReqs := rfl
@[simp] theorem modPower_mem (g : Power → Power) : (modPower m g).mem = m.mem := rfl
@[simp] theorem modPower_tallies (g : Power → Power) : (modPower m g).tallies = m.tallies := rfl
@[simp] theorem modPower_ue (g : Power → Power) : (modPower m g).ue = m.ue := rfl
@[simp] theorem modPower_scrambled (g : Power → Power) : (modPower m g).scrambled = m.scrambled := rfl
@[simp] theorem modPower_chans (g : Power → Power) : (modPower m g).chans = m.chans := rfl
@[simp] theorem modPower_store (g : Power → Power) : (modPower m g).store = m.store := rfl
@[simp] theorem modPower_twin (g : Power → Power) : (modPower m g).twin = m.twin := rfl
@[simp] theorem modPower_links (g : Power → Power) : (modPower m g).links = m.links := rfl
@[simp] theorem modPower_focus (g : Power → Power) : (modPower m g).focus = m.focus := rfl
@[simp] theorem modPower_ctr (g : Power → Power) : (modPower m g).ctr = m.ctr := rfl
@[simp] theorem modPower_power (g : Power → Power) : (modPower m g).power = g m.power := rfl
@[simp] theorem modPower_test (g : Power → Power) : (modPower m g).test = m.test := rfl
@[simp] theorem modPower_shifts (g : Power → Power) : (modPower m g).shifts = m.shifts := rfl
@[simp] theorem modPower_failWait (g : Power → Power) : (modPower m g).failWait = m.failWait := rfl
@[simp] theorem modPower_out (g : Power → Power) : (modPower m g).out = m.out := rfl
@[simp] theorem modPower_free (g : Power → Power) : (modPower m g).free = m.free := rfl

/-! modTwin -/

@[simp] theorem modTwin_now (g : Twin → Twin) : (modTwin m g).now = m.now := rfl
@[simp] theorem modTwin_edges (g : Twin → Twin) : (modTwin m g).edges = m.edges := rfl
@[simp] theorem modTwin_boot (g : Twin → Twin) : (modTwin m g).boot = m.boot := rfl
@[simp] theorem modTwin_flash (g : Twin → Twin) : (modTwin m g).flash = m.flash := rfl
@[simp] theorem modTwin_tick (g : Twin → Twin) : (modTwin m g).tick = m.tick := rfl
@[simp] theorem modTwin_regs (g : Twin → Twin) : (modTwin m g).regs = m.regs := rfl
@[simp] theorem modTwin_pend (g : Twin → Twin) : (modTwin m g).pend = m.pend := rfl
@[simp] theorem modTwin_pendLate (g : Twin → Twin) : (modTwin m g).pendLate = m.pendLate := rfl
@[simp] theorem modTwin_host (g : Twin → Twin) : (modTwin m g).host = m.host := rfl
@[simp] theorem modTwin_descs (g : Twin → Twin) : (modTwin m g).descs = m.descs := rfl
@[simp] theorem modTwin_copies (g : Twin → Twin) : (modTwin m g).copies = m.copies := rfl
@[simp] theorem modTwin_jobs (g : Twin → Twin) : (modTwin m g).jobs = m.jobs := rfl
@[simp] theorem modTwin_chords (g : Twin → Twin) : (modTwin m g).chords = m.chords := rfl
@[simp] theorem modTwin_loads (g : Twin → Twin) : (modTwin m g).loads = m.loads := rfl
@[simp] theorem modTwin_progs (g : Twin → Twin) : (modTwin m g).progs = m.progs := rfl
@[simp] theorem modTwin_facets (g : Twin → Twin) : (modTwin m g).facets = m.facets := rfl
@[simp] theorem modTwin_flights (g : Twin → Twin) : (modTwin m g).flights = m.flights := rfl
@[simp] theorem modTwin_nextOp (g : Twin → Twin) : (modTwin m g).nextOp = m.nextOp := rfl
@[simp] theorem modTwin_chordNet (g : Twin → Twin) : (modTwin m g).chordNet = m.chordNet := rfl
@[simp] theorem modTwin_earlyChecks (g : Twin → Twin) : (modTwin m g).earlyChecks = m.earlyChecks := rfl
@[simp] theorem modTwin_heldReqs (g : Twin → Twin) : (modTwin m g).heldReqs = m.heldReqs := rfl
@[simp] theorem modTwin_mem (g : Twin → Twin) : (modTwin m g).mem = m.mem := rfl
@[simp] theorem modTwin_tallies (g : Twin → Twin) : (modTwin m g).tallies = m.tallies := rfl
@[simp] theorem modTwin_ue (g : Twin → Twin) : (modTwin m g).ue = m.ue := rfl
@[simp] theorem modTwin_scrambled (g : Twin → Twin) : (modTwin m g).scrambled = m.scrambled := rfl
@[simp] theorem modTwin_chans (g : Twin → Twin) : (modTwin m g).chans = m.chans := rfl
@[simp] theorem modTwin_store (g : Twin → Twin) : (modTwin m g).store = m.store := rfl
@[simp] theorem modTwin_twin (g : Twin → Twin) : (modTwin m g).twin = g m.twin := rfl
@[simp] theorem modTwin_links (g : Twin → Twin) : (modTwin m g).links = m.links := rfl
@[simp] theorem modTwin_focus (g : Twin → Twin) : (modTwin m g).focus = m.focus := rfl
@[simp] theorem modTwin_ctr (g : Twin → Twin) : (modTwin m g).ctr = m.ctr := rfl
@[simp] theorem modTwin_power (g : Twin → Twin) : (modTwin m g).power = m.power := rfl
@[simp] theorem modTwin_test (g : Twin → Twin) : (modTwin m g).test = m.test := rfl
@[simp] theorem modTwin_shifts (g : Twin → Twin) : (modTwin m g).shifts = m.shifts := rfl
@[simp] theorem modTwin_failWait (g : Twin → Twin) : (modTwin m g).failWait = m.failWait := rfl
@[simp] theorem modTwin_out (g : Twin → Twin) : (modTwin m g).out = m.out := rfl
@[simp] theorem modTwin_free (g : Twin → Twin) : (modTwin m g).free = m.free := rfl

/-! modTest -/

@[simp] theorem modTest_now (g : Test → Test) : (modTest m g).now = m.now := rfl
@[simp] theorem modTest_edges (g : Test → Test) : (modTest m g).edges = m.edges := rfl
@[simp] theorem modTest_boot (g : Test → Test) : (modTest m g).boot = m.boot := rfl
@[simp] theorem modTest_flash (g : Test → Test) : (modTest m g).flash = m.flash := rfl
@[simp] theorem modTest_tick (g : Test → Test) : (modTest m g).tick = m.tick := rfl
@[simp] theorem modTest_regs (g : Test → Test) : (modTest m g).regs = m.regs := rfl
@[simp] theorem modTest_pend (g : Test → Test) : (modTest m g).pend = m.pend := rfl
@[simp] theorem modTest_pendLate (g : Test → Test) : (modTest m g).pendLate = m.pendLate := rfl
@[simp] theorem modTest_host (g : Test → Test) : (modTest m g).host = m.host := rfl
@[simp] theorem modTest_descs (g : Test → Test) : (modTest m g).descs = m.descs := rfl
@[simp] theorem modTest_copies (g : Test → Test) : (modTest m g).copies = m.copies := rfl
@[simp] theorem modTest_jobs (g : Test → Test) : (modTest m g).jobs = m.jobs := rfl
@[simp] theorem modTest_chords (g : Test → Test) : (modTest m g).chords = m.chords := rfl
@[simp] theorem modTest_loads (g : Test → Test) : (modTest m g).loads = m.loads := rfl
@[simp] theorem modTest_progs (g : Test → Test) : (modTest m g).progs = m.progs := rfl
@[simp] theorem modTest_facets (g : Test → Test) : (modTest m g).facets = m.facets := rfl
@[simp] theorem modTest_flights (g : Test → Test) : (modTest m g).flights = m.flights := rfl
@[simp] theorem modTest_nextOp (g : Test → Test) : (modTest m g).nextOp = m.nextOp := rfl
@[simp] theorem modTest_chordNet (g : Test → Test) : (modTest m g).chordNet = m.chordNet := rfl
@[simp] theorem modTest_earlyChecks (g : Test → Test) : (modTest m g).earlyChecks = m.earlyChecks := rfl
@[simp] theorem modTest_heldReqs (g : Test → Test) : (modTest m g).heldReqs = m.heldReqs := rfl
@[simp] theorem modTest_mem (g : Test → Test) : (modTest m g).mem = m.mem := rfl
@[simp] theorem modTest_tallies (g : Test → Test) : (modTest m g).tallies = m.tallies := rfl
@[simp] theorem modTest_ue (g : Test → Test) : (modTest m g).ue = m.ue := rfl
@[simp] theorem modTest_scrambled (g : Test → Test) : (modTest m g).scrambled = m.scrambled := rfl
@[simp] theorem modTest_chans (g : Test → Test) : (modTest m g).chans = m.chans := rfl
@[simp] theorem modTest_store (g : Test → Test) : (modTest m g).store = m.store := rfl
@[simp] theorem modTest_twin (g : Test → Test) : (modTest m g).twin = m.twin := rfl
@[simp] theorem modTest_links (g : Test → Test) : (modTest m g).links = m.links := rfl
@[simp] theorem modTest_focus (g : Test → Test) : (modTest m g).focus = m.focus := rfl
@[simp] theorem modTest_ctr (g : Test → Test) : (modTest m g).ctr = m.ctr := rfl
@[simp] theorem modTest_power (g : Test → Test) : (modTest m g).power = m.power := rfl
@[simp] theorem modTest_test (g : Test → Test) : (modTest m g).test = g m.test := rfl
@[simp] theorem modTest_shifts (g : Test → Test) : (modTest m g).shifts = m.shifts := rfl
@[simp] theorem modTest_failWait (g : Test → Test) : (modTest m g).failWait = m.failWait := rfl
@[simp] theorem modTest_out (g : Test → Test) : (modTest m g).out = m.out := rfl
@[simp] theorem modTest_free (g : Test → Test) : (modTest m g).free = m.free := rfl

/-! modFlash -/

@[simp] theorem modFlash_now (g : Flash → Flash) : (modFlash m g).now = m.now := rfl
@[simp] theorem modFlash_edges (g : Flash → Flash) : (modFlash m g).edges = m.edges := rfl
@[simp] theorem modFlash_boot (g : Flash → Flash) : (modFlash m g).boot = m.boot := rfl
@[simp] theorem modFlash_flash (g : Flash → Flash) : (modFlash m g).flash = g m.flash := rfl
@[simp] theorem modFlash_tick (g : Flash → Flash) : (modFlash m g).tick = m.tick := rfl
@[simp] theorem modFlash_regs (g : Flash → Flash) : (modFlash m g).regs = m.regs := rfl
@[simp] theorem modFlash_pend (g : Flash → Flash) : (modFlash m g).pend = m.pend := rfl
@[simp] theorem modFlash_pendLate (g : Flash → Flash) : (modFlash m g).pendLate = m.pendLate := rfl
@[simp] theorem modFlash_host (g : Flash → Flash) : (modFlash m g).host = m.host := rfl
@[simp] theorem modFlash_descs (g : Flash → Flash) : (modFlash m g).descs = m.descs := rfl
@[simp] theorem modFlash_copies (g : Flash → Flash) : (modFlash m g).copies = m.copies := rfl
@[simp] theorem modFlash_jobs (g : Flash → Flash) : (modFlash m g).jobs = m.jobs := rfl
@[simp] theorem modFlash_chords (g : Flash → Flash) : (modFlash m g).chords = m.chords := rfl
@[simp] theorem modFlash_loads (g : Flash → Flash) : (modFlash m g).loads = m.loads := rfl
@[simp] theorem modFlash_progs (g : Flash → Flash) : (modFlash m g).progs = m.progs := rfl
@[simp] theorem modFlash_facets (g : Flash → Flash) : (modFlash m g).facets = m.facets := rfl
@[simp] theorem modFlash_flights (g : Flash → Flash) : (modFlash m g).flights = m.flights := rfl
@[simp] theorem modFlash_nextOp (g : Flash → Flash) : (modFlash m g).nextOp = m.nextOp := rfl
@[simp] theorem modFlash_chordNet (g : Flash → Flash) : (modFlash m g).chordNet = m.chordNet := rfl
@[simp] theorem modFlash_earlyChecks (g : Flash → Flash) : (modFlash m g).earlyChecks = m.earlyChecks := rfl
@[simp] theorem modFlash_heldReqs (g : Flash → Flash) : (modFlash m g).heldReqs = m.heldReqs := rfl
@[simp] theorem modFlash_mem (g : Flash → Flash) : (modFlash m g).mem = m.mem := rfl
@[simp] theorem modFlash_tallies (g : Flash → Flash) : (modFlash m g).tallies = m.tallies := rfl
@[simp] theorem modFlash_ue (g : Flash → Flash) : (modFlash m g).ue = m.ue := rfl
@[simp] theorem modFlash_scrambled (g : Flash → Flash) : (modFlash m g).scrambled = m.scrambled := rfl
@[simp] theorem modFlash_chans (g : Flash → Flash) : (modFlash m g).chans = m.chans := rfl
@[simp] theorem modFlash_store (g : Flash → Flash) : (modFlash m g).store = m.store := rfl
@[simp] theorem modFlash_twin (g : Flash → Flash) : (modFlash m g).twin = m.twin := rfl
@[simp] theorem modFlash_links (g : Flash → Flash) : (modFlash m g).links = m.links := rfl
@[simp] theorem modFlash_focus (g : Flash → Flash) : (modFlash m g).focus = m.focus := rfl
@[simp] theorem modFlash_ctr (g : Flash → Flash) : (modFlash m g).ctr = m.ctr := rfl
@[simp] theorem modFlash_power (g : Flash → Flash) : (modFlash m g).power = m.power := rfl
@[simp] theorem modFlash_test (g : Flash → Flash) : (modFlash m g).test = m.test := rfl
@[simp] theorem modFlash_shifts (g : Flash → Flash) : (modFlash m g).shifts = m.shifts := rfl
@[simp] theorem modFlash_failWait (g : Flash → Flash) : (modFlash m g).failWait = m.failWait := rfl
@[simp] theorem modFlash_out (g : Flash → Flash) : (modFlash m g).out = m.out := rfl
@[simp] theorem modFlash_free (g : Flash → Flash) : (modFlash m g).free = m.free := rfl

/-! modCtr -/

@[simp] theorem modCtr_now (g : Centroid → Centroid) : (modCtr m g).now = m.now := rfl
@[simp] theorem modCtr_edges (g : Centroid → Centroid) : (modCtr m g).edges = m.edges := rfl
@[simp] theorem modCtr_boot (g : Centroid → Centroid) : (modCtr m g).boot = m.boot := rfl
@[simp] theorem modCtr_flash (g : Centroid → Centroid) : (modCtr m g).flash = m.flash := rfl
@[simp] theorem modCtr_tick (g : Centroid → Centroid) : (modCtr m g).tick = m.tick := rfl
@[simp] theorem modCtr_regs (g : Centroid → Centroid) : (modCtr m g).regs = m.regs := rfl
@[simp] theorem modCtr_pend (g : Centroid → Centroid) : (modCtr m g).pend = m.pend := rfl
@[simp] theorem modCtr_pendLate (g : Centroid → Centroid) : (modCtr m g).pendLate = m.pendLate := rfl
@[simp] theorem modCtr_host (g : Centroid → Centroid) : (modCtr m g).host = m.host := rfl
@[simp] theorem modCtr_descs (g : Centroid → Centroid) : (modCtr m g).descs = m.descs := rfl
@[simp] theorem modCtr_copies (g : Centroid → Centroid) : (modCtr m g).copies = m.copies := rfl
@[simp] theorem modCtr_jobs (g : Centroid → Centroid) : (modCtr m g).jobs = m.jobs := rfl
@[simp] theorem modCtr_chords (g : Centroid → Centroid) : (modCtr m g).chords = m.chords := rfl
@[simp] theorem modCtr_loads (g : Centroid → Centroid) : (modCtr m g).loads = m.loads := rfl
@[simp] theorem modCtr_progs (g : Centroid → Centroid) : (modCtr m g).progs = m.progs := rfl
@[simp] theorem modCtr_facets (g : Centroid → Centroid) : (modCtr m g).facets = m.facets := rfl
@[simp] theorem modCtr_flights (g : Centroid → Centroid) : (modCtr m g).flights = m.flights := rfl
@[simp] theorem modCtr_nextOp (g : Centroid → Centroid) : (modCtr m g).nextOp = m.nextOp := rfl
@[simp] theorem modCtr_chordNet (g : Centroid → Centroid) : (modCtr m g).chordNet = m.chordNet := rfl
@[simp] theorem modCtr_earlyChecks (g : Centroid → Centroid) : (modCtr m g).earlyChecks = m.earlyChecks := rfl
@[simp] theorem modCtr_heldReqs (g : Centroid → Centroid) : (modCtr m g).heldReqs = m.heldReqs := rfl
@[simp] theorem modCtr_mem (g : Centroid → Centroid) : (modCtr m g).mem = m.mem := rfl
@[simp] theorem modCtr_tallies (g : Centroid → Centroid) : (modCtr m g).tallies = m.tallies := rfl
@[simp] theorem modCtr_ue (g : Centroid → Centroid) : (modCtr m g).ue = m.ue := rfl
@[simp] theorem modCtr_scrambled (g : Centroid → Centroid) : (modCtr m g).scrambled = m.scrambled := rfl
@[simp] theorem modCtr_chans (g : Centroid → Centroid) : (modCtr m g).chans = m.chans := rfl
@[simp] theorem modCtr_store (g : Centroid → Centroid) : (modCtr m g).store = m.store := rfl
@[simp] theorem modCtr_twin (g : Centroid → Centroid) : (modCtr m g).twin = m.twin := rfl
@[simp] theorem modCtr_links (g : Centroid → Centroid) : (modCtr m g).links = m.links := rfl
@[simp] theorem modCtr_focus (g : Centroid → Centroid) : (modCtr m g).focus = m.focus := rfl
@[simp] theorem modCtr_ctr (g : Centroid → Centroid) : (modCtr m g).ctr = g m.ctr := rfl
@[simp] theorem modCtr_power (g : Centroid → Centroid) : (modCtr m g).power = m.power := rfl
@[simp] theorem modCtr_test (g : Centroid → Centroid) : (modCtr m g).test = m.test := rfl
@[simp] theorem modCtr_shifts (g : Centroid → Centroid) : (modCtr m g).shifts = m.shifts := rfl
@[simp] theorem modCtr_failWait (g : Centroid → Centroid) : (modCtr m g).failWait = m.failWait := rfl
@[simp] theorem modCtr_out (g : Centroid → Centroid) : (modCtr m g).out = m.out := rfl
@[simp] theorem modCtr_free (g : Centroid → Centroid) : (modCtr m g).free = m.free := rfl

/-! emit -/

@[simp] theorem emit_now (o : Output) : (emit m o).now = m.now := rfl
@[simp] theorem emit_edges (o : Output) : (emit m o).edges = m.edges := rfl
@[simp] theorem emit_boot (o : Output) : (emit m o).boot = m.boot := rfl
@[simp] theorem emit_flash (o : Output) : (emit m o).flash = m.flash := rfl
@[simp] theorem emit_tick (o : Output) : (emit m o).tick = m.tick := rfl
@[simp] theorem emit_regs (o : Output) : (emit m o).regs = m.regs := rfl
@[simp] theorem emit_pend (o : Output) : (emit m o).pend = m.pend := rfl
@[simp] theorem emit_pendLate (o : Output) : (emit m o).pendLate = m.pendLate := rfl
@[simp] theorem emit_host (o : Output) : (emit m o).host = m.host := rfl
@[simp] theorem emit_descs (o : Output) : (emit m o).descs = m.descs := rfl
@[simp] theorem emit_copies (o : Output) : (emit m o).copies = m.copies := rfl
@[simp] theorem emit_jobs (o : Output) : (emit m o).jobs = m.jobs := rfl
@[simp] theorem emit_chords (o : Output) : (emit m o).chords = m.chords := rfl
@[simp] theorem emit_loads (o : Output) : (emit m o).loads = m.loads := rfl
@[simp] theorem emit_progs (o : Output) : (emit m o).progs = m.progs := rfl
@[simp] theorem emit_facets (o : Output) : (emit m o).facets = m.facets := rfl
@[simp] theorem emit_flights (o : Output) : (emit m o).flights = m.flights := rfl
@[simp] theorem emit_nextOp (o : Output) : (emit m o).nextOp = m.nextOp := rfl
@[simp] theorem emit_chordNet (o : Output) : (emit m o).chordNet = m.chordNet := rfl
@[simp] theorem emit_earlyChecks (o : Output) : (emit m o).earlyChecks = m.earlyChecks := rfl
@[simp] theorem emit_heldReqs (o : Output) : (emit m o).heldReqs = m.heldReqs := rfl
@[simp] theorem emit_mem (o : Output) : (emit m o).mem = m.mem := rfl
@[simp] theorem emit_tallies (o : Output) : (emit m o).tallies = m.tallies := rfl
@[simp] theorem emit_ue (o : Output) : (emit m o).ue = m.ue := rfl
@[simp] theorem emit_scrambled (o : Output) : (emit m o).scrambled = m.scrambled := rfl
@[simp] theorem emit_chans (o : Output) : (emit m o).chans = m.chans := rfl
@[simp] theorem emit_store (o : Output) : (emit m o).store = m.store := rfl
@[simp] theorem emit_twin (o : Output) : (emit m o).twin = m.twin := rfl
@[simp] theorem emit_links (o : Output) : (emit m o).links = m.links := rfl
@[simp] theorem emit_focus (o : Output) : (emit m o).focus = m.focus := rfl
@[simp] theorem emit_ctr (o : Output) : (emit m o).ctr = m.ctr := rfl
@[simp] theorem emit_power (o : Output) : (emit m o).power = m.power := rfl
@[simp] theorem emit_test (o : Output) : (emit m o).test = m.test := rfl
@[simp] theorem emit_shifts (o : Output) : (emit m o).shifts = m.shifts := rfl
@[simp] theorem emit_failWait (o : Output) : (emit m o).failWait = m.failWait := rfl
@[simp] theorem emit_out (o : Output) : (emit m o).out = m.out ++ [o] := rfl
@[simp] theorem emit_free (o : Output) : (emit m o).free = m.free := rfl

/-! spendFree -/

@[simp] theorem spendFree_now : (spendFree m).now = m.now := rfl
@[simp] theorem spendFree_edges : (spendFree m).edges = m.edges := rfl
@[simp] theorem spendFree_boot : (spendFree m).boot = m.boot := rfl
@[simp] theorem spendFree_flash : (spendFree m).flash = m.flash := rfl
@[simp] theorem spendFree_tick : (spendFree m).tick = m.tick := rfl
@[simp] theorem spendFree_regs : (spendFree m).regs = m.regs := rfl
@[simp] theorem spendFree_pend : (spendFree m).pend = m.pend := rfl
@[simp] theorem spendFree_pendLate : (spendFree m).pendLate = m.pendLate := rfl
@[simp] theorem spendFree_host : (spendFree m).host = m.host := rfl
@[simp] theorem spendFree_descs : (spendFree m).descs = m.descs := rfl
@[simp] theorem spendFree_copies : (spendFree m).copies = m.copies := rfl
@[simp] theorem spendFree_jobs : (spendFree m).jobs = m.jobs := rfl
@[simp] theorem spendFree_chords : (spendFree m).chords = m.chords := rfl
@[simp] theorem spendFree_loads : (spendFree m).loads = m.loads := rfl
@[simp] theorem spendFree_progs : (spendFree m).progs = m.progs := rfl
@[simp] theorem spendFree_facets : (spendFree m).facets = m.facets := rfl
@[simp] theorem spendFree_flights : (spendFree m).flights = m.flights := rfl
@[simp] theorem spendFree_nextOp : (spendFree m).nextOp = m.nextOp := rfl
@[simp] theorem spendFree_chordNet : (spendFree m).chordNet = m.chordNet := rfl
@[simp] theorem spendFree_earlyChecks : (spendFree m).earlyChecks = m.earlyChecks := rfl
@[simp] theorem spendFree_heldReqs : (spendFree m).heldReqs = m.heldReqs := rfl
@[simp] theorem spendFree_mem : (spendFree m).mem = m.mem := rfl
@[simp] theorem spendFree_tallies : (spendFree m).tallies = m.tallies := rfl
@[simp] theorem spendFree_ue : (spendFree m).ue = m.ue := rfl
@[simp] theorem spendFree_scrambled : (spendFree m).scrambled = m.scrambled := rfl
@[simp] theorem spendFree_chans : (spendFree m).chans = m.chans := rfl
@[simp] theorem spendFree_store : (spendFree m).store = m.store := rfl
@[simp] theorem spendFree_twin : (spendFree m).twin = m.twin := rfl
@[simp] theorem spendFree_links : (spendFree m).links = m.links := rfl
@[simp] theorem spendFree_focus : (spendFree m).focus = m.focus := rfl
@[simp] theorem spendFree_ctr : (spendFree m).ctr = m.ctr := rfl
@[simp] theorem spendFree_power : (spendFree m).power = m.power := rfl
@[simp] theorem spendFree_test : (spendFree m).test = m.test := rfl
@[simp] theorem spendFree_shifts : (spendFree m).shifts = m.shifts := rfl
@[simp] theorem spendFree_failWait : (spendFree m).failWait = m.failWait := rfl
@[simp] theorem spendFree_out : (spendFree m).out = m.out := rfl
@[simp] theorem spendFree_free : (spendFree m).free = m.free + 1 := rfl

/-! atTime -/

@[simp] theorem atTime_now (t : Nat) : (atTime m t).now = max m.now (reach m t) := rfl
@[simp] theorem atTime_edges (t : Nat) : (atTime m t).edges = m.edges := rfl
@[simp] theorem atTime_boot (t : Nat) : (atTime m t).boot = m.boot := rfl
@[simp] theorem atTime_flash (t : Nat) : (atTime m t).flash = m.flash := rfl
@[simp] theorem atTime_tick (t : Nat) : (atTime m t).tick = m.tick := rfl
@[simp] theorem atTime_regs (t : Nat) : (atTime m t).regs = m.regs := rfl
@[simp] theorem atTime_pend (t : Nat) : (atTime m t).pend = m.pend := rfl
@[simp] theorem atTime_pendLate (t : Nat) : (atTime m t).pendLate = m.pendLate := rfl
@[simp] theorem atTime_host (t : Nat) : (atTime m t).host = m.host := rfl
@[simp] theorem atTime_descs (t : Nat) : (atTime m t).descs = m.descs := rfl
@[simp] theorem atTime_copies (t : Nat) : (atTime m t).copies = m.copies := rfl
@[simp] theorem atTime_jobs (t : Nat) : (atTime m t).jobs = m.jobs := rfl
@[simp] theorem atTime_chords (t : Nat) : (atTime m t).chords = m.chords := rfl
@[simp] theorem atTime_loads (t : Nat) : (atTime m t).loads = m.loads := rfl
@[simp] theorem atTime_progs (t : Nat) : (atTime m t).progs = m.progs := rfl
@[simp] theorem atTime_facets (t : Nat) : (atTime m t).facets = m.facets := rfl
@[simp] theorem atTime_flights (t : Nat) : (atTime m t).flights = m.flights := rfl
@[simp] theorem atTime_nextOp (t : Nat) : (atTime m t).nextOp = m.nextOp := rfl
@[simp] theorem atTime_chordNet (t : Nat) : (atTime m t).chordNet = m.chordNet := rfl
@[simp] theorem atTime_earlyChecks (t : Nat) : (atTime m t).earlyChecks = m.earlyChecks := rfl
@[simp] theorem atTime_heldReqs (t : Nat) : (atTime m t).heldReqs = m.heldReqs := rfl
@[simp] theorem atTime_mem (t : Nat) : (atTime m t).mem = m.mem := rfl
@[simp] theorem atTime_tallies (t : Nat) : (atTime m t).tallies = m.tallies := rfl
@[simp] theorem atTime_ue (t : Nat) : (atTime m t).ue = m.ue := rfl
@[simp] theorem atTime_scrambled (t : Nat) : (atTime m t).scrambled = m.scrambled := rfl
@[simp] theorem atTime_chans (t : Nat) : (atTime m t).chans = m.chans := rfl
@[simp] theorem atTime_store (t : Nat) : (atTime m t).store = m.store := rfl
@[simp] theorem atTime_twin (t : Nat) : (atTime m t).twin = m.twin := rfl
@[simp] theorem atTime_links (t : Nat) : (atTime m t).links = m.links := rfl
@[simp] theorem atTime_focus (t : Nat) : (atTime m t).focus = m.focus := rfl
@[simp] theorem atTime_ctr (t : Nat) : (atTime m t).ctr = m.ctr := rfl
@[simp] theorem atTime_power (t : Nat) : (atTime m t).power = m.power := rfl
@[simp] theorem atTime_test (t : Nat) : (atTime m t).test = m.test := rfl
@[simp] theorem atTime_shifts (t : Nat) : (atTime m t).shifts = m.shifts := rfl
@[simp] theorem atTime_failWait (t : Nat) : (atTime m t).failWait = m.failWait := rfl
@[simp] theorem atTime_out (t : Nat) : (atTime m t).out = m.out := rfl
@[simp] theorem atTime_free (t : Nat) : (atTime m t).free = m.free := rfl

/-! regSet -/

@[simp] theorem regSet_now (off : Nat) (v : Word) : (regSet m off v).now = m.now := rfl
@[simp] theorem regSet_edges (off : Nat) (v : Word) : (regSet m off v).edges = m.edges := rfl
@[simp] theorem regSet_boot (off : Nat) (v : Word) : (regSet m off v).boot = m.boot := rfl
@[simp] theorem regSet_flash (off : Nat) (v : Word) : (regSet m off v).flash = m.flash := rfl
@[simp] theorem regSet_tick (off : Nat) (v : Word) : (regSet m off v).tick = m.tick := rfl
@[simp] theorem regSet_regs (off : Nat) (v : Word) : (regSet m off v).regs = kvSet (regReset off) m.regs off v := rfl
@[simp] theorem regSet_pend (off : Nat) (v : Word) : (regSet m off v).pend = m.pend := rfl
@[simp] theorem regSet_pendLate (off : Nat) (v : Word) : (regSet m off v).pendLate = m.pendLate := rfl
@[simp] theorem regSet_host (off : Nat) (v : Word) : (regSet m off v).host = m.host := rfl
@[simp] theorem regSet_descs (off : Nat) (v : Word) : (regSet m off v).descs = m.descs := rfl
@[simp] theorem regSet_copies (off : Nat) (v : Word) : (regSet m off v).copies = m.copies := rfl
@[simp] theorem regSet_jobs (off : Nat) (v : Word) : (regSet m off v).jobs = m.jobs := rfl
@[simp] theorem regSet_chords (off : Nat) (v : Word) : (regSet m off v).chords = m.chords := rfl
@[simp] theorem regSet_loads (off : Nat) (v : Word) : (regSet m off v).loads = m.loads := rfl
@[simp] theorem regSet_progs (off : Nat) (v : Word) : (regSet m off v).progs = m.progs := rfl
@[simp] theorem regSet_facets (off : Nat) (v : Word) : (regSet m off v).facets = m.facets := rfl
@[simp] theorem regSet_flights (off : Nat) (v : Word) : (regSet m off v).flights = m.flights := rfl
@[simp] theorem regSet_nextOp (off : Nat) (v : Word) : (regSet m off v).nextOp = m.nextOp := rfl
@[simp] theorem regSet_chordNet (off : Nat) (v : Word) : (regSet m off v).chordNet = m.chordNet := rfl
@[simp] theorem regSet_earlyChecks (off : Nat) (v : Word) : (regSet m off v).earlyChecks = m.earlyChecks := rfl
@[simp] theorem regSet_heldReqs (off : Nat) (v : Word) : (regSet m off v).heldReqs = m.heldReqs := rfl
@[simp] theorem regSet_mem (off : Nat) (v : Word) : (regSet m off v).mem = m.mem := rfl
@[simp] theorem regSet_tallies (off : Nat) (v : Word) : (regSet m off v).tallies = m.tallies := rfl
@[simp] theorem regSet_ue (off : Nat) (v : Word) : (regSet m off v).ue = m.ue := rfl
@[simp] theorem regSet_scrambled (off : Nat) (v : Word) : (regSet m off v).scrambled = m.scrambled := rfl
@[simp] theorem regSet_chans (off : Nat) (v : Word) : (regSet m off v).chans = m.chans := rfl
@[simp] theorem regSet_store (off : Nat) (v : Word) : (regSet m off v).store = m.store := rfl
@[simp] theorem regSet_twin (off : Nat) (v : Word) : (regSet m off v).twin = m.twin := rfl
@[simp] theorem regSet_links (off : Nat) (v : Word) : (regSet m off v).links = m.links := rfl
@[simp] theorem regSet_focus (off : Nat) (v : Word) : (regSet m off v).focus = m.focus := rfl
@[simp] theorem regSet_ctr (off : Nat) (v : Word) : (regSet m off v).ctr = m.ctr := rfl
@[simp] theorem regSet_power (off : Nat) (v : Word) : (regSet m off v).power = m.power := rfl
@[simp] theorem regSet_test (off : Nat) (v : Word) : (regSet m off v).test = m.test := rfl
@[simp] theorem regSet_shifts (off : Nat) (v : Word) : (regSet m off v).shifts = m.shifts := rfl
@[simp] theorem regSet_failWait (off : Nat) (v : Word) : (regSet m off v).failWait = m.failWait := rfl
@[simp] theorem regSet_out (off : Nat) (v : Word) : (regSet m off v).out = m.out := rfl
@[simp] theorem regSet_free (off : Nat) (v : Word) : (regSet m off v).free = m.free := rfl

/-! modSc -/

@[simp] theorem modSc_now (f c : Nat) (g : StageCtx → StageCtx) : (modSc m f c g).now = m.now := rfl
@[simp] theorem modSc_edges (f c : Nat) (g : StageCtx → StageCtx) : (modSc m f c g).edges = m.edges := rfl
@[simp] theorem modSc_boot (f c : Nat) (g : StageCtx → StageCtx) : (modSc m f c g).boot = m.boot := rfl
@[simp] theorem modSc_flash (f c : Nat) (g : StageCtx → StageCtx) : (modSc m f c g).flash = m.flash := rfl
@[simp] theorem modSc_tick (f c : Nat) (g : StageCtx → StageCtx) : (modSc m f c g).tick = m.tick := rfl
@[simp] theorem modSc_regs (f c : Nat) (g : StageCtx → StageCtx) : (modSc m f c g).regs = m.regs := rfl
@[simp] theorem modSc_pend (f c : Nat) (g : StageCtx → StageCtx) : (modSc m f c g).pend = m.pend := rfl
@[simp] theorem modSc_pendLate (f c : Nat) (g : StageCtx → StageCtx) : (modSc m f c g).pendLate = m.pendLate := rfl
@[simp] theorem modSc_host (f c : Nat) (g : StageCtx → StageCtx) : (modSc m f c g).host = m.host := rfl
@[simp] theorem modSc_descs (f c : Nat) (g : StageCtx → StageCtx) : (modSc m f c g).descs = m.descs := rfl
@[simp] theorem modSc_copies (f c : Nat) (g : StageCtx → StageCtx) : (modSc m f c g).copies = m.copies := rfl
@[simp] theorem modSc_jobs (f c : Nat) (g : StageCtx → StageCtx) : (modSc m f c g).jobs = m.jobs := rfl
@[simp] theorem modSc_chords (f c : Nat) (g : StageCtx → StageCtx) : (modSc m f c g).chords = m.chords := rfl
@[simp] theorem modSc_loads (f c : Nat) (g : StageCtx → StageCtx) : (modSc m f c g).loads = m.loads := rfl
@[simp] theorem modSc_progs (f c : Nat) (g : StageCtx → StageCtx) : (modSc m f c g).progs = m.progs := rfl
@[simp] theorem modSc_facets (f c : Nat) (g : StageCtx → StageCtx) : (modSc m f c g).facets = m.facets.modify f fun x => { x with scs := x.scs.modify c g } := rfl
@[simp] theorem modSc_flights (f c : Nat) (g : StageCtx → StageCtx) : (modSc m f c g).flights = m.flights := rfl
@[simp] theorem modSc_nextOp (f c : Nat) (g : StageCtx → StageCtx) : (modSc m f c g).nextOp = m.nextOp := rfl
@[simp] theorem modSc_chordNet (f c : Nat) (g : StageCtx → StageCtx) : (modSc m f c g).chordNet = m.chordNet := rfl
@[simp] theorem modSc_earlyChecks (f c : Nat) (g : StageCtx → StageCtx) : (modSc m f c g).earlyChecks = m.earlyChecks := rfl
@[simp] theorem modSc_heldReqs (f c : Nat) (g : StageCtx → StageCtx) : (modSc m f c g).heldReqs = m.heldReqs := rfl
@[simp] theorem modSc_mem (f c : Nat) (g : StageCtx → StageCtx) : (modSc m f c g).mem = m.mem := rfl
@[simp] theorem modSc_tallies (f c : Nat) (g : StageCtx → StageCtx) : (modSc m f c g).tallies = m.tallies := rfl
@[simp] theorem modSc_ue (f c : Nat) (g : StageCtx → StageCtx) : (modSc m f c g).ue = m.ue := rfl
@[simp] theorem modSc_scrambled (f c : Nat) (g : StageCtx → StageCtx) : (modSc m f c g).scrambled = m.scrambled := rfl
@[simp] theorem modSc_chans (f c : Nat) (g : StageCtx → StageCtx) : (modSc m f c g).chans = m.chans := rfl
@[simp] theorem modSc_store (f c : Nat) (g : StageCtx → StageCtx) : (modSc m f c g).store = m.store := rfl
@[simp] theorem modSc_twin (f c : Nat) (g : StageCtx → StageCtx) : (modSc m f c g).twin = m.twin := rfl
@[simp] theorem modSc_links (f c : Nat) (g : StageCtx → StageCtx) : (modSc m f c g).links = m.links := rfl
@[simp] theorem modSc_focus (f c : Nat) (g : StageCtx → StageCtx) : (modSc m f c g).focus = m.focus := rfl
@[simp] theorem modSc_ctr (f c : Nat) (g : StageCtx → StageCtx) : (modSc m f c g).ctr = m.ctr := rfl
@[simp] theorem modSc_power (f c : Nat) (g : StageCtx → StageCtx) : (modSc m f c g).power = m.power := rfl
@[simp] theorem modSc_test (f c : Nat) (g : StageCtx → StageCtx) : (modSc m f c g).test = m.test := rfl
@[simp] theorem modSc_shifts (f c : Nat) (g : StageCtx → StageCtx) : (modSc m f c g).shifts = m.shifts := rfl
@[simp] theorem modSc_failWait (f c : Nat) (g : StageCtx → StageCtx) : (modSc m f c g).failWait = m.failWait := rfl
@[simp] theorem modSc_out (f c : Nat) (g : StageCtx → StageCtx) : (modSc m f c g).out = m.out := rfl
@[simp] theorem modSc_free (f c : Nat) (g : StageCtx → StageCtx) : (modSc m f c g).free = m.free := rfl

/-! modPipe -/

@[simp] theorem modPipe_now (j p : Nat) (g : Pipe → Pipe) : (modPipe m j p g).now = m.now := rfl
@[simp] theorem modPipe_edges (j p : Nat) (g : Pipe → Pipe) : (modPipe m j p g).edges = m.edges := rfl
@[simp] theorem modPipe_boot (j p : Nat) (g : Pipe → Pipe) : (modPipe m j p g).boot = m.boot := rfl
@[simp] theorem modPipe_flash (j p : Nat) (g : Pipe → Pipe) : (modPipe m j p g).flash = m.flash := rfl
@[simp] theorem modPipe_tick (j p : Nat) (g : Pipe → Pipe) : (modPipe m j p g).tick = m.tick := rfl
@[simp] theorem modPipe_regs (j p : Nat) (g : Pipe → Pipe) : (modPipe m j p g).regs = m.regs := rfl
@[simp] theorem modPipe_pend (j p : Nat) (g : Pipe → Pipe) : (modPipe m j p g).pend = m.pend := rfl
@[simp] theorem modPipe_pendLate (j p : Nat) (g : Pipe → Pipe) : (modPipe m j p g).pendLate = m.pendLate := rfl
@[simp] theorem modPipe_host (j p : Nat) (g : Pipe → Pipe) : (modPipe m j p g).host = m.host := rfl
@[simp] theorem modPipe_descs (j p : Nat) (g : Pipe → Pipe) : (modPipe m j p g).descs = m.descs := rfl
@[simp] theorem modPipe_copies (j p : Nat) (g : Pipe → Pipe) : (modPipe m j p g).copies = m.copies := rfl
@[simp] theorem modPipe_jobs (j p : Nat) (g : Pipe → Pipe) : (modPipe m j p g).jobs = m.jobs.modify j fun x => { x with pipes := x.pipes.modify p g } := rfl
@[simp] theorem modPipe_chords (j p : Nat) (g : Pipe → Pipe) : (modPipe m j p g).chords = m.chords := rfl
@[simp] theorem modPipe_loads (j p : Nat) (g : Pipe → Pipe) : (modPipe m j p g).loads = m.loads := rfl
@[simp] theorem modPipe_progs (j p : Nat) (g : Pipe → Pipe) : (modPipe m j p g).progs = m.progs := rfl
@[simp] theorem modPipe_facets (j p : Nat) (g : Pipe → Pipe) : (modPipe m j p g).facets = m.facets := rfl
@[simp] theorem modPipe_flights (j p : Nat) (g : Pipe → Pipe) : (modPipe m j p g).flights = m.flights := rfl
@[simp] theorem modPipe_nextOp (j p : Nat) (g : Pipe → Pipe) : (modPipe m j p g).nextOp = m.nextOp := rfl
@[simp] theorem modPipe_chordNet (j p : Nat) (g : Pipe → Pipe) : (modPipe m j p g).chordNet = m.chordNet := rfl
@[simp] theorem modPipe_earlyChecks (j p : Nat) (g : Pipe → Pipe) : (modPipe m j p g).earlyChecks = m.earlyChecks := rfl
@[simp] theorem modPipe_heldReqs (j p : Nat) (g : Pipe → Pipe) : (modPipe m j p g).heldReqs = m.heldReqs := rfl
@[simp] theorem modPipe_mem (j p : Nat) (g : Pipe → Pipe) : (modPipe m j p g).mem = m.mem := rfl
@[simp] theorem modPipe_tallies (j p : Nat) (g : Pipe → Pipe) : (modPipe m j p g).tallies = m.tallies := rfl
@[simp] theorem modPipe_ue (j p : Nat) (g : Pipe → Pipe) : (modPipe m j p g).ue = m.ue := rfl
@[simp] theorem modPipe_scrambled (j p : Nat) (g : Pipe → Pipe) : (modPipe m j p g).scrambled = m.scrambled := rfl
@[simp] theorem modPipe_chans (j p : Nat) (g : Pipe → Pipe) : (modPipe m j p g).chans = m.chans := rfl
@[simp] theorem modPipe_store (j p : Nat) (g : Pipe → Pipe) : (modPipe m j p g).store = m.store := rfl
@[simp] theorem modPipe_twin (j p : Nat) (g : Pipe → Pipe) : (modPipe m j p g).twin = m.twin := rfl
@[simp] theorem modPipe_links (j p : Nat) (g : Pipe → Pipe) : (modPipe m j p g).links = m.links := rfl
@[simp] theorem modPipe_focus (j p : Nat) (g : Pipe → Pipe) : (modPipe m j p g).focus = m.focus := rfl
@[simp] theorem modPipe_ctr (j p : Nat) (g : Pipe → Pipe) : (modPipe m j p g).ctr = m.ctr := rfl
@[simp] theorem modPipe_power (j p : Nat) (g : Pipe → Pipe) : (modPipe m j p g).power = m.power := rfl
@[simp] theorem modPipe_test (j p : Nat) (g : Pipe → Pipe) : (modPipe m j p g).test = m.test := rfl
@[simp] theorem modPipe_shifts (j p : Nat) (g : Pipe → Pipe) : (modPipe m j p g).shifts = m.shifts := rfl
@[simp] theorem modPipe_failWait (j p : Nat) (g : Pipe → Pipe) : (modPipe m j p g).failWait = m.failWait := rfl
@[simp] theorem modPipe_out (j p : Nat) (g : Pipe → Pipe) : (modPipe m j p g).out = m.out := rfl
@[simp] theorem modPipe_free (j p : Nat) (g : Pipe → Pipe) : (modPipe m j p g).free = m.free := rfl

/-! modSnap -/

@[simp] theorem modSnap_now (j : Nat) (g : SnapDom → SnapDom) : (modSnap m j g).now = m.now := rfl
@[simp] theorem modSnap_edges (j : Nat) (g : SnapDom → SnapDom) : (modSnap m j g).edges = m.edges := rfl
@[simp] theorem modSnap_boot (j : Nat) (g : SnapDom → SnapDom) : (modSnap m j g).boot = m.boot := rfl
@[simp] theorem modSnap_flash (j : Nat) (g : SnapDom → SnapDom) : (modSnap m j g).flash = m.flash := rfl
@[simp] theorem modSnap_tick (j : Nat) (g : SnapDom → SnapDom) : (modSnap m j g).tick = m.tick := rfl
@[simp] theorem modSnap_regs (j : Nat) (g : SnapDom → SnapDom) : (modSnap m j g).regs = m.regs := rfl
@[simp] theorem modSnap_pend (j : Nat) (g : SnapDom → SnapDom) : (modSnap m j g).pend = m.pend := rfl
@[simp] theorem modSnap_pendLate (j : Nat) (g : SnapDom → SnapDom) : (modSnap m j g).pendLate = m.pendLate := rfl
@[simp] theorem modSnap_host (j : Nat) (g : SnapDom → SnapDom) : (modSnap m j g).host = m.host := rfl
@[simp] theorem modSnap_descs (j : Nat) (g : SnapDom → SnapDom) : (modSnap m j g).descs = m.descs := rfl
@[simp] theorem modSnap_copies (j : Nat) (g : SnapDom → SnapDom) : (modSnap m j g).copies = m.copies := rfl
@[simp] theorem modSnap_jobs (j : Nat) (g : SnapDom → SnapDom) : (modSnap m j g).jobs = m.jobs.modify j fun x => { x with snap := g x.snap } := rfl
@[simp] theorem modSnap_chords (j : Nat) (g : SnapDom → SnapDom) : (modSnap m j g).chords = m.chords := rfl
@[simp] theorem modSnap_loads (j : Nat) (g : SnapDom → SnapDom) : (modSnap m j g).loads = m.loads := rfl
@[simp] theorem modSnap_progs (j : Nat) (g : SnapDom → SnapDom) : (modSnap m j g).progs = m.progs := rfl
@[simp] theorem modSnap_facets (j : Nat) (g : SnapDom → SnapDom) : (modSnap m j g).facets = m.facets := rfl
@[simp] theorem modSnap_flights (j : Nat) (g : SnapDom → SnapDom) : (modSnap m j g).flights = m.flights := rfl
@[simp] theorem modSnap_nextOp (j : Nat) (g : SnapDom → SnapDom) : (modSnap m j g).nextOp = m.nextOp := rfl
@[simp] theorem modSnap_chordNet (j : Nat) (g : SnapDom → SnapDom) : (modSnap m j g).chordNet = m.chordNet := rfl
@[simp] theorem modSnap_earlyChecks (j : Nat) (g : SnapDom → SnapDom) : (modSnap m j g).earlyChecks = m.earlyChecks := rfl
@[simp] theorem modSnap_heldReqs (j : Nat) (g : SnapDom → SnapDom) : (modSnap m j g).heldReqs = m.heldReqs := rfl
@[simp] theorem modSnap_mem (j : Nat) (g : SnapDom → SnapDom) : (modSnap m j g).mem = m.mem := rfl
@[simp] theorem modSnap_tallies (j : Nat) (g : SnapDom → SnapDom) : (modSnap m j g).tallies = m.tallies := rfl
@[simp] theorem modSnap_ue (j : Nat) (g : SnapDom → SnapDom) : (modSnap m j g).ue = m.ue := rfl
@[simp] theorem modSnap_scrambled (j : Nat) (g : SnapDom → SnapDom) : (modSnap m j g).scrambled = m.scrambled := rfl
@[simp] theorem modSnap_chans (j : Nat) (g : SnapDom → SnapDom) : (modSnap m j g).chans = m.chans := rfl
@[simp] theorem modSnap_store (j : Nat) (g : SnapDom → SnapDom) : (modSnap m j g).store = m.store := rfl
@[simp] theorem modSnap_twin (j : Nat) (g : SnapDom → SnapDom) : (modSnap m j g).twin = m.twin := rfl
@[simp] theorem modSnap_links (j : Nat) (g : SnapDom → SnapDom) : (modSnap m j g).links = m.links := rfl
@[simp] theorem modSnap_focus (j : Nat) (g : SnapDom → SnapDom) : (modSnap m j g).focus = m.focus := rfl
@[simp] theorem modSnap_ctr (j : Nat) (g : SnapDom → SnapDom) : (modSnap m j g).ctr = m.ctr := rfl
@[simp] theorem modSnap_power (j : Nat) (g : SnapDom → SnapDom) : (modSnap m j g).power = m.power := rfl
@[simp] theorem modSnap_test (j : Nat) (g : SnapDom → SnapDom) : (modSnap m j g).test = m.test := rfl
@[simp] theorem modSnap_shifts (j : Nat) (g : SnapDom → SnapDom) : (modSnap m j g).shifts = m.shifts := rfl
@[simp] theorem modSnap_failWait (j : Nat) (g : SnapDom → SnapDom) : (modSnap m j g).failWait = m.failWait := rfl
@[simp] theorem modSnap_out (j : Nat) (g : SnapDom → SnapDom) : (modSnap m j g).out = m.out := rfl
@[simp] theorem modSnap_free (j : Nat) (g : SnapDom → SnapDom) : (modSnap m j g).free = m.free := rfl

/-! modRing -/

@[simp] theorem modRing_now (n : Nat) (g : Ring → Ring) : (modRing m n g).now = m.now := rfl
@[simp] theorem modRing_edges (n : Nat) (g : Ring → Ring) : (modRing m n g).edges = m.edges := rfl
@[simp] theorem modRing_boot (n : Nat) (g : Ring → Ring) : (modRing m n g).boot = m.boot := rfl
@[simp] theorem modRing_flash (n : Nat) (g : Ring → Ring) : (modRing m n g).flash = m.flash := rfl
@[simp] theorem modRing_tick (n : Nat) (g : Ring → Ring) : (modRing m n g).tick = m.tick := rfl
@[simp] theorem modRing_regs (n : Nat) (g : Ring → Ring) : (modRing m n g).regs = m.regs := rfl
@[simp] theorem modRing_pend (n : Nat) (g : Ring → Ring) : (modRing m n g).pend = m.pend := rfl
@[simp] theorem modRing_pendLate (n : Nat) (g : Ring → Ring) : (modRing m n g).pendLate = m.pendLate := rfl
@[simp] theorem modRing_host (n : Nat) (g : Ring → Ring) : (modRing m n g).host = { m.host with rings := m.host.rings.modify n g } := rfl
@[simp] theorem modRing_descs (n : Nat) (g : Ring → Ring) : (modRing m n g).descs = m.descs := rfl
@[simp] theorem modRing_copies (n : Nat) (g : Ring → Ring) : (modRing m n g).copies = m.copies := rfl
@[simp] theorem modRing_jobs (n : Nat) (g : Ring → Ring) : (modRing m n g).jobs = m.jobs := rfl
@[simp] theorem modRing_chords (n : Nat) (g : Ring → Ring) : (modRing m n g).chords = m.chords := rfl
@[simp] theorem modRing_loads (n : Nat) (g : Ring → Ring) : (modRing m n g).loads = m.loads := rfl
@[simp] theorem modRing_progs (n : Nat) (g : Ring → Ring) : (modRing m n g).progs = m.progs := rfl
@[simp] theorem modRing_facets (n : Nat) (g : Ring → Ring) : (modRing m n g).facets = m.facets := rfl
@[simp] theorem modRing_flights (n : Nat) (g : Ring → Ring) : (modRing m n g).flights = m.flights := rfl
@[simp] theorem modRing_nextOp (n : Nat) (g : Ring → Ring) : (modRing m n g).nextOp = m.nextOp := rfl
@[simp] theorem modRing_chordNet (n : Nat) (g : Ring → Ring) : (modRing m n g).chordNet = m.chordNet := rfl
@[simp] theorem modRing_earlyChecks (n : Nat) (g : Ring → Ring) : (modRing m n g).earlyChecks = m.earlyChecks := rfl
@[simp] theorem modRing_heldReqs (n : Nat) (g : Ring → Ring) : (modRing m n g).heldReqs = m.heldReqs := rfl
@[simp] theorem modRing_mem (n : Nat) (g : Ring → Ring) : (modRing m n g).mem = m.mem := rfl
@[simp] theorem modRing_tallies (n : Nat) (g : Ring → Ring) : (modRing m n g).tallies = m.tallies := rfl
@[simp] theorem modRing_ue (n : Nat) (g : Ring → Ring) : (modRing m n g).ue = m.ue := rfl
@[simp] theorem modRing_scrambled (n : Nat) (g : Ring → Ring) : (modRing m n g).scrambled = m.scrambled := rfl
@[simp] theorem modRing_chans (n : Nat) (g : Ring → Ring) : (modRing m n g).chans = m.chans := rfl
@[simp] theorem modRing_store (n : Nat) (g : Ring → Ring) : (modRing m n g).store = m.store := rfl
@[simp] theorem modRing_twin (n : Nat) (g : Ring → Ring) : (modRing m n g).twin = m.twin := rfl
@[simp] theorem modRing_links (n : Nat) (g : Ring → Ring) : (modRing m n g).links = m.links := rfl
@[simp] theorem modRing_focus (n : Nat) (g : Ring → Ring) : (modRing m n g).focus = m.focus := rfl
@[simp] theorem modRing_ctr (n : Nat) (g : Ring → Ring) : (modRing m n g).ctr = m.ctr := rfl
@[simp] theorem modRing_power (n : Nat) (g : Ring → Ring) : (modRing m n g).power = m.power := rfl
@[simp] theorem modRing_test (n : Nat) (g : Ring → Ring) : (modRing m n g).test = m.test := rfl
@[simp] theorem modRing_shifts (n : Nat) (g : Ring → Ring) : (modRing m n g).shifts = m.shifts := rfl
@[simp] theorem modRing_failWait (n : Nat) (g : Ring → Ring) : (modRing m n g).failWait = m.failWait := rfl
@[simp] theorem modRing_out (n : Nat) (g : Ring → Ring) : (modRing m n g).out = m.out := rfl
@[simp] theorem modRing_free (n : Nat) (g : Ring → Ring) : (modRing m n g).free = m.free := rfl

/-! modEp -/

@[simp] theorem modEp_now (e : Nat) (g : Endpoint → Endpoint) : (modEp m e g).now = m.now := rfl
@[simp] theorem modEp_edges (e : Nat) (g : Endpoint → Endpoint) : (modEp m e g).edges = m.edges := rfl
@[simp] theorem modEp_boot (e : Nat) (g : Endpoint → Endpoint) : (modEp m e g).boot = m.boot := rfl
@[simp] theorem modEp_flash (e : Nat) (g : Endpoint → Endpoint) : (modEp m e g).flash = m.flash := rfl
@[simp] theorem modEp_tick (e : Nat) (g : Endpoint → Endpoint) : (modEp m e g).tick = m.tick := rfl
@[simp] theorem modEp_regs (e : Nat) (g : Endpoint → Endpoint) : (modEp m e g).regs = m.regs := rfl
@[simp] theorem modEp_pend (e : Nat) (g : Endpoint → Endpoint) : (modEp m e g).pend = m.pend := rfl
@[simp] theorem modEp_pendLate (e : Nat) (g : Endpoint → Endpoint) : (modEp m e g).pendLate = m.pendLate := rfl
@[simp] theorem modEp_host (e : Nat) (g : Endpoint → Endpoint) : (modEp m e g).host = { m.host with eps := m.host.eps.modify e g } := rfl
@[simp] theorem modEp_descs (e : Nat) (g : Endpoint → Endpoint) : (modEp m e g).descs = m.descs := rfl
@[simp] theorem modEp_copies (e : Nat) (g : Endpoint → Endpoint) : (modEp m e g).copies = m.copies := rfl
@[simp] theorem modEp_jobs (e : Nat) (g : Endpoint → Endpoint) : (modEp m e g).jobs = m.jobs := rfl
@[simp] theorem modEp_chords (e : Nat) (g : Endpoint → Endpoint) : (modEp m e g).chords = m.chords := rfl
@[simp] theorem modEp_loads (e : Nat) (g : Endpoint → Endpoint) : (modEp m e g).loads = m.loads := rfl
@[simp] theorem modEp_progs (e : Nat) (g : Endpoint → Endpoint) : (modEp m e g).progs = m.progs := rfl
@[simp] theorem modEp_facets (e : Nat) (g : Endpoint → Endpoint) : (modEp m e g).facets = m.facets := rfl
@[simp] theorem modEp_flights (e : Nat) (g : Endpoint → Endpoint) : (modEp m e g).flights = m.flights := rfl
@[simp] theorem modEp_nextOp (e : Nat) (g : Endpoint → Endpoint) : (modEp m e g).nextOp = m.nextOp := rfl
@[simp] theorem modEp_chordNet (e : Nat) (g : Endpoint → Endpoint) : (modEp m e g).chordNet = m.chordNet := rfl
@[simp] theorem modEp_earlyChecks (e : Nat) (g : Endpoint → Endpoint) : (modEp m e g).earlyChecks = m.earlyChecks := rfl
@[simp] theorem modEp_heldReqs (e : Nat) (g : Endpoint → Endpoint) : (modEp m e g).heldReqs = m.heldReqs := rfl
@[simp] theorem modEp_mem (e : Nat) (g : Endpoint → Endpoint) : (modEp m e g).mem = m.mem := rfl
@[simp] theorem modEp_tallies (e : Nat) (g : Endpoint → Endpoint) : (modEp m e g).tallies = m.tallies := rfl
@[simp] theorem modEp_ue (e : Nat) (g : Endpoint → Endpoint) : (modEp m e g).ue = m.ue := rfl
@[simp] theorem modEp_scrambled (e : Nat) (g : Endpoint → Endpoint) : (modEp m e g).scrambled = m.scrambled := rfl
@[simp] theorem modEp_chans (e : Nat) (g : Endpoint → Endpoint) : (modEp m e g).chans = m.chans := rfl
@[simp] theorem modEp_store (e : Nat) (g : Endpoint → Endpoint) : (modEp m e g).store = m.store := rfl
@[simp] theorem modEp_twin (e : Nat) (g : Endpoint → Endpoint) : (modEp m e g).twin = m.twin := rfl
@[simp] theorem modEp_links (e : Nat) (g : Endpoint → Endpoint) : (modEp m e g).links = m.links := rfl
@[simp] theorem modEp_focus (e : Nat) (g : Endpoint → Endpoint) : (modEp m e g).focus = m.focus := rfl
@[simp] theorem modEp_ctr (e : Nat) (g : Endpoint → Endpoint) : (modEp m e g).ctr = m.ctr := rfl
@[simp] theorem modEp_power (e : Nat) (g : Endpoint → Endpoint) : (modEp m e g).power = m.power := rfl
@[simp] theorem modEp_test (e : Nat) (g : Endpoint → Endpoint) : (modEp m e g).test = m.test := rfl
@[simp] theorem modEp_shifts (e : Nat) (g : Endpoint → Endpoint) : (modEp m e g).shifts = m.shifts := rfl
@[simp] theorem modEp_failWait (e : Nat) (g : Endpoint → Endpoint) : (modEp m e g).failWait = m.failWait := rfl
@[simp] theorem modEp_out (e : Nat) (g : Endpoint → Endpoint) : (modEp m e g).out = m.out := rfl
@[simp] theorem modEp_free (e : Nat) (g : Endpoint → Endpoint) : (modEp m e g).free = m.free := rfl

/-! modCore -/

@[simp] theorem modCore_now (c : Nat) (g : CoreFocus → CoreFocus) : (modCore m c g).now = m.now := rfl
@[simp] theorem modCore_edges (c : Nat) (g : CoreFocus → CoreFocus) : (modCore m c g).edges = m.edges := rfl
@[simp] theorem modCore_boot (c : Nat) (g : CoreFocus → CoreFocus) : (modCore m c g).boot = m.boot := rfl
@[simp] theorem modCore_flash (c : Nat) (g : CoreFocus → CoreFocus) : (modCore m c g).flash = m.flash := rfl
@[simp] theorem modCore_tick (c : Nat) (g : CoreFocus → CoreFocus) : (modCore m c g).tick = m.tick := rfl
@[simp] theorem modCore_regs (c : Nat) (g : CoreFocus → CoreFocus) : (modCore m c g).regs = m.regs := rfl
@[simp] theorem modCore_pend (c : Nat) (g : CoreFocus → CoreFocus) : (modCore m c g).pend = m.pend := rfl
@[simp] theorem modCore_pendLate (c : Nat) (g : CoreFocus → CoreFocus) : (modCore m c g).pendLate = m.pendLate := rfl
@[simp] theorem modCore_host (c : Nat) (g : CoreFocus → CoreFocus) : (modCore m c g).host = m.host := rfl
@[simp] theorem modCore_descs (c : Nat) (g : CoreFocus → CoreFocus) : (modCore m c g).descs = m.descs := rfl
@[simp] theorem modCore_copies (c : Nat) (g : CoreFocus → CoreFocus) : (modCore m c g).copies = m.copies := rfl
@[simp] theorem modCore_jobs (c : Nat) (g : CoreFocus → CoreFocus) : (modCore m c g).jobs = m.jobs := rfl
@[simp] theorem modCore_chords (c : Nat) (g : CoreFocus → CoreFocus) : (modCore m c g).chords = m.chords := rfl
@[simp] theorem modCore_loads (c : Nat) (g : CoreFocus → CoreFocus) : (modCore m c g).loads = m.loads := rfl
@[simp] theorem modCore_progs (c : Nat) (g : CoreFocus → CoreFocus) : (modCore m c g).progs = m.progs := rfl
@[simp] theorem modCore_facets (c : Nat) (g : CoreFocus → CoreFocus) : (modCore m c g).facets = m.facets := rfl
@[simp] theorem modCore_flights (c : Nat) (g : CoreFocus → CoreFocus) : (modCore m c g).flights = m.flights := rfl
@[simp] theorem modCore_nextOp (c : Nat) (g : CoreFocus → CoreFocus) : (modCore m c g).nextOp = m.nextOp := rfl
@[simp] theorem modCore_chordNet (c : Nat) (g : CoreFocus → CoreFocus) : (modCore m c g).chordNet = m.chordNet := rfl
@[simp] theorem modCore_earlyChecks (c : Nat) (g : CoreFocus → CoreFocus) : (modCore m c g).earlyChecks = m.earlyChecks := rfl
@[simp] theorem modCore_heldReqs (c : Nat) (g : CoreFocus → CoreFocus) : (modCore m c g).heldReqs = m.heldReqs := rfl
@[simp] theorem modCore_mem (c : Nat) (g : CoreFocus → CoreFocus) : (modCore m c g).mem = m.mem := rfl
@[simp] theorem modCore_tallies (c : Nat) (g : CoreFocus → CoreFocus) : (modCore m c g).tallies = m.tallies := rfl
@[simp] theorem modCore_ue (c : Nat) (g : CoreFocus → CoreFocus) : (modCore m c g).ue = m.ue := rfl
@[simp] theorem modCore_scrambled (c : Nat) (g : CoreFocus → CoreFocus) : (modCore m c g).scrambled = m.scrambled := rfl
@[simp] theorem modCore_chans (c : Nat) (g : CoreFocus → CoreFocus) : (modCore m c g).chans = m.chans := rfl
@[simp] theorem modCore_store (c : Nat) (g : CoreFocus → CoreFocus) : (modCore m c g).store = m.store := rfl
@[simp] theorem modCore_twin (c : Nat) (g : CoreFocus → CoreFocus) : (modCore m c g).twin = m.twin := rfl
@[simp] theorem modCore_links (c : Nat) (g : CoreFocus → CoreFocus) : (modCore m c g).links = m.links := rfl
@[simp] theorem modCore_focus (c : Nat) (g : CoreFocus → CoreFocus) : (modCore m c g).focus = { m.focus with cores := m.focus.cores.modify c g } := rfl
@[simp] theorem modCore_ctr (c : Nat) (g : CoreFocus → CoreFocus) : (modCore m c g).ctr = m.ctr := rfl
@[simp] theorem modCore_power (c : Nat) (g : CoreFocus → CoreFocus) : (modCore m c g).power = m.power := rfl
@[simp] theorem modCore_test (c : Nat) (g : CoreFocus → CoreFocus) : (modCore m c g).test = m.test := rfl
@[simp] theorem modCore_shifts (c : Nat) (g : CoreFocus → CoreFocus) : (modCore m c g).shifts = m.shifts := rfl
@[simp] theorem modCore_failWait (c : Nat) (g : CoreFocus → CoreFocus) : (modCore m c g).failWait = m.failWait := rfl
@[simp] theorem modCore_out (c : Nat) (g : CoreFocus → CoreFocus) : (modCore m c g).out = m.out := rfl
@[simp] theorem modCore_free (c : Nat) (g : CoreFocus → CoreFocus) : (modCore m c g).free = m.free := rfl

end Sys2Proof.Machine
end

