-- ==== Sys2Proof/Laws/Commands.lean ====
section
/-!
SUPPORT. What a command can do (`act`, `actReady`, `exec`), and what the shared operations that raise events and write
records change.
-/
namespace Sys2Proof.Machine

@[simp] theorem act_exists (f : Mach → Mach) (s : State) : act true f s = .next { s with m := f s.m } := rfl
@[simp] theorem act_missing (f : Mach → Mach) (s : State) : act false f s = .next s := rfl

theorem atReady_ready {m : Mach} (f : Mach → Mach) (h : m.boot.state = 3) : atReady f m = f m := if_pos h
theorem atReady_other {m : Mach} (f : Mach → Mach) (h : m.boot.state ≠ 3) : atReady f m = m := if_neg h

theorem actReady_ready {s : State} (f : Mach → Mach) (h : Ready s) : actReady true f s = .next { s with m := f s.m } := by
  simp only [actReady, act_exists, atReady_ready f h]

theorem actReady_other {s : State} (f : Mach → Mach) (h : ¬Ready s) : actReady true f s = .next s := by
  simp only [actReady, act_exists, atReady_other f h]

@[simp] theorem onlyIf_true (f : Mach → Mach) (m : Mach) : onlyIf true f m = f m := rfl
@[simp] theorem onlyIf_false (f : Mach → Mach) (m : Mach) : onlyIf false f m = m := rfl

/-- Every command has the form that `Laws.Form` states. -/
theorem exec_form (c : Instr) : Laws.Form.Statement c := by
  cases c <;> exact ⟨_, fun _ => rfl⟩

/-! ### Frames -/

theorem setSticky_frame (m : Mach) (code : Nat) : { setSticky m code with regs := m.regs } = m := by
  unfold setSticky
  split
  · split <;> rfl
  · rfl

theorem enqueue_frame (m : Mach) (r : EvRec) : { enqueue m r with regs := m.regs, focus := m.focus } = m := by
  unfold enqueue
  split
  · rfl
  · dsimp only
    split
    · rfl
    · simp only [modFocus, setSticky]
      split
      · split <;> rfl
      · rfl

/-- An event changes event registers and focus, nothing else. -/
theorem raise_frame (m : Mach) (code src : Nat) (job : Option Nat) (d : List Nat) :
    { raise m code src job d with regs := m.regs, focus := m.focus } = m := by
  have h1 := setSticky_frame m code
  unfold raise
  split
  · rfl
  · dsimp only
    split
    · have h2 := enqueue_frame (setSticky m code) ⟨code, src, bf (regGet (setSticky m code) (offSrc src)).toNat 4 1, job, d,
        (stamp (setSticky m code)).1, (stamp (setSticky m code)).2, (setSticky m code).now⟩
      generalize enqueue (setSticky m code) _ = x at h2 ⊢
      generalize setSticky m code = y at h1 h2
      cases x; cases y; cases m
      simp_all
    · generalize setSticky m code = y at h1
      cases y; cases m
      simp_all

end Sys2Proof.Machine
end

