-- ==== Sys2Proof/Laws/Maps.lean ====
section
/-!
SUPPORT. The sparse maps of `Machine/Regs.lean`: what a store does to a read, and that it keeps the canonical form.
-/
namespace Sys2Proof.Machine

variable {α : Type}

@[simp] theorem kvGet_nil (d : α) (x : Nat) : kvGet d [] x = d := rfl

theorem kvFrom_mono {lo lo' : Nat} (h : lo' ≤ lo) : ∀ l : List (Nat × α), kvFrom lo l = true → kvFrom lo' l = true
  | [], _ => rfl
  | (k, _) :: _, hl => by simp only [kvFrom, decide_eq_true_eq] at *; omega

/-- Below the first key nothing is listed. -/
theorem kvGet_below [DecidableEq α] (d : α) : ∀ (l : List (Nat × α)) (x : Nat),
    kvWf d l = true → kvFrom (x + 1) l = true → kvGet d l x = d
  | [], _, _, _ => rfl
  | (k, v) :: t, x, hw, hf => by
    simp only [kvWf, kvFrom, Bool.and_eq_true, decide_eq_true_eq] at hw hf
    simp only [kvGet]
    rw [if_neg (by omega)]
    exact kvGet_below d t x hw.2 (kvFrom_mono (by omega) t hw.1.2)

/-- A store keeps the lower bound of the keys. -/
theorem kvFrom_kvSet [DecidableEq α] (d : α) (lo : Nat) : ∀ (l : List (Nat × α)) (x : Nat) (v : α),
    kvWf d l = true → kvFrom lo l = true → lo ≤ x → kvFrom lo (kvSet d l x v) = true
  | [], x, v, _, _, h => by
    simp only [kvSet]
    split <;> simp [kvFrom, h]
  | (k, w) :: t, x, v, hw, hf, h => by
    simp only [kvWf, kvFrom, Bool.and_eq_true, decide_eq_true_eq] at hw hf
    simp only [kvSet]
    split
    · split <;> simp [kvFrom, h, hf]
    · split
      · split
        · exact kvFrom_mono (by omega) t hw.1.2
        · simp [kvFrom, hf]
      · simp [kvFrom, hf]

/-- A store keeps the canonical form. -/
theorem kvWf_kvSet [DecidableEq α] (d : α) : ∀ (l : List (Nat × α)) (x : Nat) (v : α),
    kvWf d l = true → kvWf d (kvSet d l x v) = true
  | [], x, v, _ => by
    simp only [kvSet]
    split <;> simp [kvWf, kvFrom, *]
  | (k, w) :: t, x, v, hw => by
    have hw' := hw
    simp only [kvWf, Bool.and_eq_true, decide_eq_true_eq] at hw
    simp only [kvSet]
    split
    · next hx =>
      split
      · exact hw'
      · next hv =>
        simp only [kvWf, kvFrom, Bool.and_eq_true, decide_eq_true_eq]
        exact ⟨⟨hv, by omega⟩, hw⟩
    · next hx =>
      split
      · split
        · exact hw.2
        · next hv => simp [kvWf, hv, hw]
      · next hne =>
        simp only [kvWf, Bool.and_eq_true, decide_eq_true_eq]
        exact ⟨⟨hw.1.1, kvFrom_kvSet d (k + 1) t x v hw.2 hw.1.2 (by omega)⟩, kvWf_kvSet d t x v hw.2⟩

/-- A read after a store. -/
theorem kvGet_kvSet [DecidableEq α] (d : α) : ∀ (l : List (Nat × α)) (x y : Nat) (v : α),
    kvWf d l = true → kvGet d (kvSet d l x v) y = if y = x then v else kvGet d l y
  | [], x, y, v, _ => by
    simp only [kvSet]
    split <;> simp_all [kvGet]
  | (k, w) :: t, x, y, v, hw => by
    have hw' := hw
    simp only [kvWf, Bool.and_eq_true, decide_eq_true_eq] at hw
    simp only [kvSet]
    split
    · next hx =>
      have hb : kvGet d ((k, w) :: t) x = d := kvGet_below d _ x hw' (by simp [kvFrom]; omega)
      split
      · next hv =>
        split
        · next hy => subst hy; rw [hb, hv]
        · rfl
      · simp only [kvGet]
    · next hx =>
      split
      · next hk =>
        subst hk
        have hb : kvGet d t x = d := kvGet_below d t x hw.2 hw.1.2
        split
        · next hv =>
          by_cases hy : y = x
          · subst hy; simp [hb, hv]
          · simp [kvGet, hy]
        · by_cases hy : y = x <;> simp [kvGet, hy]
      · next hk =>
        simp only [kvGet]
        rw [kvGet_kvSet d t x y v hw.2]
        by_cases hyk : y = k
        · simp [hyk, Ne.symm hk]
        · simp [hyk]

/-- Dropping entries keeps the canonical form. -/
theorem kvWf_filter [DecidableEq α] (d : α) (p : Nat × α → Bool) : ∀ l : List (Nat × α),
    kvWf d l = true → kvWf d (l.filter p) = true ∧ ∀ lo, kvFrom lo l = true → kvFrom lo (l.filter p) = true
  | [], _ => by simp [kvWf]
  | (k, v) :: t, hw => by
    simp only [kvWf, Bool.and_eq_true, decide_eq_true_eq] at hw
    have ih := kvWf_filter d p t hw.2
    simp only [List.filter_cons]
    split
    · refine ⟨?_, fun lo h => by simpa [kvFrom] using h⟩
      simp only [kvWf, Bool.and_eq_true, decide_eq_true_eq]
      exact ⟨⟨hw.1.1, ih.2 _ hw.1.2⟩, ih.1⟩
    · refine ⟨ih.1, fun lo h => ih.2 lo ?_⟩
      simp only [kvFrom, decide_eq_true_eq] at h
      exact kvFrom_mono (by omega) t hw.1.2

end Sys2Proof.Machine
end

