-- ==== Sys2Proof/Laws/Memory.lean ====
section
/-!
SUPPORT. Memory and tallies: every operation keeps the canonical form, and a store changes the bytes it names and no
other byte.
-/
namespace Sys2Proof.Machine

theorem storeBytes_wf : ∀ (bs : List Byte) (l : List Host.Cell) (k : Nat),
    Memory.wf l = true → Memory.wf (storeBytes l k bs) = true
  | [], _, _, h => h
  | b :: t, l, k, h => storeBytes_wf t _ (k + 1) (kvWf_kvSet memDefault l k b h)

/-- A run of bytes read back. -/
theorem storeBytes_get : ∀ (bs : List Byte) (l : List Host.Cell) (k y : Nat), Memory.wf l = true →
    kvGet memDefault (storeBytes l k bs) y =
      if k ≤ y ∧ y < k + bs.length then bs.getD (y - k) 0 else kvGet memDefault l y
  | [], _, k, y, _ => by
    have : ¬(k ≤ y ∧ y < k) := by omega
    simp [storeBytes, this]
  | b :: t, l, k, y, h => by
    rw [storeBytes, storeBytes_get t _ (k + 1) y (kvWf_kvSet memDefault l k b h), kvGet_kvSet memDefault l k y b h]
    by_cases hk : y = k
    · subst hk
      have h1 : ¬(y + 1 ≤ y ∧ y < y + 1 + t.length) := by omega
      simp [h1]
    · by_cases hin : k + 1 ≤ y ∧ y < k + 1 + t.length
      · have h2 : k ≤ y ∧ y < k + (b :: t).length := by simp only [List.length_cons]; omega
        rw [if_pos hin, if_pos h2]
        obtain ⟨n, rfl⟩ : ∃ n, y = k + 1 + n := ⟨y - (k + 1), by omega⟩
        have e1 : k + 1 + n - (k + 1) = n := by omega
        have e2 : k + 1 + n - k = n + 1 := by omega
        rw [e1, e2, List.getD_cons_succ]
      · have h2 : ¬(k ≤ y ∧ y < k + (b :: t).length) := by simp only [List.length_cons]; omega
        rw [if_neg hin, if_neg h2, if_neg hk]

theorem foldl_store_wf (sz : Nat → Nat) : ∀ (us : List Nat) (l : List Host.Cell), Memory.wf l = true →
    Memory.wf (us.foldl (fun l u => storeBytes l u (List.replicate (sz u) 0xFF)) l) = true
  | [], _, h => h
  | u :: t, l, h => foldl_store_wf sz t _ (storeBytes_wf _ l u h)

/-- Filling units leaves every byte outside them. -/
theorem foldl_store_get (sz : Nat → Nat) (y : Nat) : ∀ (us : List Nat) (l : List Host.Cell), Memory.wf l = true →
    (∀ u ∈ us, ¬(u ≤ y ∧ y < u + sz u)) →
    kvGet memDefault (us.foldl (fun l u => storeBytes l u (List.replicate (sz u) 0xFF)) l) y = kvGet memDefault l y
  | [], _, _, _ => rfl
  | u :: t, l, h, ho => by
    rw [List.foldl_cons, foldl_store_get sz y t _ (storeBytes_wf _ l u h) fun v hv => ho v (List.mem_cons_of_mem u hv),
      storeBytes_get _ l u y h, if_neg (by simpa using ho u List.mem_cons_self)]

theorem writeMem_wf (m : Mach) (f sp off : Nat) (bs : List Byte) (h : Memory.wf m.mem = true) :
    Memory.wf (writeMem m f sp off bs).mem = true :=
  storeBytes_wf _ _ _ (foldl_store_wf _ _ _ h)

theorem loseMem_wf (m : Mach) (f sp off n : Nat) (h : Memory.wf m.mem = true) :
    Memory.wf (loseMem m f sp off n).mem = true := by
  unfold loseMem
  split
  · exact h
  · exact (kvWf_filter memDefault _ m.mem h).1

theorem tallySet_wf (m : Mach) (f t : Nat) (v : W32) (h : kvWf (0 : W32) m.tallies = true) :
    kvWf (0 : W32) (tallySet m f t v).tallies = true :=
  kvWf_kvSet _ _ _ _ h

end Sys2Proof.Machine
end

