-- ==== Sys2Proof/Tests/Slice0.lean ====
section
/-!
SUPPORT. Tests: ill-formed commands that the check refuses; for every statement with hypotheses, states and operands that
meet them, at boundary values of their ranges; and small checks of single commands against the spec's own figures.
-/
namespace Sys2Proof.Tests
set_option Elab.async false
open Sys2Proof Sys2Proof.Machine

/-! ### Helpers: small states built from reset -/

/-- The module READY, everything else as at reset. -/
def rdy : Mach := { State.reset.m with boot := { Boot.init with state := 3 } }

def on (m : Mach) : State := ⟨m, []⟩

/-- The module after a command, from a state with no other command waiting. -/
def after (c : Instr) (m : Mach) : Mach := match exec c (on m) with | .next t => t.m | _ => m

/-- A record with fields given as low bit and value. -/
def rc (fields : List (Nat × Nat)) : Rec := BitVec.ofNat 512 (fields.foldl (fun a e => a + 2 ^ e.1 * e.2) 0)

/-- A descriptor of ring 0 at index 0: opcode, FMT 1, KIND 0, and more fields. -/
def dsc (op : Nat) (fields : List (Nat × Nat)) (image : List Byte := []) : DescIn :=
  ⟨0, 0, rc ([(0, op), (8, 1)] ++ fields), .bytes image⟩

/-- Job 0 admitted with a key; ring 0 an ADMIN ring. -/
def adm : Mach := regSet (modJob rdy 0 fun j => { j with admitted := true }) (offRingCtl 0) (word 5)

/-- A number given by fields. -/
def num (fields : List (Nat × Nat)) : Nat := fields.foldl (fun a e => a + 2 ^ e.1 * e.2) 0

/-- `adm` with a host window and a lattice window of job 0 over everything, in both directions. -/
def win : Mach :=
  let m := regSet (regSet adm (offHwin 0 0) 7) (offHwin 0 0 + 8) (word (2 ^ 40))
  let m := regSet m (offLwin 0 0) (word (num [(0, 0x1F), (12, 0), (19, 127), (32, 0), (44, 4095)]))
  regSet (regSet m (offLwin 0 0 + 8) 0xFFFF) (offLwin 0 0 + 0x18) (word (2 ^ 40))

def sym0 : TickSym := ⟨8, 0, 0, 0, 0, 0, 1000, 100000, 0, 1, 0, 0, false, false, false⟩

/-- A stage-context entry of pipeline 3 on stage context 3 of facet 95. -/
def ent : MapSc := ⟨100, 0, 0, 0, 0, 0, 0, 3, false, 3, 95⟩

def mb0 : MbInfo := ⟨5, 7, 10, 0, 0, 1, 0, 3, 0, false⟩

/-- A running slot with the given units. -/
def slot (units : List WorkUnit) : SlotRun :=
  { tick := 0, startAt := 0, units := units, unitIdx := 0, recIdx := 0, resume := 0, recomp := false, inFlight := 0, sends := []
    finished := 0, away := 0, tokens := [], wait := .none, waves := [], actWait := false, slipped := false, fetched := false
    fetchFor := none, fetching := 0 }

/-- Stage context 3 of facet 95 runs a slot of job 0 with the given program. -/
def runs (prog : List Rec) (units : List WorkUnit) : Mach :=
  modSc win 95 3 fun x => { x with owner := some (0, ent), prog := prog, run := some (slot units) }

/-- Chord 1023 from facet 0 to facet 95 of this module, depth 4. -/
def chd : Chord :=
  { job := 0, e := ⟨4096, 0, 1, 4095, 4094, 0, 0, 1, false, 63, 0, 3, 95, 0, 0, 0, 0, 3, 1023⟩, txSeq := 1, sent := [(0, 5)], waiting := []
    waitFrom := none, waitRaised := false, waitAt := 0, reserved := false, paid := 0, rxSeq := 0, queue := [], taken := 0, closed := false, checked := false
    farKeep := none, asked := false }

/-- A prism command of one element: FP32 in and out. -/
def prec : Rec := rc [(0, 1), (14, 0), (18, 0), (30, 1), (40, 1), (60, 1), (80, 1), (112, 4), (132, 4), (172, 4), (290, 1024)]

/-- A ray command: NEG-like single-operand operation 0 on one row of 16 elements. -/
def yrec : Rec := rc [(0, 2), (8, 0), (31, 5), (60, 16), (40, 1), (120, 8), (160, 8), (252, 1024)]

/-- A launch of 8 strands, 10 steps, 1 wait, 4,096 bytes. -/
def lrec : Rec := rc [(0, 3), (16, 7), (32, 8), (96, 10), (120, 1), (136, 1), (152, 4096)]

def fwd : WorkUnit := ⟨0, mb0, none⟩

def grp (prog : List Word) : Group := ⟨0, 3, 0, lrec, prog, 8, 0, 0, none, 0, false, []⟩

/-- Strand 16,383 of group 0. -/
def str : Strand := ⟨16383, 0, 0, List.replicate 16 0, 0, 0, 0, 0, 0, .run⟩

/-- Facet 95 runs strand 16,383 at an instruction word. -/
def strands (w : Word) (a : Strand) : Mach :=
  modFacet (runs [lrec] [fwd]) 95 fun x => { x with groups := [grp [w]], strands := [a], nextGroup := 1 }

/-- An instruction word: opcode, SIZE, MOD and more fields. -/
def iw (op sz md : Nat) (fields : List (Nat × Nat) := []) : Word := word (num ([(56, op), (36, sz), (32, md)] ++ fields))

/-- The gather, setup and values of an update. -/
def setup0 : UpdSetup := ⟨true, false, false, 0, 0, 0, 0, [], [], [(95, 3, 100)]⟩
def vals0 : UpdValues := ⟨0, 0, 1, 0, 0, 0, 0, []⟩

/-- Job 0 trains on stage context 3 of facet 95: one layer of one unit, version 7 PUBLISHED, the automatic version 8 building. -/
def trn (prog : List Rec) : Mach :=
  let m := runs prog [⟨1, { mb0 with back := true }, none⟩]
  let m := modJob m 0 fun j => { j with maps := List.replicate 6 (some ⟨0, [ent], [], [], []⟩) }
  let m := modPipe m 0 3 fun x => { x with sched := some ⟨false, 0, 1, 0, [], 0⟩, setup := some setup0 }
  modSc m 95 3 fun x => { x with
    gradBase := some 100
    locus := { Locus.init with
      installed := true, nLayers := 1, layers := [⟨false, 1, 0, false⟩]
      entries := [{ VerEntry.init with state := 3, vtag := 7, pipe := 3, base := 10, size := 1, space := 1 },
        { VerEntry.init with state := 1, vtag := 8, pipe := 3, source := 2, srcTag := 7, base := 20, size := 1, space := 1 },
        VerEntry.init, VerEntry.init] } }

/-- A channel of job 0, pipeline 3, with this module and module 1. -/
def chn : Channel := { Channel.init with en := true, pipe := 3, members := [(0, 63, 0), (1, 4, 0)], layers := [⟨0, 0, 0, 0, 0, 0, 0⟩] }

/-! ### The check refuses every command that names a unit the module does not have, at the first number past its range -/

/-- Units past the end of their range. -/
theorem test_ill_formed_1 : ∀ c ∈ ([
    .registerWrite ⟨2, 0, 8, 0, none⟩, .w1cClear 14 0 0, .jobKey 16 0 0 0, .ringEnable 35 0, .ringDisable 35 0,
    .ringPort 35 0, .ringPort 0 2, .doorbellReadDone 2 none, .descriptorFetch 32 none, .heldCompletionWrite 32,
    .coalesceTimeout 34, .msixUnmask 2 0, .msixUnmask 0 64, .portDown 2, .endpointReset 2 .perst,
    .nop ⟨32, 0, 0, .error []⟩, .setField ⟨32, 0, 0, .error []⟩, .copy ⟨32, 0, 0, .error []⟩,
    .copyDone 32 0 (.error []), .mapLoad ⟨32, 0, 0, .error []⟩, .schedLoad ⟨32, 0, 0, .error []⟩,
    .mbAdmit ⟨32, 0, 0, .error []⟩, .verBuildAlloc ⟨32, 0, 0, .error []⟩, .verBuildSeal ⟨32, 0, 0, .error []⟩,
    .verBuildFree ⟨32, 0, 0, .error []⟩, .crcReadDone 104 0 0, .crcReadDone 0 4 0, .crcReadDone 0 0 4,
    .verPublish ⟨32, 0, 0, .error []⟩, .modelLoad ⟨32, 0, 0, .error []⟩, .modelLoadDone 32 0,
    .progLoad ⟨32, 0, 0, .error []⟩, .progLoadFree ⟨32, 0, 0, .error []⟩, .foldSetup ⟨32, 0, 0, .error []⟩,
    .updateSetup ⟨32, 0, 0, .error []⟩, .actPolicy ⟨32, 0, 0, .error []⟩, .snapTakeCut ⟨32, 0, 0, .error []⟩,
    .snapTakeArm ⟨32, 0, 0, .error []⟩, .snapTakeDisarm ⟨32, 0, 0, .error []⟩, .snapRestore ⟨32, 0, 0, .error []⟩] : List Instr), c.wf = false := by decide +kernel

/-- Units past the end of their range. -/
theorem test_ill_formed_2 : ∀ c ∈ ([
    .jobAdmit ⟨32, 0, 0, .error []⟩, .jobRelease ⟨32, 0, 0, .error []⟩, .switchIn ⟨32, 0, 0, .error []⟩,
    .yieldJob ⟨32, 0, 0, .error []⟩, .rolloutCfg ⟨32, 0, 0, .error []⟩,
    .tickSymbol 36 ⟨0, 0, 0, 0, 0, 0, 0, 0, 0, 0, 0, 0, false, false, false⟩, .sweepStateReport 36 false 0,
    .slotComplete 96 0, .slotComplete 0 4, .chordWrite 96 0 [] none, .waveDeadline 96 0 0, .waveDeadline 0 4 0,
    .waveDeadline 0 0 2, .credit 1024 0, .creditTimeout 1024, .chordCheck 1024 0 0 0 false,
    .chordLoss 1024 0 0 0, .mbLost 16 0 [], .mbLost 0 4 [], .rebalCopyDone 16 0, .rebalCopyDone 0 4,
    .verQuery 0 16 0 0 0, .verQuery 0 0 4 0 0, .verReply 0 16 0 0 false 0, .verReply 0 0 4 0 false 0,
    .verSwitch 16 0 0 0 false 0, .verSwitch 0 4 0 0 false 0, .verLastUnit 16 0 0 0, .verLastUnit 0 4 0 0,
    .verRetire 16 0 0 0, .verRetire 0 4 0 0, .load 37 0 [], .loadOrphan 36, .prismCommand 96 0,
    .prismCommand 0 4, .prismComplete 96 0, .prismComplete 0 4, .rayCommand 96 0, .rayCommand 0 4,
    .rayComplete 96] : List Instr), c.wf = false := by decide +kernel

/-- Units past the end of their range. -/
theorem test_ill_formed_3 : ∀ c ∈ ([
    .strandLaunch 96 0, .strandLaunch 0 4, .strandStart 96 0, .groupEnd 96 0, .strandNop 96 0,
    .strandNop 0 16384, .halt 96 0, .halt 0 16384, .strandIntegerOp 96 0, .strandIntegerOp 0 16384,
    .strandFloatOp 96 0, .strandFloatOp 0 16384, .fcvt 96 0, .fcvt 0 16384, .fcmp 96 0, .fcmp 0 16384,
    .strandBranch 96 0, .strandBranch 0 16384, .ldl 96 0, .ldl 0 16384, .stl 96 0, .stl 0 16384, .get 96 0,
    .get 0 16384, .put 96 0, .put 0 16384, .getb 96 0, .getb 0 16384, .putb 96 0, .putb 0 16384, .atom 96 0,
    .atom 0 16384, .red 96 0, .red 0 16384, .tadd 96 0, .tadd 0 16384, .tread 96 0, .tread 0 16384, .twait 96 0,
    .twait 0 16384] : List Instr), c.wf = false := by decide +kernel

/-- Units past the end of their range. -/
theorem test_ill_formed_4 : ∀ c ∈ ([
    .bar 96 0, .bar 0 16384, .fence 96 0, .fence 0 16384, .tallyWait 96 0, .tallyWait 0 4, .tallyAdd 96 0,
    .tallyAdd 0 4, .remoteCopy 96 0, .remoteCopy 0 4, .barrierArrive 96 0, .barrierArrive 0 4, .fenceRecord 96 0,
    .fenceRecord 0 4, .tallyTimeout 96 false 0, .gradAcc 96 0, .gradAcc 0 4, .gradAccComplete 96,
    .foldSeg 0 32 0 0 0 0 [], .foldLayerDone 32, .foldStall 32, .foldCheck 36 0 ⟨0, 0, 0, 0, false, 0⟩,
    .foldCheck 0 32 ⟨0, 0, 0, 0, false, 0⟩, .foldTotals 0 16 0 0 0 0 0, .foldTotals 0 0 4 0 0 0 0,
    .updReport 0 16 0 0 0 0, .updReport 0 0 4 0 0 0, .stepVerdict 16 0, .stepVerdict 0 4,
    .updValues 16 0 ⟨0, 0, 0, 0, 0, 0, 0, []⟩, .updValues 0 4 ⟨0, 0, 0, 0, 0, 0, 0, []⟩, .updateStart 96 0,
    .updateStart 0 4, .updateComplete 96 0, .updateComplete 0 4, .steer 16 0 0 0, .steer 0 4 0 0,
    .actPrefetchDone 96 0 0 (.error []), .actPrefetchDone 0 4 0 (.error []), .actWriteoutDone 96 0 0 false] : List Instr), c.wf = false := by decide +kernel

/-- Units past the end of their range. -/
theorem test_ill_formed_5 : ∀ c ∈ ([
    .actWriteoutDone 0 4 0 false, .snapCheck 4096 0 0, .snapCheck 0 16 0, .snapPolicyDecision 16, .snapCut 16 0,
    .shard 4096 0 0 0 0 false [], .shard 0 16 0 0 0 false [], .shardAck 4096 0 0 0 false,
    .shardAck 0 16 0 0 false, .snapDone 4096 0 0, .snapDone 0 16 0, .snapCommit 4096 0 0 false 0 [],
    .snapCommit 0 16 0 false 0 [], .snapRingTimeout 16, .snapGens 4096 0 [], .snapGens 0 16 [],
    .snapChoice 16 0 false, .snapManifests 4096 0 false [], .snapManifests 0 16 false [],
    .snapRestored 16 0 [] [], .facetFail 96, .shiftCopyDone 8,
    .heartbeat 36 ⟨[], 0, 0, 0, false, false, false⟩, .linkFrame 36 ⟨0, false, true, 0, [], 0, []⟩,
    .linkReplayTimeout 36, .linkDown 36, .linkFlush 36, .linkTrainRetry 36 none 0, .linkUp 36 0 0 none,
    .linkHello 36 0 0 0 0 0 0, .retrainAll 36, .retrainLane 36 0, .retrainLane 0 8, .clrCnt 36, .clrRetired 36,
    .laneFecThreshold 36 0 0, .laneFecThreshold 0 8 0, .laneRetrainDone 36 0 false, .laneRetrainDone 0 8 false,
    .laneLockLoss 36 0] : List Instr), c.wf = false := by decide +kernel

/-- Units past the end of their range. -/
theorem test_ill_formed_6 : ∀ c ∈ ([
    .laneLockLoss 0 8, .opticsRemoved 36, .opticsInserted 36, .retire 128 0, .retire 0 16, .memRetired 96 [],
    .memRekeyed 96, .imbalance 104 0 0 false, .imbalance 0 16 0 false, .scrubPass 104 [] [],
    .scrubPass 0 [(2, 0)] [], .scrubPass 0 [] [(2, 0)], .periodicRetrain 104 0 false,
    .periodicRetrain 0 16 false, .holdoffExpiry 64, .focRaise 16 0 0 0, .focClaim 16, .focComplete 16 0,
    .focStackRst 16, .lineAsserted 12, .lineDeasserted 12, .standbyLineLatch 12 false, .ctrCoreReset 16,
    .dvfsRampEnd 104, .pwrCap 6 0, .droopEpisode 104, .failFacet 128, .wireTest 104, .ucode 104, .flashProg 2,
    .fwCommit 2, .hbmRetrain 104 0, .hbmRetrain 0 16, .spillFillDone 96, .rotationHandover 16, .debtHoldEnd 16,
    .waveMiss 16 0 0 0, .waveMiss 0 4 0 0, .waveMiss 0 0 255 0, .decodeStepComplete 16 0 0] : List Instr), c.wf = false := by decide +kernel

/-- Units past the end of their range. -/
theorem test_ill_formed_7 : ∀ c ∈ ([
    .decodeStepComplete 0 4 0, .decodeStepComplete 0 0 255, .failingWire 104 0 0 0 false false,
    .failingWire 0 7 0 0 false false, .snapStreamRead 16 none, .decodePosition 16 0 0 0, .decodePosition 0 4 0 0,
    .decodePosition 0 0 255 0] : List Instr), c.wf = false := by decide +kernel

/-! ### and takes the last unit of every range -/

/-- The last unit of each range. -/
theorem test_well_formed_last_1 : ∀ c ∈ ([
    .registerWrite ⟨1, 0, 8, 0, none⟩, .w1cClear 13 0 0, .jobKey 15 0 0 0, .ringEnable 34 0, .ringDisable 34 0,
    .ringPort 34 1, .doorbellReadDone 1 none, .descriptorFetch 31 none, .heldCompletionWrite 31,
    .coalesceTimeout 33, .msixUnmask 1 63, .portDown 1, .endpointReset 1 .perst, .nop ⟨31, 0, 0, .error []⟩,
    .setField ⟨31, 0, 0, .error []⟩, .copy ⟨31, 0, 0, .error []⟩, .copyDone 31 0 (.error []),
    .mapLoad ⟨31, 0, 0, .error []⟩, .schedLoad ⟨31, 0, 0, .error []⟩, .mbAdmit ⟨31, 0, 0, .error []⟩,
    .verBuildAlloc ⟨31, 0, 0, .error []⟩, .verBuildSeal ⟨31, 0, 0, .error []⟩, .verBuildFree ⟨31, 0, 0, .error []⟩,
    .crcReadDone 103 3 3, .verPublish ⟨31, 0, 0, .error []⟩, .modelLoad ⟨31, 0, 0, .error []⟩, .modelLoadDone 31 0,
    .progLoad ⟨31, 0, 0, .error []⟩, .progLoadFree ⟨31, 0, 0, .error []⟩, .foldSetup ⟨31, 0, 0, .error []⟩,
    .updateSetup ⟨31, 0, 0, .error []⟩, .actPolicy ⟨31, 0, 0, .error []⟩, .snapTakeCut ⟨31, 0, 0, .error []⟩,
    .snapTakeArm ⟨31, 0, 0, .error []⟩, .snapTakeDisarm ⟨31, 0, 0, .error []⟩, .snapRestore ⟨31, 0, 0, .error []⟩,
    .jobAdmit ⟨31, 0, 0, .error []⟩, .jobRelease ⟨31, 0, 0, .error []⟩, .switchIn ⟨31, 0, 0, .error []⟩,
    .yieldJob ⟨31, 0, 0, .error []⟩] : List Instr), c.wf = true := by decide +kernel

/-- The last unit of each range. -/
theorem test_well_formed_last_2 : ∀ c ∈ ([
    .rolloutCfg ⟨31, 0, 0, .error []⟩, .tickSymbol 35 ⟨0, 0, 0, 0, 0, 0, 0, 0, 0, 0, 0, 0, false, false, false⟩,
    .sweepStateReport 35 false 0, .slotComplete 95 3, .chordWrite 95 0 [] none, .waveDeadline 95 3 1,
    .credit 1023 0, .creditTimeout 1023, .chordCheck 1023 0 0 0 false, .chordLoss 1023 0 0 0, .mbLost 15 3 [],
    .rebalCopyDone 15 3, .verQuery 0 15 3 0 0, .verReply 0 15 3 0 false 0, .verSwitch 15 3 0 0 false 0,
    .verLastUnit 15 3 0 0, .verRetire 15 3 0 0, .load 36 0 [], .loadOrphan 35, .prismCommand 95 3,
    .prismComplete 95 3, .rayCommand 95 3, .rayComplete 95, .strandLaunch 95 3, .strandStart 95 0,
    .groupEnd 95 0, .strandNop 95 16383, .halt 95 16383, .strandIntegerOp 95 16383, .strandFloatOp 95 16383,
    .fcvt 95 16383, .fcmp 95 16383, .strandBranch 95 16383, .ldl 95 16383, .stl 95 16383, .get 95 16383,
    .put 95 16383, .getb 95 16383, .putb 95 16383, .atom 95 16383] : List Instr), c.wf = true := by decide +kernel

/-- The last unit of each range. -/
theorem test_well_formed_last_3 : ∀ c ∈ ([
    .red 95 16383, .tadd 95 16383, .tread 95 16383, .twait 95 16383, .bar 95 16383, .fence 95 16383,
    .tallyWait 95 3, .tallyAdd 95 3, .remoteCopy 95 3, .barrierArrive 95 3, .fenceRecord 95 3,
    .tallyTimeout 95 false 0, .gradAcc 95 3, .gradAccComplete 95, .foldSeg 0 31 0 0 0 0 [], .foldLayerDone 31,
    .foldStall 31, .foldCheck 35 31 ⟨0, 0, 0, 0, false, 0⟩, .foldTotals 0 15 3 0 0 0 0, .updReport 0 15 3 0 0 0,
    .stepVerdict 15 3, .updValues 15 3 ⟨0, 0, 0, 0, 0, 0, 0, []⟩, .updateStart 95 3, .updateComplete 95 3,
    .steer 15 3 0 0, .actPrefetchDone 95 3 0 (.error []), .actWriteoutDone 95 3 0 false, .snapCheck 4095 15 0,
    .snapPolicyDecision 15, .snapCut 15 0, .shard 4095 15 0 0 0 false [], .shardAck 4095 15 0 0 false,
    .snapDone 4095 15 0, .snapCommit 4095 15 0 false 0 [], .snapRingTimeout 15, .snapGens 4095 15 [],
    .snapChoice 15 0 false, .snapManifests 4095 15 false [], .snapRestored 15 0 [] [], .facetFail 95] : List Instr), c.wf = true := by decide +kernel

/-- The last unit of each range. -/
theorem test_well_formed_last_4 : ∀ c ∈ ([
    .shiftCopyDone 7, .heartbeat 35 ⟨[], 0, 0, 0, false, false, false⟩,
    .linkFrame 35 ⟨0, false, true, 0, [], 0, []⟩, .linkReplayTimeout 35, .linkDown 35, .linkFlush 35,
    .linkTrainRetry 35 none 0, .linkUp 35 0 0 none, .linkHello 35 0 0 0 0 0 0, .retrainAll 35, .retrainLane 35 7,
    .clrCnt 35, .clrRetired 35, .laneFecThreshold 35 7 0, .laneRetrainDone 35 7 false, .laneLockLoss 35 7,
    .opticsRemoved 35, .opticsInserted 35, .retire 127 15, .memRetired 95 [], .memRekeyed 95,
    .imbalance 103 15 0 false, .periodicRetrain 103 15 false, .holdoffExpiry 63, .focRaise 15 0 0 0,
    .focClaim 15, .focComplete 15 0, .focStackRst 15, .lineAsserted 11, .lineDeasserted 11,
    .standbyLineLatch 11 false, .ctrCoreReset 15, .dvfsRampEnd 103, .pwrCap 8 0, .droopEpisode 127,
    .failFacet 127, .wireTest 103, .ucode 103, .flashProg 1, .fwCommit 1] : List Instr), c.wf = true := by decide +kernel

/-- The last unit of each range. -/
theorem test_well_formed_last_5 : ∀ c ∈ ([
    .hbmRetrain 103 15, .spillFillDone 95, .rotationHandover 15, .debtHoldEnd 15, .waveMiss 15 3 254 0,
    .decodeStepComplete 15 3 254, .failingWire 103 6 0 0 false false, .snapStreamRead 15 none,
    .decodePosition 15 3 254 0] : List Instr), c.wf = true := by decide +kernel

/-! ### Witnesses: steps, registers, memory -/

theorem witness_steps :
    Ready (on rdy) ∧ ¬Ready State.reset ∧ Instr.wf (.registerWrite ⟨1, 0, 8, 0, none⟩) = true ∧ Instr.wf (.registerWrite ⟨2, 0, 8, 0, none⟩) = false ∧
    alwaysOn (.w1cClear 13 1 0) = false := by
  refine ⟨?_, ?_, ?_, ?_, ?_⟩ <;> decide +kernel

theorem witness_queues :
    let s : State := ⟨State.reset.m, [.stop, .nop (dsc 0 [])]⟩
    QueueWf s ∧ QueueGated s ∧ ¬Ready s ∧ step s = .next ⟨State.reset.m, [.nop (dsc 0 [])]⟩ := by
  refine ⟨by decide, by decide, by decide, rfl⟩

theorem witness_register_and_memory_stores :
    RegsWf adm ∧ (63 < 64 ∧ 4 + 4 ≤ 8) ∧
    (let m : Mach := { writeMem rdy 95 1 0x2FFFFFFF8 [1, 2] with ue := [memKey 95 1 0x2FFFFFFE0] }
     Memory.wf m.mem = true ∧ UeAligned m ∧ unitBase (memKey 95 1 0x2FFFFFFFF) ∈ m.ue) := by
  refine ⟨?_, ?_, ?_⟩ <;> decide +kernel

theorem witness_tallies :
    let m := tallySet rdy 0 4095 7
    kvWf (0 : W32) m.tallies = true ∧ tallyKey m 0 4095 ≠ tallyKey m 0 4094 ∧ tallyMem m 0 4094 + 4 ≤ tallyMem m 0 4095 ∧
    tallyMem m 0 4095 + 4 ≤ tallyMem m 1 0 := by decide +kernel

theorem witness_events :
    let off := (regSet rdy (offSrc srcHost) 0)
    RegsWf rdy ∧ deadSource rdy srcHost = false ∧ stickyReg (hostCfgErr / 256) = some (0x10088, 5) ∧ hostCfgErr % 256 < 5 ∧
    tb (regGet rdy (offSrc srcHost)).toNat 0 = true ∧ rdy.focus.queue.length < 1024 ∧
    RegsWf off ∧ tb (regGet off (offSrc srcHost)).toNat 0 = false ∧ hostCfgErr ≠ focOrderFault ∧
    stickyReg (testRefused / 256) = some (0x3030, 10) ∧ (evTest 9) % 256 < 10 := by decide +kernel

/-- Each access kind: an unaligned write, a reserved offset, W1C, RWT and RWS, a timing word inside the 2 µs, RW. -/
theorem witness_register_writes :
    accessBad true 0x1004 8 = true ∧ (accessBad true 0x2060 8 = false ∧ (regFind 0x2060).isNone = true) ∧
    (accessBad true 0x1098 4 = false ∧ (regFind 0x1098).map (·.acc) = some .w1c) ∧
    ((regFind 0x2000).map (·.acc) = some .rws ∧ 0x2000 ≠ offFwCtl ∧ (timingOffs.contains 0x2000 && nearSweepEdge rdy) = false) ∧
    ((regFind 0x1058).map (·.acc) = some .rwt) ∧
    (let m := modTick rdy fun t => { t with running := true, nextEdge := 200, tickNo := 999 }
     (regFind offPeriod).map (·.acc) = some .rws ∧ timingOffs.contains offPeriod = true ∧ nearSweepEdge m = true) ∧
    ((regFind 0x2038).map (·.acc) = some .rw ∧ ctlRing 0x2038 = none ∧ baseRing 0x2038 = none ∧
      0x2038 ∉ [offModuleNum, offRole, offUplink, offLeaseExp, offTwinLinks, offTestCtl, offThermHi, offThermCrit] ∧ 0x2038 < 0x80000 ∧
      (regFind 0xA0160).isNone = true ∧ 0x84000 ≤ 0xA0000) := by
  refine ⟨?_, ?_, ?_, ?_, ?_, ?_, ?_⟩ <;> decide +kernel

/-- A late write at the instant of an edge; thresholds in order, out of order and out of range; two writes in one cycle. -/
theorem witness_late_and_paired_writes :
    let fits (off v : Nat) : Bool := ((regFind off).map fun r => r.ok v).getD false
    (timingOffs.contains 0x1058 = false ∧ accOf 0x1058 = some .rwt) ∧
    (fits offThermHi (regN rdy offThermCrit) = true ∧ fits offThermCrit (regN rdy offThermHi) = true ∧
      (fits offThermCrit (regN rdy offThermHi - 1) = true ∧ regN rdy offThermHi - 1 < regN rdy offThermHi) ∧ fits offThermHi 0xFFFF = false) ∧
    (fits 0x2038 60000 = true ∧ fits 0x2038 60001 = false) ∧
    Ready (on (after (.registerWrite ⟨0, 0x2028, 8, 80, none⟩) rdy)) := by
  refine ⟨?_, ?_, ?_, ?_⟩ <;> decide +kernel

theorem witness_command_bits :
    (2 ≤ popc 36 0x3 ∧ popc 36 0x3 ≤ 8) ∧ (popc 36 0xFF0000000 = 8 ∧ 0xFF0000000 < 2 ^ 36) ∧ eventOffs.length = 14 := by
  decide

theorem witness_register_commands :
    let run := modTick rdy fun t => { t with running := true, holdover := true }
    Ready (on rdy) ∧ Ready (on run) ∧ (run.tick.running = true ∧ run.tick.holdover = true ∧ wf 35 5 0 ≤ 35) ∧
    rdy.tick.holdover = false ∧ accessBad true 8 8 = false ∧ 8 + 8 ≤ 16 ∧ accessBad false 0 2 = true ∧ accessBad false 4032 64 = false ∧
    (jobOf adm 0).admitted = true ∧ (jobOf rdy 15).admitted = false ∧ (jobOf rdy 15).releasing = false ∧
    (jobOf (modJob rdy 15 fun j => { j with releasing := true }) 15).releasing = true := by decide +kernel

theorem witness_start_stop :
    let run := modTick rdy fun t => { t with running := true }
    let refB := regSet rdy offRefCtl 1
    let test := regSet rdy offTestCtl 1
    let flw := regSet (regSet rdy offRole 0) offUplink 63
    rdy.tick.running = false ∧ (run.tick.running = true ∧ run.tick.master = true) ∧
    (regN flw offRole = 0 ∧ 35 < regN flw offUplink) ∧
    (tb (regN refB offRefCtl) 0 = true ∧ bf (regN refB offRefCtl) 52 32 = 0) ∧ tb (regN test offTestCtl) 0 = true ∧
    ¬(regN rdy offRole = 0 ∧ 35 < regN rdy offUplink) ∧ tb (regN rdy offRefCtl) 0 = false ∧ tb (regN rdy offTestCtl) 0 = false := by
  decide

/-! ### Witnesses: rings and descriptors -/

theorem all_some {α : Type} {o : Option α} {p : α → Prop} {a : α} (h : o = some a) (q : p a) : ∀ b, o = some b → p b := by
  rintro b hb
  rw [h] at hb
  exact Option.some.inj hb ▸ q

/-- Ring 31 enabled on endpoint 0. -/
def ring31 : Mach := modRing (regSet rdy (offRingCtl 31) 1) 31 fun r => { r with used := true }

theorem witness_rings :
    let busy := modRing ring31 31 fun r => { r with live := [0], halted := true }
    Ready (on rdy) ∧ Ready (on ring31) ∧ tb 0 (enBit 34) = false ∧
    (tb (2 ^ 32) (enBit 34) = true ∧ enabledRing rdy 34 = false ∧ mayEnable (regSet rdy (baseOff 34) 4096) 34 = true) ∧
    (tb 1 (enBit 31) = true ∧ mayEnable rdy 31 = false) ∧
    enabledRing rdy 31 = false ∧
    (0 &&& word (maskOf (ctlOff 31)) = regGet ring31 (ctlOff 31) &&& ~~~(word (2 ^ enBit 31)) ∧ tb 0 (enBit 31) = false ∧
      enabledRing ring31 31 = true ∧ RegsWf ring31 ∧ 31 < ring31.host.rings.length ∧ (ringOf ring31 31).used = true ∧
      (ringOf ring31 31).live = [] ∧ (ringOf ring31 31).held = [] ∧ ∀ x ∈ ring31.descs, x.d.ring ≠ 31) ∧
    ((ringOf busy 31).live ≠ [] ∧ enabledRing busy 31 = true ∧ ∀ x ∈ busy.descs, x.d.ring = 31 → x.wait = .work) ∧
    (portOf ring31 31 ≠ 1 ∧ enabledRing ring31 31 = true ∧ (ringOf ring31 31).halted = false) ∧
    (RegsWf busy ∧ portOf busy 31 ≠ 1 ∧ (ringOf busy 31).held = [] ∧ enabledRing busy 31 = true ∧ (ringOf busy 31).halted = true) ∧
    (enabledRing rdy 31 = false ∧ (ringOf rdy 31).used = false) := by
  refine ⟨?_, ?_, ?_, ?_, ?_, ?_, ?_, ?_, ?_, ?_, ?_⟩ <;> decide +kernel

theorem witness_ring_ranges :
    (∀ r, regFind (ctlOff 34) = some r → r.ok (word (2 ^ 32) &&& word (maskOf (ctlOff 34))).toNat = true) ∧
    (∀ r, regFind (ctlOff 0) = some r → r.ok ((0 : Word) &&& word (maskOf (ctlOff 0))).toNat = true) :=
  ⟨all_some (a := ⟨0x10060, [], .rw, 0, ones 32 2, anyVal⟩) rfl rfl,
   all_some (a := ⟨0x11010, [(32, 0x40)], .rw, 0, 0xF7, anyVal⟩) rfl rfl⟩

def cpl31 : CplRec := ⟨31, 5, 0, 4, 0, 0, 0, 0, 0, 0⟩

theorem witness_completions :
    let full := modRing rdy 31 fun r => { r with cplProd := 64 }
    cpl31.ring < 32 ∧ cpl31.ring < rdy.host.rings.length ∧ 2 ≤ cpl31.status ∧
    ((ringOf rdy 31).held = [] ∧ cplBlocked rdy 31 = false) ∧ cplBlocked full 31 = true := by decide +kernel

theorem witness_ring_traffic :
    let rd := modEp rdy 1 fun e => { e with reading := [(0, 3)] }
    let old : DoorbellRec := ⟨1, 0, 0⟩
    let new : DoorbellRec := ⟨0, 0, 64⟩
    let req := modRing ring31 31 fun r => { r with reads := [(1, 0)] }
    let held := modRing ring31 31 fun r => { r with held := [cpl31] }
    rdy.descs = [] ∧ (epOf rdy 1).reading = [] ∧ (epOf rd 1).reading = [(0, 3)] ∧
    (old.epoch.toNat ≠ regN ring31 (offRingEpoch 31)) ∧
    (new.epoch.toNat = regN ring31 (offRingEpoch 31) ∧ enabledRing ring31 31 = true ∧ (ringOf ring31 31).halted = false ∧
      (ringOf ring31 31).held = [] ∧ 31 < ring31.host.rings.length) ∧
    (ringOf req 31).reads = [(1, 0)] ∧
    (held.descs = [] ∧ (ringOf held 31).held = [cpl31] ∧ cplBlocked held 31 = false) := by
  refine ⟨?_, ?_, ?_, ?_, ?_, ?_, ?_⟩ <;> decide +kernel

/-- The first poll, one DB_POLL_INTERVAL after it, a third failure in a row, and indices at and past the ring's size. -/
theorem witness_polls :
    let again := modHost rdy fun h => { h with polledAt := some 9 }
    let two := modEp rdy 1 fun e => { e with reading := [(0, 3)], fails := 2 }
    let size := 2 ^ regN ring31 (offRingSize 31)
    0 ≤ (atTime rdy 0).now ∧ (again.host.polledAt = some 9 ∧ 9 + regN again offDbPoll ≤ (atTime again (9 + regN again offDbPoll)).now) ∧
    ((epOf two 1).fails + 1 = 3 ∧ (epOf rdy 1).fails + 1 ≠ 3) ∧
    ((word size).toNat ≤ size ∧ size < ((BitVec.ofNat 32 (size + 1)) - (ringOf ring31 31).cons).toNat) := by
  refine ⟨?_, ?_, ?_, ?_⟩ <;> decide +kernel

theorem witness_interrupts :
    let m := setUnsig (regSet rdy (coalesceReg 33) (word (2 ^ 20))) 33 1 (some 7)
    let dn := modEp rdy 1 fun e => { e with up := false }
    ((unsigOf m 33).2 = some 7 ∧ (unsigOf m 33).1 ≠ 0 ∧ bf (regN m (coalesceReg 33)) 29 20 ≠ 0 ∧
      7 + 100 * bf (regN m (coalesceReg 33)) 29 20 ≤ (atTime m (7 + 100 * bf (regN m (coalesceReg 33)) 29 20)).now) ∧
    ((epOf rdy 1).pba.getLsbD 63 = false ∧ (epOf (modEp rdy 1 fun e => { e with pba := word (2 ^ 63) }) 1).pba.getLsbD 63 = true) ∧
    (epOf rdy 1).up = true ∧ (epOf dn 1).up = false := by decide +kernel

/-- Every spec of the opcode table is met by a code of its own, and a descriptor of each fails a check. -/
theorem witness_descriptor_checks :
    dOpcode (dsc 0x48 []) ≠ specNop.code ∧
    (dOpcode (dsc 0 [(128, 1)]) = specNop.code ∧ earlyStatus adm specNop (dsc 0 [(128, 1)]) = 0x04) ∧
    earlyStatus rdy specNop (dsc 0 []) = 0x06 ∧ earlyStatus adm specNop (dsc 0 []) = 0 ∧
    ([specField, specCopy, specMap, specSched, specAdmit, specBuild, specPublish, specLoad, specProg, specFold, specUpdate, specAct,
      specSnapTake, specRestore, specJobAdmit, specRelease, specPreempt, specRollout].all fun sp =>
        earlyStatus adm sp (dsc sp.code [(15, 1)]) == 0x04) = true ∧
    vbAction (dsc specBuild.code [(15, 1)]) = 0 ∧ vbAction (dsc specBuild.code [(378, 1)]) = 1 := by
  refine ⟨?_, ?_, ?_, ?_, ?_, ?_, ?_⟩ <;> decide +kernel

/-! ### Witnesses: copies, maps, schedules, admissions -/

/-- COPY of 64 bytes from HBM of facet 95 to host address 0. -/
def cpy : DescIn := dsc 2 [(192, num [(41, 1), (45, 95)]), (256, 64), (288, 1)]

def fld : DescIn := dsc 1 [(16, 2), (128, 0x2000), (160, 3), (224, 7)]

theorem witness_plain_descriptors :
    (dOpcode fld = 1 ∧ earlyStatus adm specField fld = 0 ∧ rekeyHolds adm (sfReg fld) = false ∧
      ((regFind (sfReg fld)).map fun r => r.ok (regN (writeField fld adm) (sfReg fld))) = some true ∧
      ∀ g ∈ judgeGroups (writeField fld adm) [sfReg fld], g.2.1 = false) ∧
    (dOpcode cpy = 2 ∧ earlyStatus win specCopy cpy = 0 ∧ win.descs = []) := by
  refine ⟨?_, ?_⟩ <;> decide +kernel

theorem witness_copy_done :
    let c : CopyRun := ⟨0, 0, 0, 0, false, false, true, 64, none, word (cpLat cpy), 0, 0⟩
    let m : Mach := { win with copies := [c] }
    let l := latOf c.lattice.toNat
    let x : Desc := ⟨cpy, 0, true, 0, .work, false⟩
    m.copies = [c] ∧ c.ring < 32 ∧ m.descs = [] ∧ (c.ring ≠ 31 ∨ c.index ≠ 5) ∧ c.lost = none ∧ ([1] : List Byte) ≠ [] ∧
    (∀ y ∈ { m with descs := [x] }.descs, y.d.ring = c.ring ∧ y.d.index = c.index) ∧
    (List.replicate 64 (1 : Byte)).length = c.len ∧ l.space = 1 ∧ ueHit m l.facet l.space l.off c.len = [] ∧
    targetMissing m l false = false ∧ uePart m l.facet l.space l.off c.len = [] := by
  decide +kernel

/-- A map for FILL with one stage context on facet 95. -/
def mapImg : List Byte := leBytes 64 1 ++ leBytes 32 (num [(88, 95), (95, 3), (224, 100)])

def mapD (img : List Byte) (len : Nat) : DescIn := dsc 0x10 [(16, 2), (192, len), (213, 1)] img

theorem witness_maps :
    (dOpcode (mapD [] 64) = 0x10 ∧ earlyStatus win specMap (mapD [] 64) = 0 ∧ (imageBytes (mapD [] 64)).isSome = true ∧
      mapFault win 0 (mapPhases (mapD [] 64)) 64 [] = some (1, 0xFFFFFF)) ∧
    (earlyStatus win specMap (mapD mapImg 96) = 0 ∧ mapFault win 0 (mapPhases (mapD mapImg 96)) (mapLen (mapD mapImg 96)) mapImg = none) := by
  refine ⟨?_, ?_⟩ <;> decide +kernel

def sch (fields : List (Nat × Nat)) : DescIn := dsc 0x11 ((16, 2) :: fields) []

theorem witness_schedules :
    let pre := regSet win (offJob 0) 0x104
    (dOpcode (sch [(224, 1)]) = 0x11 ∧ earlyStatus win specSched (sch [(224, 1)]) = 0 ∧ (imageBytes (sch [(224, 1)])).isSome = true) ∧
    (earlyStatus pre specSched (sch [(224, 1)]) = 0 ∧ schedFwdOnly (sch [(224, 1)]) = false ∧ preemptible pre 0 = true) ∧
    (preemptible win 0 = false ∧ (timing win).period - 1 < schedBudget (sch [(224, 1), (192, 100000)])) ∧
    (let m := regSet win (offPhase 0) 1
     earlyStatus m specSched (sch [(224, 1), (255, 1), (192, 99999)]) = 0 ∧ schedFwdOnly (sch [(224, 1), (255, 1), (192, 99999)]) = true ∧
     schedBudget (sch [(224, 1), (255, 1), (192, 99999)]) ≤ (timing m).period - 1 ∧ fillMap m 0 = none ∧
     schedM (sch [(224, 1), (255, 1)]) + 0 - 1 ≤ (timing m).fill + (timing m).steady + (timing m).drain) := by
  refine ⟨?_, ?_, ?_, ?_⟩ <;> decide +kernel

def mba (len : Nat) : DescIn := dsc 0x12 [(128, 5), (152, len), (178, 3)]

theorem witness_admissions :
    let full := modPipe win 0 3 fun x => { x with queue := List.replicate 256 (admitOf win (mba 1)) }
    let sched := modPipe win 0 3 fun x => { x with sched := some ⟨true, 0, 1, 0, [], 0⟩ }
    (dOpcode (mba 1) = 0x12 ∧ earlyStatus win specAdmit (mba 1) = 0) ∧
    (earlyStatus full specAdmit (mba 1) = 0 ∧ 256 ≤ (pipeOf full 0 (admitPipe (mba 1))).queue.length) ∧
    ((pipeOf win 0 3).queue.length < 256 ∧ (pipeOf win 0 3).sched = none) ∧
    (earlyStatus sched specAdmit (mba 0) = 0 ∧ (pipeOf sched 0 3).sched ≠ none ∧ (admitOf sched (mba 0)).len = 0) ∧
    (earlyStatus sched specAdmit (mba 1) = 0 ∧ (admitOf sched (mba 1)).len ≠ 0) := by
  refine ⟨?_, ?_, ?_, ?_, ?_⟩ <;> decide +kernel

/-! ### Witnesses: versions, loading, programs, setups -/

/-- A locus on stage context 3 of facet 95 with a READY version 7 and a BUILDING version 6. -/
def lcs : Mach := modSc win 95 3 fun x => { x with locus := { Locus.init with
  installed := true
  entries := [{ VerEntry.init with state := 2, vtag := 7, base := 10, size := 1, space := 1 },
    { VerEntry.init with state := 1, vtag := 6, base := 20, size := 1, space := 1 }, VerEntry.init, VerEntry.init] } }

/-- VER_BUILD on stage context 3 of facet 95: action, source, tag. -/
def vbd (action src tag : Nat) : DescIn :=
  dsc 0x18 [(426, 1), (404, 30), (403, 1), (398, src), (396, 3), (388, 7), (380, tag), (378, action), (376, 3), (369, 95)]

theorem witness_version_building :
    (dOpcode (vbd 0 0 8) = 0x18 ∧ earlyStatus lcs specBuild (vbd 0 0 8) = 0 ∧ vbImage (vbd 0 0 8) = 0 ∧ vbStatus lcs (vbd 0 0 8) = 0) ∧
    (earlyStatus lcs specBuild (vbd 0 0 7) = 0 ∧ vbStatus lcs (vbd 0 0 7) = 0x49 ∧ earlyStatus lcs specBuild (vbd 1 0 7) = 0 ∧
      vbStatus lcs (vbd 1 0 7) = 0x4A) ∧
    (earlyStatus lcs specBuild (vbd 0 1 8) = 0 ∧ vbStatus lcs (vbd 0 1 8) = 0 ∧ earlyStatus lcs specBuild (vbd 0 3 8) = 0 ∧
      vbStatus lcs (vbd 0 3 8) = 0 ∧ (vbSourceEntry lcs (vbd 0 3 8)).map (·.vtag) = some 7 ∧
      earlyStatus lcs specBuild (vbd 0 2 8) = 0 ∧ vbStatus lcs (vbd 0 2 8) = 0) ∧
    (earlyStatus lcs specBuild (vbd 1 0 6) = 0 ∧ vbStatus lcs (vbd 1 0 6) = 0 ∧ heldIdx (locusOf lcs 95 3) 6 = some 1) ∧
    (earlyStatus lcs specBuild (vbd 2 0 7) = 0 ∧ vbStatus lcs (vbd 2 0 7) = 0 ∧ heldIdx (locusOf lcs 95 3) 7 = some 0) ∧
    (vbStatus lcs (vbd 2 0 9) = 0 ∧ heldIdx (locusOf lcs 95 3) 9 = none) ∧
    (let busy := modLocus lcs 95 3 fun l => { l with entries := l.entries.set 2 { VerEntry.init with state := 1, vtag := 9, source := 2 } }
     vbStatus busy (vbd 2 0 9) = 0 ∧ vbAction (vbd 2 0 9) = 2) := by
  refine ⟨?_, ?_, ?_, ?_, ?_, ?_, ?_⟩ <;> decide +kernel

theorem witness_crc_reads :
    let x : Desc := ⟨vbd 1 0 6, 0, true, 0, .work, false⟩
    let sealing : VerEntry := { VerEntry.init with state := 1, vtag := 6, base := 20, size := 1, space := 1, busy := [(0, 0)] }
    let copying : VerEntry := { VerEntry.init with source := 1, srcSc := 3, srcTag := 7, vtag := 8, base := 30, size := 1, space := 1, busy := [(0, 0)] }
    let y : VerEntry := { VerEntry.init with state := 2, vtag := 7, base := 10, size := 1, space := 1 }
    let m : Mach := { modLocus lcs 95 3 fun l => { l with entries := [y, sealing, copying, VerEntry.init] } with descs := [x] }
    (locusOf m 95 3).entries[1]? = some sealing ∧ sealing.busy = [(x.d.ring, x.d.index)] ∧ m.descs = [x] ∧
    ueHit m 95 sealing.space (4096 * sealing.base) (4096 * sealing.size) = [] ∧ (sealing.source ≠ 1 ∨ sealing.state ≠ 0) ∧
    (locusOf m 95 3).entries[2]? = some copying ∧ copying.source = 1 ∧ copying.state = 0 ∧
    resolveTag (locusOf m 95 copying.srcSc) copying.srcTag = some y ∧
    ueHit m 95 y.space (4096 * y.base) (4096 * min y.size copying.size) = [] ∧
    uePart m 95 copying.space (4096 * copying.base) 4096 = [] := by
  decide +kernel

/-- Job 0 with a FILL map of one stage context of pipeline 3 on facet 95. -/
def mapped : Mach := modJob win 0 fun j => { j with maps := some (readMap (leBytes 64 1 ++ leBytes 32 (num [(88, 95), (98, 3)]))) :: List.replicate 5 none }

def vpd : DescIn := dsc 0x19 [(16, 2), (64, 9), (128, 3), (130, 7)]

theorem witness_publishing :
    let chk := modPipe mapped 0 3 fun x => { x with checks := [⟨7, 9, [], []⟩], liveMbs := [(5, 7)], abandoned := [6] }
    let near := modTick rdy fun t => { t with running := true, nextEdge := 200, tickNo := 999 }
    (dOpcode vpd = 0x19 ∧ earlyStatus win specPublish vpd = 0 ∧ isHome win 0 3 = false) ∧
    (earlyStatus chk specPublish vpd = 0 ∧ isHome chk 0 3 = true ∧
      ((pipeOf chk 0 (vpPipe vpd)).checks.any fun c => c.tag == vpTag vpd && c.sweep == dEdge vpd) = true) ∧
    nearSweepEdge near = true ∧ nearSweepEdge rdy = false ∧
    ((pipeOf chk 0 3).abandoned.contains 5 = false ∧ liveTag chk 0 3 5 = some 7 ∧ (pipeOf chk 0 3).abandoned.contains 6 = true) := by
  refine ⟨?_, ?_, ?_, ?_, ?_⟩ <;> decide +kernel

def mld (link : Nat) : DescIn := dsc 0x1A [(192, 128), (264, link)]

def lrun : LoadRun :=
  { ring := 31, index := 0, tag := 0, quiet := false, job := 0, fromLink := false, len := 128, received := 0, buf := [], segs := 0
    bad := 0, err := false, ended := false, lastEdge := 0, targets := [], discard := false, ahead := [] }

theorem witness_loading :
    let m : Mach := { rdy with loads := [lrun] }
    let up := regSet rdy offLoadUp (word (2 ^ 35))
    let held : Mach := { modLink rdy 35 fun x => { x with loadHeld := [(0, [1])], loadSince := some 0 } with edges := 1000000 }
    (dOpcode (mld 0) = 0x1A ∧ earlyStatus win specLoad (mld 0) = 0 ∧ mlFromLink (mld 0) = false) ∧
    (earlyStatus win specLoad (mld 1) = 0 ∧ mlFromLink (mld 1) = true) ∧
    (m.loads = [lrun] ∧ lrun.fromLink = false ∧ lrun.ended = false ∧ lrun.err = false) ∧
    tb (regN rdy offLoadUp) 35 = false ∧ tb (regN up offLoadUp) 35 = true ∧
    ((linkOf held 35).loadSince = some 0 ∧ expired held 0 (regN held offLoadTimeout) = true ∧ held.loads = []) ∧
    (linkOf rdy 35).loadSince = none ∧ (lrun.discard = false ∧ lrun.ring < 32 ∧ ∀ x ∈ m.descs, x.d.ring = lrun.ring ∧ x.d.index = lrun.index) := by
  refine ⟨?_, ?_, ?_, ?_, ?_, ?_, ?_, ?_⟩ <;> decide +kernel

/-- PROG_LOAD of one record, a FENCE of mode 1. -/
def pgd (kind handle : Nat) : DescIn := dsc 0x28 [(224, 64), (272, handle), (288, kind)] (leBytes 64 (num [(0, 8), (8, 1)]))
def pgFree (handle : Nat) : DescIn := dsc 0x28 [(272, handle), (288, 2)]

theorem witness_programs :
    let m : Mach := { win with progs := [⟨4095, 0, false, []⟩] }
    (dOpcode (pgd 0 0) = 0x28 ∧ pgKind (pgd 0 0) ≠ 2 ∧ earlyStatus win specProg (pgd 0 0) = 0 ∧ (progStatus win (pgd 0 0)).1 = 0 ∧
      freeHandle win = some 1) ∧
    (earlyStatus win specProg (dsc 0x28 [(224, 64)]) = 0 ∧ (progStatus win (dsc 0x28 [(224, 64)])).1 = 0x54) ∧
    (earlyStatus m specProg (pgd 0 4095) = 0 ∧ (progStatus m (pgd 0 4095)).1 = 0 ∧ progImage m 4095 = some ⟨4095, 0, false, []⟩) ∧
    (earlyStatus m specProg (pgd 0 4094) = 0 ∧ (progStatus m (pgd 0 4094)).1 = 0 ∧ progImage m 4094 = none) ∧
    (earlyStatus m specProg (pgFree 4095) = 0 ∧ pgKind (pgFree 4095) = 2) ∧
    decide (16777216 < storeUsed m 1 + 64) = false := by
  refine ⟨?_, ?_, ?_, ?_, ?_, ?_⟩ <;> decide +kernel

/-- A state whose program store holds one image of `n` records. -/
def stored (n : Nat) : Mach := { win with progs := [⟨4095, 0, false, List.replicate n 0⟩] }

theorem stored_used (n : Nat) : storeUsed (stored n) 1 = 64 * n := by
  show 0 + 64 * (List.replicate n (0 : Rec)).length = 64 * n
  rw [List.length_replicate, Nat.zero_add]

theorem stored_free : freeHandle (stored 262144) = some 1 := by decide +kernel

theorem witness_store_full :
    freeHandle (stored 262144) = some 1 ∧ 16777216 < storeUsed (stored 262144) 1 + pgLen (pgd 0 0) := by
  refine ⟨stored_free, ?_⟩
  rw [stored_used, show pgLen (pgd 0 0) = 64 from by decide +kernel]
  decide

def fsd (fields : List (Nat × Nat)) (img : List Byte := []) : DescIn := dsc 0x30 ([(16, 2), (224, 31), (235, 3)] ++ fields) img

theorem witness_fold_setups :
    let own := modChan win 31 fun c => { c with en := true, job := 1 }
    let m := modJob mapped 0 fun j => { j with maps := [j.maps.getD 0 none, j.maps.getD 0 none, none, none, none, none] }
    let img := leBytes 64 (num [(0, 1), (16, 1)]) ++ leBytes 8 (num [(12, 63)]) ++ leBytes 32 (num [(12, 1), (32, 64), (52, 64)])
    (dOpcode (fsd []) = 0x30 ∧ earlyStatus own specFold (fsd []) = 0 ∧ fsEn (fsd []) = false ∧ (chanOf own 31).en = true ∧
      (chanOf own 31).job ≠ 0) ∧
    (earlyStatus win specFold (fsd []) = 0 ∧ (chanOf win 31).en = false) ∧
    (earlyStatus win specFold (fsd [(229, 1), (192, 64)]) = 0 ∧ fsEn (fsd [(229, 1)]) = true ∧ foldFault win (fsd [(229, 1), (192, 64)]) [] = some 1) ∧
    (earlyStatus m specFold (fsd [(229, 1), (192, 104)] img) = 0 ∧ foldFault m (fsd [(229, 1), (192, 104)] img) img = none ∧
      fsLoss (fsd [(229, 1), (192, 104)] img) = false ∧ fsTopo (fsd [(229, 1), (192, 104)] img) ≠ 2) := by
  refine ⟨?_, ?_, ?_, ?_⟩ <;> decide +kernel

theorem witness_update_and_policy :
    (dOpcode (dsc 0x34 [(16, 2)]) = 0x34 ∧ earlyStatus win specUpdate (dsc 0x34 [(16, 2)]) = 0 ∧
      (imageBytes (dsc 0x34 [(16, 2)])).isSome = true) ∧
    (dOpcode (dsc 0x38 [(16, 2), (246, 1)]) = 0x38 ∧ earlyStatus win specAct (dsc 0x38 [(16, 2), (246, 1)]) = 0) := by
  refine ⟨?_, ?_⟩ <;> decide +kernel

/-! ### Witnesses: snapshot and job descriptors -/

def stk (fields : List (Nat × Nat)) : DescIn := dsc 0x40 ((16, 2) :: fields)

/-- A domain of this module alone with K = 4, P = 1 and peers 1 to 5. -/
def domImg : List Byte :=
  leBytes 64 (num [(0, 1), (37, 5), (44, 4), (49, 1)]) ++ leBytes 8 0 ++ ([1, 2, 3, 4, 5].flatMap fun i => leBytes 8 (2 ^ 13 + i))

def rst (img : List Byte) (len : Nat) : DescIn := dsc 0x41 [(256, len)] img

theorem witness_snapshot_descriptors :
    let run := modTick win fun t => { t with running := true }
    let inst := modLocus mapped 95 0 fun l => { l with installed := true }
    let room := modSnap (modFacet inst 95 fun f => { f with failed := true }) 0 fun x => { x with roomless := some 95 }
    15 < rdy.jobs.length ∧
    (dOpcode (stk []) = 0x40 ∧ earlyStatus win specSnapTake (stk []) = 0 ∧ stAction (stk []) = 0) ∧
    (earlyStatus win specSnapTake (stk [(224, 1), (192, 64)]) = 0 ∧ stAction (stk [(224, 1), (192, 64)]) = 1) ∧
    (earlyStatus win specSnapTake (stk [(224, 2)]) = 0 ∧ stAction (stk [(224, 2)]) = 2) ∧
    (dOpcode (rst [] 64) = 0x41 ∧ earlyStatus run specRestore (rst [] 64) = 0 ∧ run.tick.running = true) ∧
    (earlyStatus win specRestore (rst [] 64) = 0 ∧ tableBad win (srLen (rst [] 64)) [] = true) ∧
    (earlyStatus mapped specRestore (rst domImg 112) = 0 ∧ tableBad mapped (srLen (rst domImg 112)) domImg = false ∧ layoutBad mapped 0 = true) ∧
    (tableBad room 112 domImg = false ∧ layoutBad room 0 = false ∧ noRoom room 0 = some 95 ∧ earlyStatus room specRestore (rst domImg 112) = 0) ∧
    (tableBad win 112 domImg = false ∧ layoutBad win 0 = false ∧ noRoom win 0 = none) := by
  refine ⟨?_, ?_, ?_, ?_, ?_, ?_, ?_, ?_, ?_⟩ <;> decide +kernel

/-- JOB_ADMIT of job 1 with one claim on facet 95. -/
def jad (live : Nat) : DescIn :=
  dsc 0x48 [(16, 2), (40, 1), (192, 80)] (leBytes 64 1 ++ leBytes 16 (num [(0, 95), (62, 1), (91, live)]))

def jdd (op : Nat) (fields : List (Nat × Nat)) : DescIn := dsc op ((40, 1) :: fields)

theorem witness_job_descriptors :
    let in1 := modJob adm 1 fun j => { j with admitted := true, claims := [⟨95, 0, 1, 0, 0, false, 0⟩] }
    let pre := regSet adm (offJob 1) 0x104
    let met := modJob adm 0 fun j => { j with claims := [⟨95, 0, 1, 0, 0, false, 0⟩] }
    (dOpcode (jad 0) = 0x48 ∧ earlyStatus in1 specJobAdmit (jad 0) = 0 ∧ (jobOf in1 1).admitted = true) ∧
    (earlyStatus adm specJobAdmit (dsc 0x48 [(16, 2), (40, 1)]) = 0 ∧ (jobOf adm 1).admitted = false ∧ (jobOf adm 1).releasing = false ∧
      claimFault adm 0 [] = some 0xFFFFFF) ∧
    (claimFault pre (jaLen (jad 1)) ((imageBytes (jad 1)).getD []) = none ∧ earlyStatus pre specJobAdmit (jad 1) = 0 ∧
      ((jobPreempt pre 1 || jobGroup pre 1 != 0) && (readClaims ((imageBytes (jad 1)).getD [])).any (fun c => c.liveSize != 0 && !c.spillEn)) = true) ∧
    (claimFault met (jaLen (jad 0)) ((imageBytes (jad 0)).getD []) = none ∧ earlyStatus met specJobAdmit (jad 0) = 0 ∧
      (jobPreempt met 1 || jobGroup met 1 != 0) = false ∧
      ((((List.range 16).filter fun k => k != 1 && (jobOf met k).admitted && claimsMeet (readClaims ((imageBytes (jad 0)).getD [])) (jobOf met k).claims).find?
        fun k => !mayOverlap met 1 k) = some 0)) ∧
    (claimFault adm (jaLen (jad 0)) ((imageBytes (jad 0)).getD []) = none ∧
      ((List.range 16).filter fun k => k != 1 && (jobOf adm k).admitted && claimsMeet (readClaims ((imageBytes (jad 0)).getD [])) (jobOf adm k).claims) = []) := by
  refine ⟨?_, ?_, ?_, ?_, ?_⟩ <;> decide +kernel

theorem witness_release_and_preemption :
    let in1 := modJob adm 1 fun j => { j with admitted := true, claims := [⟨95, 0, 1, 0, 0, false, 0⟩] }
    let susp := modJob in1 1 fun j => { j with suspended := true }
    let meet := modJob susp 0 fun j => { j with claims := [⟨95, 0, 1, 0, 0, false, 0⟩] }
    let low := regSet (regSet meet (offJob 0) 0x104) (offJob 1) 0x101
    (dOpcode (jdd 0x49 [(16, 2)]) = 0x49 ∧ earlyStatus in1 specRelease (jdd 0x49 [(16, 2)]) = 0 ∧ (jobOf in1 1).admitted = true ∧
      (jobOf in1 1).releasing = false ∧ 1 < in1.jobs.length) ∧
    (let d := jdd 0x4A [(16, 1)]
     dOpcode d = 0x4A ∧ jpAction d = 0 ∧ earlyStatus in1 specPreempt d = 0 ∧ waitsSwitch in1 1 = false ∧
     earlyStatus meet specPreempt d = 0 ∧ waitsSwitch meet 1 = true ∧
     (((List.range 16).filter fun k => k != 1 && running meet k && jobsMeet meet k 1).find?
       fun k => !preemptible meet k || decide (jobPrio meet 1 ≤ jobPrio meet k)) = some 0 ∧
     earlyStatus low specPreempt d = 0 ∧ waitsSwitch low 1 = true ∧
     ((List.range 16).filter fun k => k != 1 && running low k && jobsMeet low k 1) = [0] ∧ preemptible low 0 = true ∧ jobPrio low 0 < jobPrio low 1) ∧
    (let d := jdd 0x4A [(16, 1), (128, 1)]
     jpAction d = 1 ∧ earlyStatus in1 specPreempt d = 0) ∧
    (let d := jdd 0x50 [(16, 1), (132, 1), (140, 1), (148, 1)]
     dOpcode d = 0x50 ∧ earlyStatus in1 specRollout d = 0) := by
  refine ⟨?_, ?_, ?_, ?_⟩ <;> decide +kernel

/-! ### Witnesses: ticks, slots, chords -/

theorem witness_ticks :
    let run := modTick rdy fun t => { t with running := true }
    edgeDue rdy = false ∧ (edgeDue run = true ∧ Ready (on run)) ∧
    ((edgeInfo run).first = false ∧ (edgeInfo run).sym = none) ∧
    (let m := modTick rdy fun t => { t with armed := true }
     edgeDue m = true ∧ (edgeInfo m).first = true ∧ (edgeInfo m).sym = none) ∧
    (let m := modTick run fun t => { t with master := false, sym := some sym0 }
     (edgeInfo m).sym = some sym0) ∧
    (Timing.used ⟨400, 6, 1, 1, 1, 1, 1, 8⟩ < 6) := by
  refine ⟨?_, ?_, ?_, ?_, ?_, ?_⟩ <;> decide +kernel

theorem witness_tick_symbols :
    let run := modTick rdy fun t => { t with running := true }
    let flw := modTick run fun t => { t with master := false, uplink := 35 }
    let hold := modTick flw fun t => { t with holdover := true }
    let re := modTick hold fun t => { t with relock := true }
    let own (m : Mach) : Bool := (m.tick.running && (m.tick.master || m.tick.holdover)) || (m.tick.armed && !m.tick.running && m.tick.master)
    own rdy = false ∧ (own run = true ∧ run.tick.sampled = none) ∧ (hold.tick.holdover = true ∧ hold.tick.relock = false) ∧
    (35 = flw.tick.uplink ∧ flw.tick.holdover = false ∧ flw.tick.master = false ∧ flw.tick.running = true ∧
      2000000 < (linkOf flw 35).lat + { sym0 with delay := 1900001 }.delay + 100000 ∧ (linkOf flw 35).lat + sym0.delay + 100000 ≤ 2000000) ∧
    (re.tick.holdover = true ∧ re.tick.relock = true ∧ { sym0 with tick := 5 }.tick ≠ re.tick.tickNo + 1 ∧ sym0.tick = re.tick.tickNo + 1) ∧
    (let m := modTick rdy fun t => { t with refEn := true }
     m.tick.master = true ∧ m.tick.refEn = true ∧ rdy.tick.refEn = false) ∧
    35 ∉ downlinks rdy ∧ 35 ∈ downlinks (regSet rdy offDownlinks (word (2 ^ 35))) := by
  refine ⟨?_, ?_, ?_, ?_, ?_, ?_, ?_, ?_⟩ <;> decide +kernel

def pol : ActPolicy := ⟨0, 0, 0, 0, 1, 1, 4, 0, 4096, 0, 0⟩

theorem witness_slots :
    let m := runs [] []
    let wav := modRun (runs [] [⟨0, mb0, none⟩]) 95 3 fun r => { r with waves := [(1, 50)] }
    let act (st : Nat) := modPipe (modSc m 95 3 fun x => { x with acts := [⟨0, 40, 0, 1, st⟩] }) 0 3 fun x => { x with acts := [pol] }
    (Ready (on m) ∧ slotDone rdy 95 3 = false) ∧
    (slotDone m 95 3 = true ∧ (scOf m 95 3).owner = some (0, ent) ∧ (scOf m 95 3).run = some (slot [])) ∧
    ((scOf wav 95 3).owner = some (0, ent) ∧ ((scOf wav 95 3).run.bind fun r => r.waves.find? fun w => w.1 == 1) = some (1, 50)) ∧
    ((scOf (act 4) 95 3).owner = some (0, ent) ∧ actOf (scOf (act 4) 95 3) 40 = some ⟨0, 40, 0, 1, 4⟩ ∧ actPolicyOf (act 4) 0 ent = some pol) ∧
    (actOf (scOf (act 2) 95 3) 40 = some ⟨0, 40, 0, 1, 2⟩ ∧ actPolicyOf (act 2) 0 ent = some pol) := by
  refine ⟨?_, ?_, ?_, ?_, ?_⟩ <;> decide +kernel

theorem witness_chords :
    let m : Mach := { win with chords := [chd] }
    let full : Mach := { win with chords := [{ chd with taken := 4 }] }
    let seq1 : Mach := { win with chords := [{ chd with rxSeq := 1 }] }
    let wait : Mach := { win with chords := [{ chd with waitFrom := some 3 }] }
    let chk : Mach := { win with chords := [{ chd with checked := true }] }
    let bs := leBytes 64 0
    (ringChord m 95 1024 = none ∧ ringChord m 95 1023 = some chd) ∧
    (bs.length = 64 ∧ (headerMb (leNat bs)).2.1 = chd.rxSeq ∧ 256 / 256 ≠ chd.rxSeq % chordDepth chd.e) ∧
    (ringChord full 95 0 = some { chd with taken := 4 } ∧ chordDepth chd.e ≤ 0 + 4) ∧
    (ringChord m 95 0 = some chd ∧ chd.queue.length + chd.taken < chordDepth chd.e) ∧
    ((headerMb (leNat bs)).2.1 ≠ { chd with rxSeq := 1 }.rxSeq ∧ ringChord seq1 95 0 = some { chd with rxSeq := 1 } ∧
      0 / 256 = (headerMb (leNat bs)).2.1 % 4 ∧ 512 / 256 ≠ (headerMb (leNat bs)).2.1 % 4 ∧ 512 / 256 ≠ 1 % 4) ∧
    (chordBy m 1023 = some chd ∧ chordBy rdy 1023 = none ∧ chd.e.mode = 1) ∧
    (chordBy wait 1023 = some { chd with waitFrom := some 3 } ∧ chd.waitFrom = none) ∧
    (chordBy chk 1023 = some { chd with checked := true } ∧ chd.checked = false ∧ 5 ≠ chd.e.depth) ∧
    (let e : HeaderMsg := ⟨95, 0, 0, 0, 0, false, 0⟩
     let n : Mach := { m with chordNet := [e] }
     (n.chordNet.find? fun e => e.facet == 95 && e.ofs == 0 && leBytes 64 e.header.toNat == bs) = some e) := by
  refine ⟨?_, ?_, ?_, ?_, ?_, ?_, ?_, ?_, ?_⟩ <;> decide +kernel

/-! ### Witnesses: engines and strands -/

theorem witness_prism :
    let m := runs [prec] [fwd]
    let full := modPrism m 95 0 fun p => { p with queue := List.replicate 8 ⟨2, 0, prec⟩ }
    let wide := runs [rc [(0, 1), (8, 3)]] [fwd]
    RecordAt m 95 3 prec 0 1 ∧
    (pickPrism (facetOf m 95) prec = 0 ∧ prismStatus m 95 3 0 prec ⟨[], []⟩ = 0 ∧
      ((prismFeet (facetOf m 95) 3 ++ (rayFeet m 95 3 ++ sideFeet m 95 3)).any fun e => hazard e (prismFoot prec)) = false) ∧
    (RecordAt full 95 3 prec 0 1 ∧ 8 ≤ (((facetOf full 95).prisms.getD 0 ⟨[], []⟩).queue).length) ∧
    (RecordAt wide 95 3 (rc [(0, 1), (8, 3)]) 0 1 ∧ prismStatus wide 95 3 0 (rc [(0, 1), (8, 3)]) ⟨[], []⟩ = 0x50) ∧
    ((facetOf full 95).failed = false ∧ ((facetOf full 95).prisms.getD 0 ⟨[], []⟩).queue = ⟨2, 0, prec⟩ :: List.replicate 7 ⟨2, 0, prec⟩) ∧
    ((facetOf m 95).prisms.getD 3 ⟨[], []⟩).queue = [] := by
  refine ⟨?_, ?_, ?_, ?_, ?_, ?_⟩ <;> decide +kernel

theorem witness_ray :
    let m := runs [yrec] [fwd]
    let full := modFacet m 95 fun x => { x with ray := List.replicate 16 ⟨2, 0, yrec⟩ }
    let bad := runs [rc [(0, 2)]] [fwd]
    RecordAt m 95 3 yrec 0 2 ∧
    (rayStatus m 95 0 yrec = 0 ∧
      ((rayFeet m 95 3 ++ (prismFeet (facetOf m 95) 3 ++ sideFeet m 95 3)).any fun e => hazard e (rayFoot m 95 yrec)) = false) ∧
    (RecordAt full 95 3 yrec 0 2 ∧ 16 ≤ (facetOf full 95).ray.length ∧ (facetOf full 95).failed = false) ∧
    (RecordAt bad 95 3 (rc [(0, 2)]) 0 2 ∧ rayStatus bad 95 0 (rc [(0, 2)]) = 0x58) ∧ (facetOf m 95).ray = [] := by
  refine ⟨?_, ?_, ?_, ?_, ?_⟩ <;> decide +kernel

theorem witness_launches :
    let m := runs [lrec] [fwd]
    let prog := modFacet m 95 fun x => { x with strandProgs := [(7, [0])] }
    let start (n e : Nat) : Mach := modFacet m 95 fun x => { x with groups := [{ grp [] with started := n, ended := e }] }
    (RecordAt m 95 3 lrec 0 3 ∧ ((facetOf m 95).strandProgs.find? fun p => p.1 == rb lrec 31 16) = none) ∧
    (RecordAt prog 95 3 lrec 0 3 ∧ ((facetOf prog 95).strandProgs.find? fun p => p.1 == rb lrec 31 16) = some (7, [0])) ∧
    (launchGroup (start 8 7) 95 0 = some { grp [] with ended := 7 } ∧ gCount (grp []) ≤ 8 ∧ 7 < 8) ∧
    (launchGroup (start 7 7) 95 0 = some { grp [] with started := 7, ended := 7 } ∧ 7 < gCount (grp []) ∧
      (facetOf (start 7 7) 95).failed = false ∧ freeStrand (facetOf (start 7 7) 95) (7 % 8) = some 7) ∧
    launchGroup (start 8 8) 95 0 = some { grp [] with ended := 8 } := by
  refine ⟨?_, ?_, ?_, ?_, ?_⟩ <;> decide +kernel

/-- Every local opcode range at both of its ends; loads that pass, that are misaligned and that meet an uncorrectable word. -/
theorem witness_strands :
    (∀ op ∈ [0, 1, 2, 0x10, 0x18, 0x1D, 0x1E, 0x1F, 0x20, 0x26, 0x28, 0x29], StrandAt (strands (iw op 0 0) str) 95 16383 str (grp [iw op 0 0]) (iw op 0 0)) ∧
    (let a := iw 0x28 3 0 [(0, 1)]
     StrandAt (strands a str) 95 16383 str (grp [a]) a ∧ (getReg str (iRa a) + iImm a).toNat % 2 ^ iSize a ≠ 0) ∧
    (let a := iw 0x28 3 0
     let m : Mach := { strands a str with ue := [memKey 95 0 0] }
     StrandAt m 95 16383 str (grp [a]) a ∧ localStatus m 0 95 0 8 .read = 0 ∧ (readChecked m 95 0 0 8).2.1 = true ∧
       (readChecked (strands a str) 95 0 0 8).2.1 = false) ∧
    (let m := strands 0 { str with steps := 10 }
     strandOf m 95 16383 = some { str with steps := 10 } ∧ launchGroup m 95 0 = some (grp [0]) ∧ (grp [0]).prog[0]? = some 0 ∧
       (facetOf m 95).failed = false ∧ regsBusy m 95 16383 0 = false ∧ gSteps (grp [0]) ≤ 10 ∧ iOp 0 = 0 ∧ iOp (iw 2 0 0) = 2) ∧
    (15 ≠ 0 ∧ 15 < str.regs.length) := by
  refine ⟨?_, ?_, ?_, ?_, ?_⟩ <;> decide +kernel

theorem witness_remote_strands :
    (∀ op ∈ [0x30, 0x31, 0x34, 0x35, 0x38, 0x39, 0x32, 0x33, 0x3A, 0x3B, 0x3C],
      StrandAt (strands (iw op 6 0) str) 95 16383 str (grp [iw op 6 0]) (iw op 6 0)) ∧
    (let w := iw 0x30 3 0
     let m := strands w str
     let fl : Flight := ⟨0, .strand 95 16383, 0, ⟨0, 0x30, 0, 8, [], 0⟩, some 1, 0, false, 0, .requested, none, none, none, 0, false, false, false⟩
     remoteStatus m 0 (iOp w) 8 8 (getReg str (iRa w) + iImm w) = 0 ∧ (strandFlights m 95 16383).length < 8 ∧
     remoteStatus m 0 (iOp w) 8 8 1 ≠ 0 ∧
     8 ≤ (strandFlights { m with flights := List.replicate 8 fl } 95 16383).length) := by
  refine ⟨?_, ?_⟩ <;> decide +kernel

/-! ### Witnesses: sequencer records, remote operations, gradients, fold, update -/

def srec (op : Nat) (fields : List (Nat × Nat)) : Rec := rc ((0, op) :: fields)

def flight0 : Flight :=
  ⟨7, .sc 95 3, 0, ⟨word (num [(45, 95)]), 0x33, 0, 64, List.replicate 64 1, 0⟩, none, 0, true, 0, .requested, some (6, 0), none, none, 0, false, false, false⟩

theorem witness_barriers :
    let on3 := regSet (regSet win (offJobBar 0 3) 1) (offJobMask 0 3 + 8) (word (2 ^ 31 + 2 ^ 30))
    (tb (regN win (offJobBar 0 3)) 0 = false) ∧
    (tb (regN on3 (offJobBar 0 3)) 0 = true ∧ barMember on3 0 3 95 = true ∧ ((jobOf on3 0).bars[3]?).map (·.arrived) = some []) ∧
    (∃ k ∈ (List.range 96).filter (barMember on3 0 3), k ∉ ([] : List Nat) ++ [95]) ∧
    (∀ k ∈ (List.range 96).filter (barMember on3 0 3), k ∈ [94] ++ [95]) := by
  refine ⟨?_, ?_, ⟨94, ?_, ?_⟩, ?_⟩ <;> decide +kernel

theorem witness_sequencer_records :
    let get := srec 6 [(8, 1), (64, num [(45, 94), (41, 1)]), (160, 64), (128, 64)]
    let far := srec 6 [(8, 1), (64, num [(45, 105)]), (160, 64), (128, 64)]
    let add := srec 5 [(8, 2), (64, num [(45, 94), (41, 2)])]
    (RecordAt (runs [srec 4 []] [fwd]) 95 3 (srec 4 []) 0 4 ∧ RecordAt (runs [srec 7 []] [fwd]) 95 3 (srec 7 []) 0 7) ∧
    (RecordAt (runs [add] [fwd]) 95 3 add 0 5 ∧ remoteStatus (runs [add] [fwd]) 0 0x38 4 4 (sLaddr add) = 0 ∧ tb (sMod add) 1 = true ∧
      scOpen (runs [add] [fwd]) 95 3 false true = false ∧ scOpen { runs [add] [fwd] with flights := [flight0] } 95 3 false true = true ∧
      remoteStatus (runs [add] [fwd]) 0 0x38 4 4 (sLaddr far) ≠ 0) ∧
    (RecordAt (runs [get] [fwd]) 95 3 get 0 6 ∧ remoteStatus (runs [get] [fwd]) 0 0x32 64 64 (sLaddr get) = 0 ∧
      strandLocal (runs [get] [fwd]) 0 95 (sLocal get) 64 64 .write = 0 ∧ heldByHazard (runs [get] [fwd]) 95 3 (⟨[], [(sLocal get, 64)]⟩ : Footprint) = false ∧
      remoteStatus (runs [get] [fwd]) 0 0x32 64 64 (sLaddr far) ≠ 0) ∧
    (let m := modFacet (runs [get] [fwd]) 95 fun x => { x with ray := [⟨3, 0, rc [(0, 2), (8, 0), (31, 5), (60, 16), (40, 1), (120, 8), (160, 8), (252, 64)]⟩] }
     RecordAt m 95 3 get 0 6 ∧ heldByHazard m 95 3 (⟨[], [(sLocal get, 64)]⟩ : Footprint) = true) ∧
    (RecordAt { runs [srec 8 [(8, 2)]] [fwd] with flights := [flight0] } 95 3 (srec 8 [(8, 2)]) 0 8 ∧
      scOpen { runs [srec 8 [(8, 2)]] [fwd] with flights := [flight0] } 95 3 false true = true) := by
  refine ⟨?_, ?_, ?_, ?_, ?_⟩ <;> decide +kernel

theorem witness_tally_timeouts :
    let w : ScWait := .tally 1 1 true (some 100) 0
    let m := modRun (runs [] [fwd]) 95 3 fun r => { r with wait := w }
    let a (d : Option Nat) : Strand := { str with wait := .tally 1 1 true d 2 }
    strandOf (strands 0 (a (some 100))) 95 16383 = some (a (some 100)) ∧ strandOf (strands 0 (a none)) 95 16383 = some (a none) ∧
    ((scOf m 95 3).run.map (·.wait)) = some w := by decide +kernel

theorem witness_remote_operations :
    let m (fl : Flight) : Mach := { win with flights := [fl] }
    let far : Flight := { flight0 with req := { flight0.req with laddr := word (num [(45, 95), (52, 1)]) } }
    let orphan : Flight := { flight0 with orphan := true }
    let rep : Flight := { flight0 with state := .replied 0 [] }
    (targetMissing win (latOf flight0.req.laddr.toNat) true = false ∧
      targetMissing (modFacet win 95 fun x => { x with failed := true }) (latOf flight0.req.laddr.toNat) false = true) ∧
    ((m flight0).flights.find? (fun fl => fl.opid == 7) = some flight0 ∧ (latOf flight0.req.laddr.toNat).mod = self (m flight0) ∧
      flight0.state = .requested) ∧
    (win.flights.find? (fun fl => fl.opid == 7) = none ∧ 5 ≠ self win) ∧
    ((m rep).flights.find? (fun fl => fl.opid == 7) = some rep ∧ rep.state = .replied 0 []) ∧
    ((m far).flights.find? (fun fl => fl.opid == 7) = some far ∧ (latOf far.req.laddr.toNat).mod ≠ self (m far) ∧ far.state = .requested) ∧
    ((m orphan).flights.find? (fun fl => fl.opid == 7) = some orphan ∧ flight0.orphan = false ∧ isHeader flight0 = false) := by
  refine ⟨?_, ?_, ?_, ?_, ?_, ?_⟩ <;> decide +kernel

/-- GRAD_ACC of layer 0, 64 bytes. -/
def grec (layer : Nat) : Rec := rc [(0, 0x10), (192, 64), (36, layer)]

theorem witness_gradients :
    let m := trn [grec 0]
    let held := modFacet m 95 fun x => { x with ray := [⟨3, 0, rc [(0, 2), (8, 0), (31, 5), (60, 16), (40, 1), (120, 8), (160, 8), (252, 0)]⟩] }
    let q := modFacet m 95 fun x => { x with grads := [(3, 0, grec 0)] }
    (RecordAt m 95 3 (grec 0) 0 0x10 ∧ (scOf m 95 3).owner = some (0, ent) ∧ gradStatus m 95 3 0 ent (grec 0) = 0 ∧
      heldByHazard m 95 3 ⟨[(gSrc (grec 0), gLength (grec 0))], []⟩ = false) ∧
    (RecordAt held 95 3 (grec 0) 0 0x10 ∧ heldByHazard held 95 3 ⟨[(gSrc (grec 0), gLength (grec 0))], []⟩ = true) ∧
    (RecordAt (trn [grec 1]) 95 3 (grec 1) 0 0x10 ∧ gradStatus (trn [grec 1]) 95 3 0 ent (grec 1) = 0x64) ∧
    ((facetOf q 95).grads = [(3, 0, grec 0)] ∧ (facetOf q 95).failed = false ∧ (scOf q 95 3).owner = some (0, ent)) := by
  refine ⟨?_, ?_, ?_, ?_⟩ <;> decide +kernel

theorem witness_fold :
    let put (c : Channel) : Mach := modLink { modChan (trn []) 31 (fun _ => c) with edges := 100 } 4 fun l => { l with farModule := 1 }
    let d : FoldDone := ⟨0, 1, 10, [], [], 0, false⟩
    let stall : Channel := { chn with began := true }
    ((chanOf rdy 31).en = false ∧ (chanOf rdy 31).done = [] ∧ memberPos chn 9 = none) ∧
    ((chanOf (put chn) 31).en = true ∧ memberPos chn 1 = some 1) ∧
    ((chanOf (put { chn with done := [d] }) 31).done = [d] ∧ (∀ fl ∈ (put chn).flights, fl.issuer ≠ .fold 31) ∧
      chanLayer chn d.entry = some ⟨0, 0, 0, 0, 0, 0, 0⟩) ∧
    (chanLayer (chanOf (put stall) 31) stall.cur = some ⟨0, 0, 0, 0, 0, 0, 0⟩ ∧ (chanOf (put stall) 31).began = true ∧
      (chanOf (put stall) 31).stalled = false ∧ expired (put stall) stall.lastMove (regN (put stall) offFoldTimeout) = true) ∧
    (expired rdy 0 (regN rdy offFoldTimeout) = false) ∧
    ((linkOf (put chn) 4).farModule = 1 ∧ settingsDiffer (foldSettings chn) (foldSettings chn) = none ∧
      settingsDiffer (foldSettings chn) { foldSettings chn with crc := 1 } = some 6) := by
  refine ⟨?_, ?_, ?_, ?_, ?_, ?_⟩ <;> decide +kernel

/-- A cut of generation 4 with nothing to do. -/
def cut0 : Cut :=
  { gen := 4, mzero := false, pieces := [], total := 0, stream := [], prog := [], holds := [], sections := [], placed := [], acked := []
    tried := [], sent := [], hostSlots := [], entries := [], entriesDone := false, manifested := [], done := false, membersDone := []
    membersAck := [], committing := none, losses := [], ringEmpty := none, overtime := 0 }

theorem witness_updates :
    let m := trn []
    let all := modPipe m 0 3 fun x => { x with gather := { x.gather with layers := [(0, 0, 0)] } }
    let judged := modPipe m 0 3 fun x => { x with verdict := some 1 }
    let u : UpdateRun := ⟨3, 0, { ent with areaSize := 1 }, false, false⟩
    let run (u : UpdateRun) (m : Mach) : Mach := modSc m 95 3 fun x => { x with update := [u] }
    let ready := modPipe (run u m) 0 3 fun x => { x with values := some vals0 }
    let cut : Cut := { cut0 with holds := [(95, 0)] }
    let held := modSnap ready 0 fun x => { x with cut := some cut }
    let go := modPipe (run { u with started := true } m) 0 3 fun x => { x with values := some vals0 }
    1 ≠ m.tick.sweepNo ∧
    ((pipeOf m 0 3).setup = some setup0 ∧ gathered m 0 3 = false) ∧
    ((pipeOf all 0 3).setup = some setup0 ∧ updEnabled all 0 3 = true ∧ isHome all 0 3 = true ∧ (pipeOf all 0 3).verdict = none ∧ gathered all 0 3 = true) ∧
    ((pipeOf judged 0 3).verdict.isSome = true ∧ vals0.sweep = m.tick.sweepNo ∧ (pipeOf m 0 3).verdict = none) ∧
    (((scOf rdy 95 3).update.find? fun r => !r.started && !r.copy) = none) ∧
    (((scOf (run u judged) 95 3).update.find? fun r => !r.started && !r.copy) = some u ∧ ((pipeOf (run u judged) 0 3).verdict == some 1) = true) ∧
    ((!(run u m).twin.frozen && runReady (run u m) u) = false) ∧
    ((!held.twin.frozen && runReady held u) = true ∧ momentHeld held u.entry = true ∧ momentHeld ready u.entry = false ∧
      (!ready.twin.frozen && runReady ready u) = true) ∧
    (((scOf go 95 3).update.find? fun r => r.started) = some { u with started := true } ∧
      (let m1 := modRunOf 95 3 (·.started) (fun _ => none) go
       ownerOf m1 0 u.entry = some ent ∧ (pipeOf m1 0 3).setup = some setup0 ∧ (pipeOf m1 0 3).values = some vals0 ∧
       (publishedOf m1 95 3 0 3).map (·.vtag) = some 7 ∧ (autoTarget m1 95 3 0 3).map (·.vtag) = some 8)) := by
  refine ⟨?_, ?_, ?_, ?_, ?_, ?_, ?_, ?_, ?_⟩ <;> decide +kernel

/-! ### Witnesses: snapshots, restores, facets, twins, links -/

def man (md : Nat) : ManifestInfo := ⟨md, 4, 1, true, false, 4, 1, 1, [], [], [], [], none⟩
def rest0 : Restore := ⟨0, 0, 0, 4, false, false, false, false, [], [1], [], [man 0], [], [], some 4, none⟩

/-- Job 15 armed: this module and module 1, peers 1 to 5. -/
def armed (g : SnapDom → SnapDom) : Mach :=
  modSnap (modTick rdy fun t => { t with running := true }) 15 fun x => g { x with
    armed := true, k := 4, m := 1, crc := 9, members := [(0, 0), (1, 1)], targets := [(1, 1), (1, 2), (1, 3), (1, 4), (1, 5)] }

theorem witness_snapshots :
    let m := armed id
    let sent := armed fun x => { x with cut := some { cut0 with sent := [(1, 0, 0, 0)], ringEmpty := some 0 } }
    let item : StoreItem := ⟨0, 1, 15, 4, 0, false, 0, 0, false⟩
    let v : MovedShard := ⟨3, 2, 0, 0, [1], [], 0, ⟨0, 0, 0, 0⟩, [], 9, 0⟩
    let isMoved (w : MovedShard) : Bool := w.gen == 3 && w.shard == 2 && targetModule m (snapOf m 15) w.target == some 1
    let placed := armed fun x => { x with cut := some { cut0 with placed := [(2, 0)] } }
    let st : Mach := { m with store := [item] }
    let slots := regSet m offStoreSlots 1
    (Ready (on m) ∧ (snapOf m 15).armed = true ∧ isLeader (snapOf m 15) = true ∧ m.tick.running = true ∧ m.twin.frozen = false) ∧
    ((snapOf rdy 15).armed = false ∧ (snapOf m 15).cut = none) ∧
    ((snapOf sent 15).cut = some { cut0 with sent := [(1, 0, 0, 0)], ringEmpty := some 0 } ∧ sentTo sent 15 1 0 = some (1, 0, 0, 0) ∧
      sentTo sent 15 1 1 = none ∧ 5 ≠ cut0.gen) ∧
    (([v].find? isMoved = some v ∧ ([] : List MovedShard).find? isMoved = none) ∧
      (placedOn placed 15 1 2 = some 0 ∧ sentTo placed 15 1 2 = none ∧ placedOn sent 15 1 2 = none) ∧
      (bufferBytes sent + 65536 ≤ 0x1000000 ∧ (jobOf m 15).snap.moving = [])) ∧
    ((st.store.filter fun i => !(i.owner == 1 && i.job == 15 && !i.committed && decide (i.gen < 4))).find? (sameItem 1 15 4 0 false) = some item ∧
      0 ≠ manifestIdx) ∧
    ((∀ i ∈ slots.store, sameItem 1 15 4 0 false i = false) ∧ freeSlot slots = some 0 ∧ freeSlot m = none) := by
  refine ⟨?_, ?_, ?_, ?_, ?_, ?_⟩ <;> decide +kernel

theorem witness_restores :
    let m (r : Restore) := armed fun x => { x with restore := some r }
    let one := armed fun x => { x with members := [(0, 0)], restore := some rest0 }
    let sn := snapOf (armed fun x => { x with lastWant := 4 }) 15
    let whole : ManifestInfo := { man 0 with nData := 0 }
    let shift := modJob { one with shifts := [⟨rowOf ((anySiteOf one 95).getD 255), 100, 103, true, false, false⟩] } 15 fun j =>
      { j with maps := List.replicate 6 (some ⟨0, [ent], [], [], []⟩) }
    ((snapOf (armed id) 15).restore = none ∧ isLeader { snapOf (armed id) 15 with leader := 1 } = false) ∧
    ((snapOf (m rest0) 15).restore = some rest0 ∧ (2 ∉ rest0.awaited) ∧ (1 ∈ rest0.awaited ∧ 1 ∉ rest0.answered)) ∧
    (isLeader (snapOf (m rest0) 15) = true ∧ chooseFrom (m rest0) (snapOf (m rest0) 15) [(1, [4])] 4 = none ∧
      chooseFrom (m rest0) (snapOf (m rest0) 15) [(0, [4]), (1, [4])] 4 = some (some 4) ∧
      chooseFrom (m rest0) (snapOf (m rest0) 15) [(0, [4]), (1, [])] 0 = some none) ∧
    ((snapOf (m { rest0 with chosen := none }) 15).restore = some { rest0 with chosen := none }) ∧
    (rest0.chosen = some 4 ∧ jobShifting one 15 = false ∧ jobShifting shift 15 = true ∧ (snapOf shift 15).restore = some rest0 ∧ (snapOf one 15).restore = some rest0 ∧ winning rest0 (self one) 4 = some (man 0) ∧
      winning rest0 (writerModule (snapOf one 15)) 4 = some (man 0)) ∧
    (sn.restore = none ∧ isLeader sn = true ∧ chooseFrom (armed id) sn [(1, [4])] sn.lastWant = none ∧
      chooseFrom (armed id) sn [(0, [4]), (1, [4])] sn.lastWant = some (some 4)) ∧
    (recover (man 0) [] = none ∧ recover whole [] = some ([], []) ∧ readerDiffers one 15 whole [] = false ∧
      readerDiffers one 15 { whole with modNum := 1, sections := [0, 0, 0, 5] } [] = true) := by
  refine ⟨?_, ?_, ?_, ?_, ?_, ?_, ?_⟩ <;> decide +kernel

theorem witness_facets_and_twins :
    let dead := modFacet rdy 95 fun x => { x with failed := true }
    let hb : HeartbeatMsg := ⟨[], 0, 1, 5, false, false, true⟩
    let twin := modTick (modTwin (modFlash rdy fun x => { x with twinSerial := 1 }) fun t => { t with missed := 4, last := some hb }) fun t => { t with running := true }
    (facetOf dead 95).failed = true ∧ ((facetOf rdy 95).failed = false ∧ 95 < rdy.facets.length ∧ rdy.jobs.length = 16) ∧
    twinOn rdy = false ∧ (twinOn twin = true ∧ twin.tick.running = true) ∧
    (35 ∈ bridgeLinks twin ∧ 31 ∉ bridgeLinks twin ∧ twin.twin.last = some hb ∧ hb.tick ≠ { hb with tick := 6 }.tick) ∧
    (twin.twin.lost = false ∧ hbMiss twin ≤ twin.twin.missed ∧ rdy.twin.missed < hbMiss rdy) := by
  refine ⟨?_, ?_, ?_, ?_, ?_, ?_⟩ <;> decide +kernel

theorem witness_links :
    let up := modLink rdy 35 fun x => { x with state := 2, width := 8, good := 0xFF, held := [⟨5, List.replicate 5 none, 0, 0⟩], farModule := 1 }
    let down := modLink rdy 35 fun x => { x with state := 1, prevFar := some 1, farWidth := 8, good := 0xFF, tryAt := some 0, farLast := some 7 }
    let re := modLink up 35 fun x => { x with retraining := some 7 }
    let off := regSet rdy (offLinkCtl 35) 0x10
    ((linkOf rdy 35).state ≠ 2 ∧ (linkOf rdy 35).prevFar = none) ∧
    ((linkOf up 35).state = 2 ∧ (linkOf up 35).retraining ≠ some 7 ∧ 7 ∈ activeLanes up 35) ∧
    ((linkOf down 35).state ≠ 2 ∧ (linkOf down 35).prevFar.isSome = true ∧ (linkOf down 35).state = 1 ∧ linkEn down 35 = true) ∧
    (linkEn off 35 = false ∧ linkEn rdy 35 = true) ∧
    (linkOptics (modLink rdy 35 fun x => { x with state := 1 }) 35 = false) ∧
    ((linkOf re 35).retraining = some 7) := by
  refine ⟨?_, ?_, ?_, ?_, ?_, ?_⟩ <;> decide +kernel

/-! ### Witnesses: memory control, focus, power, boot, tests, switches, numbers -/

theorem witness_memory_control :
    let mv (k : MoveKind) : Mach := modFacet rdy 95 fun x => { x with moves := [(k, true)] }
    let re := modTick (modFacet rdy 103 fun x => { x with retrain := some 15 }) fun t => { t with phase := 4 }
    runningMove (mv (.channel 15 0)) 95 = some (.channel 15 0) ∧ runningMove (mv (.rekey 7 0 1)) 95 = some (.rekey 7 0 1) ∧
    runningMove rdy 95 = none ∧ (∀ u ∈ [(1, 64), (0, 8)] ++ [(1, 0)], u.1 < 2) ∧ retrainPhase rdy = false ∧
    (retrainPhase re = true ∧ ((facetOf re 103).retrainReq.head?).or (facetOf re 103).retrain = some 15 ∧
      (facetOf re 103).retrainAt ≠ some re.tick.edgeAt ∧ (facetOf (modFacet re 103 fun x => { x with retrainAt := some 0 }) 103).retrainAt = some re.tick.edgeAt ∧
      ((facetOf re 103).retrainReq.head?).or (facetOf re 103).retrain ≠ some 14) := by
  refine ⟨?_, ?_, ?_, ?_, ?_, ?_⟩ <;> decide +kernel

def ev (src prio born : Nat) : EvRec := ⟨0x200, src, prio, none, [], 0, 0, born⟩

/-- The higher PRIO goes first; a frozen core, a stack of two, lines that are sampled and lines that are latched. -/
theorem witness_focus :
    let m := modFocus rdy fun x => { x with queue := [ev 35 2 0, ev 36 9 1, ev 37 9 2] }
    let core := modCore rdy 15 fun x => { x with stack := [(35, 3), (36, 1)] }
    let frz := modCore rdy 15 fun x => { x with frozen := true }
    let smp := modFocus rdy fun x => { x with sampling := true }
    nextRelease m = some (1, ev 36 9 1) ∧ nextRelease rdy = none ∧ (coreOf frz 15).frozen = true ∧
    ((coreOf core 15).frozen = false ∧ (coreOf core 15).stack = (35, 3) :: [(36, 1)] ∧ 35 ≠ 36) ∧
    (smp.focus.sampling = true ∧ (smp.focus.lines.getD 11 ⟨false, none⟩).asserted = false) ∧
    (rdy.focus.sampling = false ∧ rdy.power.leak = false) := by
  refine ⟨?_, ?_, ?_, ?_, ?_, ?_⟩ <;> decide +kernel

theorem witness_power :
    let rec1 := modPower (regSet rdy offStatDiv 1) fun p => { p with statTicks := 1 }
    (regN rdy offStatDiv = 0 ∨ rdy.power.statTicks < regN rdy offStatDiv) ∧ regN rec1 offStatDiv ≠ 0 ∧ regN rec1 offStatDiv ≤ rec1.power.statTicks ∧
    rdy.boot.state = 3 ∧ State.reset.m.boot.state ≠ 0 ∧ State.reset.m.boot.state ≠ 3 ∧ { State.reset.m with boot := { Boot.init with state := 0 } }.boot.state = 0 := by
  decide +kernel

theorem witness_power_states :
    let at_ (st step : Nat) : Mach := { State.reset.m with boot := { Boot.init with state := st, step := step } }
    let noBank := modFlash (at_ 2 3) fun x => { x with banks := x.banks.map fun b => { b with valid := false } }
    let noCopy := modFlash (at_ 2 4) fun x => { x with copies := [(false, 0), (false, 0)] }
    ((at_ 1 0).power.flowLow = false ∧ (at_ 1 0).power.leak = false ∧ (at_ 1 0).boot.resetN = true) ∧
    ((at_ 2 3).boot.step = 3 ∧ bootBank (at_ 2 3).flash = some 0 ∧ bootBank noBank.flash = none) ∧
    (bootCopy (at_ 2 4).flash = some (0, 0) ∧ bootCopy noCopy.flash = none) ∧
    ((at_ 2 6).boot.step = 6 ∧ (∀ x ∈ [104, 105], 104 ≤ x)) ∧ (7 ≤ (at_ 2 7).boot.step ∧ ∀ x ∈ (at_ 2 7).flash.sites, x.state ≠ 1) ∧
    ((modPower rdy fun p => { p with leakAt := some 5 }).power.leakAt = some 5 ∧ rdy.power.leakAt = none) := by
  refine ⟨?_, ?_, ?_, ?_, ?_, ?_⟩ <;> decide +kernel

theorem witness_tests :
    let wire := modTest rdy fun t => { t with busy := true, op := 1, started := true, site := 103 }
    let uc (k : Nat) := modTest rdy fun t => { t with ucode := some ⟨0, k, 0⟩ }
    let op (k : Nat) := modTest rdy fun t => { t with busy := true, op := k }
    (wire.test.busy = true ∧ wire.test.op = 1 ∧ wire.test.started = true) ∧ rdy.test.busy = false ∧ rdy.test.ucode = none ∧
    ((uc 1).test.ucode = some ⟨0, 1, 0⟩ ∧ (uc 3).test.ucode = some ⟨0, 3, 0⟩ ∧ (uc 2).test.ucode = some ⟨0, 2, 0⟩) ∧
    ((op 3).test.busy = true ∧ (op 3).test.op = 3 ∧ (op 6).test.op = 6) := by
  decide +kernel

def roll0 (u : RollUser) : Rollout :=
  { tokenOfs := 0, stop := 0, stopEn := false, prefillProg := 1, decodeProg := 2, prefillBudget := 0, chunk := 512, ctxMax := 16, users := 255
    pos := 255, tau := 100, d := 10, e := [0], slots := List.replicate 254 none ++ [some u] }

/-- User 254 of pipeline 3 of job 0 decodes on stage context 3 of facet 95. -/
theorem witness_rollout :
    let u : RollUser := ⟨mb0, 0, 64, 0, some 0, 0, [], 0, 0, []⟩
    let put (u : RollUser) : Mach := modPipe (modJob (runs [] [⟨3, mb0, none⟩]) 0 fun j => { j with maps := List.replicate 6 (some ⟨0, [ent], [], [], []⟩) })
      0 3 fun x => { x with rollout := some (roll0 u) }
    let sw := modFacet rdy 95 fun x => { x with switching := some ([], [0], 0) }
    (facetOf rdy 95).switching = none ∧ (facetOf sw 95).switching = some ([], [0], 0) ∧ (jobOf rdy 15).holdUntil = none ∧
    (jobOf (modJob rdy 15 fun j => { j with holdUntil := some 5 }) 15).holdUntil = some 5 ∧
    (rollOf (put u) 0 3 = some (roll0 u) ∧ userOf (put u) 0 3 254 = some u ∧ stepDue (put u) (roll0 u) u 254 0 = true ∧
      stepDue (put u) (roll0 { u with decodeFrom := none }) { u with decodeFrom := none } 254 0 = false) ∧
    (stageEntry (put u) 0 3 (pipeStages (put u) 0 3 - 1) = some ent ∧ (scOf (put u) 95 3).run = some (slot [⟨3, mb0, none⟩]) ∧
      (slot [⟨3, mb0, none⟩]).units[0]? = some ⟨3, mb0, none⟩ ∧ unitDone (put u) (scOf (put u) 95 3) (slot [⟨3, mb0, none⟩]) = true) := by
  refine ⟨?_, ?_, ?_, ?_, ?_, ?_⟩ <;> decide +kernel

/-- The formats' largest and smallest patterns are finite, and the premises on magnitudes and integers hold at their ends. -/
theorem witness_numbers :
    (∀ F ∈ [f32, fBf16, fF16, fUbf16, fE4m3, fE5m2, fE2m1], isFin (fpDec F 0) = true ∧ isFin (fpDec F 1) = true) ∧
    2 ^ 128 ≤ 1 * 2 ^ 128 ∧ 512 ≤ 1 * 2 ^ 9 ∧ (-(2 ^ (8 - 1)) ≤ (-128 : Int) ∧ (127 : Int) < 2 ^ (8 - 1) ∧ (2 : Int) ^ (8 - 1) ≤ 128) := by
  decide +kernel

/-! ### Witnesses: the further cases of the statements -/

/-- A check that passed and one that did not; a switch that waits; losses at the home and away from it; a read of a freed entry. -/
theorem witness_publishing_cases :
    let chk (scs : List (Nat × Nat)) := modPipe mapped 0 3 fun x => { x with checks := [⟨7, 9, scs, []⟩], liveMbs := [(5, 7)] }
    let run := modTick rdy fun t => { t with running := true, tickNo := 4 }
    let x : Desc := ⟨vbd 2 0 7, 0, true, 0, .work, false⟩
    let fr : FreedRead := ⟨3, 0, 0, 1, 20, 1⟩
    let gone : Mach := { modLocus lcs 95 3 fun l => { l with freed := [fr] } with descs := [x] }
    (isHome (chk [(95, 0)]) 0 3 = true ∧ checkPassed (chk [(95, 0)]) 0 3 (some ⟨7, 9, [(95, 0)], []⟩) = true ∧
      checkPassed (chk []) 0 3 (some ⟨7, 9, [], []⟩) = false ∧
      ((pipeOf (chk []) 0 (vpPipe vpd)).checks.any fun c => c.tag == vpTag vpd && c.sweep == dEdge vpd) = true) ∧
    (run.tick.running = true ∧ run.tick.tickNo < 5 ∧ 4 ≤ run.tick.tickNo ∧ rdy.tick.running = false) ∧
    (isHome win 0 3 = false ∧ (pipeOf win 0 3).abandoned.contains 5 = false ∧ isHome (chk []) 0 3 = true ∧
      liveTag (chk []) 0 3 5 = some 7) ∧
    ((locusOf gone 95 3).freed = [fr] ∧ fr.entry = 3 ∧ fr.ring = x.d.ring ∧ fr.index = x.d.index ∧ gone.descs = [x] ∧
      ueHit gone 95 fr.space (4096 * fr.base) (4096 * fr.size) = []) := by
  refine ⟨?_, ?_, ?_, ?_⟩ <;> decide +kernel

/-- A stream in error, one short of its end, one with bad segments and one without; a link run. -/
theorem witness_stream_ends :
    let short : LoadRun := { lrun with received := 128 }
    (lrun.err = false ∧ lrun.ended = false ∧ lrun.len ≤ short.received ∧ { lrun with err := true }.err = true) ∧
    ({ lrun with ended := true }.ended = true ∧ { lrun with ended := true, bad := 1 }.bad = 1 ∧ lrun.bad = 0 ∧
      forwarding { rdy with loads := [{ lrun with ended := true }] } = false) ∧
    ({ lrun with fromLink := true }.discard = false ∧ lrun.ring < 32 ∧ (linkOf rdy 35).loadHeld = []) := by
  refine ⟨?_, ?_, ?_⟩ <;> decide +kernel

/-- Images that another stage names, and a store filled by another image. -/
theorem witness_program_replacements :
    let m : Mach := { win with progs := [⟨4095, 0, false, []⟩] }
    let big : Mach := { win with progs := [⟨4095, 0, false, []⟩, ⟨1, 0, false, [0]⟩] }
    let named := modJob m 0 fun j => { j with maps := List.replicate 6 (some ⟨0, [{ ent with prog := 4095 }], [], [], []⟩) }
    (handleNamed m 4095 = false ∧ dKind (pgd 0 4095) = 0 ∧ pgKind (pgd 0 4095) = 0 ∧
      decide (16777216 < storeUsed big 4095 + pgLen (pgd 0 4095)) = false) ∧
    (handleNamed named 4095 = true ∧ progImage named 4095 = some ⟨4095, 0, false, []⟩ ∧ earlyStatus named specProg (pgFree 4095) = 0) := by
  refine ⟨?_, ?_⟩ <;> decide +kernel

/-- A policy that keeps stages on the module, one that breaks R313, and one whose traffic is over the host's share. -/
theorem witness_policies :
    let d (f : List (Nat × Nat)) : DescIn := dsc 0x38 ([(16, 2), (246, 4)] ++ f)
    let off (f : List (Nat × Nat)) := d ([(262, 1), (254, 1), (306, 64), (192, 4096)] ++ f)
    let m := modJob win 0 fun j => { j with maps := List.replicate 6 (some ⟨0, [{ ent with pipe := 0 }], [], [], []⟩) }
    let put (e : DescIn) : Mach := modPipe m 0 (apPipe e) fun x => { x with acts := [readPolicy m e] }
    (earlyStatus win specAct (d []) = 0 ∧ actBad win (d []) (readPolicy win (d [])) = false ∧ (readPolicy win (d [])).policy ≠ 1) ∧
    (earlyStatus m specAct (d []) = 0 ∧ actBad m (d [(322, 1)]) (readPolicy m (d [(322, 1)])) = true) ∧
    (let e := off []
     let none_ := regSet m offHostShare 0
     earlyStatus none_ specAct e = 0 ∧ actBad none_ e (readPolicy none_ e) = false ∧ (readPolicy none_ e).policy = 1 ∧
       regN none_ offHostShare * 24 * (timing none_).period < offloadBytes (put e)) := by
  refine ⟨?_, ?_, ?_⟩ <;> decide +kernel

/-- A restore that waits for module 1, and one that has no one to wait for. -/
theorem witness_restore_sources :
    let m := regSet win (offRoute 1) 35
    let peers (m : Mach) := ((((snapOf (armTable 0 domImg m) 0).targets.filter fun t => t.1 == 1 && t.2 != self m).map (·.2)
      ++ if m.twin.paired then [m.twin.modNum] else []).eraseDups).filter fun p => p != self m && (routeOf m p).isSome
    (peers win = [] ∧ enabledRing win 34 = false) ∧ (peers m = [1] ∧ noRoom m 0 = none ∧ layoutBad m 0 = false ∧
      tableBad m 112 domImg = false ∧ earlyStatus m specRestore (rst domImg 112) = 0 ∧ m.tick.running = false) := by
  refine ⟨?_, ?_⟩ <;> decide +kernel

/-- An armed job whose cut runs and one whose cut may begin; a job admitted suspended beside one it may overlap. -/
theorem witness_armed_and_suspended :
    let arm (c : Option Cut) : Mach := modSnap win 0 fun x => { x with armed := true, cut := c }
    let two := regSet (regSet (modJob adm 0 fun j => { j with claims := [⟨95, 0, 1, 0, 0, false, 0⟩] }) (offJob 0) 0x105) (offJob 1) 0x104
    let cs := readClaims ((imageBytes (jad 0)).getD [])
    let others (m : Mach) := (List.range 16).filter fun k => k != 1 && (jobOf m k).admitted && claimsMeet cs (jobOf m k).claims
    (earlyStatus (arm none) specSnapTake (stk []) = 0 ∧ (snapOf (arm none) 0).armed = true ∧ (snapOf (arm none) 0).cut = none ∧
      ((snapOf (arm (some { cut0 with gen := 1 })) 0).cut).isSome = true) ∧
    (tableBad win (stLen (stk [(224, 1), (192, 112)])) domImg = false ∧ tableBad win 64 [] = true) ∧
    (earlyStatus two specJobAdmit (jad 0) = 0 ∧ claimFault two (jaLen (jad 0)) ((imageBytes (jad 0)).getD []) = none ∧
      others two = [0] ∧ mayOverlap two 1 0 = true ∧ running two 0 = true ∧ (jobOf two 1).admitted = false ∧
      ((jobPreempt two 1 || jobGroup two 1 != 0) && cs.any (fun c => c.liveSize != 0 && !c.spillEn)) = false) := by
  refine ⟨?_, ?_, ?_⟩ <;> decide +kernel

/-- 16 groups with one step each: the least update table. -/
def updImg : List Byte := (List.range 16).flatMap fun _ => leBytes 64 (2 ^ 160)

theorem updImg_past (o n : Nat) (h : 1024 ≤ o) : imgNat updImg o n = 0 := by
  have hl : updImg.length ≤ o := by
    have : updImg.length = 1024 := by decide +kernel
    omega
  simp [imgNat, List.drop_eq_nil_of_le hl, leNat]

theorem updImg_good : updFault win (dsc 0x34 [(16, 2)] updImg) updImg = none := by
  have hs : ∀ g i, utSched updImg g i = 0 := fun g i => updImg_past _ _ (by omega)
  have hb : ∀ i, utByte updImg i = 0 := fun i => updImg_past _ _ (by omega)
  have ha : ∀ i, utArea updImg i = 0 := fun i => updImg_past _ _ (by omega)
  unfold updFault
  simp only [utAreas, hs, hb, ha]
  decide +kernel

theorem witness_update_tables :
    earlyStatus win specUpdate (dsc 0x34 [(16, 2)] updImg) = 0 ∧ updFault win (dsc 0x34 [(16, 2)] updImg) updImg = none ∧
    updFault win (dsc 0x34 [(16, 2), (265, 1)]) [] = some 1 :=
  ⟨by decide +kernel, updImg_good, by decide +kernel⟩

/-- The edge at which the domain stops; a symbol too late in holdover; a follower that missed two symbols; the reference armed, in
step, off by a microsecond and lost. -/
theorem witness_stops_and_references :
    let run := modTick rdy fun t => { t with running := true, tickNo := 999 }
    let flw := modTick run fun t => { t with master := false, uplink := 35 }
    let re := modTick flw fun t => { t with holdover := true, relock := true }
    let ref (k : Nat) := modTick run fun t => { t with refEn := true, refOk := true, refDiv := 2, refEdge := k }
    ((edgeInfo (modTick run fun t => { t with stopIn := 1 })).stop = true ∧ (edgeInfo run).stop = false ∧ edgeDue run = true) ∧
    (2000000 < (linkOf re 35).lat + { sym0 with delay := 1900001 }.delay + 100000 ∧ (linkOf re 35).lat + sym0.delay + 100000 ≤ 2000000 ∧
      re.tick.relock = true) ∧
    (let m := modTick flw fun t => { t with missed := 2 }
     m.tick.running = true ∧ m.tick.master = false ∧ m.tick.holdover = false ∧ 2 ≤ m.tick.missed ∧ flw.tick.missed < 2) ∧
    (let m := modTick rdy fun t => { t with armed := true, refEn := true }
     m.tick.master = true ∧ m.tick.refEn = true ∧ m.tick.armed = true ∧ m.tick.running = false ∧ m.tick.refOk = false) ∧
    (let m := modTick run fun t => { t with refEn := true }
     (ref 0).tick.armed = false ∧ (ref 0).tick.refOk = true ∧ m.tick.refOk = false ∧ (-1000000 : Int) ≤ -1000000 ∧ (1000001 : Int) > 1000000) ∧
    (let late : Mach := { ref 0 with edges := 4 }
     late.tick.refEdge + 2 * late.tick.refDiv ≤ late.edges ∧ ¬ (ref 0).tick.refEdge + 2 * (ref 0).tick.refDiv ≤ (ref 0).edges) := by
  refine ⟨?_, ?_, ?_, ?_, ?_, ?_⟩ <;> decide +kernel

/-- A side at its deadline, with and without a visible entry. -/
theorem witness_wave_deadlines :
    let wav (q : List ArcEntry) : Mach :=
      { tallySet (modRun (runs [] [⟨0, mb0, none⟩]) 95 3 fun r => { r with waves := [(1, 50)] }) 95 4095 1 with
        chords := [{ chd with e := { chd.e with kind := 1 }, queue := q }] }
    let q : ArcEntry := ⟨mb0, 0, true⟩
    let waits (m : Mach) := ((scOf (waveArrive 95 3 1 (atTime m 50)) 95 3).run.map fun r => r.waves.any fun w => w.1 == 1).getD false
    50 ≤ (atTime (wav []) 50).now ∧ waits (wav []) = true ∧ 50 ≤ (atTime (wav [q]) 50).now ∧ waits (wav [q]) = false := by
  decide +kernel

/-- The oldest header write of a chord on its way and a later one; a late header of a restarted chord; a chord to another module
before and after its comparison; losses, and a wait past its limit. -/
theorem witness_chord_cases :
    let far : Chord := { chd with e := { chd.e with srcModule := 5 } }
    let e (seq : Nat) : HeaderMsg := ⟨95, 256 * seq, BitVec.ofNat 512 (num [(32, seq), (96, 1023)]), 0, 0, false, 0⟩
    let net : Mach := { win with chords := [chd], chordNet := [e 0, e 1] }
    let one (c : Chord) : Mach := { win with chords := [c] }
    let behind : Mach := { net with flights := [{ flight0 with state := .requested, req := { flight0.req with op := 0x31 } }] }
    (nextHeader net 95 0 (leBytes 64 (e 0).header.toNat) = some (e 0) ∧ nextHeader net 95 256 (leBytes 64 (e 1).header.toNat) = none ∧
      nextHeader behind 95 0 (leBytes 64 (e 0).header.toNat) = some (e 0)) ∧
    (lateWrite (one far) 1023 = true ∧ lateWrite (one { far with checked := true }) 1023 = false ∧ lateWrite (one chd) 1022 = true ∧
      (⟨5, 1, 3, 1023⟩ : ChordFar).space = 3 ∧ (⟨5, 1, 0, 1023⟩ : ChordFar).space ≠ 3) ∧
    (chordOpen chd = true ∧ hasProducer chd.e = true ∧ chordOpen far = false ∧ chordOpen { chd with closed := true } = false) ∧
    ((chd.sent.filter fun p => decide ((p.1 + 65536 - 0) % 65536 < 1) || p.1 == 9).map (·.2) = [5] ∧
      (chd.sent.filter fun p => decide ((p.1 + 65536 - 1) % 65536 < 1) || p.1 == 9).map (·.2) = []) ∧
    (let m : Mach := { one { chd with waitFrom := some 3 } with edges := 1000000 }
     chordBy m 1023 = some { chd with waitFrom := some 3 } ∧ expired m 3 (regN m offCreditTimeout) = true ∧
       expired (one chd) 3 (regN (one chd) offCreditTimeout) = false) ∧
    (chd.closed = false ∧ { chd with closed := true }.closed = true ∧ chd.asked = false ∧ { chd with asked := true }.asked = true ∧
      { far with checked := true }.checked = true) := by
  refine ⟨?_, ?_, ?_, ?_, ?_, ?_⟩ <;> decide +kernel

/-- An EXPAND whose mask an earlier command of the stage context has still to write. -/
theorem witness_mask_holds :
    let ex : Rec := rc [(0, 2), (8, 0x1E), (31, 5), (34, 1), (60, 16), (40, 1), (120, 8), (160, 8), (180, 1), (200, 1024), (252, 2048)]
    maskHeld yrec [] = false ∧ rayGood ex = true ∧ maskHeld ex [⟨[], [(0, 4096)]⟩] = true := by decide +kernel

/-- The dispatch chord 1023 of stage context 3 of facet 95 to facet 94, with its payload ring at 64 KiB of the scratchpad. -/
def disp : Chord := { chd with e := { chd.e with payloadBase := 16, kind := 2, dstFacet := 94, srcFacet := 95, srcSc := 3 } }

/-- A token's write at the payload ring: every replica full, no credit for the entry, and its credit there. -/
theorem witness_token_writes :
    let w := iw 0x33 6 0 [(44, 1)]
    let a : Strand := { str with regs := List.replicate 16 0 |>.set 1 (word (num [(45, 94), (0, 65536)])) }
    let m (cap credit : Nat) : Mach := { modJob (tallySet (strands w a) 95 4094 (BitVec.ofNat 32 credit)) 0 fun j => { j with
      maps := List.replicate 6 (some ⟨0, [ent], [], [⟨1023, cap, 3, 94, 0, 0⟩], []⟩) } with chords := [disp] }
    let l := latOf (num [(45, 94), (0, 65536)])
    let lost (m : Mach) : Bool := match placeToken m 95 3 0x33 l with | .lost _ => true | _ => false
    let waits (m : Mach) : Bool := match placeToken m 95 3 0x33 l with
      | .go l m => (match payloadWrite m 95 3 l 64 with | .wait k => k == 1023 | _ => false) | _ => false
    let goes (m : Mach) : Bool := match placeToken m 95 3 0x33 l with
      | .go l m => (match payloadWrite m 95 3 l 64 with
        | .go l2 k m2 => k == some 1023 && payloadChord m2 95 3 (word (latAddr l2)) == some 1023 | _ => false) | _ => false
    let plain (m : Mach) : Bool := match placeToken m 95 3 0x31 (latOf 0) with
      | .go l m => (match payloadWrite m 95 3 l 64 with
        | .go l2 k m2 => k == none && payloadChord m2 95 3 (word (latAddr l2)) == none | _ => false) | _ => false
    lost (m 0 1) = true ∧ waits (m 1 0) = true ∧ goes (m 1 1) = true ∧ plain (m 1 1) = true := by
  decide +kernel

/-- An ASYNC group before its last start, one that has ended, with and without it. -/
theorem witness_async_groups :
    let arec : Rec := rc [(0, 3), (16, 7), (32, 8), (96, 10), (120, 1), (136, 1), (152, 4096), (197, 1)]
    let g : Group := { grp [] with cmd := arec, started := 7, ended := 7 }
    let m (g : Group) : Mach := modFacet (runs [lrec] [fwd]) 95 fun x => { x with groups := [g] }
    (launchGroup (m g) 95 0 = some g ∧ gAsync g = true ∧ g.started + 1 = gCount g ∧ freeStrand (facetOf (m g) 95) (7 % 8) = some 7) ∧
    (gAsync (grp []) = false) ∧
    ({ g with started := 8, ended := 8, asyncDone := true }.asyncDone = true ∧ (grp []).asyncDone = false) := by
  refine ⟨?_, ?_, ?_⟩ <;> decide +kernel

/-- TADD with REL, GETB, PUTB, TWAIT and FENCE on their several paths. -/
theorem witness_strand_waits :
    let fl : Flight := { flight0 with issuer := .strand 95 16383, req := { flight0.req with op := 0x31 } }
    let at_ (w : Word) (a : Strand) := strands w a
    let tadd := iw 0x38 2 2
    let putb := iw 0x33 6 0
    let tw (rb rc : Nat) : Word := iw 0x3A 2 0 [(48, 1), (44, 0), (40, rb), (28, rc)]
    let fen := iw 0x3C 0 2
    (StrandAt (at_ tadd str) 95 16383 str (grp [tadd]) tadd ∧ (iMod tadd).testBit 1 = true ∧ strandOpen (at_ tadd str) 95 16383 false true = false ∧
      strandOpen { at_ tadd str with flights := [fl] } 95 16383 false true = true) ∧
    (let m := at_ putb str
     remoteStatus m 0 0x33 64 64 (getReg str (iRa putb) + iImm putb) = 0 ∧ localStatus m 0 95 0 64 .read = 0 ∧
       str.bytes + 64 ≤ gBytes (grp [putb]) ∧ gBytes (grp [putb]) < { str with bytes := 4096 }.bytes + 64 ∧
       (readChecked m 95 0 0 64).2.1 = false ∧ (readChecked { m with ue := [memKey 95 0 0] } 95 0 0 64).2.1 = true) ∧
    (let w := tw 0 0
     waitStatus (at_ w str) 0 95 0 = 0 ∧ tallyMet (tallyGet (at_ w str) 95 0) 0 true = true ∧
       tallyMet (tallyGet (at_ w str) 95 0) 1 true = false ∧ str.waits < gWaits (grp [w]) ∧ gWaits (grp [w]) ≤ { str with waits := 1 }.waits ∧
       waitStatus (at_ w str) 0 95 4096 ≠ 0) ∧
    (strandOpen (at_ fen str) 95 16383 ((iMod fen).testBit 0) ((iMod fen).testBit 1) = false ∧
      strandOpen { at_ fen str with flights := [fl] } 95 16383 ((iMod fen).testBit 0) ((iMod fen).testBit 1) = true) := by
  refine ⟨?_, ?_, ?_, ?_⟩ <;> decide +kernel

/-- A put that waits for credit and one that goes; a wait whose deadline comes, met and unmet. -/
theorem witness_record_cases :
    let put := srec 6 [(64, num [(45, 94), (0, 65536)]), (160, 64)]
    let m (credit : Nat) : Mach := { tallySet (runs [put] [fwd]) 95 4094 (BitVec.ofNat 32 credit) with chords := [disp] }
    let l (m : Mach) := actRedirect m 95 3 (latOf (sLaddr put).toNat)
    let w : ScWait := .tally 1 1 true (some 100) 0
    let sc := modRun (runs [] [fwd]) 95 3 fun r => { r with wait := w }
    let a : Strand := { str with wait := .tally 1 1 true (some 100) 2 }
    let st := strands 0 a
    (RecordAt (m 0) 95 3 put 0 6 ∧ remoteStatus (m 0) 0 0x33 64 64 (sLaddr put) = 0 ∧ strandLocal (m 0) 0 95 (sLocal put) 64 64 .read = 0 ∧
      heldByHazard (m 0) 95 3 ⟨[(sLocal put, 64)], []⟩ = false ∧ (sMod put == 1) = false) ∧
    ((match payloadWrite (m 0) 95 3 (l (m 0)) 64 with | .wait k => k == 1023 | _ => false) = true ∧
      (match payloadWrite (m 1) 95 3 (l (m 1)) 64 with | .go _ k _ => k == some 1023 | _ => false) = true) ∧
    (100 ≤ (atTime sc 100).now ∧ 100 ≤ (atTime st 100).now ∧ tallyMet (tallyGet (atTime st 100) 95 1) 1 true = false ∧
      tallyMet (tallyGet (atTime (tallySet st 95 1 1) 100) 95 1) 1 true = true) := by
  refine ⟨?_, ?_, ?_⟩ <;> decide +kernel

/-- Operations past their limit that go on and that do not, a die that is held, and one for another module. -/
theorem witness_remote_cases :
    let m (fl : Flight) : Mach := { win with flights := [fl] }
    let far : RemoteReq := { flight0.req with laddr := word (num [(45, 95), (52, 1)]) }
    let d := flight0.sentAt + 100 * regN (m flight0) offRemoteTimeout
    (d ≤ (atTime (m flight0) d).now ∧ (flight0.state == .requested) = true ∧ (latOf flight0.req.laddr.toNat).mod = self (m flight0)) ∧
    (let r : Flight := { flight0 with state := .replied 0 [] }
     (r.state == .waiting || (decide ((latOf r.req.laddr.toNat).mod = self (m r)) && r.state == .requested)) = false) ∧
    (targetHeld (modFacet win 95 fun x => { x with holding := true }) (latOf flight0.req.laddr.toNat) = true ∧
      targetHeld win (latOf flight0.req.laddr.toNat) = false ∧ earlierOp (m flight0) flight0 = false) ∧
    ((latOf far.laddr.toNat).mod ≠ self win ∧ (latOf flight0.req.laddr.toNat).mod = self win) := by
  refine ⟨?_, ?_, ?_, ?_⟩ <;> decide +kernel

/-- An operation number of no shard; a shard's write of a cut and a rebuilt shard's, whose deadline comes before any edge. -/
theorem witness_shard_timeouts :
    let v : MovedShard := ⟨3, 2, 0, 0, [1], [], 0, ⟨0, 0, 0, 0⟩, [], 7, 0⟩
    let cut := modSnap rdy 15 fun x => { x with cut := some { cut0 with sent := [(7, 0, 0, 0)] } }
    let moved := modSnap rdy 15 fun x => { x with moving := [v] }
    let d (m : Mach) := 0 + 100 * regN m offRemoteTimeout
    NoShard win 7 ∧
    ((snapOf cut 15).cut = some { cut0 with sent := [(7, 0, 0, 0)] } ∧ (∀ i < 15, ∀ c' ∈ (snapOf cut i).cut, ∀ y ∈ c'.sent, y.1 ≠ 7) ∧
      d cut ≤ (atTime cut (d cut)).now) ∧
    (((snapOf moved 15).moving.find? fun y => y.op == 7) = some v ∧ (∀ i < 16, ∀ c' ∈ (snapOf moved i).cut, ∀ y ∈ c'.sent, y.1 ≠ 7) ∧
      (∀ i < 15, ∀ y ∈ (snapOf moved i).moving, y.op ≠ 7) ∧ d moved ≤ (atTime moved (d moved)).now) := by
  refine ⟨?_, ?_, ?_⟩ <;> decide +kernel

/-- A layer handed off already, the last accumulation of a layer; an ABORT, a segment out of order and the expected one; a layer
that is done. -/
theorem witness_fold_cases :
    let last : Rec := rc [(0, 0x10), (192, 64), (9, 1)]
    let q (r : Rec) (h : List Nat) := modSc (modFacet (trn [r]) 95 fun x => { x with grads := [(3, 0, r)] }) 95 3 fun x => { x with handed := h }
    let put (c : Channel) : Mach := modChan (trn []) 31 fun _ => c
    ((scOf (q (grec 0) [0]) 95 3).handed.contains (gLayer (grec 0)) = true ∧ (scOf (q (grec 0) []) 95 3).handed.contains (gLayer (grec 0)) = false ∧
      gEnd (grec 0) = false ∧ gEnd last = true ∧ (facetOf (q last []) 95).grads = [(3, 0, last)]) ∧
    ((put chn).chans.length = 32 ∧ (chanOf (put chn) 31).en = true ∧ memberPos chn 1 = some 1 ∧
      ((chn.rxSeq.find? fun t => t.1 == 1).map (·.2)).getD 0 = 0) ∧
    ((chanOf (put { chn with closed := true }) 31).en = true ∧ (chanOf (put { chn with en := false }) 31).en = false) := by
  refine ⟨?_, ?_, ?_⟩ <;> decide +kernel

/-- A sweep whose one layer holds a non-finite gradient, one that is sound and one without tokens; values that skip the update at
PUBLISH; an update that has waited. -/
theorem witness_verdicts :
    let m (nonf tok : Nat) := modPipe (trn []) 0 3 fun x => { x with gather := { x.gather with layers := [(0, nonf, 0)], totalsIn := true, tokens := tok } }
    let ls (m : Mach) := layersInOrder m 0 3
    let bad (m : Mach) : Bool := let tokens := (groupTotals m 0 3).1
      !(tokens == 0) && (decide (0 < ((ls m).map fun l => l.2.1).foldl (· + ·) 0) || !isFin (v32 (pairTo32 (wordPair (sumP ((ls m).map fun l => l.2.2)).toNat)).1))
    (gathered (m 1 5) 0 3 = true ∧ updEnabled (m 1 5) 0 3 = true ∧ isHome (m 1 5) 0 3 = true ∧ (pipeOf (m 1 5) 0 3).verdict = none ∧
      (pipeOf (m 1 5) 0 3).setup = some setup0) ∧
    (bad (m 1 5) = true ∧ bad (m 0 5) = false ∧ bad (m 1 0) = false ∧ gathered (m 0 0) 0 3 = true) ∧
    (let t := modTick (trn []) fun t => { t with phase := 5 }
     { vals0 with verdict := 1 }.verdict = 1 ∧ t.tick.phase = 5 ∧ { vals0 with verdict := 1 }.sweep = t.tick.sweepNo ∧ (pipeOf t 0 3).verdict = none ∧
       vals0.verdict ≠ 1) ∧
    (facetOf (modFacet (trn []) 95 fun x => { x with updWaited := true }) 95).updWaited = true := by
  refine ⟨?_, ?_, ?_, ?_⟩ <;> decide +kernel

/-- Decisions of neither kind, by rate and by risk; a cut that runs. -/
theorem witness_decisions :
    let one (g : SnapDom → SnapDom) : Mach := armed fun x => g { x with members := [(0, 0)] }
    let pol (p n : Nat) (m : Mach) : Mach := modTick (regSet m (offSnapJob 15) (word p)) fun t => { t with sweepNo := n }
    let rate (m : Mach) : Bool := (policyOf m 15 == 1 || policyOf m 15 == 3) &&
      decide ((snapOf m 15).lastCut + cutInterval m 15 ≤ cutSweep m)
    let risk (m : Mach) : Bool := (policyOf m 15 == 2 || policyOf m 15 == 3)
      && decide (bf (regN m (offSnapJob 15)) 25 16 ≤ domainScore m (snapOf m 15))
      && (decide ((snapOf m 15).score < bf (regN m (offSnapJob 15)) 25 16) || decide ((snapOf m 15).lastRisk + regN m offRiskRepeat ≤ m.tick.sweepNo))
    (rate (pol 0 (2 ^ 40) (one id)) = false ∧ risk (pol 0 (2 ^ 40) (one id)) = false) ∧
    (rate (pol 1 (2 ^ 40) (one id)) = true ∧ risk (pol 1 (2 ^ 40) (one id)) = false) ∧
    (rate (pol 2 (2 ^ 40) (one id)) = false ∧ risk (pol 2 (2 ^ 40) (one id)) = true) ∧
    ((snapOf (one id) 15).cutAt = none ∧ (snapOf (one id) 15).cut = none ∧ (snapOf (one fun x => { x with cutAt := some 9 }) 15).cutAt = some 9 ∧
      (snapOf (one fun x => { x with cut := some cut0, deferred := true }) 15).deferred = true ∧ (snapOf (one id) 15).deferred = false) := by
  refine ⟨?_, ?_, ?_, ?_⟩ <;> decide +kernel

/-- A part that joins its item and one that has none; the stream buffer with and without room; acknowledgements in each state of the
cut; a slot that is needed too long. -/
theorem witness_cut_messages :
    let item : StoreItem := ⟨0, 1, 15, 4, 0, false, 0, 0, false⟩
    let cut (g : Cut → Cut) : Mach := armed fun x => { x with cut := some (g { cut0 with sent := [(1, 0, 0, 0), (1, manifestIdx, 0, 0)] }) }
    let room (n : Nat) : Mach := cut fun c => { c with stream := [], total := n }
    (sameItem 1 15 4 0 false item = true ∧ sameItem 1 15 4 1 false item = false ∧ (5 : Nat) ≠ 0) ∧
    (bufferBytes (pumpCut 15 (takeEntry 15 none (room 0))) + 65536 ≤ 0x1000000) ∧
    (sentTo (cut id) 15 1 0 = some (1, 0, 0, 0) ∧ sentTo (cut id) 15 1 manifestIdx = some (1, manifestIdx, 0, 0) ∧ sentTo (cut id) 15 1 1 = none) ∧
    (((snapOf (cut fun c => { c with committing := some 1 }) 15).cut.bind (·.committing)).isSome = true ∧
      ((snapOf (cut id) 15).cut.bind (·.committing)) = none) ∧
    ({ cut0 with done := true }.done = true ∧ cut0.done = false ∧ cut0.committing = none) ∧
    (isLeader (snapOf (cut id) 15) = true ∧ isLeader { snapOf (cut id) 15 with leader := 1 } = false ∧ 4 = cut0.gen) := by
  refine ⟨?_, ?_, ?_, ?_, ?_, ?_⟩ <;> decide +kernel

/-- A manifest of no shards, whose stream is empty, and one whose four shards were not read. -/
theorem witness_recoveries :
    let none_ : ManifestInfo := { man 0 with nData := 0 }
    let lost : ManifestInfo := { man 0 with nData := 4 }
    let r (a : ManifestInfo) : Restore := { rest0 with manifests := [a] }
    let m (a : ManifestInfo) := armed fun x => { x with members := [(0, 0)], restore := some (r a) }
    (recover none_ [] = some ([], []) ∧ winning (r none_) (self (m none_)) 4 = some none_ ∧
      winning (r none_) (writerModule (snapOf (m none_) 15)) 4 = some none_) ∧
    (recover lost [] = none ∧ winning (r lost) (self (m lost)) 4 = some lost ∧ jobShifting (m lost) 15 = false ∧ (r lost).chosen = some 4) := by
  refine ⟨?_, ?_⟩ <;> decide +kernel

/-- A facet whose row takes microcode, and a shift copy that runs. -/
theorem witness_failures_in_rows :
    let site := (anySiteOf rdy 95).getD 255
    let uc := modTest rdy fun t => { t with ucode := some ⟨site, 2, 0⟩ }
    let sh : Shift := ⟨7, 95, 5, false, false, false⟩
    ((uc.test.ucode.any fun u => rowOf u.site == rowOf site && u.step < 4) = true ∧
      (rdy.test.ucode.any fun u => rowOf u.site == rowOf site && u.step < 4) = false ∧ (facetOf uc 95).failed = false) ∧
    ((([] : List Shift) ++ sh :: []) = [sh] ∧ sh.row = 7 ∧ ∀ x ∈ ({ rdy with shifts := [sh] } : Mach).shifts, x.row ≠ 6) := by
  refine ⟨?_, ?_⟩ <;> decide +kernel

/-- The end of LINK_HOLD; a width of 0 and one above it. -/
theorem witness_link_cases :
    let down := modLink rdy 35 fun x => { x with state := 1, prevFar := some 1, farWidth := 8, good := 0xFF }
    let bad := modLink rdy 35 fun x => { x with state := 1, farWidth := 8, good := 0 }
    let up := modLink rdy 35 fun x => { x with state := 2, width := 8, good := 0xFF, farWidth := 8 }
    let w (m : Mach) := widthFor (min (linkOf m 35).farWidth (usableLanes m 35 (linkOf m 35).good).length) (linkMinW m 35)
    let d := (linkOf down 35).downAt + 100000 * regN down offLinkHold
    (d ≤ (atTime down d).now ∧ (linkOf down 35).state ≠ 2 ∧ (linkOf down 35).prevFar.isSome = true) ∧
    (w down = 8 ∧ w bad = 0 ∧ linkEn down 35 = true) ∧
    (let m := regSet up (offLinkCtl 35) (regGet up (offLinkCtl 35) ||| 0x10)
     (regN m (offLinkCtl 35)).testBit 4 = true ∧ regN m offRetrainThr < regN m offRetrainThr + 1) ∧
    ((linkOf (modLink up 35 fun x => { x with retrainQ := [3] }) 35).retrainQ = [3] ∧ (linkOf up 35).retrainQ = []) := by
  refine ⟨?_, ?_, ?_, ?_⟩ <;> decide +kernel

theorem witness_twin_commands :
    let hb (l : Bool) : HeartbeatMsg := { (⟨[], 0, 1, 5, false, false, true⟩ : HeartbeatMsg) with lease := l }
    let last (l : Bool) := modTwin rdy fun t => { t with last := some (hb l) }
    (rdy.twin.detached = false ∧ (modTwin rdy fun t => { t with detached := true }).twin.detached = true) ∧
    ((modTwin rdy fun t => { t with freezeDue := true }).twin.freezeDue = true ∧ rdy.twin.frozen = false ∧ rdy.twin.freezeDue = false) ∧
    ((last true).twin.last = some (hb true) ∧ (hb true).lease = true ∧ ∀ h, rdy.twin.last = some h → h.lease = false) ∧
    (tb (regN rdy offTwinCtl) 0 = true ∧ tb (regN (regSet rdy offTwinCtl 0) offTwinCtl) 0 = false) ∧
    (popc 36 (wf (3 : Word) 35 0) = 2 ∧ popc 36 (wf (255 : Word) 35 0) = 8 ∧ popc 36 (wf (1 : Word) 35 0) < 2 ∧ 8 < popc 36 (wf (511 : Word) 35 0)) := by
  refine ⟨?_, ?_, ?_, ?_, ?_⟩ <;> decide +kernel

theorem witness_link_commands :
    let up (w : Nat) := modLink rdy 35 fun x => { x with state := 2, width := w, good := 0xFF }
    let re := modLink (up 8) 35 fun x => { x with retraining := some 7, retrainQ := [6] }
    let dead := modFacet rdy 95 fun x => { x with failed := true }
    let full := modFlash rdy fun fl => { fl with remaps := (List.range 16).map fun c => (95, c, facetRow rdy 95, c) }
    ((linkOf re 35).retraining = some 7 ∧ (linkOf re 35).retraining ≠ none ∧ 6 ∈ (linkOf re 35).retrainQ ∧ 5 ≠ 7 ∧ 5 ∉ (linkOf re 35).retrainQ) ∧
    ((linkOf (up 4) 35).width = 4 ∧ (linkOf (up 8) 35).retraining = none ∧ (linkOf (up 8) 35).state = 2 ∧ (linkOf (up 8) 35).width ≠ 4 ∧
      linkMinW (up 8) 35 ≤ nextLower 8 ∧ 7 ∈ activeLanes (up 8) 35) ∧
    ((facetOf dead 95).failed = true ∧ (facetOf rdy 95).failed = false ∧ freeReserve rdy (facetRow rdy 95) = some 0 ∧
      freeReserve full (facetRow full 95) = none) := by
  refine ⟨?_, ?_, ?_⟩ <;> decide +kernel

/-- The hundredth imbalanced window in a row, raised already or not; a release that has to wait for an edge and one that has not; the
end of a hold-off. -/
theorem witness_windows_and_releases :
    let imb (n : Nat) (r : Bool) := modFacet rdy 103 fun x => { x with imbRun := n, imbRaised := r }
    let far := modTick (modFocus rdy fun x => { x with relAt := 5000 }) fun t => { t with running := true, nextEdge := 1000 }
    (100 ≤ (facetOf (imb 99 false) 103).imbRun + 1 ∧ (facetOf (imb 99 false) 103).imbRaised = false ∧ (facetOf (imb 99 true) 103).imbRaised = true ∧
      (facetOf rdy 103).imbRun + 1 < 100) ∧
    ((atTime far 5000).now < 5000 ∧ far.focus.relAt = 5000 ∧ rdy.focus.relAt ≤ (atTime rdy rdy.focus.relAt).now) ∧
    (rdy.focus.timers.getD 63 0 ≤ (atTime rdy (rdy.focus.timers.getD 63 0)).now) ∧
    (claimPick (coreOf rdy 15) = none ∧ claimPick { coreOf rdy 15 with pending := [ev 35 2 0] } = some (0, ev 35 2 0) ∧
      (coreOf (modCore rdy 15 fun x => { x with frozen := true }) 15).frozen = true) := by
  refine ⟨?_, ?_, ?_, ?_⟩ <;> decide +kernel

/-- Means at the cap and above it, caps at both ends and past them, coolant that becomes warm, the second phase of a rail. -/
theorem witness_power_cases :
    let low := modFacet rdy 95 fun x => { x with point := 7 }
    (regN rdy offCap ≤ regN rdy offCap ∧ regN rdy offCap < regN rdy offCap + 1 ∧ low.power.emergRaised = false ∧
      (modPower rdy fun p => { p with emergRaised := true }).power.emergRaised = true) ∧
    (let w (v : Word) := (mergeBytes (regGet rdy offCap) 0 4 v &&& word (ones 0 14)).toNat
     w 6000 = 6000 ∧ w 11500 = 11500 ∧ w 11500 % 10 = 0 ∧ w 5990 < 6000 ∧ 11500 < w 11510 ∧ w 6005 % 10 = 5) ∧
    (rdy.power.inlet ≤ 45 * 16 ∧ rdy.power.axisTemp < 100 * 16) ∧
    ((modPower rdy fun p => { p with spentRails := [103] }).power.spentRails.contains 103 = true ∧ rdy.power.spentRails.contains 103 = false) ∧
    ((14 : Nat) ≠ 0 ∧ rdy.ctr.resetsSweep + 1 ≤ 2 ∧ 2 < (modCtr rdy fun c => { c with resetsSweep := 2 }).ctr.resetsSweep + 1) := by
  refine ⟨?_, ?_, ?_, ?_, ?_⟩ <;> decide +kernel

/-- A wake with its cause and one without; the end of the leak's grace. -/
theorem witness_wakes :
    let at1 (w : Bool) : Mach := { State.reset.m with boot := { Boot.init with state := 1, wakeCause := w } }
    let held (m : Mach) : Bool := m.boot.resetN || m.power.flowLow || m.power.leak || !m.boot.wakeCause
    let leak := modPower rdy fun p => { p with leakAt := some 5 }
    let d := 5 + regN leak offLeakGrace * 100000
    held (at1 false) = true ∧ held { at1 true with boot := { (at1 true).boot with resetN := false } } = false ∧
    d ≤ (atTime leak d).now ∧ leak.power.leakAt = some 5 ∧ leak.boot.state = 3 := by
  decide +kernel

/-- TEST_CMD operations that start and that are refused. -/
theorem witness_test_operations :
    let busy := modTest rdy fun t => { t with busy := true }
    let old := modFlash rdy fun fl => modSite fl 0 fun y => { y with ucode := 5 }
    let y := (old.flash.sites[0]?).getD ⟨0, 0, 0, 0, 0, 0⟩
    (siteInUse rdy 0 = false ∧ rowBusy rdy 0 = false ∧ rdy.test.busy = false ∧ busy.test.busy = true) ∧
    (old.flash.sites[0]? = some y ∧ (reserveSite old (rowOf 0)).isSome = true ∧ y.state = 0 ∧ logicalAt old 0 < 96 ∧
      y.ucode ≠ ((old.flash.banks[old.ctr.bank]?).map (·.ucode)).getD 0 ∧ rowBusy old 0 = false) ∧
    (0 = rdy.ctr.bank ∧ 1 ≠ rdy.ctr.bank ∧ bankOk rdy.flash 0 = true) ∧
    (let wire := modTest rdy fun t => { t with ucode := some ⟨0, 2, 0⟩ }
     rowBusy wire 0 = true ∧ siteInUse (modJob rdy 0 fun j => { j with admitted := true, maps := List.replicate 6 (some ⟨0, [ent], [], [], []⟩) }) 0 = false) ∧
    ((1 : Word).getLsbD 0 = true ∧ (modTick rdy fun t => { t with running := true }).tick.running = true ∧ (0 : Word).getLsbD 0 = false) := by
  refine ⟨?_, ?_, ?_, ?_, ?_⟩ <;> decide +kernel

/-- Spills with and without a command in flight; steps whose instants come; a step late and one no longer due; tokens that end the
sequence and that do not. -/
theorem witness_rollout_cases :
    let u : RollUser := ⟨mb0, 0, 64, 0, some 0, 0, [], 0, 0, []⟩
    let put (u : RollUser) : Mach := modPipe (modJob (runs [] [⟨3, mb0, none⟩]) 0 fun j => { j with maps := List.replicate 6 (some ⟨0, [ent], [], [], []⟩) })
      0 3 fun x => { x with rollout := some (roll0 u) }
    let m := put u
    let d := positionStart m (roll0 u) 254 0
    let late := d + (roll0 u).tau - (roll0 u).d
    let m1 := tryStep 0 3 254 0 (atTime m late)
    let e := (facetOf (modFacet (runs [prec] [fwd]) 95 fun x => { x with ray := [⟨3, 0, yrec⟩] }) 95)
    (inFlightOn (modFacet (runs [prec] [fwd]) 95 fun x => { x with ray := [⟨3, 0, yrec⟩] }) 95 0 = true ∧ inFlightOn rdy 95 0 = false ∧ e.failed = false) ∧
    (d ≤ (atTime m d).now ∧ late ≤ (atTime m late).now) ∧
    ((userOf m1 0 3 254).map (fun y => stepDue m1 (roll0 u) y 254 0) = some true) ∧
    ((jobOf (modJob rdy 15 fun j => { j with holdUntil := some 5 }) 15).holdUntil = some 5 ∧
      5 ≤ (atTime (modJob rdy 15 fun j => { j with holdUntil := some 5 }) 5).now) ∧
    ((leNat (readChecked m 95 0 (8 * 254) 8).1).testBit 63 = false ∧
      (leNat (readChecked (writeMem m 95 0 (8 * 254) [9, 0, 0, 0, 0, 0, 0, 0x80]) 95 0 (8 * 254) 8).1).testBit 63 = true ∧
      u.tokens + 1 ≠ u.targetLen / 4) := by
  refine ⟨?_, ?_, ?_, ?_, ?_⟩ <;> decide +kernel

/-- ROLLOUT_CFG on a one-stage pipeline that runs forward only, with its return chord and its two programs: on, off and with a live
user. -/
theorem witness_rollout_settings :
    let d (en : Nat) : DescIn := dsc 0x50 [(16, 1), (128, 3), (130, en), (132, 1), (140, 1), (148, 1), (200, 4095), (216, 4095)]
    let ret : Chord := { chd with e := { chd.e with srcFacet := 95, srcSc := 3 } }
    let m : Mach := { modPipe (modJob (runs [] []) 0 fun j => { j with maps := List.replicate 6 (some ⟨0, [ent], [ret.e], [], []⟩) }) 0 3
      (fun x => { x with sched := some ⟨true, 0, 1, 0, [], 0⟩ }) with chords := [ret], progs := [⟨4095, 0, false, []⟩] }
    let live := modPipe m 0 3 fun x => { x with rollout := some (roll0 ⟨mb0, 0, 64, 0, some 0, 0, [], 0, 0, []⟩) }
    (earlyStatus m specRollout (d 1) = 0 ∧ dJob m (d 1) = 0 ∧ rcPipe (d 1) = 3 ∧ rolloutFault m (d 1) = none ∧ rcEn (d 1) = true ∧
      (pipeOf m 0 3).rollout = none) ∧
    (earlyStatus m specRollout (d 0) = 0 ∧ rolloutFault m (d 0) = none ∧ rcEn (d 0) = false) ∧
    (rolloutFault live (d 1) = none ∧ ((pipeOf live 0 3).rollout.map fun r => r.slots.any (·.isSome)) = some true) ∧
    rolloutFault (runs [] []) (d 1) = some 1 := by
  refine ⟨?_, ?_, ?_, ?_⟩ <;> decide +kernel

/-! ### Witnesses: the cases of turns, payload rings, moved layers, frames, wires and held links -/

/-- Two stage contexts of facet 95 with a ready record each, of jobs 0 and 1. -/
def twoJobs (r : Rec) : Mach :=
  modSc (regSet (modJob (runs [r] [fwd]) 1 fun j => { j with admitted := true }) (offJob 1) 1) 95 2 fun x =>
    { x with owner := some (1, { ent with sc := 2 }), prog := [r], run := some (slot [fwd]) }

/-- With two jobs ready an engine's first turn is job 0's, and after it job 1's. -/
theorem witness_turns :
    let next (r : Rec) (e : Nat) : Mach := noteTurn 95 e 0 (twoJobs r)
    (hasTurn (twoJobs prec) 95 0 0 (readyJobs (twoJobs prec) 95 0) = true ∧ hasTurn (twoJobs prec) 95 0 1 (readyJobs (twoJobs prec) 95 0) = false ∧
      RecordAt (twoJobs prec) 95 2 prec 1 1) ∧
    (hasTurn (next prec 0) 95 0 0 (readyJobs (next prec 0) 95 0) = false ∧ hasTurn (next prec 0) 95 0 1 (readyJobs (next prec 0) 95 0) = true ∧
      RecordAt (next prec 0) 95 3 prec 0 1) ∧
    (hasTurn (next yrec 4) 95 4 0 (readyJobs (next yrec 4) 95 4) = false ∧ hasTurn (twoJobs yrec) 95 4 0 (readyJobs (twoJobs yrec) 95 4) = true ∧
      RecordAt (next yrec 4) 95 3 yrec 0 2) ∧
    (hasTurn (next lrec 5) 95 5 0 (readyJobs (next lrec 5) 95 5) = false ∧ hasTurn (twoJobs lrec) 95 5 0 (readyJobs (twoJobs lrec) 95 5) = true ∧
      RecordAt (next lrec 5) 95 3 lrec 0 3) := by
  refine ⟨?_, ?_, ?_, ?_⟩ <;> decide +kernel

/-- A chord within facet 95 whose payload ring is where results of `prec` and `yrec` go: no credit, credit, and elsewhere. -/
theorem witness_result_placement :
    let ring (at_ credit : Nat) : Mach := { tallySet (runs [prec] [fwd]) 95 4094 (BitVec.ofNat 32 credit) with
      chords := [{ chd with e := { chd.e with payloadBase := at_, dstFacet := 95, srcFacet := 95, srcSc := 3 } }] }
    let waits (l : List ResultSpan) (r : Rec) (m : Mach) : Bool := match placeResults 95 3 l r m with | .wait n => n == 1023 | _ => false
    let plain (l : List ResultSpan) (r : Rec) (m : Mach) : Bool := match placeResults 95 3 l r m with | .go r2 m2 => r2 == r && m2 == m | _ => false
    let y2 : Rec := rc [(0, 2), (8, 0), (31, 5), (60, 16), (40, 1), (120, 8), (160, 8), (252, 65536)]
    let stl (m : Mach) (a n : Nat) : Nat := match payloadWrite m 95 3 ⟨self m, 95, 0, a⟩ n with
      | .wait k => if k == 1023 then 1 else 0 | .go _ none m2 => if m2 == m then 2 else 0 | .go _ (some _) _ => 3
    (plain (prismResults prec) prec (ring 4096 1) = true ∧ plain (rayResults yrec) yrec (ring 4096 1) = true) ∧
    (waits (rayResults y2) y2 (ring 16 0) = true ∧ plain (rayResults y2) y2 (ring 16 1) = false) ∧
    (stl (ring 16 0) 65536 8 = 1 ∧ stl (ring 16 1) 65536 8 = 3 ∧ stl (ring 16 0) 0 8 = 2) := by
  refine ⟨?_, ?_, ?_⟩ <;> decide +kernel

/-- A boundary move that has to be copied, one that is copied, and none. -/
theorem witness_moved_layers :
    let two : List MapSc := [ent, { ent with facet := 94, stage := 1 }]
    let m (r : Option Rebal) : Mach := modPipe (modJob (trn []) 0 fun j => { j with maps := List.replicate 6 (some ⟨0, two, [], [], []⟩) }) 0 3
      fun x => { x with rebal := r }
    let r : Rebal := ⟨0, 0, 1, none, []⟩
    (pipeOf (m none) 0 3).rebal = none ∧ (pipeOf (m (some r)) 0 3).rebal = some r ∧ r.copied = none ∧ r.from_ < r.toStage ∧
    stageEntry (m (some r)) 0 3 0 = some ent ∧ stageEntry (m (some r)) 0 3 1 = some { ent with facet := 94, stage := 1 } ∧
    (locusOf (m (some r)) 95 3).layers.getLast? = some ⟨false, 1, 0, false⟩ ∧ { r with copied := some 9 }.copied.isSome = true := by
  refine ⟨?_, ?_, ?_, ?_, ?_, ?_, ?_, ?_⟩ <;> decide +kernel

/-- A publish check that serves a descriptor of its sweep and of one before; a load and none after its overdue ones have ended; a
halted job's values; a facet that is a host. -/
theorem witness_checks_and_hosts :
    let c : PubCheck := ⟨vpTag vpd, dEdge vpd, [], []⟩
    let serves (c : PubCheck) : Bool := c.tag == vpTag vpd && decide (dEdge vpd ≤ c.sweep)
    let ld : Mach := { rdy with loads := [lrun] }
    let halt := modJob (trn []) 0 fun j => { j with halted := true }
    let host := modFacet rdy 95 fun x => { x with hostedBy := some 94 }
    ([c].find? serves = some c ∧ ([] : List PubCheck).find? serves = none) ∧
    ((endOverdue ld).loads = [lrun] ∧ (endOverdue rdy).loads = []) ∧
    ((jobOf halt 0).halted = true ∧ (jobOf (trn []) 0).halted = false) ∧
    (guestsOf host 94 = [95] ∧ guestsOf rdy 94 = [] ∧ (facetOf host 94).failed = false ∧ (facetOf host 95).failed = false) := by
  refine ⟨?_, ?_, ?_, ?_⟩ <;> decide +kernel

/-- Frames that are bad, that align, that are out of order and that come next; resends before and after their 4 us and 64 us. -/
theorem witness_frames :
    let up := modLink rdy 35 fun x => { x with state := 2, width := 8, good := 0xFF, rxLast := 4095, held := [⟨5, List.replicate 5 none, 0, 0⟩] }
    let f : FrameIn := ⟨0, false, true, 0, [], 0, []⟩
    let edge := modTick up fun t => { t with running := true, nextEdge := 100 }
    let m2 (m : Mach) := takeControl 35 0 (modLink m 35 fun x => { x with rxLast := 0, rxNak := false })
    (f.good = true ∧ f.align = false ∧ f.seqNum = ((linkOf up 35).rxLast + 1) % 4096 ∧ { f with good := false }.good = false ∧
      { f with align := true }.align = true ∧ { f with seqNum := 4095 }.seqNum ≠ ((linkOf up 35).rxLast + 1) % 4096) ∧
    ((linkOf (m2 up) 35).state = 2) ∧
    ((linkOf up 35).held = ⟨5, List.replicate 5 none, 0, 0⟩ :: [] ∧ (linkOf rdy 35).held = []) ∧
    ((atTime edge ((linkOf edge 35).replayAt + 400)).now < (linkOf edge 35).replayAt + 400 ∧
      (linkOf up 35).replayAt + 400 ≤ (atTime up ((linkOf up 35).replayAt + 400)).now ∧
      (atTime up ((linkOf up 35).replayAt + 400)).now < (linkOf up 35).ackAt + 6400 ∧
      (let late : Mach := { up with now := 6400 }
       (linkOf late 35).replayAt + 400 ≤ (atTime late 400).now ∧ (linkOf late 35).ackAt + 6400 ≤ (atTime late 400).now)) := by
  refine ⟨?_, ?_, ?_, ?_⟩ <;> decide +kernel

/-- The sixteenth NAK of a frame takes the link down in the middle of its frame. -/
theorem witness_last_nak :
    let up := modLink rdy 35 fun x => { x with state := 2, width := 8, good := 0xFF, naks := 15, held := [⟨5, List.replicate 5 none, 0, 0⟩] }
    (linkOf up 35).state = 2 ∧
    (linkOf (takeControl 35 (BitVec.ofNat 40 (num [(27, 4), (39, 1)])) (modLink up 35 fun x => { x with rxLast := 0, rxNak := false })) 35).state ≠ 2 := by
  decide +kernel

/-- Attempts to train within a second and after it, with and without the far end's exchange; a lane that loses lock while it does not
serve; pauses that may and may not be taken; lanes that can and cannot be retrained. -/
theorem witness_training_and_lanes :
    let try_ (t : Option Nat) (last : Option Nat) := modLink rdy 35 fun x => { x with state := 1, good := 0xFF, farWidth := 8, tryAt := t, farLast := last }
    let late : Mach := { try_ (some 0) (some 7) with now := 100000001 }
    let up (w : Nat) := modLink rdy 35 fun x => { x with state := 2, width := w, good := 0xFF }
    let near := modTick (up 8) fun t => { t with running := true, edgeAt := 0, nextEdge := 1000 }
    let fits (m : Mach) (k : Nat) : Bool := (linkOf m 35).width != 4 && decide (linkMinW m 35 ≤ nextLower (linkOf m 35).width) && (activeLanes m 35).contains k
    ((linkOf (try_ none none) 35).tryAt = none ∧ (linkOf (try_ (some 0) none) 35).farLast = none ∧ (linkOf (try_ (some 0) (some 7)) 35).farLast = some 7) ∧
    (0 + 100000000 < late.now ∧ (try_ (some 0) (some 7)).now ≤ 0 + 100000000 ∧ 100000000 ≤ (atTime (try_ (some 0) none) 100000000).now ∧
      (let edge := modTick (try_ (some 0) none) fun t => { t with running := true, nextEdge := 1000 }
       (atTime edge 100000000).now < 0 + 100000000)) ∧
    (7 ∉ activeLanes (up 4) 35 ∧ (linkOf (up 4) 35).retraining = none ∧ 0 ∈ activeLanes (up 4) 35) ∧
    (mayPause (up 8) = true ∧ mayPause near = false ∧ (linkOf (up 8) 35).retrainQ = []) ∧
    (fits (up 8) 7 = true ∧ fits (up 4) 7 = false ∧ (∀ l : List Nat, [] ++ 7 :: [] = l → l = [7])) ∧
    ((linkOf (modLink (up 8) 35 fun x => { x with retraining := some 7 }) 35).retrainAt + 10000000 = 10000000 ∧ late.now > 10000000) := by
  refine ⟨?_, ?_, ?_, ?_, ⟨?_, ?_, ?_⟩, ?_⟩ <;> first | decide +kernel | (intro l h; exact h.symm)

/-- Failing wires of one group: two that are repaired, a third that is not; wires that are recorded and that are not; microcode steps. -/
theorem witness_wires :
    let two := modFlash rdy fun x => { x with wires := [⟨103, 1, 2, 7, true⟩, ⟨103, 1, 2, 8, true⟩] }
    let wire (m : Mach) := modTest m fun t => { t with busy := true, op := 1, started := true, site := 103 }
    let failing : List (Nat × Nat × Nat) := [(1, 2, 5), (1, 2, 6)]
    let new (m : Mach) := (failing.map (·.2.2)).eraseDups.filter fun w => !wireKnown m 103 1 2 w
    (failing ≠ [] ∧ (∀ x ∈ failing, x.1 = 1 ∧ x.2.1 = 2) ∧ (groupWires (wire rdy) 103 1 2).length + (new (wire rdy)).length = 2 ∧
      2 < (groupWires (wire two) 103 1 2).length + (new (wire two)).length) ∧
    ((∃ x ∈ groupWires two 103 1 2, x.wire = 7) ∧ (∀ x ∈ groupWires two 103 1 2, x.wire ≠ 5) ∧ 2 ≤ (groupWires two 103 1 2).length ∧
      (∀ x ∈ groupWires rdy 103 1 2, x.wire ≠ 5) ∧ (groupWires rdy 103 1 2).length < 2) := by
  refine ⟨⟨?_, ?_, ?_, ?_⟩, ?_, ?_, ?_, ?_, ?_⟩ <;> decide +kernel

/-- Test access in STANDBY, with the window's leave, without it, and OFF; a line that leaks and one that wakes. -/
theorem witness_access_and_latches :
    let off : Mach := { State.reset.m with boot := { Boot.init with state := 0 } }
    let stb : Mach := { State.reset.m with boot := { Boot.init with state := 1 } }
    let wake := regSet stb (offLineCtl 0) (word (2 ^ 11))
    (off.boot.state = 0 ∧ stb.boot.state = 1 ∧ rdy.boot.state ≠ 0 ∧ tb (regN rdy offTestCtl) 0 = false ∧
      tb (regN (regSet rdy offTestCtl 1) offTestCtl) 0 = true ∧ TapInstr.idcode ≠ .bypass) ∧
    (stb.focus.sampling = false ∧ stb.power.leak = false ∧ tb (regN stb (offLineCtl 0)) 11 = false ∧ tb (regN wake (offLineCtl 0)) 11 = true) ∧
    ((modFocus rdy fun x => { x with sampling := true }).focus.sampling = true ∧
      ((modFocus rdy fun x => { x with sampling := true }).focus.lines.getD 4 ⟨false, none⟩).asserted = false) := by
  refine ⟨?_, ?_, ?_⟩ <;> decide +kernel

/-- A member of a rotation with and without SLICE; a user's missed wave while its job is suspended. -/
theorem witness_rotations :
    let grp1 (slice : Nat) := regSet (modJob rdy 0 fun j => { j with admitted := true }) (offJob 0) (word (num [(0, 1), (16, slice)]))
    let sus := modJob rdy 0 fun j => { j with admitted := true, suspended := true }
    (running (grp1 0) 0 = true ∧ jobSlice (grp1 0) 0 = 0 ∧ (jobOf (grp1 0) 0).turnEnd = none) ∧
    ((jobOf sus 0).suspended = true ∧ (jobOf rdy 0).suspended = false) := by
  refine ⟨?_, ?_⟩ <;> decide +kernel

/-! ### Small checks against the spec's figures -/

/-- Does the queue hold a record of the event, with its sticky bit set? -/
def raised (m : Mach) (code : Nat) : Bool :=
  m.focus.queue.any (fun r => r.code == code) && (match stickyReg (code / 256) with
    | some (off, _) => (regGet m off).getLsbD (code % 256)
    | none => true)

def status (m : Mach) : Option Nat := match m.out.getLast? with | some (.cplWrite _ _ _ _ c) => some c.status | _ => none

/-- Table 1.2: A00, A11, B00, C00, H00 and the reserve of H. -/
theorem test_serpentine : [0, 11, 13, 26, 91, 103].map siteLogical = [0, 11, 23, 24, 95, 103] := by decide +kernel

/-- R15 to R17, R533: an unaligned write raises HOST_CFG_ERR; a write inside the 2 µs before a sweep edge waits one edge more. -/
theorem test_register_writes :
    raised (after (.registerWrite ⟨0, 0x1004, 8, 0, none⟩) rdy) hostCfgErr = true ∧
    (let m := modTick rdy fun t => { t with running := true, nextEdge := 200, tickNo := 999 }
     let n := after (.registerWrite ⟨0, offPeriod, 8, 400, none⟩) m
     n.pend = [] ∧ n.pendLate = [(offPeriod, 400)] ∧ regN n offPeriod = 100000) := by decide +kernel

/-- R63: START at an armed timing waits 2 µs for its first edge. -/
theorem test_start :
    let m := after (.start false) (regSet rdy offBaseTick 7)
    m.tick.armed = true ∧ m.tick.running = false ∧ m.tick.nextEdge = 200 := by decide +kernel

/-- Table 3.9: a NOP on an admitted job's ring ends OK, on another's JOB_STATE 0x06. -/
theorem test_nop : status (after (.nop (dsc 0 [])) adm) = some 0 ∧ status (after (.nop (dsc 0 [])) rdy) = some 6 := by decide +kernel

/-- R125: the 257th micro-batch is turned away with 0x44. -/
theorem test_queue_full :
    status (after (.mbAdmit (mba 1)) (modPipe win 0 3 fun x => { x with queue := List.replicate 256 (admitOf win (mba 1)) })) = some 0x44 := by
  decide +kernel

/-- R541: the key of an admitted job cannot be written. -/
theorem test_job_key :
    raised (after (.jobKey 0 0 8 5) adm) hostCfgErr = true ∧ regN (after (.jobKey 1 8 8 5) adm) (offJob 1 + 0x28) = 5 := by decide +kernel

/-- R450: an aligned 4 KiB block covers all 16 channels once, whatever the key; without a key the channel is bits 3:0 of the granule. -/
theorem test_placement :
    (((List.range 16).map fun i => (place (0x7000 + 256 * i) 0x0B5E2D7).1).eraseDups.length = 16) ∧
    (place (256 * 37) 0).1 = 5 ∧ gf16Mul 2 8 = 3 := by decide +kernel

/-- R461: an uncorrectable word reads as 0xFF until a write covers it whole. -/
theorem test_uncorrectable :
    let m : Mach := { rdy with ue := [memKey 0 0 8] }
    readMem m 0 0 8 2 = [0xFF, 0xFF] ∧ readMem (writeMem m 0 0 8 [1, 2]) 0 0 8 2 = [0xFF, 0xFF] ∧
    readMem (writeMem m 0 0 8 (List.replicate 8 1)) 0 0 8 2 = [1, 1] := by decide +kernel

/-- R282: tallies wrap at 2^32. -/
theorem test_tally_wraps : tallyGet (tallyAddN (tallySet rdy 3 4095 0xFFFFFFFF) 3 4095 2) 3 4095 = 1 := by decide +kernel

/-- CRC-32 of "123456789" (IEEE 802.3) is 0xCBF43926. -/
theorem test_crc : crc32 ([49, 50, 51, 52, 53, 54, 55, 56, 57].map (BitVec.ofNat 8)) = 0xCBF43926 := by decide +kernel

/-- R369: x^8 reduces to x^4 + x^3 + x^2 + 1. -/
theorem test_gf256 : gfMul 0x80 2 = 0x1D := by decide +kernel

/-- FP32: 1 + 1 = 2, 1 + 2^-24 rounds to even; E4M3 ends at 448; the integers saturate (R212, R213). -/
theorem test_numbers :
    fpEnc f32 (fpAdd (v32 0x3F800000) (v32 0x3F800000)).1 = (0x40000000, 0) ∧
    (fpEnc f32 (fpAdd (v32 0x3F800000) (v32 0x33800000)).1).1 = 0x3F800000 ∧ (fpEnc fE4m3 (v32 0x43E00000)).1 = 0x7E ∧
    (fpToInt 8 (v32 0x43000000)).1 = 127 := by decide +kernel

/-- A strand's ADD into s0 leaves it 0 (R266); into s5 it writes the sum. -/
theorem test_strand_add :
    let add (rd : Nat) : Word := iw 2 0 0 [(52, rd), (0, 7)]
    let reg (rd : Nat) : Option Word := ((strandOf (after (.strandIntegerOp 95 16383) (strands (add rd) str)) 95 16383).bind fun a => a.regs[rd]?)
    reg 0 = some 0 ∧ reg 5 = some 7 := by decide +kernel

/-- Table 9.3: STEPS used up ends the strand with STRAND_LIMIT 0x5D. -/
theorem test_strand_limit :
    ((launchGroup (after (.strandNop 95 16383) (strands 0 { str with steps := 10 })) 95 0).bind (·.fault)).map (·.1) = some 0x5D := by decide +kernel

/-- R117, R121: the expected entry is committed; a second copy of it is not. -/
theorem test_chord_commit :
    let m := after (.chordWrite 95 0 (leBytes 64 0) (some ⟨1, 0, 3, 1023⟩)) { win with chords := [chd] }
    (chordBy m 1023).map (fun c => (c.rxSeq, c.queue.length)) = some (1, 1) ∧
    raised (after (.chordWrite 95 0 (leBytes 64 0) (some ⟨1, 0, 3, 1023⟩)) m) chordSeqEv = true := by decide +kernel

/-- R424: a bad frame is not taken; the next good one of the expected number is. -/
theorem test_frames :
    let up := modLink rdy 0 fun x => { x with state := 2, rxLast := 4095 }
    let f : FrameIn := ⟨0, false, true, 0, [], 0, []⟩
    (linkOf (after (.linkFrame 0 { f with good := false }) up) 0).rxNak = true ∧ (linkOf (after (.linkFrame 0 f) up) 0).rxLast = 0 := by decide +kernel

/-- R473, R477: the highest PRIO is released first. -/
theorem test_focus_order :
    let m := modFocus rdy fun x => { x with queue := [ev 35 2 0, ev 36 9 1] }
    ((after .focusRelease m).focus.queue.map (·.source)) = [35] := by decide +kernel

/-- Table 18.1: the seventh step of BOOT ends in READY; R510: memory then reads 0. -/
theorem test_boot :
    let m : Mach := { State.reset.m with boot := { Boot.init with state := 2, step := 7 } }
    (after (.bootStepEnd true []) m).boot.state = 3 ∧ readMem (after (.bootStepEnd true []) m) 5 1 0 4 = [0, 0, 0, 0] := by decide +kernel

/-- R517: IDCODE 0x19600A4B in STANDBY. -/
theorem test_idcode : (after (.jtagInstruction .idcode) State.reset.m).out = [.tapId 0x19600A4B] := by decide +kernel

/-- Before READY a write of the window does nothing (R512). -/
theorem test_not_ready : (after (.registerWrite ⟨0, 0x2028, 8, 80, none⟩) State.reset.m).regs = [] := by decide +kernel

/-- There are 16 focus cores: a command that names another changes nothing. -/
theorem test_no_such_unit : (match exec (.focClaim 16) (on rdy) with | .next t => t.m == rdy | _ => false) = true := by decide +kernel

end Sys2Proof.Tests
end

section
/-!
CERTIFICATE. The set-up registers as a store: the sparse map of words behind `regGet` and `regSet` (R532), the bytes of a merge
(R534), and the locality of one register store.
-/
namespace Sys2Proof.Machine

/-- What a store does at a listed key: it goes before the key, replaces or removes its entry, or goes behind it. -/
theorem kvSet_cons_cases {α : Type} [DecidableEq α] (d : α) (k : Nat) (w : α) (t : List (Nat × α)) (x : Nat) (v : α) :
    (x < k ∧ v = d ∧ kvSet d ((k, w) :: t) x v = (k, w) :: t) ∨
    (x < k ∧ v ≠ d ∧ kvSet d ((k, w) :: t) x v = (x, v) :: (k, w) :: t) ∨
    (x = k ∧ v = d ∧ kvSet d ((k, w) :: t) x v = t) ∨
    (x = k ∧ v ≠ d ∧ kvSet d ((k, w) :: t) x v = (k, v) :: t) ∨
    (k < x ∧ kvSet d ((k, w) :: t) x v = (k, w) :: kvSet d t x v) := by
  rw [kvSet]
  by_cases hlt : x < k
  · by_cases hd : v = d
    · exact .inl ⟨hlt, hd, by rw [if_pos hlt, if_pos hd]⟩
    · exact .inr (.inl ⟨hlt, hd, by rw [if_pos hlt, if_neg hd]⟩)
  · by_cases heq : x = k
    · by_cases hd : v = d
      · exact .inr (.inr (.inl ⟨heq, hd, by rw [if_neg hlt, if_pos heq, if_pos hd]⟩))
      · exact .inr (.inr (.inr (.inl ⟨heq, hd, by rw [if_neg hlt, if_pos heq, if_neg hd]⟩)))
    · exact .inr (.inr (.inr (.inr ⟨by omega, by rw [if_neg hlt, if_neg heq]⟩)))

theorem kvFrom_cons {α : Type} (lo k : Nat) (w : α) (t : List (Nat × α)) : kvFrom lo ((k, w) :: t) = true ↔ lo ≤ k :=
  decide_eq_true_iff

theorem kvRise_cons {α : Type} (k : Nat) (w : α) (t : List (Nat × α)) :
    kvRise ((k, w) :: t) = true ↔ kvFrom (k + 1) t = true ∧ kvRise t = true :=
  Bool.and_eq_true_iff

/-- A store keeps the lower bound of the keys, whatever default it drops. -/
theorem kvFrom_kvSet_rise {α : Type} [DecidableEq α] (d : α) (lo : Nat) : ∀ (l : List (Nat × α)) (x : Nat) (v : α),
    kvRise l = true → kvFrom lo l = true → lo ≤ x → kvFrom lo (kvSet d l x v) = true
  | [], x, v, _, _, h => by
    rw [kvSet]
    split
    · rfl
    · exact (kvFrom_cons lo x v []).2 h
  | (k, w) :: t, x, v, hr, hf, h => by
    rw [kvRise_cons] at hr
    rw [kvFrom_cons] at hf
    obtain ⟨-, -, e⟩ | ⟨-, -, e⟩ | ⟨-, -, e⟩ | ⟨-, -, e⟩ | ⟨-, e⟩ := kvSet_cons_cases d k w t x v <;> rw [e]
    · exact (kvFrom_cons lo k w t).2 hf
    · exact (kvFrom_cons lo x v _).2 h
    · exact kvFrom_mono (by omega) t hr.1
    · exact (kvFrom_cons lo k v t).2 hf
    · exact (kvFrom_cons lo k w _).2 hf

/-- A store keeps the keys rising. -/
theorem kvRise_kvSet {α : Type} [DecidableEq α] (d : α) : ∀ (l : List (Nat × α)) (x : Nat) (v : α),
    kvRise l = true → kvRise (kvSet d l x v) = true
  | [], x, v, _ => by rw [kvSet]; split <;> rfl
  | (k, w) :: t, x, v, hr => by
    obtain ⟨hfrom, hrise⟩ := (kvRise_cons k w t).1 hr
    obtain ⟨-, -, e⟩ | ⟨hlt, -, e⟩ | ⟨-, -, e⟩ | ⟨-, -, e⟩ | ⟨hgt, e⟩ := kvSet_cons_cases d k w t x v <;> rw [e]
    · exact hr
    · exact (kvRise_cons x v _).2 ⟨(kvFrom_cons _ k w t).2 hlt, hr⟩
    · exact hrise
    · exact (kvRise_cons k v t).2 ⟨hfrom, hrise⟩
    · exact (kvRise_cons k w _).2 ⟨kvFrom_kvSet_rise d (k + 1) t x v hrise hfrom hgt, kvRise_kvSet d t x v hrise⟩

/-- Below the first key a map of rising keys lists nothing. -/
theorem kvGet_below_rise {α : Type} (d : α) : ∀ (l : List (Nat × α)) (x : Nat),
    kvRise l = true → kvFrom (x + 1) l = true → kvGet d l x = d
  | [], _, _, _ => rfl
  | (k, v) :: t, x, hr, hf => by
    rw [kvRise_cons] at hr
    rw [kvFrom_cons] at hf
    rw [kvGet, if_neg (by omega)]
    exact kvGet_below_rise d t x hr.2 (kvFrom_mono (by omega) t hr.1)

/-- A store changes no read at another key. -/
theorem kvGet_kvSet_other {α : Type} [DecidableEq α] (d e : α) (x y : Nat) (v : α) (hy : y ≠ x) :
    ∀ l : List (Nat × α), kvGet e (kvSet d l x v) y = kvGet e l y
  | [] => by
    rw [kvSet]
    split
    · rfl
    · exact if_neg hy
  | (k, w) :: t => by
    obtain ⟨-, -, h⟩ | ⟨-, -, h⟩ | ⟨rfl, -, h⟩ | ⟨rfl, -, h⟩ | ⟨-, h⟩ := kvSet_cons_cases d k w t x v <;> rw [h]
    · rw [kvGet, if_neg hy]
    · rw [kvGet, if_neg hy]
    · rw [kvGet, if_neg hy, kvGet, if_neg hy]
    · rw [kvGet, kvGet, kvGet_kvSet_other d e x y v hy t]

/-- A read at the key of a store gives the value stored, whether it is listed or is the default. -/
theorem kvGet_kvSet_same {α : Type} [DecidableEq α] (d : α) (x : Nat) (v : α) :
    ∀ l : List (Nat × α), kvRise l = true → kvGet d (kvSet d l x v) x = v
  | [], _ => by
    rw [kvSet]
    split
    · next hd => exact hd.symm
    · rw [kvGet, if_pos rfl]
  | (k, w) :: t, hr => by
    obtain ⟨hfrom, hrise⟩ := (kvRise_cons k w t).1 hr
    obtain ⟨hlt, hd, h⟩ | ⟨-, -, h⟩ | ⟨rfl, hd, h⟩ | ⟨rfl, -, h⟩ | ⟨hgt, h⟩ := kvSet_cons_cases d k w t x v <;> rw [h]
    · rw [hd]
      exact kvGet_below_rise d _ x hr ((kvFrom_cons _ k w t).2 hlt)
    · rw [kvGet, if_pos rfl]
    · rw [hd]
      exact kvGet_below_rise d t x hrise hfrom
    · rw [kvGet, if_pos rfl]
    · rw [kvGet, if_neg (by omega), kvGet_kvSet_same d x v t hrise]

/-- The entries after a store: the new one, unless it is the default, and entries that stood there before. -/
theorem mem_kvSet {α : Type} [DecidableEq α] (d : α) (x : Nat) (v : α) {e : Nat × α} :
    ∀ l : List (Nat × α), e ∈ kvSet d l x v → e ∈ l ∨ (e = (x, v) ∧ v ≠ d)
  | [], he => by
    rw [kvSet] at he
    split at he
    · exact .inl he
    · next hd => exact .inr ⟨List.mem_singleton.1 he, hd⟩
  | (k, w) :: t, he => by
    obtain ⟨-, -, h⟩ | ⟨-, hd, h⟩ | ⟨-, -, h⟩ | ⟨rfl, hd, h⟩ | ⟨-, h⟩ := kvSet_cons_cases d k w t x v <;> rw [h] at he
    · exact .inl he
    · exact (List.mem_cons.1 he).elim (fun hnew => .inr ⟨hnew, hd⟩) .inl
    · exact .inl (List.mem_cons_of_mem _ he)
    · exact (List.mem_cons.1 he).elim (fun hnew => .inr ⟨hnew, hd⟩) fun hold => .inl (List.mem_cons_of_mem _ hold)
    · obtain rfl | hin := List.mem_cons.1 he
      · exact .inl List.mem_cons_self
      · exact (mem_kvSet d x v t hin).elim (fun hold => .inl (List.mem_cons_of_mem _ hold)) .inr

/-- A register read after a register store. -/
theorem regGet_regSet {m : Mach} (h : RegsWf m) (off off' : Nat) (v : Word) :
    regGet (regSet m off v) off' = if off' = off then v else regGet m off' := by
  split
  · next heq =>
    rw [heq]
    exact kvGet_kvSet_same _ off v m.regs h.1
  · next hne => exact kvGet_kvSet_other _ _ off off' v hne m.regs

/-- A register store keeps the canonical form. -/
theorem regsWf_regSet {m : Mach} (h : RegsWf m) (off : Nat) (v : Word) : RegsWf (regSet m off v) := by
  refine ⟨kvRise_kvSet _ _ off v h.1, fun e he => ?_⟩
  obtain hold | ⟨rfl, hv⟩ := mem_kvSet _ off v m.regs he
  · exact h.2 e hold
  · exact hv

/-- A register store changes the words in effect and nothing else. -/
theorem regSet_frame (m : Mach) (off : Nat) (v : Word) : { regSet m off v with regs := m.regs } = m := rfl

/-- Bits of a run of ones that lies within a word. -/
theorem getLsbD_word_ones {lo w i : Nat} (h : i < 64) :
    (word (ones lo w)).getLsbD i = decide (lo ≤ i ∧ i < lo + w) := by
  rw [word, ones, BitVec.getLsbD_ofNat, Nat.testBit_shiftLeft, Nat.testBit_two_pow_sub_one]
  simp only [h, decide_true, Bool.true_and, ge_iff_le, ← Bool.decide_and, decide_eq_decide]
  omega

/-- A merge takes the bytes written from the value and every other bit from the old word. -/
theorem getLsbD_mergeBytes (old v : Word) {ofs size i : Nat} (h : i < 64) :
    (mergeBytes old ofs size v).getLsbD i =
      if 8 * ofs ≤ i ∧ i < 8 * (ofs + size) then v.getLsbD (i - 8 * ofs) else old.getLsbD i := by
  have hb : (8 * ofs ≤ i ∧ i < 8 * ofs + 8 * size) ↔ (8 * ofs ≤ i ∧ i < 8 * (ofs + size)) := by omega
  rw [mergeBytes, BitVec.getLsbD_or, BitVec.getLsbD_and, BitVec.getLsbD_not, BitVec.getLsbD_and, BitVec.getLsbD_shiftLeft,
    getLsbD_word_ones h]
  simp only [hb]
  split
  · next hin => simp [h, hin, Nat.not_lt.2 hin.1]
  · next hout => simp [h, hout]

/-- Settles O8: the store is a store into a map of rising keys, and a merge is read bit by bit. -/
theorem registerStoresAreLocal : Obligations.RegisterStoresAreLocal := by
  refine ⟨fun m off off' v h => ⟨regGet_regSet h off off' v, regsWf_regSet h off v, regSet_frame m off v⟩, ?_⟩
  intro old v ofs size i hi _
  exact getLsbD_mergeBytes old v hi

end Sys2Proof.Machine
end

section
/-!
CERTIFICATE. The state after a COLD reset (R507, R509, R510), and START and STOP of the tick generator (R63, R64, R538).
-/
namespace Sys2Proof.Machine

/-! ### Reset -/

/-- At reset no word has been written: every read gives the reset value of its offset. -/
@[simp] theorem regGet_reset (off : Nat) : regGet State.reset.m off = regReset off := rfl

/-- At reset no unit is uncorrectable, no content is lost and no byte is listed. -/
theorem readByte_reset (k : Nat) : readByte State.reset.m k = 0 := by
  have hue : State.reset.m.ue = [] := rfl
  have hlost : scrambledAt State.reset.m k = none := rfl
  have hmem : State.reset.m.mem = [] := rfl
  simp [readByte, hue, hlost, hmem, memDefault]

theorem jobOf_reset (j : Nat) : jobOf State.reset.m j = Job.init := by
  have hjobs : State.reset.m.jobs = List.replicate 16 Job.init := rfl
  rw [jobOf, hjobs, List.getD_eq_getElem?_getD, List.getElem?_replicate]
  split <;> rfl

/-- The reset value of every ring's control register has EN = 0. -/
theorem enabledRing_reset (n : Nat) : enabledRing State.reset.m n = false := by
  have hcmd : ∀ n < 32, tb (regReset (offRingCtl n)).toNat 0 = false := by decide +kernel
  have hout : ∀ off ∈ [offEvtCtl, offStatCtl, offSnapCtl], tb (regReset off).toNat 32 = false := by decide +kernel
  simp only [enabledRing, regN, regGet_reset]
  by_cases h32 : n < 32
  · rw [if_pos h32]
    exact hcmd n h32
  · rw [if_neg h32]
    split
    · exact hout offEvtCtl (by simp only [List.mem_cons, true_or])
    · split
      · exact hout offStatCtl (by simp only [List.mem_cons, true_or, or_true])
      · exact hout offSnapCtl (by simp only [List.mem_cons, true_or, or_true])

/-- Settles O6: reset lists no word, no byte and no tally, so every read gives the default of its place, and those of the
registers are the rows of Tables 19.2 to 19.9. -/
theorem resetLeavesEverySettingAtItsResetValue : Obligations.ResetLeavesEverySettingAtItsResetValue := by
  have hwords : regReset offPeriod = 100000 ∧ regReset offSweepLen = 1000 ∧ regReset offGrace = 8 ∧
      regReset (offJob 15) = 0x100 ∧ regReset (offLinkCtl 35) = 0x11 ∧ regReset offKeyDef = 0x0B5E2D7 ∧
      regReset (offSrc 2303) = 0x401 := by decide +kernel
  obtain ⟨hperiod, hlen, hgrace, hjob, hlink, hkey, hsrc⟩ := hwords
  exact ⟨rfl, rfl, regGet_reset, rfl, rfl, hperiod, hlen, hgrace, hjob, hlink, hkey, hsrc, readByte_reset, fun _ _ => rfl,
    rfl, fun j => by rw [jobOf_reset]; rfl, fun n _ => enabledRing_reset n⟩

/-! ### The tick generator -/

/-- What makes START refuse: STOP in the same write, the uplink or the divisor out of range, or JTAG (R16, R517, R538). -/
theorem startBad_iff (m : Mach) (b : Bool) : startBad m b = true ↔
    b = true ∨ (regN m offRole = 0 ∧ 35 < regN m offUplink) ∨
      (tb (regN m offRefCtl) 0 = true ∧ (bf (regN m offRefCtl) 52 32 = 0 ∨ 1048576 < bf (regN m offRefCtl) 52 32)) ∨
      tb (regN m offTestCtl) 0 = true := by
  simp [startBad, or_assoc]

theorem startOp_running {m : Mach} (b : Bool) (h : m.tick.running = true) : startOp b m = m := if_pos h

theorem startOp_bad {m : Mach} {b : Bool} (h : m.tick.running = false) (hb : startBad m b = true) :
    startOp b m = raise m tickConfigErr (srcUnit 0) none [] := by
  simp [startOp, h, hb]

/-- The generator that START arms: the registers sampled at this instant, the first edge one announcement ahead. -/
def armedTick (m : Mach) : Tick :=
  { m.tick with
    armed := true, master := tb (regN m offRole) 0, uplink := regN m offUplink
    refEn := tb (regN m offRefCtl) 0, refDiv := bf (regN m offRefCtl) 52 32, refOk := false, refEdge := m.edges
    baseTick := regN m offBaseTick, baseSweep := regN m offBaseSweep
    nextEdge := m.now + 200, sym := none, sampled := none, missed := 0, holdover := false, relock := false
    stopIn := 0, reports := [], reported := none, slew := 0 }

theorem startOp_good {m : Mach} {b : Bool} (h : m.tick.running = false) (hb : startBad m b = false) :
    startOp b m = { m with tick := armedTick m } := by
  simp [startOp, h, hb, modTick, armedTick]

theorem stopOp_master {m : Mach} (h : m.tick.running = true) (hm : m.tick.master = true) : stopOp m =
    modTick m fun t => { t with stopIn := if t.stopIn = 1 then 1 else if nearSweepEdge m then 2 else 1 } := by
  simp [stopOp, h, hm]

theorem stopOp_idle {m : Mach} (h : m.tick.running = false ∨ m.tick.master = false) : stopOp m = m :=
  if_pos (by simpa using h)

theorem exec_start {s : State} (h : Ready s) (b : Bool) :
    exec (.start b) s = .next ⟨startOp b s.m, s.pending⟩ := actReady_ready _ h

theorem exec_stop {s : State} (h : Ready s) : exec .stop s = .next ⟨stopOp s.m, s.pending⟩ := actReady_ready _ h

/-- Settles O15: START by the three cases of `startOp`, STOP by the two of `stopOp`. -/
theorem startAndStopOfTheTickGenerator : Obligations.StartAndStopOfTheTickGenerator := by
  intro s hs
  simp only [exec_start hs, exec_stop hs]
  refine ⟨fun b hrun => ?_, fun b hrun hbad => ?_, fun hrun hup href hjtag => ?_, fun hrun hmaster => ?_, fun hidle => ?_⟩
  · rw [startOp_running b hrun]
  · rw [startOp_bad hrun ((startBad_iff s.m b).2 hbad)]
  · have hok : startBad s.m false = false := by
      rw [← Bool.not_eq_true, startBad_iff]
      simp [hup, href, hjtag]
    exact ⟨armedTick s.m, by rw [startOp_good hrun hok], rfl, hrun, rfl, rfl, rfl, rfl, rfl, rfl, rfl, rfl, rfl, rfl⟩
  · rw [stopOp_master hrun hmaster]
  · rw [stopOp_idle hidle]

end Sys2Proof.Machine
end

section
/-!
CERTIFICATE. Writes of the host to the set-up window (R14–R17, R533–R536): what one write does for each access kind, and what two
writes in one cycle do (R73).
-/
namespace Sys2Proof.Machine

/-! ### One write -/

/-- The module at a write through endpoint `ep`, which counts as up. -/
abbrev seenBy (ep : Nat) (m : Mach) : Mach := modEp m ep fun e => { e with up := true }

theorem exec_registerWrite {s : State} {w : BusWrite} (h : Ready s) (he : w.ep < 2) :
    exec (.registerWrite w) s = .next ⟨regWriteOp w s.m, s.pending⟩ := by
  show actReady (decide (w.ep < 2)) (regWriteOp w) s = _
  rw [decide_eq_true he, actReady_ready _ h]

theorem regWriteOp_alone {w : BusWrite} (hb : w.both = none) (m : Mach) : regWriteOp w m = oneWrite w m := by
  rw [regWriteOp, hb]

section
variable {w : BusWrite} {m : Mach} {r : RegRow}

theorem oneWrite_refused (hs : accessBad true w.offset w.size = true) : oneWrite w m = hostBad (seenBy w.ep m) := if_pos hs

variable (hs : accessBad true w.offset w.size = false)
include hs

theorem oneWrite_reserved (hr : regFind (w.offset / 8 * 8) = none) : oneWrite w m = seenBy w.ep m := by
  simp [oneWrite, hs, hr]

variable (hr : regFind (w.offset / 8 * 8) = some r)
include hr

theorem oneWrite_w1c (ha : r.acc = .w1c) : oneWrite w m =
    clearSticky (w.offset / 8 * 8) (mergeBytes 0 (w.offset % 8) w.size w.value) 0 (seenBy w.ep m) := by
  simp [oneWrite, hs, hr, ha]

theorem oneWrite_pend (ha : r.acc = .rwt ∨ r.acc = .rws) : oneWrite w m =
    pendWrite (w.offset / 8 * 8) (w.offset % 8) w.size w.value r.mask (seenBy w.ep m) := by
  obtain ha | ha := ha <;> simp [oneWrite, hs, hr, ha]

theorem oneWrite_command (ha : r.acc = .wo) (hk : ¬(0x20000 ≤ w.offset / 8 * 8 ∧ w.offset / 8 * 8 < 0x28000)) :
    oneWrite w m = cmdWrite (w.offset / 8 * 8) (mergeBytes 0 (w.offset % 8) w.size w.value &&& word r.mask).toNat
      (seenBy w.ep m) := by
  simp only [oneWrite, hs, hr, ha, Bool.false_eq_true, if_false, if_neg hk]

theorem oneWrite_jobKey (ha : r.acc = .wo) (hk : 0x20000 ≤ w.offset / 8 * 8 ∧ w.offset / 8 * 8 < 0x28000) :
    oneWrite w m = jobKeyOp ((w.offset / 8 * 8 - 0x20000) / 0x800) (w.offset / 8 * 8 % 0x800 - 0x20 + w.offset % 8) w.size
      w.value (seenBy w.ep m) := by
  simp only [oneWrite, hs, hr, ha, Bool.false_eq_true, if_false, if_pos hk]

/-- The word that a write to an RW register leaves is judged by the register's range before it is stored. -/
theorem oneWrite_rw (ha : r.acc = .rw) (hc : ctlRing (w.offset / 8 * 8) = none) : oneWrite w m =
    let v := mergeBytes (regGet (seenBy w.ep m) (w.offset / 8 * 8)) (w.offset % 8) w.size w.value &&& word r.mask
    if r.ok v.toNat then rwWrite (w.offset / 8 * 8) v (seenBy w.ep m) else hostBad (seenBy w.ep m) := by
  simp only [oneWrite, hs, hr, ha, hc, Bool.false_eq_true, if_false]

end

/-! ### Stores by access kind -/

theorem clearSticky_alone (off : Nat) (v : Word) (m : Mach) :
    clearSticky off v 0 m = regSet m off (regGet m off &&& ~~~v) := by
  simp [clearSticky]

theorem pendWrite_now {off : Nat} (ofs size : Nat) (v : Word) (mask : Nat) {m : Mach} (hf : off ≠ offFwCtl)
    (hl : (timingOffs.contains off && nearSweepEdge m) = false) :
    pendWrite off ofs size v mask m = { m with
      pend := pendPut m.pend off (mergeBytes (pendGet m off) ofs size v &&& word mask)
      pendLate := m.pendLate.filter fun e => e.1 != off } := by
  rw [pendWrite, if_neg hf, hl, if_neg Bool.false_ne_true]

theorem pendWrite_late {off : Nat} (ofs size : Nat) (v : Word) (mask : Nat) {m : Mach} (hf : off ≠ offFwCtl)
    (hl : (timingOffs.contains off && nearSweepEdge m) = true) :
    ∃ old, (old = pendGet m off ∨ (off, old) ∈ m.pendLate) ∧ pendWrite off ofs size v mask m =
      { m with pendLate := pendPut m.pendLate off (mergeBytes old ofs size v &&& word mask) } := by
  simp only [pendWrite, if_neg hf, if_pos hl]
  cases hfind : m.pendLate.find? fun e => e.1 == off with
  | none => exact ⟨_, .inl rfl, rfl⟩
  | some e =>
    have hkey : e.1 = off := by simpa using List.find?_some hfind
    exact ⟨e.2, .inr (hkey ▸ List.mem_of_find?_eq_some hfind), rfl⟩

/-- Registers whose store no rule guards. -/
theorem rwWrite_unguarded {off : Nat} (v : Word) (m : Mach)
    (hn : off ∉ [offModuleNum, offRole, offUplink, offLeaseExp, offTwinLinks, offTestCtl, offThermHi, offThermCrit])
    (hlink : off < 0x80000 ∨ 0x84000 ≤ off) (hline : off < 0xA0100 ∨ 0xA0160 ≤ off) (hb : baseRing off = none) :
    rwWrite off v m = regSet m off v := by
  have hlink' : ¬(off / 0x10000 = 8 ∧ off < 0x84000) := by omega
  have hline' : ¬(0xA0100 ≤ off ∧ off < 0xA0160) := by omega
  simp only [List.mem_cons, List.not_mem_nil, or_false, not_or] at hn
  simp [rwWrite, hn, hlink', hline', hb]

theorem rwWrite_therm {off : Nat} (h : off = offThermHi ∨ off = offThermCrit) (v : Word) (m : Mach) :
    rwWrite off v m = thermOp off v m := by
  obtain rfl | rfl := h <;> rfl

/-- PWR_THERM_HI and PWR_THERM_CRIT are RW registers, and no ring's control register. -/
theorem therm_rw {off : Nat} {r : RegRow} (h : off = offThermHi ∨ off = offThermCrit) (hr : regFind off = some r) :
    r.acc = .rw ∧ ctlRing off = none := by
  have htab : ∀ o ∈ [offThermHi, offThermCrit], (regFind o).map (·.acc) = some .rw ∧ ctlRing o = none := by decide +kernel
  obtain ⟨hacc, hctl⟩ := htab off (by simpa using h)
  exact ⟨by simpa [hr] using hacc, hctl⟩

/-! ### Two writes in one cycle -/

/-- Of two writes in one cycle the one through endpoint 0 acts first, whichever of the two is named first (R73). -/
theorem regWriteOp_pair (o z o' z' : Nat) (v v' : Word) (m : Mach) :
    let inOrder := oneWrite ⟨1, o', z', v', none⟩ (oneWrite ⟨0, o, z, v, none⟩ m)
    regWriteOp ⟨0, o, z, v, some (o', z', v')⟩ m = inOrder ∧ regWriteOp ⟨1, o', z', v', some (o, z, v)⟩ m = inOrder :=
  ⟨rfl, rfl⟩

/-- Settles O12: one write by the access kind of its register, two writes by their order. -/
theorem registerWritesStoreByAccessKind : Obligations.RegisterWritesStoreByAccessKind := by
  refine ⟨fun s w hs he hb => ?_, fun s t o z o' z' v v' hs ht ht' => ?_⟩
  · simp only [exec_registerWrite hs he, regWriteOp_alone hb]
    refine ⟨fun hsz => ?_, fun hsz hr => ?_, fun r hsz hr => ⟨fun ha => ?_, fun ha hf hl => ?_, fun ha hf hl => ?_,
      fun ha hc hbase hn hlink hline => ⟨fun hok => ?_, fun hok => ?_⟩, fun hth => ?_⟩⟩
    · rw [oneWrite_refused hsz, hostBad]
    · rw [oneWrite_reserved hsz hr]
    · rw [oneWrite_w1c hsz hr ha, clearSticky_alone]
    · rw [oneWrite_pend hsz hr ha, pendWrite_now _ _ _ _ hf hl]
    · rw [oneWrite_pend hsz hr ha]
      obtain ⟨old, hold, heq⟩ := pendWrite_late (w.offset % 8) w.size w.value r.mask hf hl
      exact ⟨old, hold, by rw [heq]⟩
    · rw [oneWrite_rw hsz hr ha hc]
      simp only [hok, if_true, rwWrite_unguarded _ _ hn hlink hline hbase]
    · rw [oneWrite_rw hsz hr ha hc]
      simp only [hok, Bool.false_eq_true, if_false, hostBad]
    · obtain ⟨ha, hc⟩ := therm_rw hth hr
      rw [oneWrite_rw hsz hr ha hc]
      simp only [rwWrite_therm hth, thermOp]
      refine ⟨fun hok hle => ?_, fun hbad => ?_⟩
      · rw [if_pos hok, if_neg (Nat.not_lt.2 hle)]
      · obtain hok | hlt := hbad
        · simp only [hok, Bool.false_eq_true, if_false, hostBad]
        · simp only [if_pos hlt, ite_self, hostBad]
  · obtain ⟨h0, h1⟩ := regWriteOp_pair o z o' z' v v' s.m
    rw [exec_registerWrite hs Nat.two_pos] at ht
    cases ht
    rw [exec_registerWrite hs Nat.two_pos, exec_registerWrite hs Nat.one_lt_two, exec_registerWrite ht' Nat.one_lt_two, h0, h1]
    exact ⟨rfl, rfl⟩

end Sys2Proof.Machine
end

section
/-!
CERTIFICATE. Writes of the command registers (R16, R535): a whole-word write of a command bit is the command's own row.
-/
namespace Sys2Proof.Machine

/-! ### Whole words and fields -/

/-- A whole-word write replaces the word. -/
theorem mergeBytes_whole (old v : Word) : mergeBytes old 0 8 v = v := by
  refine BitVec.eq_of_getLsbD_eq fun i hi => ?_
  rw [getLsbD_mergeBytes old v hi, if_pos (by omega), Nat.mul_zero, Nat.sub_zero]

/-- A number whose low field and rest lie within those of a mask lies within the mask. -/
theorem and_field {x y a b k : Nat} (hx : x < 2 ^ k) (hy : y < 2 ^ k) (hxy : x &&& y = x) (hab : a &&& b = a) :
    (x + 2 ^ k * a) &&& (y + 2 ^ k * b) = x + 2 ^ k * a := by
  refine Nat.eq_of_testBit_eq fun i => ?_
  have hlow := congrArg (Nat.testBit · i) hxy
  have hhigh := congrArg (Nat.testBit · (i - k)) hab
  simp only [Nat.testBit_and] at hlow hhigh
  rw [Nat.testBit_and, Nat.add_comm x, Nat.add_comm y, Nat.testBit_two_pow_mul_add a hx, Nat.testBit_two_pow_mul_add b hy]
  split
  · exact hlow
  · exact hhigh

/-- A number of `n` bits lies within `n` ones. -/
theorem and_ones {a n : Nat} (h : a < 2 ^ n) : a &&& (2 ^ n - 1) = a := by
  rw [Nat.and_two_pow_sub_one_eq_mod, Nat.mod_eq_of_lt h]

theorem word_and_word {v mask : Nat} (h : v &&& mask = v) : word v &&& word mask = word v := by
  rw [word, word, ← BitVec.ofNat_and, h]

theorem toNat_word {v : Nat} (h : v < 2 ^ 64) : (word v).toNat = v := Nat.mod_eq_of_lt h

theorem bf_eq (x hi lo : Nat) : bf x hi lo = x / 2 ^ lo % 2 ^ (hi + 1 - lo) := by rw [bf, Nat.shiftRight_eq_div_pow]

theorem tb_eq (x i : Nat) : tb x i = decide (x / 2 ^ i % 2 = 1) := Nat.testBit_eq_decide_div_mod_eq

/-! ### Whole-word writes of the host -/

/-- The host writes a whole word through endpoint `ep`. -/
abbrev hostPut (s : State) (ep off v : Nat) : Res := exec (.registerWrite ⟨ep, off, 8, word v, none⟩) s

/-- The state in which the endpoint of a write counts as up. -/
abbrev seenIn (s : State) (ep : Nat) : State := { s with m := seenBy ep s.m }

/-- A register with the access kind and mask, where a whole word may be written. -/
abbrev RegAt (off : Nat) (acc : Access) (mask : Nat) : Prop :=
  off % 8 = 0 ∧ (regFind off).map (fun r => (r.acc, r.mask)) = some (acc, mask)

theorem RegAt.find {off mask : Nat} {acc : Access} (h : RegAt off acc mask) :
    off / 8 * 8 = off ∧ off % 8 = 0 ∧ accessBad true off 8 = false ∧ ∃ r, regFind off = some r ∧ r.acc = acc ∧ r.mask = mask := by
  obtain ⟨hal, hreg⟩ := h
  obtain ⟨r, hr, hkind⟩ := Option.map_eq_some_iff.1 hreg
  obtain ⟨hacc, hmask⟩ := Prod.mk.inj hkind
  exact ⟨by omega, hal, by simp [accessBad, hal], r, hr, hacc, hmask⟩

/-- A row of a unit that exists runs its function in a READY module. -/
theorem row_runs {row : Instr} {exists_ : Bool} {f : Mach → Mach} {s : State} (hs : Ready s) (hx : exists_ = true)
    (hrow : exec row s = actReady exists_ f s) : exec row s = .next ⟨f s.m, s.pending⟩ := by
  rw [hrow, hx, actReady_ready f hs]

section
variable {s : State} {ep off mask v : Nat} {row : Instr} {exists_ : Bool} (hs : Ready s) (he : ep < 2)
include hs he

/-- A whole-word write whose effect is the function of a row answers as the row does. -/
theorem hostPut_row {f g : Mach → Mach} (hput : oneWrite ⟨ep, off, 8, word v, none⟩ s.m = f (seenBy ep s.m)) (hfg : f = g)
    (hx : exists_ = true) (hrow : exec row (seenIn s ep) = actReady exists_ g (seenIn s ep)) :
    hostPut s ep off v = exec row (seenIn s ep) := by
  rw [row_runs (s := seenIn s ep) hs hx hrow, hostPut, exec_registerWrite hs he, regWriteOp_alone rfl, hput, hfg]

/-- A whole-word write of a command register answers as the row that its bits command. -/
theorem hostPut_command {g : Mach → Mach} (h : RegAt off .wo mask) (hk : ¬(0x20000 ≤ off ∧ off < 0x28000))
    (hv : v &&& mask = v) (hlt : v < 2 ^ 64) (hcmd : cmdWrite off v = g) (hx : exists_ = true)
    (hrow : exec row (seenIn s ep) = actReady exists_ g (seenIn s ep)) : hostPut s ep off v = exec row (seenIn s ep) := by
  obtain ⟨hoff, hofs, hsz, r, hr, hacc, hmask⟩ := h.find
  refine hostPut_row hs he (f := cmdWrite off v) ?_ hcmd hx hrow
  rw [oneWrite_command (w := ⟨ep, off, 8, word v, none⟩) hsz (by rw [hoff]; exact hr) hacc (by rw [hoff]; exact hk)]
  simp only [hoff, hofs, mergeBytes_whole, hmask, word_and_word hv, toNat_word hlt]

/-- A whole-word write within the mask and range of an RW register answers as the row of the register. -/
theorem hostPut_rw {g : Mach → Mach} (h : RegAt off .rw mask) (hc : ctlRing off = none) (hv : word v &&& word mask = word v)
    (hok : (regFind off).all (fun r => r.ok (word v).toNat) = true) (hcmd : rwWrite off (word v) = g) (hx : exists_ = true)
    (hrow : exec row (seenIn s ep) = actReady exists_ g (seenIn s ep)) : hostPut s ep off v = exec row (seenIn s ep) := by
  obtain ⟨hoff, hofs, hsz, r, hr, hacc, hmask⟩ := h.find
  rw [hr, Option.all_some] at hok
  refine hostPut_row hs he (f := rwWrite off (word v)) ?_ hcmd hx hrow
  rw [oneWrite_rw (w := ⟨ep, off, 8, word v, none⟩) hsz (by rw [hoff]; exact hr) hacc (by rw [hoff]; exact hc)]
  simp only [hoff, hofs, mergeBytes_whole, hmask, hv, hok, if_true]

/-- A whole-word write of JOB_KEY answers as the row JOB_KEY (R541). -/
theorem hostPut_jobKey {j b : Nat} (hj : j < 16) (hb : b < 2) :
    hostPut s ep (offJob j + 0x20 + 8 * b) v = exec (.jobKey j (8 * b) 8 (word v)) (seenIn s ep) := by
  have hreg : ∀ j < 16, ∀ b < 2, RegAt (offJob j + 0x20 + 8 * b) .wo (ones 0 64) := by decide +kernel
  obtain ⟨hoff, hofs, hsz, r, hr, hacc, -⟩ := (hreg j hj b hb).find
  refine hostPut_row hs he (f := jobKeyOp j (8 * b) 8 (word v)) ?_ rfl (decide_eq_true hj) rfl
  have hjob : (offJob j + 0x20 + 8 * b - 0x20000) / 0x800 = j := by simp only [offJob]; omega
  have hbyte : (offJob j + 0x20 + 8 * b) % 0x800 - 0x20 + 0 = 8 * b := by simp only [offJob]; omega
  rw [oneWrite_jobKey (w := ⟨ep, offJob j + 0x20 + 8 * b, 8, word v, none⟩) hsz (by rw [hoff]; exact hr) hacc
    (by simp only [offJob]; omega)]
  simp only [hoff, hofs, hjob, hbyte]

/-- A whole-word write of an event register answers as the row W1C_CLEAR. -/
theorem hostPut_event {n : Nat} (hn : n < 14) :
    hostPut s ep (eventOffs.getD n 0) v = exec (.w1cClear n (word v) 0) (seenIn s ep) := by
  have hreg : ∀ n < 14, RegAt (eventOffs.getD n 0) .w1c (maskOf (eventOffs.getD n 0)) := by decide +kernel
  obtain ⟨hoff, hofs, hsz, r, hr, hacc, -⟩ := (hreg n hn).find
  have hget : eventOffs[n]? = some (eventOffs.getD n 0) := by
    rw [List.getD_eq_getElem?_getD, List.getElem?_eq_getElem hn, Option.getD_some]
  refine hostPut_row hs he (f := w1cOp n (word v) 0) ?_ rfl (decide_eq_true hn) rfl
  rw [oneWrite_w1c (w := ⟨ep, eventOffs.getD n 0, 8, word v, none⟩) hsz (by rw [hoff]; exact hr) hacc]
  simp only [hoff, hofs, mergeBytes_whole, w1cOp, hget]

end

/-! ### Command words -/

/-- A command word: operation, unit, channel and bank, each in its field (Tables 15.5, 17.7 and 18.8). -/
def cmdWord (op unit chan bank : Nat) : Nat := op + 2 ^ 8 * (unit + 2 ^ 8 * (chan + 2 ^ 8 * bank))

theorem cmdWord_fields {op unit chan bank : Nat} (ho : op < 2 ^ 4) (hu : unit < 2 ^ 7) (hc : chan < 2 ^ 4) (hb : bank < 2) :
    bf (cmdWord op unit chan bank) 3 0 = op ∧ bf (cmdWord op unit chan bank) 14 8 = unit ∧
    bf (cmdWord op unit chan bank) 19 16 = chan ∧ bf (cmdWord op unit chan bank) 24 24 = bank := by
  simp only [bf_eq, cmdWord]
  omega

/-- A command word lies within a mask when each of its fields does. -/
theorem cmdWord_and {op unit chan bank mo mu mc mb : Nat} (ho : op &&& mo = op) (hu : unit &&& mu = unit)
    (hc : chan &&& mc = chan) (hb : bank &&& mb = bank) (hmo : mo < 2 ^ 8) (hmu : mu < 2 ^ 8) (hmc : mc < 2 ^ 8) :
    cmdWord op unit chan bank &&& cmdWord mo mu mc mb = cmdWord op unit chan bank := by
  have below {a b : Nat} (h : a &&& b = a) (hb : b < 2 ^ 8) : a < 2 ^ 8 := by
    rw [← h]
    exact Nat.lt_of_le_of_lt Nat.and_le_right hb
  exact and_field (below ho hmo) hmo ho (and_field (below hu hmu) hmu hu (and_field (below hc hmc) hmc hc hb))

theorem cmdWord_lt {op unit chan bank : Nat} (ho : op < 2 ^ 4) (hu : unit < 2 ^ 7) (hc : chan < 2 ^ 4) (hb : bank < 2) :
    cmdWord op unit chan bank < 2 ^ 64 := by
  simp only [cmdWord]
  omega

/-! ### The functions that command words run -/

/-- GO of a command word. -/
theorem tb_cmdWord_one (unit chan bank : Nat) : tb (cmdWord 1 unit chan bank) 0 = true := by
  rw [tb_eq, decide_eq_true_eq, cmdWord]
  omega

theorem cmdWrite_failFacet {f : Nat} (h : f < 96) :
    cmdWrite 0x2048 (cmdWord 1 f 0 0) = fun m => sendReport false (if f < 96 then failFacetOp f m else m) := by
  obtain ⟨-, hf, -, -⟩ := cmdWord_fields (op := 1) (unit := f) (chan := 0) (bank := 0)
    (by omega) (by omega) (by omega) (by omega)
  funext m
  simp [cmdWrite, tb_cmdWord_one, hf, h]

theorem cmdWrite_retire {f c : Nat} (hf : f < 2 ^ 7) (hc : c < 2 ^ 4) :
    cmdWrite 0x90030 (cmdWord 1 f c 0) = retireOp f c := by
  obtain ⟨-, hunit, hchan, -⟩ := cmdWord_fields (op := 1) (bank := 0) (by omega) hf hc (by omega)
  funext m
  simp [cmdWrite, tb_cmdWord_one, hunit, hchan]

theorem cmdWrite_testCmd (v : Nat) : cmdWrite 0x3008 v = testCmdOp v := rfl

section
variable {site : Nat} (hs : site < 104)
include hs

theorem testCmdOp_wireTest : testCmdOp (cmdWord 1 site 0 0) = wireTestOp site := by
  obtain ⟨hop, hunit, -, -⟩ := cmdWord_fields (op := 1) (unit := site) (chan := 0) (bank := 0)
    (by omega) (by omega) (by omega) (by omega)
  funext m
  simp [testCmdOp, hop, hunit, Nat.not_le.2 hs]

theorem testCmdOp_ucode : testCmdOp (cmdWord 2 site 0 0) = ucodeOp site := by
  obtain ⟨hop, hunit, -, -⟩ := cmdWord_fields (op := 2) (unit := site) (chan := 0) (bank := 0)
    (by omega) (by omega) (by omega) (by omega)
  funext m
  simp [testCmdOp, hop, hunit, Nat.not_le.2 hs]

theorem testCmdOp_hbmRetrain {c : Nat} (hc : c < 2 ^ 4) : testCmdOp (cmdWord 7 site c 0) = hbmRetrainOp site c := by
  obtain ⟨hop, hunit, hchan, -⟩ := cmdWord_fields (op := 7) (unit := site) (bank := 0) (by omega) (by omega) hc (by omega)
  funext m
  simp [testCmdOp, hop, hunit, hchan, Nat.not_le.2 hs]

end

theorem testCmdOp_flashProg {b : Nat} (hb : b < 2) : testCmdOp (cmdWord 3 0 0 b) = flashProgOp b := by
  obtain ⟨hop, -, -, hbank⟩ := cmdWord_fields (op := 3) (unit := 0) (chan := 0) (by omega) (by omega) (by omega) hb
  funext m
  simp [testCmdOp, hop, hbank]

theorem testCmdOp_fwCommit {b : Nat} (hb : b < 2) : testCmdOp (cmdWord 4 0 0 b) = fwCommitOp b := by
  obtain ⟨hop, -, -, hbank⟩ := cmdWord_fields (op := 4) (unit := 0) (chan := 0) (by omega) (by omega) (by omega) hb
  funext m
  simp [testCmdOp, hop, hbank]

/-- The LINK_CMD registers are told by their 64 KiB block of the window, one per 0x100 bytes (Table 14.10). -/
theorem cmdWrite_linkCmd {l : Nat} (h : l < 36) (v : Nat) : cmdWrite (0x80008 + 0x100 * l) v = linkCmdOp l v := by
  have hblock : (0x80008 + 0x100 * l) / 0x10000 = 8 := by omega
  have hlink : (0x80008 + 0x100 * l - 0x80000) / 0x100 = l := by omega
  have hother : ∀ off ∈ [0x1000, 0x10000, 0x4010, 0x2048, 0x3008, 0x90030], 0x80008 + 0x100 * l ≠ off := by
    simp only [List.forall_mem_cons, List.not_mem_nil, false_imp_iff, implies_true, and_true]
    omega
  simp only [List.forall_mem_cons, List.not_mem_nil, false_imp_iff, implies_true, and_true] at hother
  funext m
  simp only [cmdWrite, hother, hblock, hlink, if_false, if_true]

theorem linkCmdOp_retrainLane (l : Nat) {n : Nat} (h : n < 8) : linkCmdOp l (2 + 2 ^ 4 * n) = retrainLaneOp l n := by
  have hlane : bf (2 + 2 ^ 4 * n) 6 4 = n := by rw [bf_eq]; omega
  have hgo : tb (2 + 2 ^ 4 * n) 1 = true := by rw [tb_eq, decide_eq_true_eq]; omega
  have hno : tb (2 + 2 ^ 4 * n) 0 = false ∧ tb (2 + 2 ^ 4 * n) 7 = false ∧ tb (2 + 2 ^ 4 * n) 8 = false := by
    simp only [tb_eq, decide_eq_false_iff_not]
    omega
  obtain ⟨h0, h7, h8⟩ := hno
  funext m
  simp only [linkCmdOp, hlane, hgo, h0, h7, h8, onlyIf_true, onlyIf_false]

theorem rwWrite_moduleNum (v : Word) (hv : v &&& word (ones 0 12) = v) : rwWrite offModuleNum v = idNumOp 8 v := by
  funext m
  simp [rwWrite, idNumOp, accessBad, mergeBytes_whole, hv]

/-! ### The command registers -/

section
variable {s : State} {ep : Nat} (hs : Ready s) (he : ep < 2)
include hs he

theorem hostPut_tickCtl : hostPut s ep 0x1000 1 = exec (.start false) (seenIn s ep) ∧
    hostPut s ep 0x1000 2 = exec .stop (seenIn s ep) := by
  have hreg : RegAt 0x1000 .wo 3 := by decide +kernel
  exact ⟨hostPut_command hs he hreg (by omega) rfl (by omega) rfl rfl rfl,
    hostPut_command hs he hreg (by omega) rfl (by omega) rfl rfl rfl⟩

theorem hostPut_hostCmd : hostPut s ep 0x10000 1 = exec .latClr (seenIn s ep) :=
  hostPut_command hs he (mask := 1) (by decide +kernel) (by omega) rfl (by omega) rfl rfl rfl

theorem hostPut_twinCmd : hostPut s ep 0x4010 1 = exec .detach (seenIn s ep) ∧
    hostPut s ep 0x4010 2 = exec .unfreeze (seenIn s ep) := by
  have hreg : RegAt 0x4010 .wo 3 := by decide +kernel
  exact ⟨hostPut_command hs he hreg (by omega) rfl (by omega) rfl rfl rfl,
    hostPut_command hs he hreg (by omega) rfl (by omega) rfl rfl rfl⟩

theorem hostPut_pwrCmd {f : Nat} (hf : f < 96) :
    hostPut s ep 0x2048 (cmdWord 1 f 0 0) = exec (.failFacet f) (seenIn s ep) :=
  hostPut_command hs he (mask := cmdWord 1 127 0 0) (by decide +kernel) (by omega)
    (cmdWord_and rfl (and_ones (n := 7) (by omega)) rfl rfl (by omega) (by omega) (by omega))
    (cmdWord_lt (by omega) (by omega) (by omega) (by omega)) (cmdWrite_failFacet hf) (decide_eq_true (by omega)) rfl

theorem hostPut_memCmd {f c : Nat} (hf : f < 96) (hc : c < 16) :
    hostPut s ep 0x90030 (cmdWord 1 f c 0) = exec (.retire f c) (seenIn s ep) :=
  hostPut_command hs he (mask := cmdWord 1 127 15 0) (by decide +kernel) (by omega)
    (cmdWord_and rfl (and_ones (n := 7) (by omega)) (and_ones (n := 4) hc) rfl (by omega) (by omega) (by omega))
    (cmdWord_lt (by omega) (by omega) hc (by omega)) (cmdWrite_retire (by omega) hc) (decide_eq_true ⟨by omega, hc⟩) rfl

/-- A command word of TEST_CMD answers as the row whose function its operation runs. -/
theorem hostPut_testCmd {op unit chan bank : Nat} (ho : op < 16) (hu : unit < 128) (hc : chan < 16) (hb : bank < 2)
    {row : Instr} {exists_ : Bool} {g : Mach → Mach} (hcmd : testCmdOp (cmdWord op unit chan bank) = g)
    (hx : exists_ = true) (hrow : exec row (seenIn s ep) = actReady exists_ g (seenIn s ep)) :
    hostPut s ep 0x3008 (cmdWord op unit chan bank) = exec row (seenIn s ep) :=
  hostPut_command hs he (mask := cmdWord 15 127 15 1) (by decide +kernel) (by omega)
    (cmdWord_and (and_ones (n := 4) ho) (and_ones (n := 7) hu) (and_ones (n := 4) hc) (and_ones (n := 1) hb)
      (by omega) (by omega) (by omega))
    (cmdWord_lt ho hu hc hb) ((cmdWrite_testCmd _).trans hcmd) hx hrow

/-- A word of LINK_CMD answers as the row whose function its bits run. -/
theorem hostPut_linkCmd {l v : Nat} (hl : l < 36) (hv : v &&& 499 = v) (hlt : v < 2 ^ 64)
    {row : Instr} {exists_ : Bool} {g : Mach → Mach} (hcmd : linkCmdOp l v = g)
    (hx : exists_ = true) (hrow : exec row (seenIn s ep) = actReady exists_ g (seenIn s ep)) :
    hostPut s ep (0x80008 + 0x100 * l) v = exec row (seenIn s ep) := by
  have hreg : ∀ l < 36, RegAt (0x80008 + 0x100 * l) .wo 499 := by decide +kernel
  exact hostPut_command hs he (hreg l hl) (by omega) hv hlt ((cmdWrite_linkCmd hl v).trans hcmd) hx hrow

/-! ### Registers whose writes are rows of their own -/

theorem hostPut_testCtl {v : Nat} (hv : v < 2) : hostPut s ep offTestCtl v = exec (.jtagRun (word v)) (seenIn s ep) :=
  hostPut_rw hs he (mask := 1) (by decide +kernel) (by decide +kernel) (word_and_word (and_ones (n := 1) hv)) rfl rfl rfl rfl

theorem hostPut_tickRole {v : Nat} (hv : v < 2) : hostPut s ep offRole v = exec (.tickRole (word v)) (seenIn s ep) :=
  hostPut_rw hs he (mask := 1) (by decide +kernel) (by decide +kernel) (word_and_word (and_ones (n := 1) hv)) rfl rfl rfl rfl

theorem hostPut_tickUplink {v : Nat} (hv : v < 36) :
    hostPut s ep offUplink v = exec (.tickUplink (word v)) (seenIn s ep) := by
  have hok : ∀ v < 36, (regFind offUplink).all (fun r => r.ok (word v).toNat) = true := by decide +kernel
  exact hostPut_rw hs he (mask := ones 0 6) (by decide +kernel) (by decide +kernel)
    (word_and_word (and_ones (n := 6) (by omega))) (hok v hv) rfl rfl rfl

theorem hostPut_leaseExp (v : Nat) : hostPut s ep offLeaseExp v = exec (.twinLeaseExp (word v)) (seenIn s ep) :=
  hostPut_rw hs he (mask := ones 0 64) (by decide +kernel) (by decide +kernel) BitVec.and_allOnes rfl rfl rfl rfl

theorem hostPut_twinLinks {v : Nat} (hv : v < 2 ^ 36) (hlo : 2 ≤ popc 36 v) (hhi : popc 36 v ≤ 8) :
    hostPut s ep offTwinLinks v = exec (.twinLinks (word v)) (seenIn s ep) := by
  have hok : (regFind offTwinLinks).all (fun r => r.ok (word v).toNat) = true := by
    rw [toNat_word (by omega)]
    exact Bool.and_eq_true_iff.2 ⟨decide_eq_true hlo, decide_eq_true hhi⟩
  exact hostPut_rw hs he (mask := ones 0 36) (by decide +kernel) (by decide +kernel)
    (word_and_word (and_ones (n := 36) hv)) hok rfl rfl rfl

theorem hostPut_moduleNum {v : Nat} (hv : v < 2 ^ 12) :
    hostPut s ep offModuleNum v = exec (.idModuleNum 8 (word v)) (seenIn s ep) := by
  have hmask : word v &&& word (ones 0 12) = word v := word_and_word (and_ones (n := 12) hv)
  exact hostPut_rw hs he (by decide +kernel) (by decide +kernel) hmask rfl (rwWrite_moduleNum _ hmask) rfl rfl

end

theorem cmdWord_unit (op unit : Nat) : op + 2 ^ 8 * unit = cmdWord op unit 0 0 := by simp [cmdWord]

theorem cmdWord_chan (op unit chan : Nat) : op + 2 ^ 8 * unit + 2 ^ 16 * chan = cmdWord op unit chan 0 := by
  simp only [cmdWord]
  omega

theorem cmdWord_bank (op bank : Nat) : op + 2 ^ 24 * bank = cmdWord op 0 0 bank := by
  simp only [cmdWord]
  omega

/-- Settles O13: every command bit runs the function of its row, register by register. -/
theorem commandBitsRunTheirRows : Obligations.CommandBitsRunTheirRows := by
  intro s ep hs he
  obtain ⟨hstart, hstop⟩ := hostPut_tickCtl hs he
  obtain ⟨hdetach, hunfreeze⟩ := hostPut_twinCmd hs he
  refine ⟨hstart, hstop, hostPut_hostCmd hs he, hdetach, hunfreeze, fun f hf => ?_, fun f c hf hc => ?_,
    fun site hsite => ⟨?_, ?_⟩, fun b hb => ⟨?_, ?_⟩, ?_, ?_, fun f c hf hc => ?_, ?_,
    fun l hl => ⟨?_, fun n hn => ?_, ?_, ?_⟩, fun v hv => ⟨hostPut_testCtl hs he hv, hostPut_tickRole hs he hv⟩,
    fun v hv => hostPut_tickUplink hs he hv, hostPut_leaseExp hs he, fun v hv hlo hhi => hostPut_twinLinks hs he hv hlo hhi,
    fun v hv => hostPut_moduleNum hs he hv, fun j b v hj hb => hostPut_jobKey hs he hj hb,
    fun r v hr => hostPut_event hs he hr⟩
  · exact cmdWord_unit 1 f ▸ hostPut_pwrCmd hs he hf
  · exact cmdWord_chan 1 f c ▸ hostPut_memCmd hs he hf hc
  · exact cmdWord_unit 1 site ▸ hostPut_testCmd hs he (by omega) (by omega) (by omega) (by omega)
      (testCmdOp_wireTest hsite) (decide_eq_true hsite) rfl
  · exact cmdWord_unit 2 site ▸ hostPut_testCmd hs he (by omega) (by omega) (by omega) (by omega)
      (testCmdOp_ucode hsite) (decide_eq_true hsite) rfl
  · exact cmdWord_bank 3 b ▸ hostPut_testCmd hs he (by omega) (by omega) (by omega) hb
      (testCmdOp_flashProg hb) (decide_eq_true hb) rfl
  · exact cmdWord_bank 4 b ▸ hostPut_testCmd hs he (by omega) (by omega) (by omega) hb
      (testCmdOp_fwCommit hb) (decide_eq_true hb) rfl
  · exact hostPut_testCmd hs he (op := 5) (unit := 0) (chan := 0) (bank := 0) (by omega) (by omega) (by omega) (by omega)
      rfl rfl rfl
  · exact hostPut_testCmd hs he (op := 6) (unit := 0) (chan := 0) (bank := 0) (by omega) (by omega) (by omega) (by omega)
      rfl rfl rfl
  · exact cmdWord_chan 7 f c ▸ hostPut_testCmd hs he (by omega) (by omega) hc (by omega)
      (testCmdOp_hbmRetrain hf hc) (decide_eq_true ⟨hf, hc⟩) rfl
  · exact hostPut_testCmd hs he (op := 8) (unit := 0) (chan := 0) (bank := 0) (by omega) (by omega) (by omega) (by omega)
      rfl rfl rfl
  · exact hostPut_linkCmd hs he hl rfl (by omega) rfl (decide_eq_true hl) rfl
  · exact hostPut_linkCmd hs he hl (and_field (y := 3) (b := 31) (by omega) (by omega) rfl (and_ones (n := 5) (by omega)))
      (by omega) (linkCmdOp_retrainLane l hn) (decide_eq_true ⟨hl, hn⟩) rfl
  · exact hostPut_linkCmd hs he hl rfl (by omega) rfl (decide_eq_true hl) rfl
  · exact hostPut_linkCmd hs he hl rfl (by omega) rfl (decide_eq_true hl) rfl

end Sys2Proof.Machine
end

section
/-!
CERTIFICATE. What every command does (log entry 66), the canonical form at reset, one write of memory (R461), tallies and lost
contents (R36, R282, R392, R410), and the end of a microcode load (R525).
-/
namespace Sys2Proof.Machine

/-! ### Commands -/

theorem act_queue (exists_ : Bool) (f : Mach → Mach) (s : State) : ∃ m', act exists_ f s = .next ⟨m', s.pending⟩ := by
  cases exists_
  · exact ⟨s.m, rfl⟩
  · exact ⟨f s.m, rfl⟩

/-- Settles O2: every meaning is an `act` of `Instr.wf` and one function of the module. -/
theorem commandsOfExistingUnitsComplete : Obligations.CommandsOfExistingUnitsComplete := by
  intro c s
  obtain ⟨f, hform⟩ := exec_form c
  rw [hform s]
  refine ⟨?_, fun hwf => ?_⟩
  · split
    · exact act_queue c.wf f s
    · exact act_queue c.wf (atReady f) s
  · rw [hwf, actReady, act_missing, act_missing, ite_self]

/-- Settles O7: at reset memory, tallies, register words, uncorrectable units and the queue are empty lists. -/
theorem resetIsCanonical : Obligations.ResetIsCanonical :=
  ⟨⟨rfl, rfl⟩, ⟨rfl, List.forall_mem_nil _⟩, List.forall_mem_nil _, List.forall_mem_nil _⟩

/-! ### Error-corrected units (R459, R460) -/

theorem unitSize_eq (k : Nat) : unitSize k = 8 ∨ unitSize k = 32 := by
  rw [unitSize]
  split
  · exact .inr rfl
  · exact .inl rfl

theorem unitBase_le (k : Nat) : unitBase k ≤ k := Nat.sub_le _ _

theorem lt_unitBase_add (k : Nat) : k < unitBase k + unitSize k := by
  have hrem : k % unitSize k < unitSize k := Nat.mod_lt k (by have := unitSize_eq k; omega)
  rw [unitBase]
  omega

/-- A unit lies within one space: its keys have one unit size. -/
theorem unitSize_congr {k k' : Nat} (h : k / 32 = k' / 32) : unitSize k = unitSize k' := by
  have hspace : k / 2 ^ 41 = k' / 2 ^ 41 := by omega
  rw [unitSize, unitSize, hspace]

theorem unitSize_unitBase (k : Nat) : unitSize (unitBase k) = unitSize k := by
  refine unitSize_congr ?_
  rw [unitBase]
  obtain h | h := unitSize_eq k <;> rw [h] <;> omega

/-- The keys of an aligned unit have its first key as their base. -/
theorem unitBase_eq_of_mem {u y : Nat} (hu : unitBase u = u) (hle : u ≤ y) (hlt : y < u + unitSize u) : unitBase y = u := by
  have hsize : unitSize y = unitSize u := by
    refine unitSize_congr ?_
    rw [unitBase] at hu
    obtain h | h := unitSize_eq u <;> rw [h] at hu hlt <;> omega
  rw [unitBase] at hu ⊢
  rw [hsize]
  obtain h | h := unitSize_eq u <;> rw [h] at hu hlt ⊢ <;> omega

/-! ### Undefined extents (R392, R410, R451) -/

/-- Is the byte at key `k` one that an extent's keys make undefined: every byte without keys, else one whose place they change? -/
def displaced (keys : Option (BitVec 28 × BitVec 28)) (k : Nat) : Bool :=
  keys.all fun e => place (k % 2 ^ 41) e.1.toNat != place (k % 2 ^ 41) e.2.toNat

/-- Does an undefined extent hold the byte at key `k`? -/
def Scrambled.holds (k : Nat) (s : Scrambled) : Bool := decide (s.lo ≤ k) && decide (k < s.hi) && displaced s.keys k

theorem scrambledAt_eq_find (m : Mach) (k : Nat) : scrambledAt m k = m.scrambled.find? (Scrambled.holds k) := by
  refine congrArg (List.find? · m.scrambled) (funext fun ⟨lo, hi, keys, seed⟩ => ?_)
  cases keys <;> rfl

/-- The seed of the free values that the contents at key `k` read as, where they are undefined. -/
def lostSeed (m : Mach) (k : Nat) : Option Nat := (scrambledAt m k).map (·.seed)

theorem readByte_eq (m : Mach) (k : Nat) : readByte m k =
    if unitBase k ∈ m.ue then 0xFF else (lostSeed m k).elim (kvGet memDefault m.mem k) fun seed => Config.free 8 seed k := by
  rw [readByte, lostSeed]
  cases scrambledAt m k <;> rfl

theorem tallyGet_eq (m : Mach) (f t : Nat) : tallyGet m f t =
    (lostSeed m (tallyMem m f t)).elim (kvGet 0 m.tallies (tallyKey m f t)) fun seed =>
      Config.free 32 seed (tallyMem m f t) := by
  rw [tallyGet, lostSeed]
  cases scrambledAt m (tallyMem m f t) <;> rfl

/-- What is left of the extents meets no key that was taken out. -/
theorem outside_of_mem_carve {lo hi : Nat} {s : Scrambled} {l : List Scrambled} (h : s ∈ carve lo hi l) :
    s.hi ≤ lo ∨ hi ≤ s.lo := by
  obtain ⟨t, -, ht⟩ := List.mem_flatMap.1 h
  split at ht
  · next hout => exact List.mem_singleton.1 ht ▸ hout
  · obtain hlow | hhigh := List.mem_append.1 ht
    · split at hlow
      · exact .inl (List.mem_singleton.1 hlow ▸ Nat.le_refl lo)
      · exact absurd hlow List.not_mem_nil
    · split at hhigh
      · exact .inr (List.mem_singleton.1 hhigh ▸ Nat.le_refl hi)
      · exact absurd hhigh List.not_mem_nil

theorem find_carve_inside {lo hi k : Nat} (hlo : lo ≤ k) (hhi : k < hi) (l : List Scrambled) :
    (carve lo hi l).find? (Scrambled.holds k) = none := by
  refine List.find?_eq_none.2 fun s hs hheld => ?_
  simp only [Scrambled.holds, Bool.and_eq_true, decide_eq_true_eq] at hheld
  have := outside_of_mem_carve hs
  omega

theorem carve_cons (lo hi : Nat) (s : Scrambled) (l : List Scrambled) : carve lo hi (s :: l) = carve lo hi [s] ++ carve lo hi l := by
  rw [carve, carve, carve, List.flatMap_cons, List.flatMap_singleton]

/-- Of a key outside the part taken out an extent says what it said. -/
theorem find_carve_singleton {lo hi k : Nat} (h : k < lo ∨ hi ≤ k) (s : Scrambled) :
    ((carve lo hi [s]).find? (Scrambled.holds k)).map (·.seed) = ([s].find? (Scrambled.holds k)).map (·.seed) := by
  rw [carve, List.flatMap_singleton]
  split
  · rfl
  · next hmeet =>
    split <;> split <;> simp only [Scrambled.holds, List.find?_cons, List.find?_nil, List.nil_append, List.cons_append] <;> grind

theorem find_carve_outside {lo hi k : Nat} (h : k < lo ∨ hi ≤ k) : ∀ l : List Scrambled,
    ((carve lo hi l).find? (Scrambled.holds k)).map (·.seed) = (l.find? (Scrambled.holds k)).map (·.seed)
  | [] => rfl
  | s :: t => by
    rw [carve_cons, List.find?_append, Option.map_or, find_carve_singleton h, find_carve_outside h t, ← Option.map_or,
      ← List.find?_append, List.singleton_append]

/-- Seeds after keys are taken out of the undefined extents. -/
theorem lostSeed_carve_inside {m m' : Mach} {lo hi k : Nat} (hm : m'.scrambled = carve lo hi m.scrambled) (hlo : lo ≤ k)
    (hhi : k < hi) : lostSeed m' k = none := by
  rw [lostSeed, scrambledAt_eq_find, hm, find_carve_inside hlo hhi, Option.map_none]

theorem lostSeed_carve_outside {m m' : Mach} {lo hi k : Nat} (hm : m'.scrambled = carve lo hi m.scrambled)
    (h : k < lo ∨ hi ≤ k) : lostSeed m' k = lostSeed m k := by
  rw [lostSeed, lostSeed, scrambledAt_eq_find, scrambledAt_eq_find, hm, find_carve_outside h]

/-! ### One write (R461) -/

/-- A byte reads as before where its unit's mark, its seed and, unless the unit is uncorrectable, its listed value stand. -/
theorem readByte_congr {m m' : Mach} {a : Nat} (hue : unitBase a ∈ m'.ue ↔ unitBase a ∈ m.ue) (hseed : lostSeed m' a = lostSeed m a)
    (hmem : unitBase a ∉ m.ue → kvGet memDefault m'.mem a = kvGet memDefault m.mem a) : readByte m' a = readByte m a := by
  rw [readByte_eq, readByte_eq]
  by_cases h : unitBase a ∈ m.ue
  · rw [if_pos (hue.2 h), if_pos h]
  · rw [if_neg (mt hue.1 h), if_neg h, hseed, hmem h]

section
variable (m : Mach) (f sp off : Nat) (bs : List Byte)

theorem mem_ue_writeMem (u : Nat) : u ∈ (writeMem m f sp off bs).ue ↔
    u ∈ m.ue ∧ ¬(locate m f sp off ≤ u ∧ u + unitSize u ≤ locate m f sp off + bs.length) := by
  simp only [writeMem, List.mem_filter, Bool.not_eq_true', Bool.and_eq_false_iff, decide_eq_false_iff_not, Decidable.not_and_iff_or_not]

theorem lostSeed_writeMem_inside {a : Nat} (hlo : locate m f sp off ≤ a) (hhi : a < locate m f sp off + bs.length) :
    lostSeed (writeMem m f sp off bs) a = none :=
  lostSeed_carve_inside (m := m) rfl hlo hhi

theorem lostSeed_writeMem_outside {a : Nat} (h : a < locate m f sp off ∨ locate m f sp off + bs.length ≤ a) :
    lostSeed (writeMem m f sp off bs) a = lostSeed m a :=
  lostSeed_carve_outside rfl h

/-- The unit of a byte outside the span is not covered whole. -/
theorem unitBase_mem_ue_writeMem_outside {a : Nat} (h : a < locate m f sp off ∨ locate m f sp off + bs.length ≤ a) :
    unitBase a ∈ (writeMem m f sp off bs).ue ↔ unitBase a ∈ m.ue := by
  have hle := unitBase_le a
  have hlt := lt_unitBase_add a
  rw [mem_ue_writeMem, unitSize_unitBase]
  exact and_iff_left (by omega)

variable (hmem : Memory.wf m.mem = true)
include hmem

theorem kvGet_writeMem_inside {a : Nat} (hlo : locate m f sp off ≤ a) (hhi : a < locate m f sp off + bs.length) :
    kvGet memDefault (writeMem m f sp off bs).mem a = bs.getD (a - locate m f sp off) 0 := by
  rw [writeMem, storeBytes_get _ _ _ _ (foldl_store_wf _ _ _ hmem), if_pos ⟨hlo, hhi⟩]

/-- Outside its span a write lists new values in uncorrectable units alone. -/
theorem kvGet_writeMem_outside (hue : UeAligned m) {a : Nat}
    (h : a < locate m f sp off ∨ locate m f sp off + bs.length ≤ a) (ha : unitBase a ∉ m.ue) :
    kvGet memDefault (writeMem m f sp off bs).mem a = kvGet memDefault m.mem a := by
  rw [writeMem, storeBytes_get _ _ _ _ (foldl_store_wf _ _ _ hmem), if_neg (by omega)]
  refine foldl_store_get unitSize a _ _ hmem fun u hu hin => ha ?_
  have hmarked : u ∈ m.ue := (List.mem_filter.1 (List.mem_filter.1 hu).1).1
  exact (unitBase_eq_of_mem (hue u hmarked) hin.1 hin.2).symm ▸ hmarked

theorem readByte_writeMem_inside {i : Nat} (hi : i < bs.length) :
    readByte (writeMem m f sp off bs) (locate m f sp off + i) =
      if unitBase (locate m f sp off + i) ∈ (writeMem m f sp off bs).ue then 0xFF else bs.getD i 0 := by
  have hlo : locate m f sp off ≤ locate m f sp off + i := by omega
  have hhi : locate m f sp off + i < locate m f sp off + bs.length := by omega
  rw [readByte_eq, lostSeed_writeMem_inside m f sp off bs hlo hhi, Option.elim_none,
    kvGet_writeMem_inside m f sp off bs hmem hlo hhi, Nat.add_sub_cancel_left]

theorem readByte_writeMem_outside (hue : UeAligned m) {a : Nat}
    (h : a < locate m f sp off ∨ locate m f sp off + bs.length ≤ a) :
    readByte (writeMem m f sp off bs) a = readByte m a :=
  readByte_congr (unitBase_mem_ue_writeMem_outside m f sp off bs h) (lostSeed_writeMem_outside m f sp off bs h)
    (kvGet_writeMem_outside m f sp off bs hmem hue h)

end

/-- Settles O9: the write takes its span out of the undefined extents and stores its bytes last; what it lists beside them lies
in units that stay uncorrectable. -/
theorem memoryWritesAreLocal : Obligations.MemoryWritesAreLocal := by
  intro m f sp off bs hmem hue
  have hmarks := mem_ue_writeMem m f sp off bs
  exact ⟨fun i hi => readByte_writeMem_inside m f sp off bs hmem hi,
    fun a ha => readByte_writeMem_outside m f sp off bs hmem hue ha,
    hmarks, writeMem_wf m f sp off bs hmem, fun u hu => hue u ((hmarks u).1 hu).1, rfl⟩

/-! ### Tallies and lost contents -/

theorem tallyGet_tallySet_same {m : Mach} (h : kvWf (0 : W32) m.tallies = true) (f t : Nat) (v : W32) :
    tallyGet (tallySet m f t v) f t = v := by
  have hseed : lostSeed (tallySet m f t v) (tallyMem m f t) = none :=
    lostSeed_carve_inside (m := m) rfl (Nat.le_refl _) (by omega)
  have hval : kvGet 0 (tallySet m f t v).tallies (tallyKey m f t) = v :=
    (kvGet_kvSet 0 m.tallies _ _ v h).trans (if_pos rfl)
  exact (tallyGet_eq _ f t).trans ((congrArg (Option.elim · _ _) hseed).trans hval)

theorem tallyGet_tallySet_other {m : Mach} (h : kvWf (0 : W32) m.tallies = true) {f g t u : Nat} (v : W32)
    (hkey : tallyKey m f t ≠ tallyKey m g u)
    (hapart : tallyMem m g u + 4 ≤ tallyMem m f t ∨ tallyMem m f t + 4 ≤ tallyMem m g u) :
    tallyGet (tallySet m f t v) g u = tallyGet m g u := by
  have hseed : lostSeed (tallySet m f t v) (tallyMem m g u) = lostSeed m (tallyMem m g u) :=
    lostSeed_carve_outside (lo := tallyMem m f t) (hi := tallyMem m f t + 4) rfl (by omega)
  have hval : kvGet 0 (tallySet m f t v).tallies (tallyKey m g u) = kvGet 0 m.tallies (tallyKey m g u) :=
    (kvGet_kvSet 0 m.tallies _ _ v h).trans (if_neg hkey.symm)
  rw [tallyGet_eq m, ← hseed, ← hval]
  exact tallyGet_eq _ g u

/-- Dropping entries of other keys changes no read. -/
theorem kvGet_filter {α : Type} (d : α) (p : Nat × α → Bool) {x : Nat} : ∀ l : List (Nat × α), (∀ v, p (x, v) = true) →
    kvGet d (l.filter p) x = kvGet d l x
  | [], _ => rfl
  | (k, v) :: t, h => by
    rw [List.filter_cons, kvGet]
    split
    · rw [kvGet, kvGet_filter d p t h]
    · next hdrop =>
      rw [kvGet_filter d p t h, if_neg fun hk : x = k => hdrop (hk ▸ h v)]

section
variable (m : Mach) (f sp off : Nat) {n : Nat}

theorem loseMem_nothing (hn : n = 0) : loseMem m f sp off n = m := if_pos hn

theorem loseMem_some (hn : n ≠ 0) : loseMem m f sp off n = { m with
    mem := m.mem.filter fun c => !(decide (locate m f sp off ≤ c.1) && decide (c.1 < locate m f sp off + n))
    ue := m.ue.filter fun u => !(decide (locate m f sp off ≤ u) && decide (u < locate m f sp off + n))
    scrambled := ⟨locate m f sp off, locate m f sp off + n, none, m.free⟩ ::
      carve (locate m f sp off) (locate m f sp off + n) m.scrambled
    free := m.free + 1 } := if_neg hn

theorem lostSeed_loseMem_inside {a : Nat} (hlo : locate m f sp off ≤ a) (hhi : a < locate m f sp off + n) :
    lostSeed (loseMem m f sp off n) a = some m.free := by
  have hheld : Scrambled.holds a ⟨locate m f sp off, locate m f sp off + n, none, m.free⟩ = true := by
    simp [Scrambled.holds, displaced, hlo, hhi]
  rw [loseMem_some m f sp off (by omega), lostSeed, scrambledAt_eq_find, List.find?_cons_of_pos hheld, Option.map_some]

theorem lostSeed_loseMem_outside {a : Nat} (h : a < locate m f sp off ∨ locate m f sp off + n ≤ a) :
    lostSeed (loseMem m f sp off n) a = lostSeed m a := by
  by_cases hn : n = 0
  · rw [loseMem_nothing m f sp off hn]
  · have hheld : ¬Scrambled.holds a ⟨locate m f sp off, locate m f sp off + n, none, m.free⟩ = true := by
      simp only [Scrambled.holds, Bool.and_eq_true, decide_eq_true_eq]
      omega
    rw [loseMem_some m f sp off hn, lostSeed, scrambledAt_eq_find, List.find?_cons_of_neg hheld, find_carve_outside h, lostSeed,
      scrambledAt_eq_find]

theorem kvGet_loseMem_outside {a : Nat} (h : a < locate m f sp off ∨ locate m f sp off + n ≤ a) :
    kvGet memDefault (loseMem m f sp off n).mem a = kvGet memDefault m.mem a := by
  by_cases hn : n = 0
  · rw [loseMem_nothing m f sp off hn]
  · rw [loseMem_some m f sp off hn]
    refine kvGet_filter memDefault _ m.mem fun _ => ?_
    simp only [Bool.not_eq_true', Bool.and_eq_false_iff, decide_eq_false_iff_not]
    omega

theorem mem_ue_of_loseMem {u : Nat} (h : u ∈ (loseMem m f sp off n).ue) : u ∈ m.ue := by
  by_cases hn : n = 0
  · rwa [loseMem_nothing m f sp off hn] at h
  · rw [loseMem_some m f sp off hn] at h
    exact (List.mem_filter.1 h).1

theorem readByte_loseMem_inside {i : Nat} (hi : i < n)
    (hue : unitBase (locate m f sp off + i) ∉ (loseMem m f sp off n).ue) :
    readByte (loseMem m f sp off n) (locate m f sp off + i) = Config.free 8 m.free (locate m f sp off + i) := by
  rw [readByte_eq, if_neg hue, lostSeed_loseMem_inside m f sp off (by omega) (by omega), Option.elim_some]

theorem readByte_loseMem_outside {a : Nat} (h : a < locate m f sp off ∨ locate m f sp off + n ≤ a)
    (hue : unitBase a ∉ m.ue) : readByte (loseMem m f sp off n) a = readByte m a :=
  readByte_congr (iff_of_false (mt (mem_ue_of_loseMem m f sp off) hue) hue) (lostSeed_loseMem_outside m f sp off h)
    fun _ => kvGet_loseMem_outside m f sp off h

end

/-- Settles O10: a tally is a sparse map's entry and four keys of the undefined extents; lost contents are an extent that holds
every key of the span, before those that were there. -/
theorem tallyStoresAndLostContentsAreLocal : Obligations.TallyStoresAndLostContentsAreLocal :=
  ⟨fun m f t v h => ⟨tallyGet_tallySet_same h f t v, tallySet_wf m f t v h, rfl⟩,
    fun _ _ _ _ _ v h hkey hapart => tallyGet_tallySet_other h v hkey hapart,
    fun _ _ _ _ => rfl,
    fun m f sp off n hmem => ⟨fun _ hi hue => readByte_loseMem_inside m f sp off hi hue,
      fun _ ha hue => readByte_loseMem_outside m f sp off ha hue, loseMem_wf m f sp off n hmem⟩⟩

/-! ### The end of a microcode load (R525) -/

theorem exec_ucodeLoadDone {s : State} (h : Ready s) (ok : Bool) :
    exec (.ucodeLoadDone ok) s = .next ⟨sendReport false (ucodeLoadOp ok s.m), s.pending⟩ :=
  actReady_ready _ h

/-- A module that follows no master reports to none. -/
theorem sendReport_alone {m : Mach} (always : Bool) (h : following m = false) : sendReport always m = m := by
  rw [sendReport, h]
  rfl

/-- The copy of step 2 waits for the first edge two ticks after the load, by its instant. -/
theorem ucodeLoadOp_reserve_loaded {m : Mach} {u : UcodeRun} (hu : m.test.ucode = some u) (hstep : u.step = 1) :
    (ucodeLoadOp true m).test.ucode = some { u with step := 2, readyAt := edgeAhead m 2 } := by
  simp only [ucodeLoadOp, hu, hstep]
  rfl

/-- Within a tick the first edge that lies `n` ticks ahead is one more than at the tick's own edge (log entry 88). -/
theorem edgeAhead_within_tick {m : Mach} (n : Nat) (h : m.tick.edgeAt < m.now) : edgeAhead m n = m.tick.tickNo + n + 1 := by
  rw [edgeAhead, if_neg (Nat.not_le.2 h)]

/-- Refutes O53, by its clause on a good load of step 1: the load of site 0's reserve die ends one step of the tick clock past the
edge of tick 0.  The copy of step 2 then waits for tick 3, whose edge is the first one two ticks after the load (R525), where the
clause has tick 2. -/
theorem not_testsAndHotUpdatesEnd : ¬ Obligations.TestsAndHotUpdatesEnd := by
  intro h
  let update : UcodeRun := ⟨0, 1, 0⟩
  let m : Mach := { State.reset.m with
    boot := { Boot.init with state := 3 }
    tick := { Tick.init with running := true, master := true, nextEdge := 100 }
    test := { Test.init with busy := true, op := 2, ucode := some update }
    now := 1 }
  obtain ⟨-, -, -, hload, -⟩ := h ⟨m, []⟩ rfl
  obtain ⟨hstated, -⟩ := (hload update rfl).1 rfl
  rw [exec_ucodeLoadDone rfl, sendReport_alone false rfl, sendReport_alone false rfl] at hstated
  have hready : edgeAhead m 2 = 2 := by
    injection hstated with hstate
    have hrun := (ucodeLoadOp_reserve_loaded (m := m) (u := update) rfl rfl).symm.trans
      (congrArg (fun t : State => t.m.test.ucode) hstate)
    exact congrArg UcodeRun.readyAt (Option.some.inj hrun)
  rw [edgeAhead_within_tick 2 Nat.one_pos] at hready
  exact absurd hready (by decide)

end Sys2Proof.Machine
end

section
/-!
CERTIFICATE. The phases of a sweep (R48), and TICK_EDGE (R52): step 1's numbering and the order of an edge's steps.
-/
namespace Sys2Proof.Machine

/-! ### Phases (R48) -/

theorem phaseOf_mono (t : Timing) (k : Nat) : phaseOf t k ≤ phaseOf t (k + 1) := by
  unfold phaseOf
  grind

theorem phaseOf_overtime {t : Timing} {k : Nat} (h : t.used ≤ k) : phaseOf t k = 5 := by
  unfold Timing.used at h
  unfold phaseOf Timing.used
  grind

theorem phase_cases {p : Nat} (hp : p ≤ 5) : p = 0 ∨ p = 1 ∨ p = 2 ∨ p = 3 ∨ p = 4 ∨ p = 5 := by omega

/-- First tick past phase `p` of the sweep, overtime left out. -/
def phaseEnd (t : Timing) (p : Nat) : Nat :=
  match p with
  | 5 => t.sweepLen
  | k => phaseStart t (k + 1)

/-- Within the sweep's length a phase is the ticks between its start and its end. -/
theorem phaseOf_eq_iff {t : Timing} {k p : Nat} (hk : k < t.sweepLen) (hp : p ≤ 5) :
    phaseOf t k = p ↔ phaseStart t p ≤ k ∧ k < phaseEnd t p := by
  obtain rfl | rfl | rfl | rfl | rfl | rfl := phase_cases hp <;> simp only [phaseOf, phaseEnd, phaseStart, Timing.used] <;> grind

theorem phaseEnd_le_sweepLen {t : Timing} (h : t.used < t.sweepLen) (p : Nat) (hp : p ≤ 5) : phaseEnd t p ≤ t.sweepLen := by
  unfold Timing.used at h
  obtain rfl | rfl | rfl | rfl | rfl | rfl := phase_cases hp <;> simp only [phaseEnd, phaseStart, Timing.used] <;> omega

theorem phaseEnd_sub_phaseStart (t : Timing) (p : Nat) (hp : p ≤ 5) :
    phaseEnd t p - phaseStart t p = [t.fill, t.steady, t.drain, t.fold, t.update, t.sweepLen - t.used].getD p 0 := by
  obtain rfl | rfl | rfl | rfl | rfl | rfl := phase_cases hp <;> simp only [phaseEnd, phaseStart, Timing.used, List.getD_cons_zero, List.getD_cons_succ] <;> omega

/-- How many numbers below `n` lie from `lo` on and below `hi`. -/
theorem length_filter_range_between (lo hi n : Nat) :
    ((List.range n).filter fun k => decide (lo ≤ k ∧ k < hi)).length = min hi n - lo := by
  induction n with
  | zero => simp
  | succ n ih =>
    have hlast : ([n].filter fun k => decide (lo ≤ k ∧ k < hi)).length = if lo ≤ n ∧ n < hi then 1 else 0 := by
      split <;> simp_all
    rw [List.range_succ, List.filter_append, List.length_append, ih, hlast]
    split <;> omega

/-- A phase has as many ticks as lie between its start and its end. -/
theorem length_filter_phaseOf {t : Timing} (h : t.used < t.sweepLen) {p : Nat} (hp : p ≤ 5) :
    ((List.range t.sweepLen).filter fun k => phaseOf t k == p).length = phaseEnd t p - phaseStart t p := by
  have hphase : ∀ k ∈ List.range t.sweepLen, (phaseOf t k == p) = decide (phaseStart t p ≤ k ∧ k < phaseEnd t p) := by
    intro k hk
    rw [Bool.eq_iff_iff, beq_iff_eq, decide_eq_true_iff, phaseOf_eq_iff (List.mem_range.1 hk) hp]
  rw [List.filter_congr hphase, length_filter_range_between, Nat.min_eq_left (phaseEnd_le_sweepLen h p hp)]

/-- Settles O30: a phase is a run of ticks between its start and its end, which the settings give. -/
theorem phasesLastTheirSetTicks : Obligations.PhasesLastTheirSetTicks := fun t h =>
  ⟨phaseOf_mono t, fun _ hk => phaseOf_overtime (Nat.le_trans (Nat.le_of_lt h) hk), fun p hp => by
    rw [length_filter_phaseOf h hp, phaseEnd_sub_phaseStart t p hp]⟩

/-! ### Step 1: numbers (R44, R60, R63, R72) -/

section
variable {i : EdgeInfo} (m : Mach)

theorem advance_running (hf : i.first = false) (hs : i.sym = none) :
    (advance i m).tick.tickNo = m.tick.tickNo + 1 ∧
    (advance i m).tick.sweepNo = m.tick.sweepNo + (if i.sweep then 1 else 0) ∧
    (advance i m).tick.overtime = m.tick.overtime + (if i.sweep = false ∧ sweepDue m = true then 1 else 0) := by
  simp only [advance, hs, hf, Bool.false_eq_true, if_false, true_and]
  cases i.sweep <;> cases sweepDue m <;> simp

theorem advance_first (hf : i.first = true) (hs : i.sym = none) :
    (advance i m).tick.tickNo = m.tick.baseTick ∧ (advance i m).tick.sweepNo = m.tick.baseSweep := by
  simp only [advance, hs, hf, if_true, and_self]

theorem advance_follower {y : TickSym} (hs : i.sym = some y) :
    (advance i m).tick.tickNo = y.tick ∧ (advance i m).tick.sweepNo = y.sweep ∧
    (advance i m).tick.follow = some (symTiming y) := by
  simp only [advance, hs, Option.map_some, Option.some_or, and_self]

/-- Step 1's numbering writes the tick state, the instant and the edge counter, and nothing else. -/
theorem advance_frame (i : EdgeInfo) :
    (advance i m).tick.running = true ∧ (advance i m).edges = m.edges + 1 ∧ m.now ≤ (advance i m).now ∧
    (advance i m).tick.edgeAt = (advance i m).now ∧
    { advance i m with now := m.now, edges := m.edges, tick := m.tick } = m :=
  ⟨rfl, rfl, Nat.le_max_left _ _, rfl, rfl⟩

end

/-! ### The edge (R52) -/

theorem exec_tickEdge {s : State} (h : Ready s) (missed : List Nat) (meter : PowerMeter) :
    exec (.tickEdge missed meter) s = .next ⟨tickEdgeOp missed meter s.m, s.pending⟩ := actReady_ready _ h

theorem tickEdgeOp_not_due {m : Mach} (h : edgeDue m = false) (missed : List Nat) (meter : PowerMeter) :
    tickEdgeOp missed meter m = m := by
  simp [tickEdgeOp, h]

/-- The module at the instant of the edge, before its step 1: overdue loads have ended, and slots that a switch still holds back
have begun, held. -/
def atEdge (m : Mach) : Mach :=
  let a := pumpAll (overdueLoads m)
  { startHeld a { a with now := gridEdge a } with now := a.now }

/-- The module after steps 1 to 4 and the holds that end at the edge. -/
def throughStepFour (missed : List Nat) (meter : PowerMeter) (m0 : Mach) : Mach :=
  let i := edgeInfo m0
  let m1 := stepOne i missed m0
  let m3 := stepTwoThree i m1
  let m4 := nextTick (gridEdge m0) (stepFour i m0 (if i.sweep then settleSweep meter m1 m3 else m3))
  (List.range 16).foldl (fun m j => match (jobOf m j).holdUntil with
    | some t => if t ≤ m.now then debtHoldEndOp j m else m
    | none => m) m4

/-- An edge that is due runs steps 1 to 4, and step 5 unless the domain stops at it. -/
theorem tickEdgeOp_due {m : Mach} (h : edgeDue m = true) (missed : List Nat) (meter : PowerMeter) :
    tickEdgeOp missed meter m =
      if (edgeInfo (atEdge m)).stop then stopEdge (overdueLoads (throughStepFour missed meter (atEdge m)))
      else sendReport true (announceMaps (pumpAll (stepFive (atEdge m) (throughStepFour missed meter (atEdge m))))) := by
  rw [tickEdgeOp, h, Bool.not_true, if_neg Bool.false_ne_true]
  rfl

/-- Settles O29: the edge by the two cases of `tickEdgeOp`, its numbers by the three of `advance`. -/
theorem tickEdgesAdvanceAndRunTheirSteps : Obligations.TickEdgesAdvanceAndRunTheirSteps := by
  refine ⟨fun s missed meter hs => ?_, fun _ m => advance_running m, fun _ m => advance_first m,
    fun _ m _ => advance_follower m, fun i m => advance_frame m i⟩
  rw [exec_tickEdge hs]
  refine ⟨fun hdue => ?_, fun hdue => ⟨fun hstop => ?_, fun hstop => ?_⟩⟩
  · rw [tickEdgeOp_not_due hdue]
  · have hstop : (edgeInfo (atEdge s.m)).stop = true := hstop
    rw [tickEdgeOp_due hdue, if_pos hstop]
    rfl
  · have hstop : ¬(edgeInfo (atEdge s.m)).stop = true := ne_true_of_eq_false hstop
    rw [tickEdgeOp_due hdue, if_neg hstop]
    rfl

end Sys2Proof.Machine
end

section
/-!
CERTIFICATE. Tick symbols and their relay (R59–R63, R434–R437), holdover (R65, R66), the reference (R67) and sweep-state reports
(R71, R438).
-/
namespace Sys2Proof.Machine

/-! ### What sending leaves of the tick state -/

/-- A fold over a list of steps none of which changes `P` leaves `P`. -/
theorem foldl_keeps {α β σ : Type} (P : σ → β) {g : σ → α → σ} (h : ∀ m x, P (g m x) = P m) (l : List α) (m : σ) :
    P (l.foldl g m) = P m := by
  induction l generalizing m with
  | nil => rfl
  | cons x t ih => exact (ih (g m x)).trans (h m x)

theorem emitSent_frame (m : Mach) (o : Output) : { emitSent m o with chans := m.chans, out := m.out } = m := by
  unfold emitSent
  split <;> rfl

/-- What a link sends changes links, fold channels and what has left the module, nothing else. -/
theorem pumpLink_frame (l : Nat) (m : Mach) : { pumpLink l m with links := m.links, chans := m.chans, out := m.out } = m := by
  unfold pumpLink
  dsimp only
  split
  · rfl
  · refine foldl_keeps (fun x : Mach => ({ x with links := m.links, chans := m.chans, out := m.out } : Mach)) (fun x o => ?_) _ _
    have hframe := congrArg (fun y : Mach => ({ y with links := m.links, chans := m.chans, out := m.out } : Mach)) (emitSent_frame x o)
    exact hframe

@[simp] theorem sendTick_tick (m : Mach) (l : Nat) (o : Output) : (sendTick m l o).tick = m.tick := by
  have hframe := congrArg Mach.tick (pumpLink_frame l (modLink m l fun x => { x with
    txQ := x.txQ ++ [⟨5, 0, 1, false, tickFlit o, some o⟩], shares := joinShare 5 0 x.shares }))
  exact hframe

@[simp] theorem sendSym_tick (sym : TickSym) (most : Nat) (m : Mach) : (sendSym sym most m).tick = m.tick := by
  refine foldl_keeps Mach.tick (fun m l => ?_) _ m
  dsimp only
  split
  · rw [sendTick_tick, spendFree_tick]
  · rfl

@[simp] theorem raise_tick (m : Mach) (code src : Nat) (job : Option Nat) (d : List Nat) :
    (raise m code src job d).tick = m.tick := by
  have hframe := congrArg Mach.tick (raise_frame m code src job d)
  exact hframe

/-! ### Symbols sent (R434–R436) -/

/-- A module times the coming edge: a master that runs or waits for its first edge, and a module in holdover. -/
def timesEdge (t : Tick) : Bool := (t.running && (t.master || t.holdover)) || (t.armed && !t.running && t.master)

theorem symbolSendOp_idle {m : Mach} (h : timesEdge m.tick = false ∨ m.tick.sampled.isSome = true) : symbolSendOp m = m :=
  if_pos (by
    change (!timesEdge m.tick || m.tick.sampled.isSome) = true
    obtain h | h := h <;> simp [h])

/-- The module at the instant at which it samples the values of the coming edge (R435). -/
def atSampling (m : Mach) : Mach :=
  if m.tick.armed && m.tick.refEn then m else endOverdue (atTime m (gridEdge m - 200))

theorem symbolSendOp_samples {m : Mach} (h : timesEdge m.tick = true) (hs : m.tick.sampled = none) :
    symbolSendOp m = sendSym (nextSym (atSampling m)) (2 ^ 32 - 1)
      (modTick (if (nextSym (atSampling m)).sweepEdge then announceSwitches (atSampling m) else atSampling m)
        fun t => { t with sampled := some (nextSym (atSampling m)) }) :=
  if_neg (by
    change ¬(!timesEdge m.tick || m.tick.sampled.isSome) = true
    simp [h, hs])

/-! ### Symbols received (R59–R63, R66, R437) -/

section
variable {link : Nat} {sym : TickSym} {m : Mach}

theorem takeSym_late (h : symLate m link sym = true) : takeSym link sym m =
    raise m tickAnnLate (srcLink link) none [link, sym.tick, (2000000 - symTook m link sym) / 1000] := by
  simp only [takeSym, h, if_true]

/-- A symbol in time stands for the edge it marks. -/
theorem takeSym_sym (h : symLate m link sym = false) : (takeSym link sym m).tick.sym = some sym := by
  simp [takeSym, h]

/-- A running follower relays a symbol in time, which moves its present tick by at most one step (R62). -/
theorem takeSym_running (h : symLate m link sym = false) (hr : m.tick.running = true) :
    takeSym link sym m =
      let edge := m.now + 200 - symTook m link sym / 10000
      sendSym { sym with delay := symTook m link sym % 2 ^ 32 } 40000 (modTick m fun t =>
        { t with sym := some sym, symEdge := edge, missed := 0,
                 slew := if t.nextEdge < edge then 1 else if edge < t.nextEdge then -1 else 0 }) := by
  simp [takeSym, h, hr, modTick]

theorem tickSymbolOp_unheard (h : link ≠ m.tick.uplink ∨ (m.tick.holdover = true ∧ m.tick.relock = false) ∨
    (m.tick.holdover = false ∧ m.tick.master = true)) : tickSymbolOp link sym m = m := by
  obtain h | ⟨hh, hr⟩ | ⟨hh, hm⟩ := h
  · exact if_pos h
  · simp [tickSymbolOp, hh, hr]
  · simp [tickSymbolOp, hh, hm]

theorem tickSymbolOp_running (hl : link = m.tick.uplink) (hh : m.tick.holdover = false) (hm : m.tick.master = false)
    (hr : m.tick.running = true) : tickSymbolOp link sym m = takeSym link sym m := by
  simp [tickSymbolOp, hl, hh, hm, hr]

theorem tickSymbolOp_relock (hl : link = m.tick.uplink) (hh : m.tick.holdover = true) (hr : m.tick.relock = true) :
    tickSymbolOp link sym m =
      if symLate m link sym then takeSym link sym m
      else if sym.tick = m.tick.tickNo + 1 then
        takeSym link sym (modTick m fun t => { t with holdover := false, relock := false, sampled := none })
      else raise (modTick m fun t => { t with relock := false }) tickConfigErr (srcUnit 0) none [] := by
  simp [tickSymbolOp, hl, hh, hr]

/-- A symbol that leaves the received symbol as it was settles no publishes. -/
theorem symbolInOp_same (h : (tickSymbolOp link sym m).tick.sym = m.tick.sym) : symbolInOp link sym m = tickSymbolOp link sym m := by
  simp [symbolInOp, h]

/-- A symbol that is taken settles the publishes of a sweep edge unless it is the one already held. -/
theorem symbolInOp_taken (h : (tickSymbolOp link sym m).tick.sym = some sym) : symbolInOp link sym m =
    if sym.sweepEdge = true ∧ m.tick.sym ≠ some sym then announceSwitches (tickSymbolOp link sym m)
    else tickSymbolOp link sym m := by
  simp only [symbolInOp, h, Bool.and_eq_true, bne_iff_ne, ne_comm (a := some sym)]

/-- Unheard symbols change nothing. -/
theorem symbolInOp_unheard (h : link ≠ m.tick.uplink ∨ (m.tick.holdover = true ∧ m.tick.relock = false) ∨
    (m.tick.holdover = false ∧ m.tick.master = true)) : symbolInOp link sym m = m := by
  have hsame := tickSymbolOp_unheard (sym := sym) h
  rw [symbolInOp_same (by rw [hsame]), hsame]

/-- A symbol that is heard too late raises TICK_ANN_LATE and nothing else (R437). -/
theorem symbolInOp_late (h : tickSymbolOp link sym m = takeSym link sym m) (hlate : symLate m link sym = true) :
    symbolInOp link sym m =
      raise m tickAnnLate (srcLink link) none [link, sym.tick, (2000000 - symTook m link sym) / 1000] := by
  rw [takeSym_late hlate] at h
  rw [symbolInOp_same (by rw [h, raise_tick]), h]

/-- In holdover a symbol of a new uplink whose tick is not the next one is refused (R66). -/
theorem symbolInOp_refused (hl : link = m.tick.uplink) (hh : m.tick.holdover = true) (hr : m.tick.relock = true)
    (hin : symLate m link sym = false) (ht : sym.tick ≠ m.tick.tickNo + 1) :
    symbolInOp link sym m = raise (modTick m fun t => { t with relock := false }) tickConfigErr (srcUnit 0) none [] := by
  have hop := tickSymbolOp_relock (sym := sym) hl hh hr
  rw [hin, if_neg Bool.false_ne_true, if_neg ht] at hop
  rw [symbolInOp_same (by rw [hop, raise_tick]; rfl), hop]

/-- In holdover a symbol of a new uplink whose tick is the next one is taken, and holdover ends (R66). -/
theorem symbolInOp_relocked (hl : link = m.tick.uplink) (hh : m.tick.holdover = true) (hr : m.tick.relock = true)
    (hin : symLate m link sym = false) (ht : sym.tick = m.tick.tickNo + 1) :
    symbolInOp link sym m =
      let m1 := takeSym link sym (modTick m fun t => { t with holdover := false, relock := false, sampled := none })
      if sym.sweepEdge = true ∧ m.tick.sym ≠ some sym then announceSwitches m1 else m1 := by
  have hop := tickSymbolOp_relock (sym := sym) hl hh hr
  rw [hin, if_neg Bool.false_ne_true, if_pos ht] at hop
  rw [symbolInOp_taken (by rw [hop]; exact takeSym_sym hin), hop]

end

/-! ### Holdover, reference and reports -/

theorem holdoverOp_eq (m : Mach) : holdoverOp m =
    if m.tick.running = true ∧ m.tick.master = false ∧ m.tick.holdover = false ∧ 2 ≤ m.tick.missed then
      raise (modTick m fun t => { t with holdover := true, relock := false, locked := false }) tickHoldoverEv (srcUnit 0) none []
    else m := by
  simp [holdoverOp, following, and_assoc]

theorem refLostOp_eq (m : Mach) : refLostOp m =
    if m.tick.running = true ∧ m.tick.master = true ∧ m.tick.refEn = true ∧ m.tick.refOk = true ∧
        m.tick.refEdge + 2 * m.tick.refDiv ≤ m.edges then loseRef m else m := by
  simp [refLostOp, and_assoc]

theorem refPulseOp_ignored {m : Mach} (err : Int) (h : m.tick.master = false ∨ m.tick.refEn = false) : refPulseOp err m = m :=
  if_pos (by simpa using h)

section
variable {m : Mach} (err : Int) (hm : m.tick.master = true) (he : m.tick.refEn = true)
include hm he

/-- The first pulse after START gives the first edge (R63). -/
theorem refPulseOp_first (ha : m.tick.armed = true) (hr : m.tick.running = false) (ho : m.tick.refOk = false) :
    refPulseOp err m = modTick m fun t => { t with refOk := true, nextEdge := m.now, refEdge := m.edges + 1 } := by
  simp [refPulseOp, hm, he, ha, hr, ho]

/-- On a running master a pulse without a reference does nothing, one far off loses it, and any other slews (R67). -/
theorem refPulseOp_running (hr : m.tick.running = true) : refPulseOp err m =
    if m.tick.refOk = false then m
    else if err < -1000000 ∨ 1000000 < err then loseRef m
    else modTick m fun t =>
      { t with refEdge := pulseEdge m, slew := if 5000 ≤ err then 1 else if err ≤ -5000 then -1 else 0 } := by
  simp [refPulseOp, hm, he, hr]

end

theorem reportOp_eq (link : Nat) (done : Bool) (sweep : Nat) (m : Mach) : reportOp link done sweep m =
    if link ∈ downlinks m then
      sendReport false (modTick m fun t => { t with reports := t.reports ++ [(link, sweep, done, m.now)] })
    else m := by
  simp [reportOp]

/-! ### The commands -/

section
variable {s : State} (h : Ready s)
include h

theorem exec_tickSymbolSend : exec .tickSymbolSend s = .next ⟨symbolSendOp s.m, s.pending⟩ := actReady_ready _ h

theorem exec_tickHoldover : exec .tickHoldover s = .next ⟨holdoverOp s.m, s.pending⟩ := actReady_ready _ h

theorem exec_tickRefPulse (err : Int) : exec (.tickRefPulse err) s = .next ⟨refPulseOp err s.m, s.pending⟩ := actReady_ready _ h

theorem exec_tickRefLost : exec .tickRefLost s = .next ⟨refLostOp s.m, s.pending⟩ := actReady_ready _ h

theorem exec_tickSymbol {link : Nat} (sym : TickSym) (hl : link < 36) :
    exec (.tickSymbol link sym) s = .next ⟨symbolInOp link sym s.m, s.pending⟩ := by
  show actReady (decide (link < 36)) (symbolInOp link sym) s = _
  rw [decide_eq_true hl, actReady_ready _ h]

theorem exec_sweepStateReport {link : Nat} (done : Bool) (sweep : Nat) (hl : link < 36) :
    exec (.sweepStateReport link done sweep) s = .next ⟨reportOp link done sweep s.m, s.pending⟩ := by
  show actReady (decide (link < 36)) (reportOp link done sweep) s = _
  rw [decide_eq_true hl, actReady_ready _ h]

end

/-- A symbol is late when the link and its DELAY took more than 2 µs less 100 ns (R437). -/
theorem symLate_iff (m : Mach) (link : Nat) (sym : TickSym) :
    symLate m link sym = true ↔ 2000000 < (linkOf m link).lat + sym.delay + 100000 := decide_eq_true_iff

theorem symLate_eq_false_iff (m : Mach) (link : Nat) (sym : TickSym) :
    symLate m link sym = false ↔ (linkOf m link).lat + sym.delay + 100000 ≤ 2000000 := by
  rw [← Bool.not_eq_true, symLate_iff, Nat.not_lt]

/-- Settles O31: every command by the cases of its function; a symbol settles the publishes of its edge when the received symbol
changes. -/
theorem tickSymbolsHoldoverAndReference : Obligations.TickSymbolsHoldoverAndReference := by
  intro s hs
  simp only [exec_tickSymbolSend hs, exec_tickHoldover hs, exec_tickRefPulse hs, exec_tickRefLost hs]
  refine ⟨fun hidle => ?_, fun hown hsam => ?_, fun link sym hlink => ⟨fun hun => ?_, fun hup hhold hmas hrun =>
    ⟨fun hlate => ?_, fun hok => ?_⟩, fun hup hhold hre => ⟨fun hlate => ?_, fun hok htick => ?_, fun hok htick => ?_⟩⟩,
    ⟨fun hdue => ?_, fun hdue => ?_⟩, fun err hig => ?_, fun err hmas hen => ⟨fun harm hrun hno => ?_,
    fun hrun _ hrefok hlo hhi => ?_, fun hrun _ hrefok hfar => ?_, fun hrun _ hno => ?_⟩, ⟨fun hdue => ?_, fun hdue => ?_⟩,
    fun link done sweep hlink hdown => ?_, fun link done sweep hlink hdown => ?_⟩
  · rw [symbolSendOp_idle hidle]
  · rw [symbolSendOp_samples hown hsam]
    rfl
  · rw [exec_tickSymbol hs sym hlink, symbolInOp_unheard hun]
  · have hheard := tickSymbolOp_running (sym := sym) hup hhold hmas hrun
    rw [exec_tickSymbol hs sym hlink, symbolInOp_late hheard ((symLate_iff _ _ _).2 hlate)]
    rfl
  · have hin := (symLate_eq_false_iff s.m link sym).2 hok
    have htake := tickSymbolOp_running (sym := sym) hup hhold hmas hrun
    rw [exec_tickSymbol hs sym hlink, symbolInOp_taken (by rw [htake, takeSym_sym hin]), htake, takeSym_running hin hrun]
    rfl
  · have hin := (symLate_iff s.m link sym).2 hlate
    have hheard := (tickSymbolOp_relock (sym := sym) hup hhold hre).trans (if_pos hin)
    rw [exec_tickSymbol hs sym hlink, symbolInOp_late hheard hin]
    rfl
  · rw [exec_tickSymbol hs sym hlink, symbolInOp_refused hup hhold hre ((symLate_eq_false_iff _ _ _).2 hok) htick]
  · rw [exec_tickSymbol hs sym hlink, symbolInOp_relocked hup hhold hre ((symLate_eq_false_iff _ _ _).2 hok) htick]
  · rw [holdoverOp_eq, if_pos hdue]
  · rw [holdoverOp_eq, if_neg hdue]
  · rw [refPulseOp_ignored err hig]
  · rw [refPulseOp_first err hmas hen harm hrun hno]
  · rw [refPulseOp_running err hmas hen hrun, if_neg (by simp [hrefok]), if_neg (by omega)]
    rfl
  · rw [refPulseOp_running err hmas hen hrun, if_neg (by simp [hrefok]), if_pos hfar]
    rfl
  · rw [refPulseOp_running err hmas hen hrun, if_pos hno]
  · rw [refLostOp_eq, if_pos hdue]
    rfl
  · rw [refLostOp_eq, if_neg hdue]
  · rw [exec_sweepStateReport hs done sweep hlink, reportOp_eq, if_neg hdown]
  · rw [exec_sweepStateReport hs done sweep hlink, reportOp_eq, if_pos hdown]

end Sys2Proof.Machine
end

section
/-!
CERTIFICATE. What an operation leaves of the records of a stage context that it does not run: the record pointer and the wait of its
slot.  Only the commands of a stage context itself, or a wait that ends, move them on (R105, R287).
-/
namespace Sys2Proof.Machine

theorem forAll_keeps {α β : Type} (P : Mach → β) {g : Mach → α → Mach} (h : ∀ m x, P (g m x) = P m) (l : List α) (m : Mach) :
    P (forAll l g m) = P m := foldl_keeps P h l m

/-! ### Operations that leave the facets -/

@[simp] theorem sendTx_facets (l vc key flits : Nat) (head : BitVec 2048) (o : Option Output) (m : Mach) :
    (sendTx l vc key flits head o m).facets = m.facets := by
  have hframe := congrArg Mach.facets (pumpLink_frame l (modLink m l fun x => { x with
    txQ := x.txQ ++ [⟨vc, key, flits, false, head, o⟩], shares := joinShare vc key x.shares }))
  exact hframe

@[simp] theorem sendKeyed_facets (m : Mach) (l dst key : Nat) (c : Instr) : (sendKeyed m l dst key c).facets = m.facets := by
  unfold sendKeyed
  exact foldl_keeps Mach.facets (fun _ _ => sendTx_facets ..) _ m

@[simp] theorem sendOn_facets (m : Mach) (l dst : Nat) (c : Instr) : (sendOn m l dst c).facets = m.facets := sendKeyed_facets ..

@[simp] theorem sendMsg_facets (m : Mach) (dst : Nat) (c : Instr) : (sendMsg m dst c).facets = m.facets := by
  unfold sendMsg
  split <;> simp

@[simp] theorem sendFlight_facets (fl : Flight) (m : Mach) : (sendFlight fl m).facets = m.facets := by
  unfold sendFlight
  dsimp only
  split
  · rfl
  · split
    · rfl
    · split
      · rw [sendKeyed_facets]
      · rfl

@[simp] theorem raise_facets (m : Mach) (code src : Nat) (job : Option Nat) (d : List Nat) :
    (raise m code src job d).facets = m.facets := by
  have hframe := congrArg Mach.facets (raise_frame m code src job d)
  exact hframe

@[simp] theorem tallySet_facets (m : Mach) (f t : Nat) (v : W32) : (tallySet m f t v).facets = m.facets := rfl
@[simp] theorem tallyAddN_facets (m : Mach) (f t n : Nat) : (tallyAddN m f t n).facets = m.facets := rfl
@[simp] theorem writeMem_facets (m : Mach) (f sp off : Nat) (bs : List Byte) : (writeMem m f sp off bs).facets = m.facets := rfl
@[simp] theorem modChord_facets (m : Mach) (n : Nat) (g : Chord → Chord) : (modChord m n g).facets = m.facets := rfl
@[simp] theorem beginWait_facets (m : Mach) (n : Nat) : (beginWait n m).facets = m.facets := rfl

@[simp] theorem loseMem_facets (m : Mach) (f sp off n : Nat) : (loseMem m f sp off n).facets = m.facets := by
  unfold loseMem
  dsimp only
  split <;> rfl

@[simp] theorem endWait_facets (n : Nat) (m : Mach) : (endWait n m).facets = m.facets := by
  unfold endWait
  split
  · rfl
  · split <;> simp

@[simp] theorem launchEntry_facets (n : Nat) (mb : MbInfo) (m : Mach) : (launchEntry n mb m).facets = m.facets := by
  unfold launchEntry
  split
  · rfl
  · dsimp only
    split <;> simp

theorem takeCredit_facets {n : Nat} {m m' : Mach} (h : takeCredit n m = some m') : m'.facets = m.facets := by
  unfold takeCredit at h
  split at h
  · cases h
  · split at h
    · rw [Option.some.inj h]
    · split at h
      · rw [← Option.some.inj h, modChord_facets, endWait_facets, tallySet_facets]
      · cases h

theorem payloadWrite_facets {f c bytes : Nat} {l l' : Lat} {k : Option Nat} {m m' : Mach}
    (h : payloadWrite m f c l bytes = .go l' k m') : m'.facets = m.facets := by
  unfold payloadWrite at h
  split at h
  · injection h with _ _ h
    rw [h]
  · split at h
    · cases h
    · next hcredit =>
      injection h with _ _ h
      rw [← h, modChord_facets, takeCredit_facets hcredit]

@[simp] theorem serveWaiting_facets (fuel n : Nat) (m : Mach) : (serveWaiting fuel n m).facets = m.facets := by
  induction fuel generalizing m with
  | zero => rfl
  | succ k ih =>
    unfold serveWaiting
    split
    · rfl
    · split
      · split <;> simp
      · dsimp only
        split
        · rfl
        · rw [ih, launchEntry_facets]
          split <;> simp

@[simp] theorem addCredit_facets (n cnt : Nat) (m : Mach) : (addCredit n cnt m).facets = m.facets := by
  unfold addCredit
  split
  · rfl
  · split <;> simp

@[simp] theorem returnCredit_facets (n cnt : Nat) (m : Mach) : (returnCredit n cnt m).facets = m.facets := by
  unfold returnCredit
  split
  · rfl
  · split <;> simp

@[simp] theorem releaseEntry_facets (n : Nat) (m : Mach) : (releaseEntry n m).facets = m.facets := by
  unfold releaseEntry
  split
  · rfl
  · split <;> simp

/-! ### Where a slot stands -/

/-- Record pointer and wait of the slot that a stage context runs. -/
def recordPos (m : Mach) (f c : Nat) : Option (Nat × ScWait) := (scOf m f c).run.map fun r => (r.recIdx, r.wait)

section
variable (m : Mach) {f c f' c' : Nat}

theorem recordPos_congr {m m' : Mach} (h : m'.facets = m.facets) : recordPos m' f c = recordPos m f c := by
  simp only [recordPos, scOf, facetOf, h]

theorem getD_past_end {α : Type} {l : List α} {i : Nat} (d : α) (h : ¬i < l.length) : l.getD i d = d := by
  rw [List.getD_eq_getElem?_getD, List.getElem?_eq_none (Nat.le_of_not_lt h), Option.getD_none]

theorem getD_modify_same {α : Type} (l : List α) (i : Nat) (g : α → α) (d : α) :
    (l.modify i g).getD i d = if i < l.length then g (l.getD i d) else d := by
  by_cases h : i < l.length <;> simp [List.getD_eq_getElem?_getD, h]

theorem getD_modify_other {α : Type} (l : List α) {i k : Nat} (g : α → α) (d : α) (h : i ≠ k) :
    (l.modify i g).getD k d = l.getD k d := by
  simp [List.getD_eq_getElem?_getD, h]

theorem facetOf_modFacet_other (g : Facet → Facet) (h : f' ≠ f) : facetOf (modFacet m f' g) f = facetOf m f :=
  getD_modify_other _ g _ h

/-- A facet's contexts change as its own contexts do. -/
theorem scOf_modFacet_same (g : Facet → Facet) :
    scOf (modFacet m f g) f c = if f < m.facets.length then (g (facetOf m f)).scs.getD c StageCtx.init else scOf m f c := by
  rw [scOf, facetOf, modFacet_facets, getD_modify_same]
  split
  · rfl
  · next hlen => rw [scOf, facetOf, getD_past_end _ hlen]

theorem scOf_modFacet_scs {g : Facet → Facet} (hg : ∀ x, (g x).scs = x.scs) : scOf (modFacet m f' g) f c = scOf m f c := by
  by_cases h : f' = f
  · subst h
    rw [scOf_modFacet_same, hg]
    exact ite_self _
  · rw [scOf, facetOf_modFacet_other m g h, scOf]

theorem scOf_modSc_other (g : StageCtx → StageCtx) (h : ¬(f' = f ∧ c' = c)) : scOf (modSc m f' c' g) f c = scOf m f c := by
  rw [modSc]
  by_cases hf : f' = f
  · subst hf
    rw [scOf_modFacet_same, getD_modify_other _ g _ fun hc => h ⟨rfl, hc⟩]
    exact ite_self _
  · rw [scOf, facetOf_modFacet_other m _ hf, scOf]

/-- A context that the facet has not reads as the initial one, changed or not. -/
theorem scOf_modSc_same (g : StageCtx → StageCtx) :
    scOf (modSc m f c g) f c = g (scOf m f c) ∨ scOf (modSc m f c g) f c = StageCtx.init ∧ scOf m f c = StageCtx.init := by
  rw [modSc, scOf_modFacet_same]
  by_cases hf : f < m.facets.length
  · rw [if_pos hf, getD_modify_same]
    split
    · exact .inl rfl
    · next hc => exact .inr ⟨rfl, by rw [scOf, getD_past_end _ hc]⟩
  · have hinit : scOf m f c = StageCtx.init := by
      rw [scOf, facetOf, getD_past_end _ hf, List.getD_eq_getElem?_getD]
      show ((List.replicate 4 StageCtx.init)[c]?).getD _ = _
      rw [List.getElem?_replicate]
      split <;> rfl
    rw [if_neg hf]
    exact .inr ⟨hinit, hinit⟩

theorem recordPos_modFacet {g : Facet → Facet} (hg : ∀ x, (g x).scs = x.scs := by intro; rfl) :
    recordPos (modFacet m f' g) f c = recordPos m f c := by
  rw [recordPos, scOf_modFacet_scs m hg, recordPos]

theorem recordPos_modSc_other (g : StageCtx → StageCtx) (h : ¬(f' = f ∧ c' = c)) :
    recordPos (modSc m f' c' g) f c = recordPos m f c := by
  rw [recordPos, scOf_modSc_other m g h, recordPos]

/-- A change of a context that keeps its slot keeps every record pointer. -/
theorem recordPos_modSc {g : StageCtx → StageCtx} (hg : ∀ x, (g x).run = x.run := by intro; rfl) :
    recordPos (modSc m f' c' g) f c = recordPos m f c := by
  by_cases h : f' = f ∧ c' = c
  · obtain ⟨rfl, rfl⟩ := h
    obtain hsame | ⟨hinit, hinit'⟩ := scOf_modSc_same m (f := f') (c := c') g
    · rw [recordPos, hsame, hg, recordPos]
    · rw [recordPos, hinit, recordPos, hinit']
  · exact recordPos_modSc_other m g h

theorem recordPos_modRun_same (g : SlotRun → SlotRun) :
    recordPos (modRun m f c g) f c = (scOf m f c).run.map fun r => ((g r).recIdx, (g r).wait) := by
  obtain hsame | ⟨hinit, hinit'⟩ := scOf_modSc_same m (f := f) (c := c) fun x => { x with run := x.run.map g }
  · rw [recordPos, modRun, hsame, Option.map_map]
    rfl
  · rw [recordPos, modRun, hinit, hinit']
    rfl

theorem recordPos_modRun_other (g : SlotRun → SlotRun) (h : ¬(f' = f ∧ c' = c)) :
    recordPos (modRun m f' c' g) f c = recordPos m f c := recordPos_modSc_other m _ h

/-- A change of a slot that keeps its record pointer and its wait. -/
theorem recordPos_modRun {g : SlotRun → SlotRun}
    (hg : ∀ r, (g r).recIdx = r.recIdx ∧ (g r).wait = r.wait := by intro; exact ⟨rfl, rfl⟩) :
    recordPos (modRun m f' c' g) f c = recordPos m f c := by
  by_cases h : f' = f ∧ c' = c
  · obtain ⟨rfl, rfl⟩ := h
    rw [recordPos_modRun_same]
    simp only [hg, recordPos]
  · exact recordPos_modRun_other m g h

/-- The record pointer moves on by one. -/
theorem recordPos_stepRec (n : Nat) : recordPos (stepRec f c n m) f c = (recordPos m f c).map fun p => (p.1 + 1, p.2) := by
  rw [stepRec, recordPos_modRun_same, recordPos, Option.map_map]
  rfl

end

/-! ### Operations that leave where a slot stands -/

section
variable (m : Mach) (f c : Nat)

/-- Steps that leave where the slot stands, one after another. -/
theorem recordPos_forAll {α : Type} {g : Mach → α → Mach} (h : ∀ m x, recordPos (g m x) f c = recordPos m f c) (l : List α) :
    recordPos (forAll l g m) f c = recordPos m f c := forAll_keeps (fun m => recordPos m f c) h l m

theorem recordPos_ite {p : Prop} [Decidable p] {m m' : Mach} {f c : Nat} (h : recordPos m' f c = recordPos m f c) :
    recordPos (if p then m' else m) f c = recordPos m f c := by
  split
  · exact h
  · rfl

@[simp] theorem recordPos_raise (code src : Nat) (job : Option Nat) (d : List Nat) :
    recordPos (raise m code src job d) f c = recordPos m f c := recordPos_congr (raise_facets ..)

@[simp] theorem recordPos_loseMem (g sp off n : Nat) : recordPos (loseMem m g sp off n) f c = recordPos m f c :=
  recordPos_congr (loseMem_facets ..)

@[simp] theorem recordPos_sendFlight (fl : Flight) : recordPos (sendFlight fl m) f c = recordPos m f c :=
  recordPos_congr (sendFlight_facets ..)

@[simp] theorem recordPos_sendMsg (d : Nat) (i : Instr) : recordPos (sendMsg m d i) f c = recordPos m f c :=
  recordPos_congr (sendMsg_facets ..)

@[simp] theorem recordPos_releaseEntry (n : Nat) : recordPos (releaseEntry n m) f c = recordPos m f c :=
  recordPos_congr (releaseEntry_facets ..)

@[simp] theorem recordPos_modPipe (j p : Nat) (g : Pipe → Pipe) : recordPos (modPipe m j p g) f c = recordPos m f c := rfl

@[simp] theorem recordPos_modRows (j p : Nat) (g : VerRow → VerRow) (v : Nat) : recordPos (modRows m j p g v) f c = recordPos m f c :=
  rfl

/-- Loci change apart from slots. -/
theorem recordPos_modLocus (f' c' : Nat) (g : Locus → Locus) : recordPos (modLocus m f' c' g) f c = recordPos m f c :=
  recordPos_modSc m

theorem recordPos_setAct (f' c' key : Nat) (g : ActSlot → Option ActSlot) :
    recordPos (setAct f' c' key g m) f c = recordPos m f c := recordPos_modSc m

@[simp] theorem recordPos_giveWord (f' c' tag flags status opcode : Nat) :
    recordPos (giveWord f' c' tag flags status opcode m) f c = recordPos m f c := recordPos_modSc _

@[simp] theorem recordPos_decideRetire (g ch : Nat) : recordPos (decideRetire g ch m) f c = recordPos m f c := by
  unfold decideRetire
  split
  · rfl
  · exact recordPos_modFacet m

@[simp] theorem recordPos_raiseUe (units : List Nat) : recordPos (raiseUe m units) f c = recordPos m f c := by
  refine recordPos_forAll m f c (fun m u => ?_) units
  dsimp only
  rw [recordPos_raise, recordPos_ite (recordPos_decideRetire ..)]
  exact (recordPos_modFacet _).trans (recordPos_modFacet _)

@[simp] theorem recordPos_readChecked (g sp off n : Nat) : recordPos (readChecked m g sp off n).2.2 f c = recordPos m f c :=
  recordPos_raiseUe ..

@[simp] theorem recordPos_writeChecked (g sp off : Nat) (bs : List Byte) :
    recordPos (writeChecked m g sp off bs) f c = recordPos m f c := by
  rw [writeChecked, recordPos_raiseUe, recordPos_congr (writeMem_facets ..)]

theorem getElem?_zip_range {α : Type} (l : List α) (i : Nat) : ((List.range l.length).zip l)[i]? = l[i]?.map (Prod.mk i) := by
  by_cases h : i < l.length <;> simp [List.zip, h]

/-- Changes of version entries leave every slot. -/
@[simp] theorem recordPos_mapEntries (g : Nat → Nat → VerEntry → VerEntry) : recordPos (mapEntries m g) f c = recordPos m f c := by
  have hfacet : facetOf (mapEntries m g) f = facetOf m f ∨ ∃ h : Nat → VerEntry → VerEntry, facetOf (mapEntries m g) f =
      { facetOf m f with scs := (List.range (facetOf m f).scs.length).zip (facetOf m f).scs |>.map fun (c, s) =>
          { s with locus := { s.locus with entries := s.locus.entries.map (h c) } } } := by
    simp only [facetOf, mapEntries, List.getD_eq_getElem?_getD, List.getElem?_map, getElem?_zip_range]
    cases m.facets[f]? with
    | none => exact .inl rfl
    | some x => exact .inr ⟨g f, rfl⟩
  obtain hsame | ⟨h, hmap⟩ := hfacet
  · rw [recordPos, scOf, hsame, recordPos, scOf]
  · rw [recordPos, scOf, hmap, recordPos, scOf]
    simp only [List.getD_eq_getElem?_getD, List.getElem?_map, getElem?_zip_range]
    cases (facetOf m f).scs[c]? <;> rfl

@[simp] theorem recordPos_lastUnit (j p vtag id : Nat) : recordPos (lastUnit j p vtag id m) f c = recordPos m f c := by
  have hretire : ∀ m : Mach, recordPos (retireTag j p vtag m) f c = recordPos m f c := fun m => by
    unfold retireTag
    dsimp only
    rw [recordPos_forAll _ f c fun m d => recordPos_sendMsg m f c d _, modTag, recordPos_mapEntries, recordPos_raise]
  have hdown : ∀ m : Mach, recordPos (liveDown j p vtag m) f c = recordPos m f c := fun m => by
    unfold liveDown
    dsimp only
    split
    · rfl
    · rw [recordPos_ite (hretire _), recordPos_modRows]
  unfold lastUnit
  split
  · rw [lastUnitAt, hdown, recordPos_modPipe]
  · split
    · rw [recordPos_sendMsg]
    · rfl

@[simp] theorem recordPos_sendEntry (n : Nat) (mb : MbInfo) : recordPos (sendEntry n mb m) f c = recordPos m f c := by
  unfold sendEntry
  split
  · rfl
  · next y _ =>
    dsimp only
    have hsends := recordPos_modRun m (f := f) (c := c) (f' := y.e.srcFacet) (c' := y.e.srcSc)
      (g := fun r => { r with sends := r.sends ++ [n] }) fun _ => ⟨rfl, rfl⟩
    split
    · next hcredit => rw [recordPos_congr ((launchEntry_facets ..).trans (takeCredit_facets hcredit)), hsends]
    · rw [recordPos_congr ((modChord_facets ..).trans (beginWait_facets ..)), hsends]

theorem recordPos_addLoss (f' c' j p id : Nat) : recordPos (addLoss f' c' j p id m) f c = recordPos m f c := by
  have hloss := recordPos_modSc m (f := f) (c := c) (f' := f') (c' := c')
    (g := fun x => { x with tokLoss := x.tokLoss.filter fun t => t.1 / 8 != id }) fun _ => rfl
  unfold addLoss
  dsimp only
  split
  · exact hloss
  · exact (recordPos_modPipe ..).trans hloss

theorem recordPos_noteForward (f' c' : Nat) (u : WorkUnit) : recordPos (noteForward f' c' u m) f c = recordPos m f c := by
  refine recordPos_modSc m fun x => ?_
  split <;> rfl

theorem recordPos_noteBack (f' c' : Nat) (u : WorkUnit) : recordPos (noteBack f' c' u m) f c = recordPos m f c := by
  refine recordPos_modSc m fun x => ?_
  split <;> rfl

theorem recordPos_finishUnit (f' c' j : Nat) (e : MapSc) (u : WorkUnit) :
    recordPos (finishUnit f' c' j e u m) f c = recordPos m f c := by
  unfold finishUnit
  extract_lets m1 tr lastStage whole
  have hrel : recordPos m1 f c = recordPos m f c := by
    unfold m1
    split
    · exact recordPos_releaseEntry ..
    · rfl
  rw [← hrel]
  clear_value m1 tr lastStage whole
  split
  · have hnote := recordPos_noteForward m1 f c f' c' u
    split
    · exact hnote
    · split
      · exact (recordPos_ite ((recordPos_modSc _).trans (recordPos_addLoss ..))).trans hnote
      · exact (recordPos_ite ((recordPos_lastUnit ..).trans (recordPos_addLoss ..))).trans hnote
  · split
    · exact (recordPos_ite (recordPos_lastUnit ..)).trans (recordPos_noteBack ..)
    · rfl

theorem recordPos_finishUnits (f' c' j : Nat) (e : MapSc) : recordPos (finishUnits f' c' j e m) f c = recordPos m f c := by
  unfold finishUnits
  split
  · rfl
  · exact (recordPos_modRun _).trans
      (recordPos_forAll m f c (fun m u => recordPos_finishUnit m f c f' c' j e u) _)

theorem recordPos_sendGather (f' c' j i k vtag dst : Nat) (shifting : Bool) (a : Lat) (bytes : Nat) :
    recordPos (sendGather f' c' j i k vtag dst shifting a bytes m) f c = recordPos m f c := by
  rw [sendGather, recordPos_sendFlight]
  exact (recordPos_modRun _).trans rfl

theorem recordPos_gatherLayer (f' c' j vtag dst i : Nat) (shifting : Bool) (y : LocusLayer) :
    recordPos (gatherLayer f' c' j vtag dst i shifting y m) f c = recordPos m f c := by
  refine recordPos_forAll m f c (fun m k => ?_) _
  dsimp only
  split
  · rfl
  · split
    · rfl
    · split
      · exact recordPos_sendGather ..
      · split
        · rfl
        · rw [recordPos_writeChecked, recordPos_readChecked]

theorem recordPos_gatherFetch (f' c' j : Nat) (u : WorkUnit) : recordPos (gatherFetch f' c' j u m) f c = recordPos m f c := by
  unfold gatherFetch
  dsimp only
  split
  · rfl
  · rw [recordPos_ite (recordPos_loseMem ..)]
    refine (recordPos_forAll _ f c (fun m x => ?_) _).trans ((recordPos_forAll _ f c (fun m x => ?_) _).trans
      (recordPos_modRun _))
    · split
      · exact recordPos_gatherLayer ..
      · rfl
    · split
      · exact (recordPos_modLocus ..).trans (recordPos_gatherLayer ..)
      · rfl

theorem recordPos_openUnit (f' c' : Nat) : recordPos (openUnit f' c' m) f c = recordPos m f c := by
  unfold openUnit
  extract_lets m1 x
  have hfetch : recordPos m1 f c = recordPos m f c := by
    unfold m1
    split
    · exact recordPos_gatherFetch ..
    · rfl
  rw [← hfetch]
  clear_value x m1
  split
  · split
    · split
      · split
        · exact recordPos_modRun _
        · split
          · exact (recordPos_modRun _).trans (recordPos_modSc _)
          · exact recordPos_modRun _
      · split
        · dsimp only
          split
          · refine (recordPos_modRun _).trans ?_
            split
            · exact recordPos_modRun _
            · exact (recordPos_raise ..).trans (recordPos_modRun _)
          · exact (recordPos_modRun _).trans (recordPos_modRun _)
        · rfl
    · rfl
  · rfl

theorem recordPos_endAct (f' c' j : Nat) (e : MapSc) (u : WorkUnit) : recordPos (endAct f' c' j e u m) f c = recordPos m f c := by
  unfold endAct
  split
  · rfl
  · split
    · exact recordPos_setAct ..
    · split
      · exact recordPos_setAct ..
      · rfl

end

/-! ### Slots of other contexts -/

section
variable (m : Mach) {f c f' c' : Nat} (h : ¬(f' = f ∧ c' = c))
include h

theorem recordPos_endUnitOn_other (chords : List Nat) (j : Nat) (e : MapSc) (u : WorkUnit) :
    recordPos (endUnitOn chords f' c' j e u m) f c = recordPos m f c := by
  have hnext : recordPos (modRun (forAll chords (fun m n => sendEntry n u.mb m) (endAct f' c' j e u m)) f' c' fun r =>
      let nxt := r.units[r.unitIdx + 1]?
      let pre := (nxt.map fun v => v.dir == 2).getD false
      { r with unitIdx := r.unitIdx + 1, tokens := [], recIdx := if pre then r.resume else 0, resume := if pre then 0 else r.resume })
      f c = recordPos m f c := by
    rw [recordPos_modRun_other _ _ h, recordPos_forAll _ f c fun m n => recordPos_sendEntry m f c n u.mb, recordPos_endAct]
  unfold endUnitOn
  dsimp only
  split
  · split
    · rw [recordPos_openUnit, recordPos_finishUnits, hnext]
    · exact hnext
  · exact hnext

theorem recordPos_advanceUnit_other (fuel : Nat) : recordPos (advanceUnit fuel f' c' m) f c = recordPos m f c := by
  induction fuel generalizing m with
  | zero => rfl
  | succ k ih =>
    unfold advanceUnit
    dsimp only
    split
    · split
      · rfl
      · split
        · rfl
        · split
          · rw [ih, recordPos_modRun_other _ _ h]
          · split
            · rfl
            · rw [ih, endUnit, recordPos_endUnitOn_other _ h]
    · rfl

theorem recordPos_endTallyWait_other (tag status : Nat) : recordPos (endTallyWait f' c' tag status m) f c = recordPos m f c := by
  rw [endTallyWait, poke, recordPos_advanceUnit_other _ h, recordPos_modRun_other _ _ h, recordPos_giveWord]

end

/-! ### Tally operations and barriers -/

section
variable {m : Mach} {f c i : Nat}

/-- A tally that changes ends the waits on it, and none of a slot that waits for nothing. -/
theorem recordPos_tallyWake (h : recordPos m f c = some (i, .none)) (g t : Nat) : recordPos (tallyWake g t m) f c = some (i, .none) := by
  have hends : ∀ (m : Mach) (k : Nat) (r : SlotRun) (n : Nat) (target : W32) (eq : Bool) (dl : Option Nat) (tag : Nat),
      recordPos m f c = some (i, .none) → (scOf m g k).run = some r → r.wait = .tally n target eq dl tag → ¬(g = f ∧ k = c) := by
    rintro m k r n target eq dl tag hpos hrun hwait ⟨rfl, rfl⟩
    simp [recordPos, hrun, hwait] at hpos
  unfold tallyWake
  refine List.foldlRecOn (motive := fun m => recordPos m f c = some (i, .none)) _ _ ?_ fun m hm k _ => ?_
  · exact (recordPos_modFacet m).trans h
  · split
    · next r hrun =>
      split
      · next n target eq dl tag hwait =>
        rw [recordPos_ite (recordPos_endTallyWait_other m (hends m k r n target eq dl tag hm hrun hwait) tag 0), hm]
      · exact hm
    · exact hm

theorem recordPos_tallyOp (h : recordPos m f c = some (i, .none)) (g t mod : Nat) (v : W32) :
    recordPos (tallyOp g t mod v m) f c = some (i, .none) := by
  have hset : recordPos (if tb mod 0 then tallySet m g t v else tallyAddN m g t v.toNat) f c = some (i, .none) := by
    split <;> exact h
  unfold tallyOp
  extract_lets m1
  split
  · exact recordPos_tallyWake hset g t
  · exact hset

theorem recordPos_barArrive (h : recordPos m f c = some (i, .none)) (j b g : Nat) :
    recordPos (barArrive j b g m) f c = some (i, .none) := by
  unfold barArrive
  extract_lets ctl bar now members setBar
  split
  · rw [recordPos_raise, h]
  · split
    · exact List.foldlRecOn (motive := fun m => recordPos m f c = some (i, .none)) _ _ h fun m hm k _ => recordPos_tallyOp hm ..
    · exact h

end

end Sys2Proof.Machine
end

section
/-!
CERTIFICATE. The sequencer's records TALLY_WAIT, TALLY_ADD, REMOTE_COPY, BARRIER_ARRIVE and FENCE (Table 9.6, R281–R287) and the timeout
of tally waits (R53, R282).
-/
namespace Sys2Proof.Machine

/-! ### Issuing a record -/

/-- The slot whose next record may issue waits for nothing. -/
theorem recordPos_of_recordAt {m : Mach} {f c j op : Nat} {r : Rec} (h : RecordAt m f c r j op) :
    ∃ i, recordPos m f c = some (i, .none) := by
  obtain ⟨hissue, -, -⟩ := h
  unfold issuable at hissue
  split at hissue
  · next hcur =>
    unfold curRec at hcur
    dsimp only at hcur
    split at hcur
    · next run hrun =>
      split at hcur
      · next hopen =>
        have hwait : run.wait = .none := by
          simp only [slotOpen, Bool.and_eq_true, beq_iff_eq] at hopen
          obtain ⟨⟨⟨⟨hwait, -⟩, -⟩, -⟩, -⟩ := hopen
          exact hwait
        exact ⟨run.recIdx, by rw [recordPos, hrun, Option.map_some, hwait]⟩
      · simp at hcur
    · simp at hcur
  · simp at hissue

theorem recIdx_of_recordPos {m : Mach} {f c i : Nat} {w : ScWait} (hi : recordPos m f c = some (i, w)) :
    (scOf m f c).run.map (·.recIdx) = some i := by
  rw [recordPos, Option.map_eq_some_iff] at hi
  obtain ⟨run, hrun, hpos⟩ := hi
  rw [hrun, Option.map_some, (Prod.mk.inj hpos).1]

section
variable {m : Mach} {f c j op i : Nat} {r : Rec} {ok : Nat → Bool} {k : Rec → Nat → Mach → Mach}
  (h : RecordAt m f c r j op) (hok : ok op = true) (hi : recordPos m f c = some (i, .none))
include h hok hi

/-- A record that moved the record pointer on was issued: it counts toward the prefill budget and the slot goes on (R417). -/
theorem takeRecord_moved {w : ScWait} (hmoved : recordPos (k r j m) f c = some (i + 1, w)) :
    takeRecord f c ok k m = poke f c (countPrefill f c r (k r j m)) := by
  obtain ⟨hissue, rfl, hgate⟩ := h
  simp only [takeRecord, hissue, hok, hgate, Bool.and_self, if_true, recIdx_of_recordPos hi, recIdx_of_recordPos hmoved]
  exact if_neg (by simp)

/-- A record that must wait is not issued (R561). -/
theorem takeRecord_held (hheld : recordPos (k r j m) f c = recordPos m f c) : takeRecord f c ok k m = k r j m := by
  obtain ⟨hissue, rfl, hgate⟩ := h
  simp only [takeRecord, hissue, hok, hgate, Bool.and_self, if_true, recIdx_of_recordPos hi, recIdx_of_recordPos (hheld.trans hi)]
  exact if_pos (by simp)

end

/-! ### How far a record moves the slot -/

section
variable {m : Mach} {f c i : Nat} (hi : recordPos m f c = some (i, .none)) (j : Nat) (r : Rec)
include hi

theorem recordPos_endRecord : recordPos (endRecord f c r m) f c = some (i + 1, .none) := by
  rw [endRecord, recordPos_giveWord, recordPos_stepRec, hi, Option.map_some]

theorem recordPos_badRecord (st : Nat) : recordPos (badRecord f c r st m) f c = some (i + 1, .none) := by
  rw [badRecord, failRecord, recordPos_raise, recordPos_giveWord, recordPos_stepRec, hi, Option.map_some]

theorem recordPos_sendRecord (req : RemoteReq) (localOfs : Nat) (ue : Bool) (chord : Option Nat) :
    recordPos (sendRecord f c j r req localOfs ue chord m) f c = some (i + 1, .none) := by
  have hnext : recordPos { m with nextOp := m.nextOp + 1 } f c = some (i, .none) := hi
  rw [sendRecord, recordPos_sendFlight, recordPos_stepRec, hnext, Option.map_some]

theorem recordPos_waitRecord (w : ScWait) :
    recordPos (modRun (stepRec f c 0 m) f c fun x => { x with wait := w }) f c = some (i + 1, w) := by
  have hstep := (recordPos_stepRec m (f := f) (c := c) 0).trans (by rw [hi, Option.map_some])
  obtain ⟨run, hrun, hpos⟩ := Option.map_eq_some_iff.1 hstep
  rw [recordPos_modRun_same, hrun, Option.map_some, (Prod.mk.inj hpos).1]

end

/-! ### The commands of a stage context -/

section
variable {s : State} {f c j op : Nat} {r : Rec} {k : Rec → Nat → Mach → Mach} (hs : Ready s) (hf : f < 96) (hc : c < 4)
  (h : RecordAt s.m f c r j op)
include hs hf hc h

/-- The command of a record that issues. -/
theorem actReady_takeRecord_moved {m' : Mach} {w : ScWait} (hk : k r j s.m = m')
    (hmoved : ∀ i, recordPos s.m f c = some (i, .none) → recordPos m' f c = some (i + 1, w)) :
    actReady (okSc f c) (takeRecord f c (· == op) k) s = .next ⟨poke f c (countPrefill f c r m'), s.pending⟩ := by
  obtain ⟨i, hi⟩ := recordPos_of_recordAt h
  have hok : okSc f c = true := decide_eq_true ⟨hf, hc⟩
  rw [hok, actReady_ready _ hs, takeRecord_moved (ok := (· == op)) h (beq_self_eq_true op) hi (hk ▸ hmoved i hi), hk]

/-- The command of a record that must wait. -/
theorem actReady_takeRecord_held {m' : Mach} (hk : k r j s.m = m') (hheld : recordPos m' f c = recordPos s.m f c) :
    actReady (okSc f c) (takeRecord f c (· == op) k) s = .next ⟨m', s.pending⟩ := by
  obtain ⟨i, hi⟩ := recordPos_of_recordAt h
  have hok : okSc f c = true := decide_eq_true ⟨hf, hc⟩
  rw [hok, actReady_ready _ hs, takeRecord_held (ok := (· == op)) h (beq_self_eq_true op) hi (hk ▸ hheld), hk]

end

/-! ### Barriers (R285, R286) -/

section
variable {m : Mach} {j b f : Nat}

/-- Facets that have arrived at a barrier. -/
def arrivedAt (m : Mach) (j b : Nat) : List Nat := (((jobOf m j).bars[b]?).getD ⟨[]⟩).arrived

/-- Arrivals that a barrier refuses: it is disabled, or the facet is no member or there already. -/
def BarRefuses (m : Mach) (j b f : Nat) : Prop :=
  tb (regN m (offJobBar j b)) 0 = false ∨ barMember m j b f = false ∨ f ∈ arrivedAt m j b

theorem barRefuses_iff : BarRefuses m j b f ↔
    (!tb (regN m (offJobBar j b)) 0 || !barMember m j b f || (arrivedAt m j b).contains f) = true := by
  simp [BarRefuses, or_assoc]

theorem barArrive_refused (h : BarRefuses m j b f) : barArrive j b f m = raise m barErr (srcJob j) (some j) [j, b, f] :=
  if_pos (barRefuses_iff.1 h)

/-- Members are still to come. -/
theorem barArrive_waits (h : ¬BarRefuses m j b f)
    (hmore : ∃ k ∈ (List.range 96).filter (barMember m j b), k ∉ arrivedAt m j b ++ [f]) :
    barArrive j b f m = modJob m j fun x => { x with bars := x.bars.set b ⟨arrivedAt m j b ++ [f]⟩ } := by
  have hall : ¬((List.range 96).filter (barMember m j b)).all (arrivedAt m j b ++ [f]).contains = true := by
    obtain ⟨k, hk, habsent⟩ := hmore
    exact fun hall => habsent (List.contains_iff_mem.1 (List.all_eq_true.1 hall k hk))
  exact (if_neg (fun hb => h (barRefuses_iff.2 hb))).trans (if_neg hall)

/-- The last member's arrival clears the barrier and adds 1 to every member's tally. -/
theorem barArrive_last (h : ¬BarRefuses m j b f)
    (hlast : ∀ k ∈ (List.range 96).filter (barMember m j b), k ∈ arrivedAt m j b ++ [f]) :
    barArrive j b f m = forAll ((List.range 96).filter (barMember m j b))
      (fun m' g => tallyOp g (bf (regN m (offJobBar j b)) 15 4) 0 1 m')
      (modJob m j fun x => { x with bars := x.bars.set b ⟨[]⟩ }) := by
  have hall : ((List.range 96).filter (barMember m j b)).all (arrivedAt m j b ++ [f]).contains = true := by
    simpa only [List.all_eq_true, List.contains_eq_mem, decide_eq_true_eq] using hlast
  exact (if_neg (fun hb => h (barRefuses_iff.2 hb))).trans (if_pos hall)

end

/-! ### Tally waits that time out (R53, R282) -/

section
variable {s : State} (hs : Ready s) {f : Nat} (hf : f < 96)
include hs hf

theorem exec_tallyTimeout (isStrand : Bool) (k : Nat) :
    exec (.tallyTimeout f isStrand k) s = .next ⟨tallyTimeoutOp f isStrand k s.m, s.pending⟩ := by
  show actReady (decide (f < 96)) (tallyTimeoutOp f isStrand k) s = _
  rw [decide_eq_true hf, actReady_ready _ hs]

end

theorem byTime_reached {m : Mach} {t : Nat} (h : t ≤ (atTime m t).now) (g : Mach → Mach) : byTime t g m = g (atTime m t) := if_pos h

theorem tallyTimeoutOp_strand {m : Mach} {f k t : Nat} {a : Strand} {target : W32} {eq : Bool} {d rd : Nat}
    (ha : strandOf m f k = some a) (hw : a.wait = .tally t target eq (some d) rd) (hd : d ≤ (atTime m d).now) :
    tallyTimeoutOp f true k m =
      let ended (v : Word) : Mach := modStrand (atTime m d) f k fun u => setReg { u with wait := .run } rd v
      if tallyMet (tallyGet (atTime m d) f t) target eq then ended 0
      else raise (ended 1) tallyTimeoutEv (srcFacet f 3) ((launchGroup (atTime m d) f a.group).map (·.job)) [f, k, t] := by
  simp only [tallyTimeoutOp, if_true, ha, hw]
  exact byTime_reached hd _

theorem tallyTimeoutOp_strand_unlimited {m : Mach} {f k t : Nat} {a : Strand} {target : W32} {eq : Bool} {rd : Nat}
    (ha : strandOf m f k = some a) (hw : a.wait = .tally t target eq none rd) : tallyTimeoutOp f true k m = m := by
  simp only [tallyTimeoutOp, if_true, ha, hw]

theorem tallyTimeoutOp_slot {m : Mach} {f k t : Nat} {r : SlotRun} {target : W32} {eq : Bool} {d tag : Nat}
    (hr : (scOf m f k).run = some r) (hw : r.wait = .tally t target eq (some d) tag) (hd : d ≤ (atTime m d).now) :
    tallyTimeoutOp f false k m =
      if tallyMet (tallyGet (atTime m d) f t) target eq then endTallyWait f k tag 0 (atTime m d)
      else endTallyWait f k tag 0x61
        (raise (atTime m d) tallyTimeoutEv (srcFacet f 3) (scJob (atTime m d) f k) [f, k, t]) := by
  simp only [tallyTimeoutOp, Bool.false_eq_true, if_false, hr, hw]
  exact byTime_reached hd _

theorem tallyTimeoutOp_slot_unlimited {m : Mach} {f k t : Nat} {r : SlotRun} {target : W32} {eq : Bool} {tag : Nat}
    (hr : (scOf m f k).run = some r) (hw : r.wait = .tally t target eq none tag) : tallyTimeoutOp f false k m = m := by
  simp only [tallyTimeoutOp, Bool.false_eq_true, if_false, hr, hw]

/-! ### The statement -/

section
variable {s : State} {f c j : Nat} {r : Rec} (hs : Ready s) (hf : f < 96) (hc : c < 4)

/-- What follows a record that was issued: it counts toward the prefill budget and the slot goes on. -/
abbrev issued (s : State) (f c : Nat) (r : Rec) (m : Mach) : Res := .next ⟨poke f c (countPrefill f c r m), s.pending⟩

include hs hf hc

theorem exec_tallyWait_record (h : RecordAt s.m f c r j 4) :
    (waitStatus s.m j f (sTally r) ≠ 0 →
      exec (.tallyWait f c) s = issued s f c r (badRecord f c r (waitStatus s.m j f (sTally r)) s.m)) ∧
    (waitStatus s.m j f (sTally r) = 0 → tallyMet (tallyGet s.m f (sTally r)) (sValue r) (sMod r == 1) = true →
      exec (.tallyWait f c) s = issued s f c r (endRecord f c r s.m)) ∧
    (waitStatus s.m j f (sTally r) = 0 → tallyMet (tallyGet s.m f (sTally r)) (sValue r) (sMod r == 1) = false →
      exec (.tallyWait f c) s = issued s f c r (modRun (stepRec f c 0 s.m) f c fun x => { x with
        wait := .tally (sTally r) (sValue r) (sMod r == 1)
          (if sTimeout r = 0 then none else some (s.m.now + sTimeout r)) (recTag r) })) := by
  refine ⟨fun hst => ?_, fun hst hmet => ?_, fun hst hmet => ?_⟩
  · exact actReady_takeRecord_moved hs hf hc h (if_pos hst) fun i hi => recordPos_badRecord hi r _
  · exact actReady_takeRecord_moved hs hf hc h ((if_neg (absurd hst)).trans (if_pos hmet)) fun i hi => recordPos_endRecord hi r
  · exact actReady_takeRecord_moved hs hf hc h ((if_neg (absurd hst)).trans (if_neg (ne_true_of_eq_false hmet)))
      fun i hi => recordPos_waitRecord hi _

theorem exec_tallyAdd_record (h : RecordAt s.m f c r j 5) :
    (remoteStatus s.m j 0x38 4 4 (sLaddr r) ≠ 0 →
      exec (.tallyAdd f c) s = issued s f c r (badRecord f c r (remoteStatus s.m j 0x38 4 4 (sLaddr r)) s.m)) ∧
    (remoteStatus s.m j 0x38 4 4 (sLaddr r) = 0 → tb (sMod r) 1 = true → scOpen s.m f c false true = true →
      exec (.tallyAdd f c) s = .next s) ∧
    (remoteStatus s.m j 0x38 4 4 (sLaddr r) = 0 → (tb (sMod r) 1 = false ∨ scOpen s.m f c false true = false) →
      exec (.tallyAdd f c) s = issued s f c r
        (sendRecord f c j r ⟨sLaddr r, 0x38, sMod r, 4, leBytes 4 (sValue r).toNat, 0⟩ 0 false none s.m)) := by
  refine ⟨fun hst => ?_, fun hst hrel hopen => ?_, fun hst hgo => ?_⟩
  · exact actReady_takeRecord_moved hs hf hc h (if_pos hst) fun i hi => recordPos_badRecord hi r _
  · have hheld : (tb (sMod r) 1 && scOpen s.m f c false true) = true := by rw [hrel, hopen, Bool.and_self]
    exact actReady_takeRecord_held hs hf hc h ((if_neg (absurd hst)).trans (if_pos hheld)) rfl
  · have hfree : ¬(tb (sMod r) 1 && scOpen s.m f c false true) = true := by
      obtain hrel | hopen := hgo
      · simp [hrel]
      · simp [hopen]
    exact actReady_takeRecord_moved hs hf hc h ((if_neg (absurd hst)).trans (if_neg hfree)) fun i hi => recordPos_sendRecord hi ..

/-- Status of the checks of a REMOTE_COPY, at the far end and then here. -/
def remoteCopyStatus (m : Mach) (f j : Nat) (r : Rec) : Nat :=
  let isGet := sMod r == 1
  let st := remoteStatus m j (if isGet then 0x32 else 0x33) 64 (sLength r) (sLaddr r)
  if st ≠ 0 then st else strandLocal m j f (sLocal r) (sLength r) 64 (if isGet then .write else .read)

/-- The local side of a REMOTE_COPY: a get writes it, a put reads it. -/
def remoteCopyFoot (r : Rec) : Footprint :=
  if sMod r == 1 then ⟨[], [(sLocal r, sLength r)]⟩ else ⟨[(sLocal r, sLength r)], []⟩

/-- Where a REMOTE_COPY goes: its address, redirected within the activation range (R312). -/
def remoteCopyTarget (m : Mach) (f c : Nat) (r : Rec) : Lat := actRedirect m f c (latOf (sLaddr r).toNat)

theorem exec_remoteCopy_refused (h : RecordAt s.m f c r j 6) (hst : remoteCopyStatus s.m f j r ≠ 0) :
    exec (.remoteCopy f c) s = issued s f c r (badRecord f c r (remoteCopyStatus s.m f j r) s.m) :=
  actReady_takeRecord_moved hs hf hc h (if_pos hst) fun _ hi => recordPos_badRecord hi r _

theorem exec_remoteCopy_hazard (h : RecordAt s.m f c r j 6) (hst : remoteCopyStatus s.m f j r = 0)
    (hheld : heldByHazard s.m f c (remoteCopyFoot r) = true) : exec (.remoteCopy f c) s = .next s :=
  actReady_takeRecord_held hs hf hc h ((if_neg (absurd hst)).trans (if_pos hheld)) rfl

theorem exec_remoteCopy_get (h : RecordAt s.m f c r j 6) (hst : remoteCopyStatus s.m f j r = 0)
    (hheld : heldByHazard s.m f c (remoteCopyFoot r) = false) (hget : (sMod r == 1) = true) :
    exec (.remoteCopy f c) s = issued s f c r (sendRecord f c j r
      ⟨word (latAddr (remoteCopyTarget s.m f c r)), 0x32, 0, sLength r, [], 0⟩ (sLocal r) false none s.m) :=
  actReady_takeRecord_moved hs hf hc h
    ((if_neg (absurd hst)).trans ((if_neg (ne_true_of_eq_false hheld)).trans (if_pos hget)))
    fun _ hi => recordPos_sendRecord hi ..

section
variable (h : RecordAt s.m f c r j 6) (hst : remoteCopyStatus s.m f j r = 0)
  (hheld : heldByHazard s.m f c (remoteCopyFoot r) = false) (hput : (sMod r == 1) = false)
include h hst hheld hput

/-- A put into a payload ring without credit waits for it (R117). -/
theorem exec_remoteCopy_put_waits {k : Nat} (hp : payloadWrite s.m f c (remoteCopyTarget s.m f c r) (sLength r) = .wait k) :
    exec (.remoteCopy f c) s = .next ⟨beginWait k s.m, s.pending⟩ := by
  have hrec : remoteCopyRec f c r j s.m = beginWait k s.m := by
    refine ((if_neg (absurd hst)).trans ((if_neg (ne_true_of_eq_false hheld)).trans (if_neg (ne_true_of_eq_false hput)))).trans ?_
    rw [← remoteCopyTarget, hp]
  exact actReady_takeRecord_held hs hf hc h hrec (recordPos_congr (beginWait_facets ..))

/-- A put sends the bytes at LOCAL as they are at issue. -/
theorem exec_remoteCopy_put {l : Lat} {k : Option Nat} {m2 : Mach}
    (hp : payloadWrite s.m f c (remoteCopyTarget s.m f c r) (sLength r) = .go l k m2) :
    exec (.remoteCopy f c) s = issued s f c r (sendRecord f c j r
      ⟨word (latAddr l), 0x33, 0, sLength r, (readChecked m2 f 0 (sLocal r) (sLength r)).1, 0⟩ (sLocal r)
      (readChecked m2 f 0 (sLocal r) (sLength r)).2.1 k (readChecked m2 f 0 (sLocal r) (sLength r)).2.2) := by
  refine actReady_takeRecord_moved hs hf hc h ?_ fun i hi => recordPos_sendRecord ?_ ..
  · refine ((if_neg (absurd hst)).trans ((if_neg (ne_true_of_eq_false hheld)).trans (if_neg (ne_true_of_eq_false hput)))).trans ?_
    rw [← remoteCopyTarget, hp]
  · rw [recordPos_readChecked, recordPos_congr (payloadWrite_facets hp), hi]

end

theorem exec_barrierArrive_record (h : RecordAt s.m f c r j 7) :
    exec (.barrierArrive f c) s = issued s f c r (barArrive j (sBar r) f (endRecord f c r s.m)) :=
  actReady_takeRecord_moved hs hf hc h rfl fun _ hi => recordPos_barArrive (recordPos_endRecord hi r) ..

theorem exec_fenceRecord_record (h : RecordAt s.m f c r j 8) :
    (scOpen s.m f c (tb (sMod r) 0) (tb (sMod r) 1) = true → exec (.fenceRecord f c) s = .next s) ∧
    (scOpen s.m f c (tb (sMod r) 0) (tb (sMod r) 1) = false →
      exec (.fenceRecord f c) s = issued s f c r (endRecord f c r s.m)) :=
  ⟨fun hopen => actReady_takeRecord_held hs hf hc h (if_pos hopen) rfl,
    fun hclosed => actReady_takeRecord_moved hs hf hc h (if_neg (ne_true_of_eq_false hclosed)) fun _ hi => recordPos_endRecord hi r⟩

end

/-- Settles O38: every record by the branches of its function and by how far each moves the record pointer; a timeout by the wait that
it ends. -/
theorem sequencerRecordsRun : Obligations.SequencerRecordsRun := by
  refine ⟨fun m j b f => ⟨fun h => barArrive_refused h, fun h => barArrive_waits h, fun h => barArrive_last h⟩,
    fun s f c r j hs hf hc => ⟨fun h => ?_, fun h => exec_tallyAdd_record hs hf hc h, fun h => ?_,
      fun h => exec_barrierArrive_record hs hf hc h, fun h => exec_fenceRecord_record hs hf hc h⟩,
    fun s f k hs hf => ?_⟩
  · obtain ⟨hbad, hmet, hwait⟩ := exec_tallyWait_record hs hf hc h
    refine ⟨hbad, hmet, fun hst hno hlim => ?_, fun hst hno hlim => ?_⟩
    · exact (hwait hst hno).trans (by rw [if_pos hlim])
    · exact (hwait hst hno).trans (by rw [if_neg hlim])
  · exact ⟨exec_remoteCopy_refused hs hf hc h, exec_remoteCopy_hazard hs hf hc h, exec_remoteCopy_get hs hf hc h,
      fun hst hheld hput => ⟨fun _ => exec_remoteCopy_put_waits hs hf hc h hst hheld hput,
        fun _ _ _ => exec_remoteCopy_put hs hf hc h hst hheld hput⟩⟩
  · simp only [exec_tallyTimeout hs hf]
    refine ⟨fun a t target eq d rd ha hw hd => ⟨fun hmet => ?_, fun hmet => ?_⟩, fun a t target eq rd ha hw => ?_,
      fun r t target eq d tag hr hw hd => ⟨fun hmet => ?_, fun hmet => ?_⟩, fun r t target eq tag hr hw => ?_⟩
    · rw [tallyTimeoutOp_strand ha hw hd, if_pos hmet]
    · rw [tallyTimeoutOp_strand ha hw hd, if_neg (ne_true_of_eq_false hmet)]
    · rw [tallyTimeoutOp_strand_unlimited ha hw]
    · rw [tallyTimeoutOp_slot hr hw hd, if_pos hmet]
    · rw [tallyTimeoutOp_slot hr hw hd, if_neg (ne_true_of_eq_false hmet)]
    · rw [tallyTimeoutOp_slot_unlimited hr hw]

end Sys2Proof.Machine
end

section
/-!
CERTIFICATE. What the operations of the host interface leave of a ring and of the module, and completions (R77, R78, R89–R92).
-/
namespace Sys2Proof.Machine

/-! ### A ring after an update -/

/-- What an update of one place of a list leaves of every place. -/
theorem getD_modify_keeps {α β : Type} (P : α → β) {l : List α} {i k : Nat} {g : α → α} {d : α}
    (hg : P (g (l.getD i d)) = P (l.getD i d)) : P ((l.modify i g).getD k d) = P (l.getD k d) := by
  by_cases h : i = k
  · subst h
    rw [getD_modify_same]
    split
    · exact hg
    · next hlen => rw [getD_past_end _ hlen]
  · rw [getD_modify_other l g d h]

section
variable (m : Mach) {n : Nat}

theorem ringOf_modRing_same (g : Ring → Ring) (h : n < m.host.rings.length) : ringOf (modRing m n g) n = g (ringOf m n) :=
  (getD_modify_same ..).trans (if_pos h)

theorem ringOf_modRing_keeps {α : Type} (P : Ring → α) {k : Nat} {g : Ring → Ring} (hg : ∀ r, P (g r) = P r) :
    P (ringOf (modRing m k g) n) = P (ringOf m n) := getD_modify_keeps P (hg _)

theorem modRing_modRing (f g : Ring → Ring) : modRing (modRing m n f) n g = modRing m n (g ∘ f) := by
  simp only [modRing, modHost, List.modify_modify_eq]

theorem epOf_modEp_keeps {α : Type} (P : Endpoint → α) {e k : Nat} {g : Endpoint → Endpoint} (hg : ∀ x, P (g x) = P x) :
    P (epOf (modEp m k g) e) = P (epOf m e) := getD_modify_keeps P (hg _)

end

/-! ### What the host interface changes -/

/-- `x` differs from `m` at most in the host interface, what has left the module, the words in effect and focus. -/
abbrev HostOnly (m x : Mach) : Prop := { x with host := m.host, out := m.out, regs := m.regs, focus := m.focus } = m

theorem HostOnly.trans {m x y : Mach} (h : HostOnly m x) (h' : HostOnly x y) : HostOnly m y :=
  (congrArg (fun z : Mach => { z with host := m.host, out := m.out, regs := m.regs, focus := m.focus }) h').trans h

theorem HostOnly.keeps {m x : Mach} (h : HostOnly m x) :
    x.descs = m.descs ∧ x.mem = m.mem ∧ x.jobs = m.jobs ∧ x.facets = m.facets ∧ x.chans = m.chans ∧ x.tallies = m.tallies := by
  have hkept {α : Type} (P : Mach → α) := congrArg P h
  exact ⟨hkept Mach.descs, hkept Mach.mem, hkept Mach.jobs, hkept Mach.facets, hkept Mach.chans, hkept Mach.tallies⟩

theorem hostOnly_raise (m : Mach) (code src : Nat) (job : Option Nat) (d : List Nat) : HostOnly m (raise m code src job d) :=
  congrArg (fun z : Mach => { z with host := m.host, out := m.out }) (raise_frame m code src job d)

@[simp] theorem raise_host (m : Mach) (code src : Nat) (job : Option Nat) (d : List Nat) :
    (raise m code src job d).host = m.host := by
  have hframe := congrArg Mach.host (raise_frame m code src job d)
  exact hframe

@[simp] theorem raise_out (m : Mach) (code src : Nat) (job : Option Nat) (d : List Nat) :
    (raise m code src job d).out = m.out := by
  have hframe := congrArg Mach.out (raise_frame m code src job d)
  exact hframe

theorem hostOnly_setUnsig (m : Mach) (n u : Nat) (f : Option Nat) : HostOnly m (setUnsig m n u f) := by
  unfold setUnsig
  split
  · rfl
  · split <;> rfl

@[simp] theorem setUnsig_out (m : Mach) (n u : Nat) (f : Option Nat) : (setUnsig m n u f).out = m.out := by
  unfold setUnsig
  split
  · rfl
  · split <;> rfl

/-- Coalescing counts the record as unsignalled, or signals the ring (R92). -/
theorem noteRecord_cases (m : Mach) (n : Nat) :
    (∃ u f, noteRecord m n = setUnsig m n u f) ∨ noteRecord m n = raise (setUnsig m n 0 none) 0 n none [] := by
  unfold noteRecord
  dsimp only
  split
  · exact .inr rfl
  · exact .inl ⟨_, _, rfl⟩

theorem hostOnly_noteRecord (m : Mach) (n : Nat) : HostOnly m (noteRecord m n) := by
  obtain ⟨u, f, h⟩ | h := noteRecord_cases m n <;> rw [h]
  · exact hostOnly_setUnsig ..
  · exact (hostOnly_setUnsig ..).trans (hostOnly_raise ..)

@[simp] theorem noteRecord_out (m : Mach) (n : Nat) : (noteRecord m n).out = m.out := by
  obtain ⟨u, f, h⟩ | h := noteRecord_cases m n <;> rw [h]
  · exact setUnsig_out ..
  · rw [raise_out, setUnsig_out]

/-! ### The completion records of a ring -/

/-- What a ring holds of descriptors and completions: the open ones, the held records and the indices. -/
def ringRecords (r : Ring) : List W32 × List CplRec × W32 × W32 := (r.live, r.held, r.cplProd, r.cplCons)

theorem ringRecords_setUnsig (m : Mach) (k n u : Nat) (f : Option Nat) :
    ringRecords (ringOf (setUnsig m k u f) n) = ringRecords (ringOf m n) := by
  unfold setUnsig
  split
  · exact ringOf_modRing_keeps m ringRecords fun _ => rfl
  · split <;> rfl

theorem ringRecords_noteRecord (m : Mach) (k n : Nat) :
    ringRecords (ringOf (noteRecord m k) n) = ringRecords (ringOf m n) := by
  obtain ⟨u, f, h⟩ | h := noteRecord_cases m k <;> rw [h]
  · exact ringRecords_setUnsig ..
  · rw [ringOf, raise_host]
    exact ringRecords_setUnsig ..

theorem settleIdle_cases (m : Mach) (n : Nat) :
    settleIdle m n = m ∨ settleIdle m n = modRing m n fun r => { r with idle := true, disabledAt := none } := by
  unfold settleIdle
  dsimp only
  split
  · exact .inr rfl
  · exact .inl rfl

theorem hostOnly_settleIdle (m : Mach) (n : Nat) : HostOnly m (settleIdle m n) := by
  obtain h | h := settleIdle_cases m n
  · rw [h]
  · rw [h]
    rfl

@[simp] theorem settleIdle_out (m : Mach) (n : Nat) : (settleIdle m n).out = m.out := by
  obtain h | h := settleIdle_cases m n
  · rw [h]
  · rw [h]
    rfl

theorem ringRecords_settleIdle (m : Mach) (k n : Nat) :
    ringRecords (ringOf (settleIdle m k) n) = ringRecords (ringOf m n) := by
  obtain h | h := settleIdle_cases m k <;> rw [h]
  exact ringOf_modRing_keeps m ringRecords fun _ => rfl

/-- A posted write of a completion record: all but its first eight bytes, or those (R91). -/
def cplPut (m : Mach) (n : Nat) (c : CplRec) (head : Bool) : Output :=
  .cplWrite (portOf m n) (entryAddr (regN m (offCplBase n)) (ringOf m n).cplProd.toNat (regN m (offCplSize n)) 32) head
    (phaseAt (ringOf m n).cplProd.toNat (regN m (offCplSize n))) c

theorem putCpl_eq (m : Mach) (n : Nat) (c : CplRec) : putCpl m n c =
    noteRecord (modRing (emit (emit m (cplPut m n c false)) (cplPut m n c true)) n
      fun r => { r with cplProd := r.cplProd + 1 }) n := rfl

theorem hostOnly_putCpl (m : Mach) (n : Nat) (c : CplRec) : HostOnly m (putCpl m n c) := by
  have hidx : HostOnly m (modRing (emit (emit m (cplPut m n c false)) (cplPut m n c true)) n
      fun r => { r with cplProd := r.cplProd + 1 }) := rfl
  exact hidx.trans (hostOnly_noteRecord ..)

theorem putCpl_out (m : Mach) (n : Nat) (c : CplRec) :
    (putCpl m n c).out = m.out ++ [cplPut m n c false, cplPut m n c true] := by
  rw [putCpl_eq, noteRecord_out]
  exact List.append_assoc ..

theorem ringRecords_putCpl (m : Mach) {n : Nat} (c : CplRec) (h : n < m.host.rings.length) :
    ringRecords (ringOf (putCpl m n c) n) =
      ((ringOf m n).live, (ringOf m n).held, (ringOf m n).cplProd + 1, (ringOf m n).cplCons) := by
  have hidx := ringOf_modRing_same (emit (emit m (cplPut m n c false)) (cplPut m n c true)) (n := n)
    (fun r => { r with cplProd := r.cplProd + 1 }) h
  rw [putCpl_eq, ringRecords_noteRecord, hidx]
  rfl

/-! ### Completing a descriptor -/

/-- The module once descriptor `index` of ring `n` is no open one any more; the fenced descriptor that is the oldest now counts as
fetched at this tick at the earliest (R85). -/
def leaveRing (n : Nat) (index : W32) (m : Mach) : Mach :=
  let x := modRing m n fun r => { r with live := r.live.filter fun i => i != index }
  { x with descs := (x.descs.filter fun d => !(d.d.ring == n && d.d.index == index)).map fun d =>
      if d.d.ring = n ∧ d.wait = .fenced ∧ (ringOf x n).live.head? = some d.d.index then
        { d with fetchTick := max d.fetchTick x.tick.tickNo } else d }

theorem ringOf_leaveRing {m : Mach} {n : Nat} (index : W32) (h : n < m.host.rings.length) :
    ringOf (leaveRing n index m) n = { ringOf m n with live := (ringOf m n).live.filter fun i => i != index } :=
  ringOf_modRing_same m _ h

theorem cplBlocked_leaveRing (m : Mach) (n : Nat) (index : W32) : cplBlocked (leaveRing n index m) n = cplBlocked m n := by
  have hidx : (ringOf (leaveRing n index m) n).cplProd - (ringOf (leaveRing n index m) n).cplCons =
      (ringOf m n).cplProd - (ringOf m n).cplCons :=
    ringOf_modRing_keeps m (fun r => r.cplProd - r.cplCons) fun _ => rfl
  simp only [cplBlocked, hidx]
  rfl

section
variable {m : Mach} {quiet : Bool} {c : CplRec}

theorem completeAt_eq (m : Mach) (quiet : Bool) (c : CplRec) : completeAt m quiet c =
    let x := leaveRing c.ring c.index m
    settleIdle (if quiet && decide (c.status < 2) then x
      else if (ringOf x c.ring).held.isEmpty && !cplBlocked x c.ring then putCpl x c.ring c
      else modRing x c.ring fun r => { r with held := r.held ++ [c] }) c.ring := rfl

/-- Once the descriptor has left its ring, a completion changes the host interface alone. -/
theorem hostOnly_completeAt (m : Mach) (quiet : Bool) (c : CplRec) :
    HostOnly (leaveRing c.ring c.index m) (completeAt m quiet c) := by
  rw [completeAt_eq]
  dsimp only
  refine HostOnly.trans ?_ (hostOnly_settleIdle ..)
  split
  · rfl
  · split
    · exact hostOnly_putCpl ..
    · rfl

theorem completeAt_silent (hq : quiet = true) (hst : c.status < 2) :
    completeAt m quiet c = settleIdle (leaveRing c.ring c.index m) c.ring := by
  simp [completeAt_eq, hq, hst]

variable (hst : quiet = false ∨ 2 ≤ c.status)
include hst

/-- A descriptor that is not QUIET, or has failed, leaves a record. -/
theorem record_due : (quiet && decide (c.status < 2)) = false := by
  obtain h | h := hst
  · rw [h, Bool.false_and]
  · rw [decide_eq_false (Nat.not_lt.2 h), Bool.and_false]

variable (hlen : c.ring < m.host.rings.length)
include hlen

theorem completeAt_written (hheld : (ringOf m c.ring).held = []) (hroom : cplBlocked m c.ring = false) :
    completeAt m quiet c = settleIdle (putCpl (leaveRing c.ring c.index m) c.ring c) c.ring := by
  have hnone : (ringOf (leaveRing c.ring c.index m) c.ring).held = [] := by rw [ringOf_leaveRing c.index hlen, hheld]
  simp only [completeAt_eq, record_due hst, hnone, cplBlocked_leaveRing, hroom, List.isEmpty_nil, Bool.not_false, Bool.and_self,
    Bool.false_eq_true, if_false, if_true]

theorem completeAt_held (hfull : (ringOf m c.ring).held ≠ [] ∨ cplBlocked m c.ring = true) :
    completeAt m quiet c =
      settleIdle (modRing (leaveRing c.ring c.index m) c.ring fun r => { r with held := r.held ++ [c] }) c.ring := by
  have hsome : (ringOf (leaveRing c.ring c.index m) c.ring).held = (ringOf m c.ring).held := by rw [ringOf_leaveRing c.index hlen]
  have hnot : ((ringOf m c.ring).held.isEmpty && !cplBlocked m c.ring) = false := by
    obtain h | h := hfull
    · rw [List.isEmpty_eq_false_iff.2 h, Bool.false_and]
    · rw [h, Bool.not_true, Bool.and_false]
  simp only [completeAt_eq, record_due hst, hsome, cplBlocked_leaveRing, hnot, Bool.false_eq_true, if_false]

end

/-- Whatever becomes of its record, a descriptor that completes is no open one of its ring any more. -/
theorem live_completeAt {m : Mach} (quiet : Bool) {c : CplRec} (hlen : c.ring < m.host.rings.length) :
    (ringOf (completeAt m quiet c) c.ring).live = (ringOf m c.ring).live.filter fun i => i != c.index := by
  have hleft : (ringOf (leaveRing c.ring c.index m) c.ring).live = (ringOf m c.ring).live.filter fun i => i != c.index := by
    rw [ringOf_leaveRing c.index hlen]
  have hlen' : c.ring < (leaveRing c.ring c.index m).host.rings.length := by simpa [leaveRing] using hlen
  rw [completeAt_eq]
  refine (congrArg Prod.fst (ringRecords_settleIdle ..)).trans ?_
  split
  · exact hleft
  · split
    · exact (congrArg Prod.fst (ringRecords_putCpl _ c hlen')).trans hleft
    · exact (ringOf_modRing_keeps (leaveRing c.ring c.index m) Ring.live (g := fun r => { r with held := r.held ++ [c] })
        fun _ => rfl).trans hleft

/-- Settles O17: a completion takes its descriptor from the open ones of the ring, and then its record is left out, written or
held. -/
theorem completionsGoToTheirRing : Obligations.CompletionsGoToTheirRing := by
  intro m quiet c _ hlen
  have hlen' : c.ring < (leaveRing c.ring c.index m).host.rings.length := by simpa [leaveRing] using hlen
  obtain ⟨-, hkept⟩ := (hostOnly_completeAt m quiet c).keeps
  refine ⟨fun i hi => ?_, fun hq hst => ?_, fun hst hheld hroom => ?_, fun hst hfull => ?_, hkept⟩
  · rw [live_completeAt quiet hlen] at hi
    simpa using (List.mem_filter.1 hi).2
  · rw [completeAt_silent hq hst]
    have hrec := ringRecords_settleIdle (leaveRing c.ring c.index m) c.ring c.ring
    refine ⟨settleIdle_out .., (congrArg (fun p => p.2.1) hrec).trans ?_⟩
    rw [ringOf_leaveRing c.index hlen]
    rfl
  · rw [completeAt_written hst hlen hheld hroom]
    have hrec := (ringRecords_settleIdle _ c.ring c.ring).trans (ringRecords_putCpl (leaveRing c.ring c.index m) c hlen')
    have hprod : (ringOf (leaveRing c.ring c.index m) c.ring).cplProd = (ringOf m c.ring).cplProd := by
      rw [ringOf_leaveRing c.index hlen]
    refine ⟨?_, (congrArg (fun p => p.2.2.1) hrec).trans (by rw [hprod])⟩
    rw [settleIdle_out, putCpl_out]
    simp only [cplPut, hprod]
    rfl
  · rw [completeAt_held hst hlen hfull]
    have hrec := ringRecords_settleIdle
      (modRing (leaveRing c.ring c.index m) c.ring fun r => { r with held := r.held ++ [c] }) c.ring c.ring
    refine ⟨settleIdle_out .., (congrArg (fun p => p.2.1) hrec).trans ?_⟩
    rw [ringOf_modRing_same _ _ hlen', ringOf_leaveRing c.index hlen]
    rfl

end Sys2Proof.Machine
end

section
/-!
CERTIFICATE. Enabling, disabling and moving a ring (R76, R77, R100, R539): a write of a ring's control register by the bits that it
changes.
-/
namespace Sys2Proof.Machine

/-! ### Bits of a word -/

theorem getLsbD_word_two_pow {e i : Nat} (he : e < 64) : (word (2 ^ e)).getLsbD i = decide (e = i) := by
  rw [word, BitVec.getLsbD_ofNat, Nat.testBit_two_pow]
  by_cases h : e = i
  · subst h
    simp [he]
  · simp [h]

/-- A field depends on its own bits alone. -/
theorem wf_congr {v w : Word} {hi lo : Nat} (h : ∀ i, lo ≤ i → i ≤ hi → v.getLsbD i = w.getLsbD i) :
    wf v hi lo = wf w hi lo := by
  refine Nat.eq_of_testBit_eq fun i => ?_
  simp only [wf, bf, Nat.testBit_mod_two_pow, Nat.testBit_shiftRight]
  by_cases hi' : i < hi + 1 - lo
  · exact congrArg (decide (i < hi + 1 - lo) && ·) (h (lo + i) (by omega) (by omega))
  · rw [decide_eq_false hi', Bool.false_and, Bool.false_and]

theorem wf_bit (w : Word) (i : Nat) : wf w i i = (w.getLsbD i).toNat := by
  have hone : i + 1 - i = 1 := by omega
  simp only [wf, bf, hone, Nat.pow_one, Nat.shiftRight_eq_div_pow]
  exact (Nat.toNat_testBit ..).symm

/-! ### The control register of a ring (Table 19.3) -/

theorem enabledRing_eq (m : Mach) (n : Nat) : enabledRing m n = (regGet m (ctlOff n)).getLsbD (enBit n) := by
  unfold enabledRing ctlOff enBit
  split
  · rfl
  · split
    · rfl
    · split <;> rfl

theorem portOf_eq {n : Nat} (h : n < 32) (m : Mach) : portOf m n = ((regGet m (ctlOff n)).getLsbD 1).toNat := by
  have hctl : ctlOff n = offRingCtl n := if_pos h
  rw [portOf, if_pos h, hctl]
  exact wf_bit ..

/-- EN is a bit of the control register of every ring. -/
theorem testBit_ctlMask {n : Nat} (h : n < 35) : (maskOf (ctlOff n)).testBit (enBit n) = true := by
  have hall : ∀ n < 35, (maskOf (ctlOff n)).testBit (enBit n) = true := by decide +kernel
  exact hall n h

/-- The control register of a command ring holds EN, PORT, ADMIN and JOB. -/
theorem maskOf_ctl {n : Nat} (h : n < 32) : maskOf (ctlOff n) = 0xF7 := by
  have hall : ∀ n < 32, maskOf (ctlOff n) = 0xF7 := by decide +kernel
  exact hall n h

theorem enBit_lt (n : Nat) : enBit n < 64 := by
  unfold enBit
  split <;> omega

theorem enBit_command {n : Nat} (h : n < 32) : enBit n = 0 := if_pos h

theorem portBit_command {n : Nat} (h : n < 32) : portBit n = 1 := if_pos h

/-- Is a word out of the range of the ring's control register (R536)? -/
def ctlRefused (n : Nat) (v : Word) : Bool :=
  match regFind (ctlOff n) with
  | some r => !r.ok v.toNat
  | none => false

theorem ctlRefused_eq_false {n : Nat} {v : Word} (h : ∀ r, regFind (ctlOff n) = some r → r.ok v.toNat = true) :
    ctlRefused n v = false := by
  unfold ctlRefused
  split
  · next r hr => rw [h r hr, Bool.not_true]
  · rfl

/-- Every word is in range for a command ring. -/
theorem ctlRefused_command {n : Nat} (h : n < 32) (v : Word) : ctlRefused n v = false := by
  have hall : ((List.range 32).all fun n => !ctlRefused n v) = true := by rfl
  simpa using List.all_eq_true.1 hall n (List.mem_range.2 h)

/-! ### A write of a control register -/

/-- Does the word change field `hi`:`lo` of the control register? -/
def ctlChanges (m : Mach) (n : Nat) (v : Word) (hi lo : Nat) : Bool := wf v hi lo != wf (regGet m (ctlOff n)) hi lo

/-- A write that an enabled ring refuses: PORT while it is not HALTED, ADMIN and JOB of a command ring (R76). -/
def ctlLocked (m : Mach) (n : Nat) (v : Word) : Bool :=
  (ctlChanges m n v (portBit n) (portBit n) && !haltedRing m n)
    || (decide (n < 32) && (ctlChanges m n v 2 2 || ctlChanges m n v 7 4))

section
variable {m : Mach} {n : Nat} {v w : Word}

theorem ctlChanges_eq_false {hi lo : Nat} (h : ∀ i, lo ≤ i → i ≤ hi → v.getLsbD i = (regGet m (ctlOff n)).getLsbD i) :
    ctlChanges m n v hi lo = false := by
  rw [ctlChanges, wf_congr h, bne_self_eq_false]

theorem ringCtlOp_eq (m : Mach) (n : Nat) (w : Word) : ringCtlOp n w m =
    let v := w &&& word (maskOf (ctlOff n))
    let x := regSet m (ctlOff n) v
    let y := if ctlChanges m n v (portBit n) (portBit n) then
      (if n < 32 then flushHeld 1024 n x else if n = 32 then flushLost x else x) else x
    if ctlRefused n v then raise m hostCfgErr srcHost none []
    else if !enabledRing m n then
      if v.getLsbD (enBit n) then
        if mayEnable m n then startRing n x else raise m hostCfgErr srcHost none []
      else flushHeld 1024 n x
    else if ctlLocked m n v then raise m hostCfgErr srcHost none []
    else if v.getLsbD (enBit n) then y else stopRing n y := by
  rw [enabledRing_eq]
  rfl

variable (hv : w &&& word (maskOf (ctlOff n)) = v)
include hv

theorem ringCtlOp_starts (hok : ctlRefused n v = false) (hoff : enabledRing m n = false) (hen : v.getLsbD (enBit n) = true)
    (hmay : mayEnable m n = true) : ringCtlOp n w m = startRing n (regSet m (ctlOff n) v) := by
  simp only [ringCtlOp_eq, hv, hok, hoff, hen, hmay, Bool.not_false, Bool.false_eq_true, if_true, if_false]

/-- A ring that may not be enabled stays as it is, whichever rule refuses the word (R536, R539). -/
theorem ringCtlOp_start_refused (hoff : enabledRing m n = false) (hen : v.getLsbD (enBit n) = true)
    (hmay : mayEnable m n = false) : ringCtlOp n w m = raise m hostCfgErr srcHost none [] := by
  simp only [ringCtlOp_eq, hv, hoff, hen, hmay, Bool.not_false, Bool.false_eq_true, if_true, if_false, ite_self]

theorem ringCtlOp_stays_off (hok : ctlRefused n v = false) (hoff : enabledRing m n = false) (hen : v.getLsbD (enBit n) = false) :
    ringCtlOp n w m = flushHeld 1024 n (regSet m (ctlOff n) v) := by
  simp only [ringCtlOp_eq, hv, hok, hoff, hen, Bool.not_false, Bool.false_eq_true, if_true, if_false]

/-- A write that an enabled ring does not take, for its range or for what it changes. -/
theorem ringCtlOp_locked (hon : enabledRing m n = true) (hlock : ctlLocked m n v = true) :
    ringCtlOp n w m = raise m hostCfgErr srcHost none [] := by
  simp only [ringCtlOp_eq, hv, hon, hlock, Bool.not_true, Bool.false_eq_true, if_true, if_false, ite_self]

theorem ringCtlOp_stops (hok : ctlRefused n v = false) (hon : enabledRing m n = true) (hfree : ctlLocked m n v = false)
    (hport : ctlChanges m n v (portBit n) (portBit n) = false) (hen : v.getLsbD (enBit n) = false) :
    ringCtlOp n w m = stopRing n (regSet m (ctlOff n) v) := by
  simp only [ringCtlOp_eq, hv, hok, hon, hfree, hport, hen, Bool.not_true, Bool.false_eq_true, if_false]

theorem ringCtlOp_moves (hok : ctlRefused n v = false) (hon : enabledRing m n = true) (hfree : ctlLocked m n v = false)
    (hport : ctlChanges m n v (portBit n) (portBit n) = true) (hen : v.getLsbD (enBit n) = true) (h : n < 32) :
    ringCtlOp n w m = flushHeld 1024 n (regSet m (ctlOff n) v) := by
  simp only [ringCtlOp_eq, hv, hok, hon, hfree, hport, hen, h, Bool.not_true, Bool.false_eq_true, if_true, if_false]

end

/-! ### What follows a write -/

theorem settleIdle_unsettled {m : Mach} {n : Nat}
    (h : enabledRing m n = true ∨ (ringOf m n).used = false ∨ (ringOf m n).live ≠ []) : settleIdle m n = m := by
  refine if_neg ?_
  obtain h | h | h := h <;> simp [h]

theorem settleIdle_settled {m : Mach} {n : Nat} (hoff : enabledRing m n = false) (hused : (ringOf m n).used = true)
    (hlive : (ringOf m n).live = []) (hheld : (ringOf m n).held = []) :
    settleIdle m n = modRing m n fun r => { r with idle := true, disabledAt := none } :=
  if_pos (by simp [hoff, hused, hlive, hheld])

theorem flushHeld_nothing {m : Mach} {n : Nat} (h : (ringOf m n).held = []) (fuel : Nat) :
    flushHeld (fuel + 1) n m = settleIdle m n := by
  rw [flushHeld, h]

theorem stopRing_other {n : Nat} (h : 32 ≤ n) (m : Mach) : stopRing n m = m := if_pos h

/-- A command ring whose open descriptors all go on notes the tick in which it was disabled. -/
theorem stopRing_command {m : Mach} {n : Nat} (h : n < 32) (hgo : ∀ x ∈ m.descs, x.d.ring = n → x.wait = .work) :
    stopRing n m = settleIdle (modRing m n fun r => { r with disabledAt := some m.tick.tickNo, reads := [] }) n := by
  have hnone : (m.descs.filter fun x => x.d.ring == n &&
      !outlives (modRing m n fun r => { r with disabledAt := some m.tick.tickNo, reads := [] }) m.tick.tickNo x) = [] := by
    refine List.filter_eq_nil_iff.2 fun x hx => ?_
    by_cases hring : x.d.ring = n
    · simp [outlives, hgo x hx hring]
    · simp [hring]
  rw [stopRing, if_neg (Nat.not_le.2 h)]
  simp only [modRing_descs, hnone]
  rfl

/-! ### EN cleared, PORT written -/

/-- The word that clears EN and leaves the other bits. -/
theorem getLsbD_cleared {old : Word} {n i : Nat} (h : i < 64) :
    (old &&& ~~~(word (2 ^ enBit n))).getLsbD i = (old.getLsbD i && !decide (enBit n = i)) := by
  rw [BitVec.getLsbD_and, BitVec.getLsbD_not, getLsbD_word_two_pow (enBit_lt n), decide_eq_true h, Bool.true_and]

/-- Clearing EN changes neither PORT nor, on a command ring, ADMIN and JOB: no ring refuses it. -/
theorem ctl_cleared {m : Mach} {n : Nat} {v : Word} (hv : v = regGet m (ctlOff n) &&& ~~~(word (2 ^ enBit n))) :
    v.getLsbD (enBit n) = false ∧ ctlChanges m n v (portBit n) (portBit n) = false ∧ ctlLocked m n v = false := by
  have hsame {hi lo : Nat} (hhi : hi < 64) (hout : enBit n < lo ∨ hi < enBit n) : ctlChanges m n v hi lo = false := by
    refine ctlChanges_eq_false fun i hlo hle => ?_
    have hne : enBit n ≠ i := by omega
    rw [hv, getLsbD_cleared (by omega), decide_eq_false hne, Bool.not_false, Bool.and_true]
  have hport : ctlChanges m n v (portBit n) (portBit n) = false := by
    refine hsame ?_ ?_
    · unfold portBit
      split <;> omega
    · unfold enBit portBit
      split <;> omega
  refine ⟨?_, hport, ?_⟩
  · rw [hv, getLsbD_cleared (enBit_lt n), decide_eq_true rfl, Bool.not_true, Bool.and_false]
  · rw [ctlLocked, hport, Bool.false_and, Bool.false_or]
    by_cases h : n < 32
    · have hen := enBit_command h
      rw [hsame (by omega) (by omega), hsame (by omega) (by omega), Bool.or_self, Bool.and_false]
    · rw [decide_eq_false h, Bool.false_and]

/-- The word that a write of PORT leaves. -/
def portWord (n port : Nat) (old : Word) : Word :=
  if port = 0 then old &&& ~~~(word (2 ^ portBit n)) else old ||| word (2 ^ portBit n)

section
variable {m : Mach} {n port : Nat} (h : n < 32)
include h

theorem getLsbD_portWord {old : Word} {i : Nat} (hi : i < 64) (hmask : Nat.testBit 0xF7 i = true) :
    (portWord n port old &&& word (maskOf (ctlOff n))).getLsbD i = if i = 1 then decide (port ≠ 0) else old.getLsbD i := by
  have hbit : (word 0xF7).getLsbD i = true := by rw [word, BitVec.getLsbD_ofNat, decide_eq_true hi, Bool.true_and, hmask]
  rw [BitVec.getLsbD_and, maskOf_ctl h, hbit, Bool.and_true, portWord, portBit_command h]
  split
  · next hp =>
    rw [BitVec.getLsbD_and, BitVec.getLsbD_not, getLsbD_word_two_pow (by omega), decide_eq_true hi]
    by_cases h1 : 1 = i <;> simp [h1, hp, eq_comm (a := i)]
  · next hp =>
    rw [BitVec.getLsbD_or, getLsbD_word_two_pow (by omega)]
    by_cases h1 : 1 = i <;> simp [h1, hp, eq_comm (a := i)]

/-- A write of the other port changes PORT alone. -/
theorem ctl_moved (hport : port < 2) (hne : portOf m n ≠ port) {v : Word}
    (hv : portWord n port (regGet m (ctlOff n)) &&& word (maskOf (ctlOff n)) = v) :
    v.getLsbD (enBit n) = enabledRing m n ∧ ctlChanges m n v (portBit n) (portBit n) = true ∧
    ctlLocked m n v = !haltedRing m n := by
  have hbits {i : Nat} (hi : i < 64) (hmask : Nat.testBit 0xF7 i = true) :
      v.getLsbD i = if i = 1 then decide (port ≠ 0) else (regGet m (ctlOff n)).getLsbD i := hv ▸ getLsbD_portWord h hi hmask
  have hchange : ctlChanges m n v (portBit n) (portBit n) = true := by
    rw [portOf_eq h] at hne
    rw [ctlChanges, portBit_command h, wf_bit, wf_bit, hbits (by omega) (by decide), if_pos rfl, bne_iff_ne]
    obtain rfl | rfl : port = 0 ∨ port = 1 := by omega
    · exact fun he => hne (by simpa using he.symm)
    · exact fun he => hne (by simpa using he.symm)
  have hsame {hi lo : Nat} (hlo : 2 ≤ lo) (hhi : hi < 64)
      (hmask : ∀ i, i < 64 → lo ≤ i → i ≤ hi → Nat.testBit 0xF7 i = true) :
      ctlChanges m n v hi lo = false := ctlChanges_eq_false fun i hle hge => by
    rw [hbits (by omega) (hmask i (by omega) hle hge), if_neg (by omega)]
  refine ⟨?_, hchange, ?_⟩
  · rw [enabledRing_eq, enBit_command h, hbits (by omega) (by decide), if_neg (by omega)]
  · rw [ctlLocked, hchange, hsame (hi := 2) (by omega) (by omega) (by decide), hsame (hi := 7) (by omega) (by omega) (by decide),
      Bool.or_self, Bool.and_false, Bool.or_false, Bool.true_and]

end

/-! ### The commands -/

section
variable {s : State} {n : Nat} (hs : Ready s) (hn : n < 35)
include hs hn

theorem exec_ringEnable (ctl : Word) : exec (.ringEnable n ctl) s = .next ⟨ringEnableOp n ctl s.m, s.pending⟩ :=
  row_runs hs (decide_eq_true hn) rfl

theorem exec_ringDisable (ctl : Word) : exec (.ringDisable n ctl) s = .next ⟨ringDisableOp n ctl s.m, s.pending⟩ :=
  row_runs hs (decide_eq_true hn) rfl

theorem exec_ringPort {port : Nat} (hp : port < 2) :
    exec (.ringPort n port) s =
      .next ⟨ringCtlOp n (portWord n port (regGet s.m (ctlOff n))) s.m, s.pending⟩ :=
  row_runs hs (decide_eq_true ⟨hn, hp⟩) rfl

end

theorem ringEnableOp_set {n : Nat} {ctl : Word} (h : tb ctl.toNat (enBit n) = true) (m : Mach) :
    ringEnableOp n ctl m = ringCtlOp n ctl m := if_pos h

theorem ringDisableOp_clear {m : Mach} {n : Nat} {ctl : Word} (h : tb ctl.toNat (enBit n) = false)
    (hon : enabledRing m n = true) : ringDisableOp n ctl m = ringCtlOp n ctl m :=
  if_neg (by simp [h, hon])

/-- EN of a written word reaches the register. -/
theorem getLsbD_ctl_enBit {n : Nat} (hn : n < 35) (ctl : Word) :
    (ctl &&& word (maskOf (ctlOff n))).getLsbD (enBit n) = tb ctl.toNat (enBit n) := by
  rw [BitVec.getLsbD_and, word, BitVec.getLsbD_ofNat, testBit_ctlMask hn, decide_eq_true (enBit_lt n), Bool.and_self,
    Bool.and_true]
  rfl

/-- EN read back after the register was written. -/
theorem enabledRing_regSet {m : Mach} (h : RegsWf m) (n : Nat) (v : Word) :
    enabledRing (regSet m (ctlOff n) v) n = v.getLsbD (enBit n) := by
  rw [enabledRing_eq, regGet_regSet h, if_pos rfl]

section
variable {m : Mach} {n : Nat} {ctl v : Word} (hv : ctl &&& word (maskOf (ctlOff n)) = v)
  (hclear : v = regGet m (ctlOff n) &&& ~~~(word (2 ^ enBit n))) (hctl : tb ctl.toNat (enBit n) = false)
  (hon : enabledRing m n = true) (hok : ctlRefused n v = false)
include hv hclear hctl hon hok

theorem ringDisableOp_stops : ringDisableOp n ctl m = stopRing n (regSet m (ctlOff n) v) := by
  obtain ⟨hen, hport, hfree⟩ := ctl_cleared hclear
  rw [ringDisableOp_clear hctl hon, ringCtlOp_stops hv hok hon hfree hport hen]

variable (hlen : n < m.host.rings.length) (h : n < 32)
include hlen h

/-- A ring with nothing fetched and nothing held is IDLE at once (R100). -/
theorem ringDisableOp_idle (hwf : RegsWf m) (hused : (ringOf m n).used = true) (hlive : (ringOf m n).live = [])
    (hheld : (ringOf m n).held = []) (hdescs : ∀ x ∈ m.descs, x.d.ring ≠ n) :
    ringDisableOp n ctl m = modRing (regSet m (ctlOff n) v) n
      fun r => { r with disabledAt := none, reads := [], idle := true } := by
  obtain ⟨hen, -, -⟩ := ctl_cleared hclear
  have hring := ringOf_modRing_same (regSet m (ctlOff n) v) (n := n)
    (fun r => { r with disabledAt := some m.tick.tickNo, reads := [] }) hlen
  have hstop := stopRing_command (m := regSet m (ctlOff n) v) h fun x hx hxn => absurd hxn (hdescs x hx)
  have hoff : enabledRing (modRing (regSet m (ctlOff n) v) n
      fun r => { r with disabledAt := some m.tick.tickNo, reads := [] }) n = false := (enabledRing_regSet hwf n v).trans hen
  rw [ringDisableOp_stops hv hclear hctl hon hok, hstop]
  refine (settleIdle_settled hoff ?_ ?_ ?_).trans (modRing_modRing ..)
  · exact (congrArg Ring.used hring).trans hused
  · exact (congrArg Ring.live hring).trans hlive
  · exact (congrArg Ring.held hring).trans hheld

/-- A ring whose fetched descriptors all run goes on and notes the tick (R100). -/
theorem ringDisableOp_running (hlive : (ringOf m n).live ≠ []) (hwork : ∀ x ∈ m.descs, x.d.ring = n → x.wait = .work) :
    ringDisableOp n ctl m = modRing (regSet m (ctlOff n) v) n
      fun r => { r with disabledAt := some m.tick.tickNo, reads := [] } := by
  have hring := ringOf_modRing_same (regSet m (ctlOff n) v) (n := n)
    (fun r => { r with disabledAt := some m.tick.tickNo, reads := [] }) hlen
  have hstop := stopRing_command (m := regSet m (ctlOff n) v) h hwork
  rw [ringDisableOp_stops hv hclear hctl hon hok, hstop]
  exact settleIdle_unsettled (.inr (.inr fun hnone => hlive ((congrArg Ring.live hring).symm.trans hnone)))

end

section
variable {m : Mach} {n port : Nat} {v : Word} (h : n < 32) (hport : port < 2) (hne : portOf m n ≠ port)
include h hport hne

theorem ringCtlOp_port_refused (hon : enabledRing m n = true) (hrun : (ringOf m n).halted = false) :
    ringCtlOp n (portWord n port (regGet m (ctlOff n))) m = raise m hostCfgErr srcHost none [] := by
  obtain ⟨-, -, hlock⟩ := ctl_moved h hport hne rfl
  have hhalt : haltedRing m n = false := (if_pos h).trans hrun
  exact ringCtlOp_locked rfl hon (hlock.trans (by rw [hhalt]; rfl))

theorem ringCtlOp_port_taken (hwf : RegsWf m) (hheld : (ringOf m n).held = [])
    (hcase : enabledRing m n = true ∧ (ringOf m n).halted = true ∨ enabledRing m n = false ∧ (ringOf m n).used = false)
    (hv : portWord n port (regGet m (ctlOff n)) &&& word (maskOf (ctlOff n)) = v) :
    ringCtlOp n (portWord n port (regGet m (ctlOff n))) m = regSet m (ctlOff n) v := by
  obtain ⟨hen, hmoved, hlock⟩ := ctl_moved h hport hne hv
  have hok := ctlRefused_command h v
  have hback := (enabledRing_regSet hwf n v).trans hen
  have hflush := flushHeld_nothing (m := regSet m (ctlOff n) v) hheld 1023
  obtain ⟨hon, hhalted⟩ | ⟨hoff, hunused⟩ := hcase
  · have hhalt : haltedRing m n = true := (if_pos h).trans hhalted
    rw [ringCtlOp_moves hv hok hon (hlock.trans (by rw [hhalt]; rfl)) hmoved (hen.trans hon) h, hflush]
    exact settleIdle_unsettled (.inl (hback.trans hon))
  · rw [ringCtlOp_stays_off hv hok hoff (hen.trans hoff), hflush]
    exact settleIdle_unsettled (.inr (.inl hunused))

end

/-- Settles O16: each write by the bits of the control register that it changes. -/
theorem ringsEnableDisableAndMove : Obligations.RingsEnableDisableAndMove := by
  intro s n hs hn
  dsimp only
  simp only [exec_ringEnable hs hn, exec_ringDisable hs hn]
  refine ⟨fun ctl hctl => ?_, fun ctl hctl hoff hok hmay => ?_, fun ctl hctl hoff hmay => ?_, fun ctl hoff => ?_,
    fun ctl hv hctl hon hok => ⟨fun h => ?_, fun hwf hlen h hused hlive hheld hdescs => ?_, fun hlen h hlive hwork => ?_⟩,
    fun port hport h hne hon hrun => ?_, fun port hwf hport h hne hheld hcase => ?_⟩
  · rw [ringEnableOp, hctl, if_neg Bool.false_ne_true]
  · rw [ringEnableOp_set hctl, ringCtlOp_starts rfl (ctlRefused_eq_false hok) hoff
      ((getLsbD_ctl_enBit hn ctl).trans hctl) hmay]
    rfl
  · rw [ringEnableOp_set hctl, ringCtlOp_start_refused rfl hoff ((getLsbD_ctl_enBit hn ctl).trans hctl) hmay]
  · rw [ringDisableOp, hoff, Bool.not_false, Bool.or_true, if_pos rfl]
  · rw [ringDisableOp_stops rfl hv hctl hon (ctlRefused_eq_false hok), stopRing_other h]
  · rw [ringDisableOp_idle rfl hv hctl hon (ctlRefused_eq_false hok) hlen h hwf hused hlive hheld hdescs]
  · rw [ringDisableOp_running rfl hv hctl hon (ctlRefused_eq_false hok) hlen h hlive hwork]
  · rw [exec_ringPort hs hn hport, ringCtlOp_port_refused h hport hne hon hrun]
  · rw [exec_ringPort hs hn hport, ringCtlOp_port_taken h hport hne hwf hheld hcase rfl]
    rfl

end Sys2Proof.Machine
end

section
/-!
CERTIFICATE. Traffic of the rings: doorbell polls and records, descriptor reads, held completions (R80–R82, R91, R98), and
interrupts and endpoints (R92, R99, R475, R476, R509).
-/
namespace Sys2Proof.Machine

/-! ### The commands -/

section
variable {s : State} (hs : Ready s)
include hs

theorem exec_dbPoll : exec .dbPoll s = .next ⟨dbPollOp s.m, s.pending⟩ := row_runs hs rfl rfl

theorem exec_doorbellReadDone {ep : Nat} (h : ep < 2) (r : Option (List DoorbellRec)) :
    exec (.doorbellReadDone ep r) s = .next ⟨doorbellOp ep r s.m, s.pending⟩ := row_runs hs (decide_eq_true h) rfl

theorem exec_descriptorFetch {n : Nat} (h : n < 32) (r : Option (List (Rec × HostData))) :
    exec (.descriptorFetch n r) s = .next ⟨fetchOp n r s.m, s.pending⟩ := row_runs hs (decide_eq_true h) rfl

theorem exec_heldCompletionWrite {n : Nat} (h : n < 32) :
    exec (.heldCompletionWrite n) s = .next ⟨pumpAll (flushHeld 1024 n s.m), s.pending⟩ :=
  row_runs (f := fun m => pumpAll (flushHeld 1024 n m)) hs (decide_eq_true h) rfl

theorem exec_coalesceTimeout {n : Nat} (h : n < 34) : exec (.coalesceTimeout n) s = .next ⟨coalesceOp n s.m, s.pending⟩ :=
  row_runs hs (decide_eq_true h) rfl

theorem exec_msixUnmask {ep v : Nat} (hep : ep < 2) (hv : v < 64) :
    exec (.msixUnmask ep v) s = .next ⟨unmaskOp ep v s.m, s.pending⟩ := row_runs hs (decide_eq_true ⟨hep, hv⟩) rfl

theorem exec_portDown {ep : Nat} (h : ep < 2) : exec (.portDown ep) s = .next ⟨portDownOp ep s.m, s.pending⟩ :=
  row_runs hs (decide_eq_true h) rfl

theorem exec_endpointReset {ep : Nat} (h : ep < 2) (cause : EndpointCause) :
    exec (.endpointReset ep cause) s = .next ⟨endpointResetOp ep cause s.m, s.pending⟩ := row_runs hs (decide_eq_true h) rfl

end

/-! ### Polls (R80–R82) -/

/-- A poll issues, on each endpoint that is up, one read of the records up to its highest polled ring. -/
theorem pollNow_eq (m : Mach) : pollNow m = forAll (List.range 2) (fun x ep =>
      if (epOf x ep).up = false ∨ pollSpan x ep = 0 then x
      else emit (modEp x ep fun e => { e with reading := e.reading ++ [(m.now, m.host.pollNum)] })
        (.doorbellRead ep (regGet x (offDbBase ep)) (pollSpan x ep)))
    (modHost m fun h => { h with
      polledAt := some m.now, pollNum := m.host.pollNum + 1
      polls := (h.polls.filter fun p => h.eps.any fun e => e.reading.any fun r => r.2 == p.num) ++
        [⟨m.host.pollNum, 1024, none⟩] }) := by
  unfold pollNow
  simp only [Bool.or_eq_true, Bool.not_eq_true', beq_iff_eq]

theorem dbPollOp_due {m : Mach} {due : Nat}
    (hdue : due = (match m.host.polledAt with | some t => t + regN m offDbPoll | none => 0)) (h : due ≤ (atTime m due).now) :
    dbPollOp m = pumpAll (pollNow (endOverdue (atTime m due))) := by
  subst hdue
  exact byTime_reached h _

/-! ### Doorbell records (R81, R82, R98) -/

theorem doorbellOp_unasked {m : Mach} {ep : Nat} (h : (epOf m ep).reading = []) (r : Option (List DoorbellRec)) :
    doorbellOp ep r m = m := by
  rw [doorbellOp, h]

/-- The module once the oldest read of an endpoint has returned. -/
def readBack (ep t : Nat) (rest : List (Nat × Nat)) (m : Mach) : Mach :=
  modEp m ep fun e => { e with reading := rest, latMax := max e.latMax (m.now - t) }

section
variable {m : Mach} {ep t k : Nat} {rest : List (Nat × Nat)} (h : (epOf m ep).reading = (t, k) :: rest)
include h

theorem doorbellOp_failed : doorbellOp ep none m =
    if (epOf m ep).fails + 1 = 3 then
      raise (modEp (readBack ep t rest m) ep fun e => { e with fails := 0 }) hostDmaErr srcHost none []
    else modEp (readBack ep t rest m) ep fun e => { e with fails := (epOf m ep).fails + 1 } := by
  have hfails : (epOf (readBack ep t rest m) ep).fails = (epOf m ep).fails := epOf_modEp_keeps m Endpoint.fails fun _ => rfl
  rw [← hfails, doorbellOp, h]
  rfl

theorem doorbellOp_records (l : List DoorbellRec) : doorbellOp ep (some l) m =
    pumpAll (fetchPoll ep k (forAll ((List.range 35).zip l) (fun m x =>
      if portOf m x.1 = ep ∧ polled m x.1 = true then takeRecordOf x.1 x.2 m else m)
      (modEp (readBack ep t rest m) ep fun e => { e with fails := 0 }))) := by
  rw [doorbellOp, h]
  rfl

end

/-- The ring knows how far the host has read its completions. -/
def noteCplCons (n : Nat) (r : DoorbellRec) (m : Mach) : Mach := modRing m n fun x => { x with cplCons := r.cons }

theorem ringOf_noteCplCons_keeps {α : Type} (P : Ring → α) (n : Nat) {r : DoorbellRec} (m : Mach)
    (hP : ∀ y : Ring, P { y with cplCons := r.cons } = P y) : P (ringOf (noteCplCons n r m) n) = P (ringOf m n) :=
  ringOf_modRing_keeps m P hP

section
variable {m : Mach} {n : Nat} {r : DoorbellRec} (hn : n < 32)
include hn

theorem takeRecordOf_stale (h : r.epoch.toNat ≠ regN m (offRingEpoch n)) :
    takeRecordOf n r m = raise m hostDbStale srcHost none [] := by
  rw [takeRecordOf, if_neg (by omega), if_neg (by omega), if_neg (by omega), if_pos h]

/-- The record of a running command ring whose completions are all written (R81). -/
theorem takeRecordOf_running (h : r.epoch.toNat = regN m (offRingEpoch n)) (hon : enabledRing m n = true)
    (hrun : (ringOf m n).halted = false) (hheld : (ringOf m n).held = []) :
    takeRecordOf n r m =
      if 2 ^ regN m (offRingSize n) < (r.prod - (ringOf m n).cons).toNat then
        raise (modRing (noteCplCons n r m) n fun x => { x with halted := true, cause := 1 }) hostRingErr srcHost none []
      else modRing (noteCplCons n r m) n fun x => { x with prod := r.prod } := by
  have hon' : enabledRing (noteCplCons n r m) n = true := hon
  have hheld' := (ringOf_noteCplCons_keeps Ring.held n (r := r) m fun _ => rfl).trans hheld
  have hrun' := (ringOf_noteCplCons_keeps Ring.halted n (r := r) m fun _ => rfl).trans hrun
  have hcons := ringOf_noteCplCons_keeps Ring.cons n (r := r) m fun _ => rfl
  have hflush : flushHeld 1024 n (noteCplCons n r m) = noteCplCons n r m :=
    (flushHeld_nothing hheld' 1023).trans (settleIdle_unsettled (.inl hon'))
  rw [takeRecordOf, if_neg (by omega), if_neg (by omega), if_neg (by omega), if_neg (absurd h), ← noteCplCons]
  simp only [hflush, hon', hrun', hcons, Bool.not_true, Bool.or_self, Bool.false_eq_true, if_false]
  rfl

end

/-! ### Descriptor reads and held completions (R82, R91, R98) -/

section
variable {m : Mach} {n k t : Nat} {rest : List (Nat × Nat)} (h : (ringOf m n).reads = (k, t) :: rest)
include h

theorem fetchOp_failed : fetchOp n none m =
    raise (modRing m n fun x => { x with reads := [], halted := true, cause := 2 }) hostDmaErr srcHost none [] := by
  rw [fetchOp, h]

theorem fetchOp_returned {l : List (Rec × HostData)} (hlen : l.length = k) : fetchOp n (some l) m =
    pumpAll (forAll l (intake n) (modEp (modRing m n fun x => { x with reads := rest }) (portOf m n)
      fun e => { e with latMax := max e.latMax (m.now - 20 - t) })) := by
  rw [fetchOp, h]
  exact if_neg (absurd hlen)

end

/-- One held record and room for it: it is written, and the ring may settle (R91, R100). -/
theorem flushHeld_one {m : Mach} {n : Nat} {c : CplRec} (hlen : n < m.host.rings.length) (hheld : (ringOf m n).held = [c])
    (hroom : cplBlocked m n = false) (fuel : Nat) :
    flushHeld (fuel + 2) n m = settleIdle (putCpl (modRing m n fun r => { r with held := [] }) n c) n := by
  have hlen' : n < (modRing m n fun r => { r with held := [] }).host.rings.length := by simpa using hlen
  have hring := ringOf_modRing_same m (fun r => { r with held := [] }) hlen
  have hnone : (ringOf (putCpl (modRing m n fun r => { r with held := [] }) n c) n).held = [] :=
    (congrArg (fun p => p.2.1) (ringRecords_putCpl _ c hlen')).trans (congrArg Ring.held hring)
  rw [flushHeld, hheld]
  simp only [hroom, Bool.false_eq_true, if_false]
  exact flushHeld_nothing hnone fuel

/-- Settles O18: each command by the one case of its function that its premises name. -/
theorem ringsPollFetchAndWriteBack : Obligations.RingsPollFetchAndWriteBack := by
  intro s hs
  dsimp only
  refine ⟨fun due hdue hreach => ?_, fun ep r hep hno => ?_, fun ep t k rest hep hread => ⟨fun hthird => ?_, fun hother => ?_⟩,
    fun ep l t k rest hep hread => ?_, fun m n r hn hepoch => takeRecordOf_stale hn hepoch,
    fun m n r hn _ hepoch hon hrun hheld => ⟨fun hpast => ?_, fun hin => ?_⟩, fun n k t rest hn hreads => ?_,
    fun n k t rest l hn hreads hlen => ?_, fun n c hn hlen hheld hroom => ?_⟩
  · rw [exec_dbPoll hs, dbPollOp_due hdue hreach, pollNow_eq]
  · rw [exec_doorbellReadDone hs hep, doorbellOp_unasked hno]
  · rw [exec_doorbellReadDone hs hep, doorbellOp_failed hread, if_pos hthird]
    rfl
  · rw [exec_doorbellReadDone hs hep, doorbellOp_failed hread, if_neg hother]
    rfl
  · rw [exec_doorbellReadDone hs hep, doorbellOp_records hread]
    rfl
  · exact (takeRecordOf_running hn hepoch hon hrun hheld).trans (if_pos hpast)
  · exact (takeRecordOf_running hn hepoch hon hrun hheld).trans (if_neg (Nat.not_lt.2 hin))
  · rw [exec_descriptorFetch hs hn, fetchOp_failed hreads]
  · rw [exec_descriptorFetch hs hn, fetchOp_returned hreads hlen]
    rfl
  · rw [exec_heldCompletionWrite hs hn, flushHeld_one hlen hheld hroom]

/-! ### Interrupts and endpoints -/

theorem coalesceOp_due {m : Mach} {n t0 : Nat} (hfirst : (unsigOf m n).2 = some t0) (hsome : (unsigOf m n).1 ≠ 0)
    (ht : bf (regN m (coalesceReg n)) 29 20 ≠ 0)
    (hreach : t0 + 100 * bf (regN m (coalesceReg n)) 29 20 ≤ (atTime m (t0 + 100 * bf (regN m (coalesceReg n)) 29 20)).now) :
    coalesceOp n m = signalRing (atTime m (t0 + 100 * bf (regN m (coalesceReg n)) 29 20)) n := by
  simp only [coalesceOp, hfirst, if_neg (not_or.2 ⟨ht, hsome⟩)]
  exact byTime_reached hreach _

/-- The endpoint's link goes down with its reads. -/
def portFalls (ep : Nat) (m : Mach) : Mach :=
  raise (modEp m ep fun e => { e with up := false, reading := [] }) portDownEv srcHost none []

theorem portDownOp_down {m : Mach} {ep : Nat} (h : (epOf m ep).up = false) : portDownOp ep m = m := if_pos (by rw [h]; rfl)

/-- Every command ring bound to an endpoint whose link goes down halts with cause 3 (R99). -/
theorem portDownOp_up {m : Mach} {ep : Nat} (h : (epOf m ep).up = true) : portDownOp ep m =
    forAll ((List.range 32).filter fun n => portOf (portFalls ep m) n == ep) (fun m n =>
      modRing m n fun r => { r with halted := true, cause := 3, reads := [] }) (portFalls ep m) :=
  if_neg (by rw [h]; exact Bool.false_ne_true)

/-- Settles O19: each command by the state of its ring, vector or endpoint. -/
theorem interruptsAndEndpoints : Obligations.InterruptsAndEndpoints := by
  intro s hs
  dsimp only
  refine ⟨fun n t0 hn hfirst hsome ht hreach => ?_, fun ep v hep hv => ⟨fun hp => ?_, fun hp => ?_⟩, fun ep hep hdown => ?_,
    fun ep hep hup => ⟨?_, fun cause => ?_⟩, fun ep cause hep hdown => ?_⟩
  · rw [exec_coalesceTimeout hs hn, coalesceOp_due hfirst hsome ht hreach]
  · rw [exec_msixUnmask hs hep hv, unmaskOp, hp, if_pos rfl]
  · rw [exec_msixUnmask hs hep hv, unmaskOp, hp, if_neg Bool.false_ne_true]
  · rw [exec_portDown hs hep, portDownOp_down hdown]
  · rw [exec_portDown hs hep, portDownOp_up hup]
    rfl
  · rw [exec_endpointReset hs hep, endpointResetOp, portDownOp_up hup]
    rfl
  · rw [exec_endpointReset hs hep, endpointResetOp, portDownOp_down hdown]
    rfl

end Sys2Proof.Machine
end

section
/-!
CERTIFICATE. The intake checks of R84 before every effect, and the descriptors NOP, SET_FIELD and COPY (R74, R87, R88, R97, R98).
-/
namespace Sys2Proof.Machine

/-! ### The checks (R84) -/

theorem earlyStatus_eq (m : Mach) (sp : OpSpec) (d : DescIn) : earlyStatus m sp d =
    if headerBad m d = true ∨ dKind d ∉ sp.kinds ∨ sp.bad d = true then 0x04
    else if (sp.admin = true ∧ ringAdmin m d.ring = false) ∨ (sp.code ≠ 0x48 ∧ jobCounts m (dJob m d) = false) then 0x06
    else if sp.addr m d ≠ 0 then sp.addr m d
    else if admitLen m < sp.wcet d then 0x0B else 0 := by
  simp only [earlyStatus, Bool.or_eq_true, Bool.and_eq_true, Bool.not_eq_true', bne_iff_ne, or_assoc, ← Bool.not_eq_true,
    List.contains_iff_mem]

section
variable {sp : OpSpec} {eff : Effect} {d : DescIn} {m : Mach}

theorem descRow_other (h : dOpcode d ≠ sp.code) : descRow sp eff d m = m := if_pos h

theorem descRow_refused (h : dOpcode d = sp.code) (hst : earlyStatus m sp d ≠ 0) :
    descRow sp eff d m = finishDesc d false (earlyStatus m sp d) 0 m :=
  (if_neg (absurd h)).trans (if_pos hst)

theorem descRow_passed (h : dOpcode d = sp.code) (hst : earlyStatus m sp d = 0) :
    descRow sp eff d m = takeEffect sp eff d false m :=
  (if_neg (absurd h)).trans (if_neg (absurd hst))

theorem fieldOp_other (h : dOpcode d ≠ 0x01) : fieldOp d m = m := if_pos h

theorem fieldOp_refused (h : dOpcode d = 0x01) (hst : earlyStatus m specField d ≠ 0) :
    fieldOp d m = finishDesc d false (earlyStatus m specField d) 0 m :=
  (if_neg (absurd h)).trans (if_pos hst)

theorem fieldOp_passed (h : dOpcode d = 0x01) (hst : earlyStatus m specField d = 0) : fieldOp d m =
    finishDesc d false (if (judgeSettings m [sfReg d] (writeField d m)).2.contains (sfReg d) then 0x81 else 0) 0
      (judgeSettings m [sfReg d] (writeField d m)).1 :=
  (if_neg (absurd h)).trans (if_neg (absurd hst))

end

/-- A descriptor row takes descriptors of its opcode alone, and completes those whose checks fail before any effect. -/
abbrev ChecksFirst (s : State) (d : DescIn) (c : Instr) (sp : OpSpec) : Prop :=
  (dOpcode d ≠ sp.code → exec c s = .next s) ∧
  (dOpcode d = sp.code → earlyStatus s.m sp d ≠ 0 →
    exec c s = .next ⟨finishDesc d false (earlyStatus s.m sp d) 0 s.m, s.pending⟩)

section
variable {s : State} {d : DescIn} {c : Instr} {sp : OpSpec} {eff : Effect} (hs : Ready s) (hd : d.ring < 32)
include hs hd

theorem checksFirst_of_descRow (hrow : exec c s = actReady (decide (d.ring < 32)) (descRow sp eff d) s) :
    ChecksFirst s d c sp := by
  have hrun := row_runs hs (decide_eq_true hd) hrow
  exact ⟨fun h => by rw [hrun, descRow_other h], fun h hst => by rw [hrun, descRow_refused h hst]⟩

/-- A row for one ACTION or KIND of its opcode. -/
theorem checksFirst_of_action {ok : Bool} (hok : dOpcode d = sp.code → ok = true)
    (hrow : exec c s = actReady (decide (d.ring < 32)) (onlyIf ok (descRow sp eff d)) s) : ChecksFirst s d c sp := by
  have hrun := row_runs hs (decide_eq_true hd) hrow
  refine ⟨fun h => ?_, fun h hst => ?_⟩
  · cases ok
    · rw [hrun, onlyIf_false]
    · rw [hrun, onlyIf_true, descRow_other h]
  · rw [hrun, hok h, onlyIf_true, descRow_refused h hst]

theorem exec_setField : exec (.setField d) s = .next ⟨fieldOp d s.m, s.pending⟩ := row_runs hs (decide_eq_true hd) rfl

theorem checksFirst_setField : ChecksFirst s d (.setField d) specField :=
  ⟨fun h => by rw [exec_setField hs hd, fieldOp_other h], fun h hst => by rw [exec_setField hs hd, fieldOp_refused h hst]⟩

end

theorem okAction_of_verBuild {d : DescIn} {k : Nat} (hk : vbAction d = k) (h : dOpcode d = 0x18) : okAction d k = true := by
  rw [okAction, h, hk, beq_self_eq_true, beq_self_eq_true, Bool.and_self]

/-- Settles O20: every row of a descriptor goes through the same checks; a row for one ACTION or KIND does so for its own. -/
theorem descriptorsAreCheckedBeforeTheyAct : Obligations.DescriptorsAreCheckedBeforeTheyAct := by
  refine ⟨earlyStatus_eq, fun s d hs hd => ?_⟩
  have hall {c : Instr} {sp : OpSpec} {eff : Effect} := checksFirst_of_descRow (c := c) (sp := sp) (eff := eff) hs hd
  have hone {c : Instr} {sp : OpSpec} {eff : Effect} {ok : Bool} (hok : dOpcode d = sp.code → ok = true) :=
    checksFirst_of_action (c := c) (eff := eff) hs hd hok
  refine ⟨hall rfl, checksFirst_setField hs hd, hall rfl, hall rfl, hall rfl, hall rfl, hall rfl, hall rfl, hall rfl, hall rfl,
    hall rfl, hall rfl, hall rfl, hall rfl, hall rfl, fun hk => hone (okAction_of_verBuild hk) rfl,
    fun hk => hone (okAction_of_verBuild hk) rfl, fun hk => hone (okAction_of_verBuild hk) rfl,
    fun hk => hone (fun _ => bne_iff_ne.2 hk) rfl, fun hk => hone (fun _ => beq_iff_eq.2 hk) rfl,
    fun hk => hone (fun _ => beq_iff_eq.2 hk) rfl, fun hk => hone (fun _ => beq_iff_eq.2 hk) rfl,
    fun hk => hone (fun _ => beq_iff_eq.2 hk) rfl, fun hk => hone (fun _ => beq_iff_eq.2 hk) rfl,
    fun hk => hone (fun _ => beq_iff_eq.2 hk) rfl⟩

/-! ### Effects -/

theorem takeEffect_done {sp : OpSpec} {eff : Effect} {d : DescIn} {m m' : Mach} {st det : Nat} (himg : sp.image d = false)
    (heff : eff d m = (some (st, det), m')) : takeEffect sp eff d false m = finishDesc d false st det m' := by
  simp only [takeEffect, himg, heff, Bool.false_and, Bool.false_eq_true, if_false]

/-- An effect that goes on leaves its descriptor among the open ones. -/
theorem takeEffect_open {sp : OpSpec} {eff : Effect} {d : DescIn} {m m' : Mach} (himg : sp.image d = false)
    (heff : eff d m = (none, m')) : takeEffect sp eff d false m = sp.after d (keepDesc d m') := by
  simp only [takeEffect, himg, heff, Bool.false_and, Bool.false_eq_true, if_false]

/-- Two descriptors of different rings or indices are not the same. -/
theorem sameName_eq_false {a b : Nat} {i j : W32} (h : a ≠ b ∨ i ≠ j) : (a == b && i == j) = false := by
  obtain h | h := h
  · rw [beq_eq_false_iff_ne.2 h, Bool.false_and]
  · rw [beq_eq_false_iff_ne.2 h, Bool.and_false]

theorem keepDesc_new {m : Mach} {d : DescIn} (h : ∀ x ∈ m.descs, x.d.ring ≠ d.ring ∨ x.d.index ≠ d.index) :
    keepDesc d m = { m with descs := m.descs ++ [⟨d, dJob m d, ringAdmin m d.ring, m.tick.tickNo, .work, false⟩] } :=
  if_neg (ne_true_of_eq_false (List.any_eq_false.2 fun x hx => ne_true_of_eq_false (sameName_eq_false (h x hx))))

theorem floatedOf_new {m : Mach} {d : DescIn} (h : ∀ x ∈ m.descs, x.d.ring ≠ d.ring ∨ x.d.index ≠ d.index) :
    floatedOf m d = false := by
  have hnone : (m.descs.find? fun x => x.d.ring == d.ring && x.d.index == d.index) = none :=
    List.find?_eq_none.2 fun x hx => ne_true_of_eq_false (sameName_eq_false (h x hx))
  rw [floatedOf, hnone]
  rfl

/-- Host reads are issued and nothing else changes. -/
theorem readHost_eq (ep addr len : Nat) (relaxed : Bool) (m : Mach) :
    readHost ep addr len relaxed m = { m with out := (readHost ep addr len relaxed m).out } := by
  have hframe : { readHost ep addr len relaxed m with out := m.out } = m :=
    foldl_keeps (fun x : Mach => ({ x with out := m.out } : Mach))
      (g := fun x i => emit x (.hostRead ep (addr + 4096 * i) (min 4096 (len - 4096 * i)) relaxed)) (fun _ _ => rfl) _ m
  exact congrArg (fun x : Mach => { x with out := (readHost ep addr len relaxed m).out }) hframe

/-! ### Waiting descriptors -/

theorem pumpAll_nothing {m : Mach} (h : m.descs = []) : pumpAll m = m := by
  have hready : nextReady m = none := by rw [nextReady, h]; rfl
  rw [pumpAll, h]
  exact (pumpDescs.eq_2 m 1).trans (by rw [hready])

/-- The only open descriptor completes: nothing waits behind it. -/
theorem pumpAll_completeAt {m : Mach} {quiet : Bool} {c : CplRec}
    (h : ∀ x ∈ m.descs, x.d.ring = c.ring ∧ x.d.index = c.index) : pumpAll (completeAt m quiet c) = completeAt m quiet c := by
  have hnone : (m.descs.filter fun x => !(x.d.ring == c.ring && x.d.index == c.index)) = [] :=
    List.filter_eq_nil_iff.2 fun x hx => by simp [h x hx]
  obtain ⟨hdescs, -⟩ := (hostOnly_completeAt m quiet c).keeps
  refine pumpAll_nothing (hdescs.trans ?_)
  exact (congrArg (List.map _) hnone).trans List.map_nil

/-! ### SET_FIELD (R88) -/

theorem getLsbD_fieldWord (old : Word) (d : DescIn) {i : Nat} (h : i < 64) : (fieldWord old d).getLsbD i =
    if (sfMask d &&& maskOf (sfReg d)).testBit i then (sfValue d).testBit i else old.getLsbD i := by
  simp only [fieldWord, BitVec.getLsbD_or, BitVec.getLsbD_and, BitVec.getLsbD_not, word, BitVec.getLsbD_ofNat, decide_eq_true h,
    Bool.true_and]
  cases (sfMask d &&& maskOf (sfReg d)).testBit i <;> simp

/-- Settings in range, of no group that is refused, stand as they were written. -/
theorem judgeSettings_accepted {m : Mach} {changed : List Nat} (m0 : Mach)
    (hrange : ∀ o ∈ changed, ∀ r, regFind o = some r → r.ok (regN m o) = true)
    (hgroups : ∀ g ∈ judgeGroups m changed, g.2.1 = false) : judgeSettings m0 changed m = (m, []) := by
  have hrefused : (judgeGroups m changed).filter (·.2.1) = [] :=
    List.filter_eq_nil_iff.2 fun g hg => ne_true_of_eq_false (hgroups g hg)
  have halone : (changed.eraseDups.filter fun o => !((judgeGroups m changed).flatMap (·.1)).contains o
      && (match regFind o with | some r => !r.ok (regN m o) | none => false)) = [] := by
    refine List.filter_eq_nil_iff.2 fun o ho => ?_
    split
    · next r hr => rw [hrange o (List.mem_eraseDups.1 ho) r hr, Bool.not_true, Bool.and_false]; exact Bool.false_ne_true
    · rw [Bool.and_false]; exact Bool.false_ne_true
  unfold judgeSettings
  dsimp only
  rw [hrefused]
  exact (congrArg (fun l => (l.foldl (fun x o => configEvent (putBack m0 [o] x) o) m, l)) halone)

theorem writeField_free {m : Mach} {d : DescIn} (h : rekeyHolds m (sfReg d) = false) :
    writeField d m = regSet m (sfReg d) (fieldWord (regGet m (sfReg d)) d) :=
  if_neg (ne_true_of_eq_false h)

/-! ### COPY (R97, R98) -/

theorem copyDoneOp_unnamed {m : Mach} {ring : Nat} {index : W32} (h : ∀ c ∈ m.copies, c.ring ≠ ring ∨ c.index ≠ index)
    (r : HostData) : copyDoneOp ring index r m = m := by
  have hnone : (m.copies.find? fun c => c.ring == ring && c.index == index) = none :=
    List.find?_eq_none.2 fun c hc => ne_true_of_eq_false (sameName_eq_false (h c hc))
  rw [copyDoneOp, hnone]

/-- The bytes of a transfer that kept its windows are sent to the host or written here: the transfer's status and the module. -/
def copyBytes (c : CopyRun) (bs : List Byte) (m : Mach) : Nat × Mach :=
  let l := latOf c.lattice.toNat
  if c.toHost then
    let x := readSpace m l c.len
    (if x.2.1 then 0x0F else 0, emit x.2.2 (.hostWrite c.ep c.host x.1 true))
  else (0, if bs.isEmpty then m else (perform ⟨c.lattice, 0x33, 0, bs.length, bs, 0⟩ false m).2.2)

/-- A transfer that kept its windows and moved all its bytes completes with its length. -/
theorem copyDoneOp_kept {m : Mach} {c : CopyRun} {bs : List Byte} (hc : m.copies = [c]) (hlen : bs.length = c.len)
    (hkept : c.lost = none) : copyDoneOp c.ring c.index (.bytes bs) m =
      let y := copyBytes c bs { m with copies := [] }
      completeAt y.2 c.quiet ⟨c.ring, c.index, c.tag, if y.1 = 0 ∧ c.floated then 1 else y.1, 2, c.job, c.len, 0,
        (stamp y.2).1, (stamp y.2).2⟩ := by
  have hfind : ([c].find? fun y => y.ring == c.ring && y.index == c.index) = some c := by simp
  have herase : [c].erase c = [] := by simp
  simp only [copyDoneOp, copyBytes, hc, hfind, herase, hkept, ← hlen, List.take_length, Nat.lt_irrefl, decide_false,
    Option.isSome_none, Bool.or_self, Bool.not_false, Bool.true_or, Bool.false_eq_true, if_false, if_true, Nat.min_self, true_and]

theorem readSpace_memory {m : Mach} {l : Lat} {n : Nat} (hsp : l.space = 0 ∨ l.space = 1)
    (hue : ueHit m l.facet l.space l.off n = []) : readSpace m l n = (readMem m l.facet l.space l.off n, false, m) := by
  have hreal : realSpace l.space = l.space := if_neg (by omega)
  rw [readSpace, if_neg (by omega), hreal, readChecked, hue]
  rfl

theorem copyBytes_toHost {m : Mach} {c : CopyRun} {l : Lat} (bs : List Byte) (hl : latOf c.lattice.toNat = l) (hto : c.toHost = true)
    (hsp : l.space = 0 ∨ l.space = 1) (hue : ueHit m l.facet l.space l.off c.len = []) :
    copyBytes c bs m = (0, emit m (.hostWrite c.ep c.host (readMem m l.facet l.space l.off c.len) true)) := by
  simp only [copyBytes, hl, hto, readSpace_memory hsp hue, Bool.false_eq_true, if_false, if_true]

theorem copyBytes_toModule {m : Mach} {c : CopyRun} {l : Lat} {bs : List Byte} (hl : latOf c.lattice.toNat = l)
    (hto : c.toHost = false) (hsp : l.space = 0 ∨ l.space = 1) (hbs : bs ≠ []) (hthere : targetMissing m l false = false)
    (hue : uePart m l.facet l.space l.off bs.length = []) :
    copyBytes c bs m = (0, writeMem m l.facet l.space l.off bs) := by
  have hwrite : (perform ⟨c.lattice, 0x33, 0, bs.length, bs, 0⟩ false m).2.2 = writeChecked m l.facet l.space l.off bs := by
    have hspace : ¬l.space = 3 := by omega
    simp only [perform, hl, hthere, hspace, Bool.false_eq_true, if_false]
    rfl
  have hput : writeChecked m l.facet l.space l.off bs = writeMem m l.facet l.space l.off bs := by
    rw [writeChecked, hue]
    rfl
  simp only [copyBytes, hto, List.isEmpty_eq_false_iff.2 hbs, hwrite, hput, Bool.false_eq_true, if_false]

/-! ### The commands -/

section
variable {s : State} (hs : Ready s)
include hs

theorem exec_copyDone {ring : Nat} (h : ring < 32) (index : W32) (r : HostData) :
    exec (.copyDone ring index r) s = .next ⟨pumpAll (copyDoneOp ring index r s.m), s.pending⟩ :=
  row_runs (f := fun m => pumpAll (copyDoneOp ring index r m)) hs (decide_eq_true h) rfl

/-- The end of the only open descriptor's transfer, by the module that its bytes leave. -/
theorem exec_copyDone_kept {c : CopyRun} {bs : List Byte} {y : Mach} (hc : s.m.copies = [c]) (hring : c.ring < 32)
    (honly : ∀ x ∈ s.m.descs, x.d.ring = c.ring ∧ x.d.index = c.index) (hlen : bs.length = c.len) (hkept : c.lost = none)
    (hbytes : copyBytes c bs { s.m with copies := [] } = (0, y)) (hdescs : y.descs = s.m.descs) :
    exec (.copyDone c.ring c.index (.bytes bs)) s = .next ⟨completeAt y c.quiet
      ⟨c.ring, c.index, c.tag, if c.floated then 1 else 0, 2, c.job, c.len, 0, (stamp y).1, (stamp y).2⟩, s.pending⟩ := by
  rw [exec_copyDone hs hring, copyDoneOp_kept hc hlen hkept, hbytes]
  dsimp only
  rw [pumpAll_completeAt (by rw [hdescs]; exact honly)]
  simp only [true_and]

variable {d : DescIn} (hd : d.ring < 32)
include hd

theorem exec_nop_passed (hop : dOpcode d = 0) (hst : earlyStatus s.m specNop d = 0) :
    exec (.nop d) s = .next ⟨finishDesc d false 0 0 s.m, s.pending⟩ := by
  have hrun : exec (.nop d) s = .next ⟨descRow specNop effNop d s.m, s.pending⟩ := row_runs hs (decide_eq_true hd) rfl
  rw [hrun, descRow_passed hop hst, takeEffect_done rfl rfl]

theorem exec_copy_passed (hop : dOpcode d = 2) (hst : earlyStatus s.m specCopy d = 0) :
    exec (.copy d) s = .next ⟨keepDesc d (effCopy d s.m).2, s.pending⟩ := by
  have hrun : exec (.copy d) s = .next ⟨descRow specCopy effCopy d s.m, s.pending⟩ := row_runs hs (decide_eq_true hd) rfl
  rw [hrun, descRow_passed hop hst, takeEffect_open (m' := (effCopy d s.m).2) rfl rfl]
  rfl

end

/-- A COPY of a new descriptor notes what its body asks for, reads the host if it goes to the module, and stays open. -/
theorem keepDesc_effCopy {m : Mach} {d : DescIn} (hnew : ∀ x ∈ m.descs, x.d.ring ≠ d.ring ∨ x.d.index ≠ d.index) :
    keepDesc d (effCopy d m).2 =
      let x := if cpToHost d then m else readHost (portOf m d.ring) (cpHost d) (cpLen d) true m
      { x with
        copies := m.copies ++ [⟨d.ring, d.index, dTag d, dJob m d, dQuiet d, false, cpToHost d, cpLen d, none, word (cpLat d),
          cpHost d, portOf m d.ring⟩]
        descs := m.descs ++ [⟨d, dJob m d, ringAdmin m d.ring, m.tick.tickNo, .work, false⟩] } := by
  have hfloat := floatedOf_new hnew
  unfold effCopy
  dsimp only
  rw [hfloat]
  cases cpToHost d
  · rw [if_neg Bool.false_ne_true, readHost_eq]
    exact keepDesc_new hnew
  · exact keepDesc_new hnew

/-- Settles O21: each descriptor by its effect; the end of a COPY by what becomes of its bytes. -/
theorem plainDescriptorsComplete : Obligations.PlainDescriptorsComplete := by
  refine ⟨fun old d i hi => getLsbD_fieldWord old d hi, fun s d hs hd => ?_⟩
  dsimp only
  refine ⟨fun hop hst => exec_nop_passed hs hd hop hst, fun hop hst hfree hrange hgroups => ?_, fun hop hst hnew => ?_,
    fun c r hc hring hnone hother => ?_, fun c bs hc hring honly hlen hkept => ⟨fun hto hsp hue => ?_,
    fun hto hsp hbs hthere hue => ?_⟩⟩
  · have hjudge := judgeSettings_accepted s.m (changed := [sfReg d]) (by simpa using hrange) hgroups
    rw [exec_setField hs hd, fieldOp_passed hop hst, hjudge, writeField_free hfree]
    rfl
  · rw [exec_copy_passed hs hd hop hst, keepDesc_effCopy hnew]
  · rw [exec_copyDone hs hd, copyDoneOp_unnamed (by simpa [hc] using hother), pumpAll_nothing hnone]
  · have hbytes := copyBytes_toHost (m := { s.m with copies := [] }) bs rfl hto hsp hue
    exact exec_copyDone_kept hs hc hring honly hlen hkept hbytes rfl
  · have hbytes := copyBytes_toModule (m := { s.m with copies := [] }) rfl hto hsp hbs hthere (hlen ▸ hue)
    exact exec_copyDone_kept hs hc hring honly hlen hkept hbytes rfl

end Sys2Proof.Machine
end

section
/-!
CERTIFICATE. MODEL_LOAD and its stream (R98, R169–R175, Tables 5.10 to 5.12): how a load begins, takes bytes, is discarded and ends.
-/
namespace Sys2Proof.Machine

/-! ### Held bytes of the links -/

section
variable (m : Mach) {l : Nat}

theorem linkOf_modLink_keeps {α : Type} (P : Link → α) {k : Nat} {g : Link → Link} (hg : P (g (linkOf m k)) = P (linkOf m k)) :
    P (linkOf (modLink m k g) l) = P (linkOf m l) := getD_modify_keeps P hg

theorem linkOf_modLink_other {k : Nat} (g : Link → Link) (h : k ≠ l) : linkOf (modLink m k g) l = linkOf m l :=
  getD_modify_other _ g _ h

end

theorem txStep_loadHeld (w : List Nat) (i : Nat) (x : Link) : (txStep w i x).1.loadHeld = x.loadHeld := by
  unfold txStep
  split
  · rfl
  · split <;> rfl

theorem txSlots_loadHeld (w : List Nat) (x : Link) : (txSlots w x).1.loadHeld = x.loadHeld :=
  foldl_keeps (fun a : Link × List (Option SlotOut) × List Output => a.1.loadHeld) (fun a i => txStep_loadHeld w i a.1) _ _

theorem txFrame_loadHeld (w : List Nat) (l now : Nat) (lanes : List Nat) (x : Link) :
    (txFrame w l now lanes x).1.loadHeld = x.loadHeld := by
  unfold txFrame
  split
  · rfl
  · exact txSlots_loadHeld w x

theorem txRun_loadHeld (w : List Nat) (l now : Nat) (lanes : List Nat) (n : Nat) (x : Link) :
    (txRun w l now lanes n x).1.loadHeld = x.loadHeld := by
  induction n generalizing x with
  | zero => rfl
  | succ n ih =>
    unfold txRun
    split
    · rfl
    · exact (ih _).trans (txFrame_loadHeld ..)

theorem emitSent_links (m : Mach) (o : Output) : (emitSent m o).links = m.links := by
  have hframe := congrArg Mach.links (emitSent_frame m o)
  exact hframe

/-- What a link sends leaves the LOAD bytes that are held. -/
theorem pumpLink_loadHeld (k l : Nat) (m : Mach) : (linkOf (pumpLink k m) l).loadHeld = (linkOf m l).loadHeld := by
  unfold pumpLink
  dsimp only
  split
  · rfl
  · rw [linkOf, foldl_keeps Mach.links emitSent_links]
    exact linkOf_modLink_keeps m Link.loadHeld (txRun_loadHeld ..)

theorem freeRx_loadHeld (k l vc n : Nat) (m : Mach) : (linkOf (freeRx k vc n m) l).loadHeld = (linkOf m l).loadHeld :=
  (pumpLink_loadHeld k l _).trans (linkOf_modLink_keeps m Link.loadHeld rfl)

theorem freeRx_loads (k vc n : Nat) (m : Mach) : (freeRx k vc n m).loads = m.loads := by
  have hframe := congrArg Mach.loads (pumpLink_frame k (oweRx k vc n m))
  exact hframe

/-! ### A discarded stream (R174) -/

/-- A link holds no LOAD bytes any more, and their place in its buffer is free. -/
def dropHeld (m : Mach) (l : Nat) : Mach :=
  freeRx l 3 (((linkOf m l).loadHeld.map fun h => flitsOf h.2.length).foldl (· + ·) 0)
    (modLink m l fun x => { x with loadHeld := [], loadSince := none })

theorem dropHeld_same (m : Mach) (l : Nat) : (linkOf (dropHeld m l) l).loadHeld = [] := by
  refine (freeRx_loadHeld ..).trans ((congrArg Link.loadHeld (getD_modify_same ..)).trans ?_)
  split <;> rfl

theorem dropHeld_other (m : Mach) {k l : Nat} (h : k ≠ l) : (linkOf (dropHeld m k) l).loadHeld = (linkOf m l).loadHeld :=
  (freeRx_loadHeld ..).trans (congrArg Link.loadHeld (linkOf_modLink_other m _ h))

theorem dropHeld_loads (m : Mach) (l : Nat) : (dropHeld m l).loads = m.loads := freeRx_loads ..

/-- Of the links that are emptied in turn none holds bytes at the end. -/
theorem forAll_dropHeld {l : Nat} (ls : List Nat) {m : Mach} (h : l ∈ ls ∨ (linkOf m l).loadHeld = []) :
    (linkOf (forAll ls dropHeld m) l).loadHeld = [] := by
  induction ls generalizing m with
  | nil => exact h.resolve_left List.not_mem_nil
  | cons k t ih =>
    refine ih (m := dropHeld m k) ?_
    by_cases hk : k = l
    · exact .inr (hk ▸ dropHeld_same m k)
    · rw [dropHeld_other m hk]
      simpa [Ne.symm hk] using h

/-- The stream that is discarded: what the links held of it is parsed for its END. -/
def discardedRun (m : Mach) : LoadRun :=
  let held := m.links.flatMap (·.loadHeld)
  { ring := 32, index := 0, tag := 0, quiet := true, job := 0, fromLink := true, len := 0
    received := (held.map (·.1)).foldl min ((held.map (·.1)).headD 0), buf := [], segs := 0, bad := 0, err := false, ended := false
    lastEdge := m.edges, targets := [], discard := true, ahead := held }

theorem discardHeld_eq (m : Mach) : discardHeld m =
    { forAll (List.range 36) dropHeld m with loads := (forAll (List.range 36) dropHeld m).loads ++ [discardedRun m] } := rfl

theorem discardHeld_loads (m : Mach) : (discardHeld m).loads = m.loads ++ [discardedRun m] := by
  have hkept : (forAll (List.range 36) dropHeld m).loads = m.loads := forAll_keeps Mach.loads dropHeld_loads _ m
  rw [discardHeld_eq]
  dsimp only
  rw [hkept]

theorem discardHeld_loadHeld (m : Mach) {l : Nat} (h : l < 36) : (linkOf (discardHeld m) l).loadHeld = [] := by
  have hlinks (x : Mach) (rs : List LoadRun) : linkOf { x with loads := rs } l = linkOf x l := rfl
  rw [discardHeld_eq, hlinks]
  exact forAll_dropHeld (List.range 36) (.inl (List.mem_range.2 h))

theorem discarded_none {m : Mach} (h : ∀ r ∈ m.loads, r.discard = false) : discarded m = none := by
  refine List.find?_eq_none.2 fun i _ => ?_
  cases hi : m.loads[i]? with
  | none => simp
  | some r => simp [h r (List.mem_of_getElem? hi)]

theorem loadOrphanOp_none {m : Mach} {link : Nat} (h : (linkOf m link).loadSince = none) : loadOrphanOp link m = m := by
  rw [loadOrphanOp, h]

theorem loadOrphanOp_expired {m : Mach} {link t : Nat} (h : (linkOf m link).loadSince = some t)
    (hexp : expired m t (regN m offLoadTimeout) = true) (hno : m.loads = []) : loadOrphanOp link m =
      drainAhead (heldCount m + 1) (discardHeld (raise m loadOrphanEv (srcLink link) none
        [link, ((linkOf m link).loadHeld.map fun h => h.2.length).foldl (· + ·) 0])) := by
  rw [loadOrphanOp, h]
  exact if_neg (by rw [hexp, hno]; exact Bool.false_ne_true)

/-! ### The only load of a module -/

section
variable {m : Mach} {r : LoadRun} (h : m.loads = [r])
include h

/-- A search among the loads finds the only one. -/
theorem find_only_load {p : LoadRun → Bool} (hp : p r = true) :
    ((List.range m.loads.length).find? fun i => ((m.loads[i]?).map p).getD false) = some 0 := by
  simp [h, hp]

theorem endLoad_only (st det : Nat) : endLoad 0 st det m = completeAt { m with loads := [] } r.quiet
    ⟨r.ring, r.index, r.tag, st, 0x1A, r.job, det, 0, (stamp m).1, (stamp m).2⟩ := by
  simp only [endLoad, h]
  rfl

/-- Bytes from the host join the load that reads from it; none stand for a read that failed (R98). -/
theorem loadOp_host (hfrom : r.fromLink = false) (hgo : r.ended = false) (hgood : r.err = false) (ofs : Nat) (data : List Byte) :
    loadOp 36 ofs data m =
      if data.isEmpty then endLoad 0 0x0C r.received m else feedStream 0 data (forwardLoad ofs data m) := by
  have hfind := find_only_load h (p := fun r => !r.fromLink && !r.ended && !r.err) (by simp [hfrom, hgo, hgood])
  rw [loadOp, if_pos rfl, hfind]
  simp only [h]
  rfl

theorem modelLoadDoneOp_only (hkeep : r.discard = false) : modelLoadDoneOp r.ring r.index m =
    if r.err || (!r.ended && decide (r.len ≤ r.received)) then endLoad 0 0x4F r.received m
    else if !r.ended || forwarding m then m
    else if 0 < r.bad then endLoad 0 0x4E r.bad m
    else endLoad 0 0 0 m := by
  have hfind := find_only_load h (p := fun x => !x.discard && x.ring == r.ring && x.index == r.index) (by simp [hkeep])
  rw [modelLoadDoneOp, hfind]
  simp only [h]
  rfl

end

/-! ### Bytes from a link -/

section
variable {m : Mach} {link : Nat} (hl : link < 36) (ofs : Nat) (data : List Byte)
include hl

theorem loadOp_stray (hup : tb (regN m offLoadUp) link = false) : loadOp link ofs data m =
    raise (freeRx link 3 (flitsOf data.length) m) loadOrphanEv (srcLink link) none [link, data.length] := by
  rw [loadOp, if_neg (by omega), hup]
  rfl

theorem loadOp_uplink (hup : tb (regN m offLoadUp) link = true) (hkeep : ∀ r ∈ m.loads, r.discard = false) :
    loadOp link ofs data m =
      let x := modLink m link fun x => { x with
        loadHeld := x.loadHeld ++ [(ofs, data)], loadSince := some (x.loadSince.getD m.edges) }
      drainHeld (heldCount x + 1) x := by
  rw [loadOp, if_neg (by omega), hup, discarded_none hkeep]
  rfl

end

/-! ### The commands -/

section
variable {s : State} (hs : Ready s)
include hs

theorem exec_load {link : Nat} (h : link ≤ 36) (ofs : Nat) (data : List Byte) :
    exec (.load link ofs data) s = .next ⟨pumpAll (loadOp link ofs data (endOverdue s.m)), s.pending⟩ :=
  row_runs (f := fun m => pumpAll (loadOp link ofs data (endOverdue m))) hs (decide_eq_true h) rfl

theorem exec_loadOrphan {link : Nat} (h : link < 36) : exec (.loadOrphan link) s = .next ⟨loadOrphanOp link s.m, s.pending⟩ :=
  row_runs hs (decide_eq_true h) rfl

theorem exec_modelLoadDone {ring : Nat} (h : ring < 32) (index : W32) :
    exec (.modelLoadDone ring index) s = .next ⟨pumpAll (modelLoadDoneOp ring index s.m), s.pending⟩ :=
  row_runs (f := fun m => pumpAll (modelLoadDoneOp ring index m)) hs (decide_eq_true h) rfl

/-- A MODEL_LOAD that passes its checks stays open (R169). -/
theorem exec_modelLoad_passed {d : DescIn} (hd : d.ring < 32) (hop : dOpcode d = 0x1A) (hst : earlyStatus s.m specLoad d = 0)
    {m' : Mach} (heff : effLoad d s.m = (none, m')) : exec (.modelLoad d) s = .next ⟨keepDesc d m', s.pending⟩ := by
  have hrun : exec (.modelLoad d) s = .next ⟨descRow specLoad effLoad d s.m, s.pending⟩ := row_runs hs (decide_eq_true hd) rfl
  rw [hrun, descRow_passed hop hst, takeEffect_open rfl heff]
  rfl

/-- The end of the only load, by what its stream was found to be (R175). -/
theorem exec_modelLoadDone_ends {r : LoadRun} (h : s.m.loads = [r]) (hring : r.ring < 32) {st det : Nat}
    (hop : modelLoadDoneOp r.ring r.index s.m = endLoad 0 st det s.m) :
    exec (.modelLoadDone r.ring r.index) s = .next ⟨pumpAll (completeAt { s.m with loads := [] } r.quiet
      ⟨r.ring, r.index, r.tag, st, 0x1A, r.job, det, 0, (stamp s.m).1, (stamp s.m).2⟩), s.pending⟩ := by
  rw [exec_modelLoadDone hs hring, hop, endLoad_only h]

end

/-- Settles O25: a load by where its bytes come from, its end by what its stream was. -/
theorem loadStreamsAreReceived : Obligations.LoadStreamsAreReceived := by
  refine ⟨fun s d hs hd hop hst => ⟨fun hfrom => ?_, fun hfrom => ?_⟩, fun s r ofs data hs => ?_,
    fun s link ofs data hs hl => ⟨⟨fun hup => ?_, fun hup hkeep => ?_⟩, fun t ht hexp hno => ?_,
      fun m => ⟨?_, ?_, ?_⟩, fun ht => ?_⟩,
    fun s r hs h hkeep hring _ => ⟨fun herr => ?_, fun herr hgo hlen => ?_, fun herr hend hsent hbad => ?_,
      fun herr hend hsent hbad => ?_⟩⟩
  · exact exec_modelLoad_passed hs hd hop hst (if_neg (ne_true_of_eq_false hfrom))
  · exact exec_modelLoad_passed hs hd hop hst (if_pos hfrom)
  · intro m h hfrom hgo hgood
    refine ⟨fun hdata => ?_, ?_⟩
    · rw [exec_load hs (Nat.le_refl 36), loadOp_host (m := endOverdue s.m) h hfrom hgo hgood, if_neg (by simpa using hdata)]
    · rw [exec_load hs (Nat.le_refl 36), loadOp_host (m := endOverdue s.m) h hfrom hgo hgood, if_pos List.isEmpty_nil,
        endLoad_only (m := endOverdue s.m) h]
  · rw [exec_load hs (by omega), loadOp_stray hl ofs data hup]
  · rw [exec_load hs (by omega), loadOp_uplink hl ofs data hup hkeep]
  · rw [exec_loadOrphan hs hl, loadOrphanOp_expired ht hexp hno]
  · rw [discardHeld_loads, List.length_append, List.length_singleton]
  · rw [discardHeld_loads, List.getLast?_concat]
    rintro r ⟨⟩
    exact ⟨rfl, rfl⟩
  · exact fun l hl => discardHeld_loadHeld m hl
  · rw [exec_loadOrphan hs hl, loadOrphanOp_none ht]
  · exact exec_modelLoadDone_ends hs h hring ((modelLoadDoneOp_only h hkeep).trans (by simp [herr]))
  · exact exec_modelLoadDone_ends hs h hring ((modelLoadDoneOp_only h hkeep).trans (by simp [herr, hgo, hlen]))
  · exact exec_modelLoadDone_ends hs h hring ((modelLoadDoneOp_only h hkeep).trans (by simp [herr, hend, hsent, hbad]))
  · exact exec_modelLoadDone_ends hs h hring ((modelLoadDoneOp_only h hkeep).trans (by simp [herr, hend, hsent, hbad]))

end Sys2Proof.Machine
end

section
/-!
CERTIFICATE. Launch groups (R267–R269, R272, R406): the record that opens one, the start of its strands and its end.
-/
namespace Sys2Proof.Machine
-- As in the tests: theorems elaborated side by side would take a thread each.
set_option Elab.async false

/-! ### Records that take a turn (R406) -/

theorem engineOf_strandLaunch {m : Mach} {f c j : Nat} {r : Rec} (h : RecordAt m f c r j 3) : engineOf m f r = some 5 := by
  obtain ⟨-, hop, -⟩ := h
  simp only [engineOf, hop]

section
variable {m : Mach} {f c j e : Nat} {r : Rec} {k : Rec → Nat → Mach → Mach} (he : engineOf m f r = some e)
include he

/-- A record whose turn on its engine is another job's waits. -/
theorem recordTurn_other (ht : hasTurn m f e j (readyJobs m f e) = false) : recordTurn f c k r j m = m := by
  simp only [recordTurn, inTurn, he, ht, Bool.not_false, if_true]

/-- A record that moved the record pointer on took its job's turn. -/
theorem recordTurn_moved {i : Nat} {v w : ScWait} (ht : hasTurn m f e j (readyJobs m f e) = true)
    (hi : recordPos m f c = some (i, v)) (hmoved : recordPos (k r j m) f c = some (i + 1, w)) :
    recordTurn f c k r j m = noteTurn f e j (k r j m) := by
  simp only [recordTurn, inTurn, he, ht, Bool.not_true, Bool.false_eq_true, if_false, recIdx_of_recordPos hi,
    recIdx_of_recordPos hmoved]
  exact if_neg (by simp)

end

/-- Taking a turn leaves every slot where it stands. -/
@[simp] theorem recordPos_noteTurn (m : Mach) (g e j f c : Nat) : recordPos (noteTurn g e j m) f c = recordPos m f c :=
  recordPos_modFacet m

/-! ### STRAND_LAUNCH (R267, R268, R272) -/

section
variable {m : Mach} {f c : Nat} {r : Rec} (j : Nat)

theorem strandLaunchOp_missing (h : ((facetOf m f).strandProgs.find? fun p => p.1 == rb r 31 16) = none) :
    strandLaunchOp f c r j m = giveWord f c (recTag r) 0 0x62 3
      (if (facetOf m f).scs.any fun y => y.missing.contains (rb r 31 16) then stepRec f c 0 m
        else raise (modSc (stepRec f c 0 m) f c fun y => { y with missing := rb r 31 16 :: y.missing }) progMissing
          (srcFacet f 4) (some j) [j, f, c, rb r 31 16]) := by
  simp only [strandLaunchOp, h]

/-- The group that a launch record opens. -/
def openedGroup (m : Mach) (f c : Nat) (r : Rec) (j : Nat) (image : List Rec) : Group :=
  { gid := (facetOf m f).nextGroup, sc := c, job := j, cmd := r, prog := strandWords image, started := 0, ended := 0, flags := 0,
    fault := none, nFault := 0, asyncDone := false, touched := [] }

theorem strandLaunchOp_installed {p : Nat × List Rec}
    (h : ((facetOf m f).strandProgs.find? fun p => p.1 == rb r 31 16) = some p) :
    strandLaunchOp f c r j m = stepRec f c 1 (modFacet m f fun x =>
      { x with groups := x.groups ++ [openedGroup m f c r j p.2], nextGroup := x.nextGroup + 1 }) := by
  simp only [strandLaunchOp, h, openedGroup]

/-- A launch record moves the record pointer on, whether its program is installed or not. -/
theorem recordPos_strandLaunchOp {i : Nat} (hi : recordPos m f c = some (i, .none)) :
    recordPos (strandLaunchOp f c r j m) f c = some (i + 1, .none) := by
  have hstep (n : Nat) {m' : Mach} (h : recordPos m' f c = some (i, .none)) :
      recordPos (stepRec f c n m') f c = some (i + 1, .none) := by rw [recordPos_stepRec, h, Option.map_some]
  cases hp : (facetOf m f).strandProgs.find? fun p => p.1 == rb r 31 16 with
  | none =>
    rw [strandLaunchOp_missing j hp, recordPos_giveWord]
    split
    · exact hstep 0 hi
    · rw [recordPos_raise, recordPos_modSc, hstep 0 hi]
  | some p =>
    rw [strandLaunchOp_installed j hp]
    exact hstep 1 ((recordPos_modFacet m).trans hi)

end

section
variable {s : State} {f c j : Nat} {r : Rec} (hs : Ready s) (hf : f < 96) (hc : c < 4) (h : RecordAt s.m f c r j 3)
include hs hf hc h

theorem exec_strandLaunch_held (ht : hasTurn s.m f 5 j (readyJobs s.m f 5) = false) : exec (.strandLaunch f c) s = .next s :=
  actReady_takeRecord_held hs hf hc h (recordTurn_other (engineOf_strandLaunch h) ht) rfl

/-- A launch whose turn it is counts the turn and the record. -/
theorem exec_strandLaunch_turn (ht : hasTurn s.m f 5 j (readyJobs s.m f 5) = true) :
    exec (.strandLaunch f c) s = issued s f c r (noteTurn f 5 j (strandLaunchOp f c r j s.m)) := by
  obtain ⟨i, hi⟩ := recordPos_of_recordAt h
  have hturn := recordTurn_moved (engineOf_strandLaunch h) ht hi (recordPos_strandLaunchOp (r := r) j hi)
  exact actReady_takeRecord_moved hs hf hc h hturn fun i hi => (recordPos_noteTurn ..).trans (recordPos_strandLaunchOp j hi)

end

/-! ### STRAND_START (R266, R267) -/

/-- A free strand lies in the pipe that was asked for. -/
theorem freeStrand_pipe {x : Facet} {p i : Nat} (h : freeStrand x p = some i) : i % 8 = p % 8 := by
  obtain ⟨k, -, rfl⟩ := List.mem_map.1 (List.mem_of_find?_eq_some h)
  omega

section
variable {m : Mach} {f gid : Nat} {g : Group} (h : launchGroup m f gid = some g)
include h

theorem strandStartOp_waits (hw : gCount g ≤ g.started ∨ (facetOf m f).failed = true ∨
    freeStrand (facetOf m f) (g.started % 8) = none) : strandStartOp f gid m = m := by
  simp only [strandStartOp, h]
  split
  · rfl
  · next hgo =>
    simp only [Bool.or_eq_true, decide_eq_true_eq, not_or] at hgo
    rw [(hw.resolve_left hgo.1).resolve_left hgo.2]

theorem strandStartOp_starts {i : Nat} (hleft : g.started < gCount g) (hworks : (facetOf m f).failed = false)
    (hfree : freeStrand (facetOf m f) (g.started % 8) = some i) : strandStartOp f gid m =
      let s : Strand :=
        { idx := i, group := gid, member := g.started
          regs := [0, word g.started, word (gCount g), word (gArg g), 0, 0, 0, 0, 0, 0, 0, 0, 0, 0, 0, 0]
          pc := 0, flags := 0, steps := 0, waits := 0, bytes := 0, wait := .run }
      let m2 := modGroup (modFacet m f fun x => { x with strands := x.strands ++ [s] }) f gid fun g =>
        { g with started := g.started + 1 }
      if gAsync g && g.started + 1 == gCount g then
        poke f g.sc (modRun (modGroup m2 f gid fun g => { g with asyncDone := true }) f g.sc fun r =>
          { r with inFlight := r.inFlight - 1 })
      else m2 := by
  simp only [strandStartOp, h, hworks, hfree, Nat.not_le.2 hleft, decide_false, Bool.or_self, Bool.false_eq_true, if_false]
  rfl

/-! ### GROUP_END (R138, R269) -/

theorem groupEndOp_runs (hr : g.started < gCount g ∨ g.ended < g.started) : groupEndOp f gid m = m := by
  simp only [groupEndOp, h, Bool.or_eq_true, decide_eq_true_eq, if_pos hr]

/-- A group that has ended leaves the facet: its tally, its first fault, one entry on each chord that it wrote, and its
completion word follow. -/
def groupResults (m : Mach) (f gid : Nat) (g : Group) : Mach :=
  let m1 := modFacet m f fun x => { x with groups := x.groups.filter fun y => y.gid != gid }
  let m2 := if gDoneEn g then tallyOp f (gDoneTally g) 0 1 m1 else m1
  let m3 := match g.fault with
    | some (st, k, pc) => raise m2 strandFault (srcFacet f 3) (some g.job) [f, g.sc, k, pc, st, g.nFault]
    | none => m2
  let m4 := match currentUnit m3 f g.sc with
    | some u => forAll g.touched (fun m n => sendEntry n u.mb (modRun m f g.sc fun r => { r with away := r.away + 1 })) m3
    | none => m3
  giveWord f g.sc (recTag g.cmd) g.flags ((g.fault.map (·.1)).getD 0) 3 m4

theorem groupEndOp_over (hall : gCount g ≤ g.started) (hend : g.started ≤ g.ended) : groupEndOp f gid m =
    poke f g.sc (countDebt f g.job (if g.asyncDone then groupResults m f gid g
      else modRun (groupResults m f gid g) f g.sc fun r => { r with inFlight := r.inFlight - 1 })) := by
  have hover : (decide (g.started < gCount g) || decide (g.ended < g.started)) = false := by
    simp [hall, hend]
  simp only [groupEndOp, h, hover, Bool.false_eq_true, if_false]
  rfl

end

section
variable {s : State} {f : Nat} (hs : Ready s) (hf : f < 96)
include hs hf

theorem exec_strandStart (gid : Nat) : exec (.strandStart f gid) s = .next ⟨strandStartOp f gid s.m, s.pending⟩ :=
  row_runs hs (decide_eq_true hf) rfl

theorem exec_groupEnd (gid : Nat) : exec (.groupEnd f gid) s = .next ⟨groupEndOp f gid s.m, s.pending⟩ :=
  row_runs hs (decide_eq_true hf) rfl

end

/-- Settles O35: a launch by its turn and by its program, a start by whether a strand is free, an end by whether every strand has
ended. -/
theorem launchGroupsOpenStartAndEnd : Obligations.LaunchGroupsOpenStartAndEnd := by
  refine ⟨fun s f c r j hs hf hc h => ⟨fun ht => ?_, fun ht hp => ?_, fun p ht hp => ?_⟩,
    fun s f gid g hs hf h => ⟨fun hw => ?_, fun i hleft hworks hfree => ⟨?_, fun hasync hlast => ?_, fun hgo => ?_⟩,
      fun hr => ?_, fun hall hend => ⟨fun hasync => ?_, fun hasync => ?_⟩⟩⟩
  · exact exec_strandLaunch_held hs hf hc h ht
  · rw [exec_strandLaunch_turn hs hf hc h ht, strandLaunchOp_missing j hp]
  · rw [exec_strandLaunch_turn hs hf hc h ht, strandLaunchOp_installed j hp]
    rfl
  · rw [exec_strandStart hs hf, strandStartOp_waits h hw]
  · exact (freeStrand_pipe hfree).trans (Nat.mod_mod _ _)
  · rw [exec_strandStart hs hf, strandStartOp_starts h hleft hworks hfree]
    simp only [hasync, hlast, beq_self_eq_true, Bool.and_self, if_true]
  · have hmore : (gAsync g && g.started + 1 == gCount g) = false := by
      obtain hsync | hne := hgo
      · rw [hsync, Bool.false_and]
      · rw [beq_false_of_ne hne, Bool.and_false]
    rw [exec_strandStart hs hf, strandStartOp_starts h hleft hworks hfree]
    simp only [hmore, Bool.false_eq_true, if_false]
  · rw [exec_groupEnd hs hf, groupEndOp_runs h hr]
  · rw [exec_groupEnd hs hf, groupEndOp_over h hall hend, if_pos hasync]
    rfl
  · rw [exec_groupEnd hs hf, groupEndOp_over h hall hend, if_neg (ne_true_of_eq_false hasync)]
    rfl

end Sys2Proof.Machine
end

section
/-!
CERTIFICATE. What reads and writes by the engines leave: uncorrectable units change event registers, focus and the facets' counts
and retirements, nothing else (R461, R463).
-/
namespace Sys2Proof.Machine
-- As in the tests: theorems elaborated side by side would take a thread each.
set_option Elab.async false

section
variable {α : Type} (P : Mach → α) (hfacet : ∀ m f g, P (modFacet m f g) = P m)
include hfacet

/-- A decision to retire a channel is noted in its facet alone (R463). -/
theorem decideRetire_keeps (f ch : Nat) (m : Mach) : P (decideRetire f ch m) = P m := by
  unfold decideRetire
  split
  · rfl
  · rw [hfacet]

variable (hraise : ∀ m code src job d, P (raise m code src job d) = P m)
include hraise

/-- Uncorrectable units change facets and raise events, nothing else (R461). -/
theorem raiseUe_keeps (m : Mach) (units : List Nat) : P (raiseUe m units) = P m := by
  refine forAll_keeps P (fun m u => ?_) units m
  dsimp only
  rw [hraise, apply_ite P, decideRetire_keeps P hfacet, ite_self, hfacet, hfacet]

end

@[simp] theorem raise_chords (m : Mach) (code src : Nat) (job : Option Nat) (d : List Nat) :
    (raise m code src job d).chords = m.chords := by
  have hframe := congrArg Mach.chords (raise_frame m code src job d)
  exact hframe

@[simp] theorem raiseUe_chords (m : Mach) (units : List Nat) : (raiseUe m units).chords = m.chords :=
  raiseUe_keeps Mach.chords modFacet_chords raise_chords m units

@[simp] theorem raiseUe_tick (m : Mach) (units : List Nat) : (raiseUe m units).tick = m.tick :=
  raiseUe_keeps Mach.tick modFacet_tick raise_tick m units

@[simp] theorem writeChecked_chords (m : Mach) (f sp off : Nat) (bs : List Byte) :
    (writeChecked m f sp off bs).chords = m.chords := raiseUe_chords ..

@[simp] theorem writeChecked_tick (m : Mach) (f sp off : Nat) (bs : List Byte) : (writeChecked m f sp off bs).tick = m.tick :=
  raiseUe_tick ..

@[simp] theorem readChecked_tick (m : Mach) (f sp off n : Nat) : (readChecked m f sp off n).2.2.tick = m.tick :=
  raiseUe_tick ..

end Sys2Proof.Machine
end

section
/-!
CERTIFICATE. Writes through the arc-queue window (R111, R112, R121): which of them commit, and what a committed entry changes of
its chord (R118).
-/
namespace Sys2Proof.Machine
-- As in the tests: theorems elaborated side by side would take a thread each.
set_option Elab.async false

/-! ### Chords by number -/

theorem chordBy_congr {m m' : Mach} (h : m'.chords = m.chords) (n : Nat) : chordBy m' n = chordBy m n := by
  rw [chordBy, chordBy, h]

/-- An update of a chord that keeps its entry is found under the chord's number. -/
theorem chordBy_modChord (m : Mach) (n : Nat) {g : Chord → Chord} (hg : ∀ c, (g c).e = c.e) :
    chordBy (modChord m n g) n = (chordBy m n).map g := by
  have hkey : ((fun c => c.e.chord == n) ∘ fun c : Chord => if c.e.chord == n then g c else c) = fun c => c.e.chord == n := by
    funext c
    simp only [Function.comp_apply]
    split
    · rw [hg]
    · rfl
  rw [chordBy, modChord, List.find?_map, hkey, chordBy]
  cases hfind : m.chords.find? fun c => c.e.chord == n with
  | none => rfl
  | some c => simp only [Option.map_some, List.find?_some hfind, if_true]

/-! ### What a write through the window is -/

/-- The header slot of a chord at which a write through the window lands. -/
abbrev slotAt (c : Chord) (off : Nat) : Nat := (off - c.e.hdrBase * 4096) / 256

/-- The SEQ that the header of an entry names. -/
abbrev seqIn (bs : List Byte) : Nat := (headerMb (leNat bs)).2.1

section
variable {c : Chord} {off : Nat} {bs : List Byte}

theorem windowCase_misshaped (h : bs.length ≠ 64 ∨ (off - c.e.hdrBase * 4096) % 256 ≠ 0) : windowCase c off bs = .fault :=
  if_pos h

variable (hlen : bs.length = 64) (hofs : (off - c.e.hdrBase * 4096) % 256 = 0)
include hlen hofs

theorem windowCase_header : windowCase c off bs =
    if seqIn bs = c.rxSeq then
      if slotAt c off ≠ c.rxSeq % chordDepth c.e then .fault
      else if chordDepth c.e ≤ c.queue.length + c.taken then .overrun
      else .commit (headerMb (leNat bs)).1 (seqIn bs)
    else if slotAt c off = seqIn bs % chordDepth c.e ∨ slotAt c off = c.rxSeq % chordDepth c.e then .badSeq (seqIn bs)
    else .fault :=
  if_neg (by simp [hlen, hofs])

end

section
variable {m : Mach} {f off : Nat} {bs : List Byte} {c : Chord} (h : ringChord m f off = some c)
include h

theorem windowWrite_fault (hw : windowCase c off bs = .fault) :
    windowWrite f off bs m = (none, windowDrop arcFault f off (some c) m) := by
  simp only [windowWrite, h, hw]

theorem windowWrite_overrun (hw : windowCase c off bs = .overrun) :
    windowWrite f off bs m = (none, windowDrop arcOverrun f off (some c) m) := by
  simp only [windowWrite, h, hw]

theorem windowWrite_badSeq {seq : Nat} (hw : windowCase c off bs = .badSeq seq) :
    windowWrite f off bs m = (none, seqError c.e.chord seq m) := by
  simp only [windowWrite, h, hw]

theorem windowWrite_commit {mb : MbInfo} {seq : Nat} (hw : windowCase c off bs = .commit mb seq) :
    windowWrite f off bs m = (some c.e.chord, commitEntry c.e.chord f off mb seq bs m) := by
  simp only [windowWrite, h, hw]

end

theorem windowWrite_missed {m : Mach} {f off : Nat} (h : ringChord m f off = none) (bs : List Byte) :
    windowWrite f off bs m = (none, windowDrop arcFault f off none m) := by
  simp only [windowWrite, h]

/-! ### A committed entry (R118) -/

/-- The chord once an entry has joined its queue's end. -/
def withEntry (mb : MbInfo) (seq : Nat) (c : Chord) : Chord :=
  { c with rxSeq := (c.rxSeq + 1) % 65536, queue := c.queue ++ [⟨mb, seq, false⟩] }

/-- The chord with every entry of its queue visible. -/
def allShown (c : Chord) : Chord := { c with queue := c.queue.map fun q => { q with visible := true } }

theorem chordBy_showQueue {m : Mach} {n : Nat} {c : Chord} (h : chordBy m n = some c) :
    chordBy (showQueue n m) n = some (allShown c) := by
  simp only [showQueue, h]
  exact (chordBy_modChord _ n (g := allShown) fun _ => rfl).trans (congrArg (Option.map allShown) h)

/-- Entries of a WAVE chord are visible at once. -/
theorem chordBy_commitEntry {m : Mach} {n : Nat} {c : Chord} (h : chordBy m n = some c) (f off : Nat) (mb : MbInfo) (seq : Nat)
    (bs : List Byte) : chordBy (commitEntry n f off mb seq bs m) n =
      some (if c.e.mode = 1 then allShown (withEntry mb seq c) else withEntry mb seq c) := by
  have hjoin : chordBy (modChord (writeChecked m f 0 off bs) n (withEntry mb seq)) n = some (withEntry mb seq c) := by
    rw [chordBy_modChord _ n (g := withEntry mb seq) fun _ => rfl, chordBy_congr (writeChecked_chords ..), h, Option.map_some]
  unfold commitEntry
  dsimp only
  split
  · next c' hc =>
    obtain rfl : withEntry mb seq c = c' := Option.some.inj (hjoin.symm.trans hc)
    by_cases hwave : c.e.mode = 1
    · rw [if_pos hwave, if_pos (show (withEntry mb seq c).e.mode = 1 from hwave)]
      exact chordBy_showQueue hjoin
    · rw [if_neg hwave, if_neg (show ¬(withEntry mb seq c).e.mode = 1 from hwave)]
      exact hjoin
  · next hc => exact absurd (hjoin.symm.trans hc) (Option.some_ne_none _)

/-- A committed entry joins its queue's end and moves the expected SEQ on; a WAVE queue is then visible throughout. -/
theorem commitEntry_joins {m : Mach} {n : Nat} {c : Chord} (h : chordBy m n = some c) (f off : Nat) (mb : MbInfo) (seq : Nat)
    (bs : List Byte) : ∃ c', chordBy (commitEntry n f off mb seq bs m) n = some c' ∧
      c'.queue.map (·.mb) = c.queue.map (·.mb) ++ [mb] ∧ c'.rxSeq = (c.rxSeq + 1) % 65536 ∧ c'.taken = c.taken ∧
      (c.e.mode = 1 → ∀ q ∈ c'.queue, q.visible = true) := by
  refine ⟨_, chordBy_commitEntry h f off mb seq bs, ?_⟩
  by_cases hwave : c.e.mode = 1
  · rw [if_pos hwave]
    refine ⟨by simp [allShown, withEntry], rfl, rfl, fun _ q hq => ?_⟩
    obtain ⟨q', -, rfl⟩ := List.mem_map.1 hq
    rfl
  · rw [if_neg hwave]
    exact ⟨by simp [withEntry], rfl, rfl, fun hyes => absurd hyes hwave⟩

end Sys2Proof.Machine
end

section
/-!
CERTIFICATE. Headers on their way, credits, losses and the exchange between the ends of a chord (R111–R113, R120, R122, R123,
R279).
-/
namespace Sys2Proof.Machine
-- As in the tests: theorems elaborated side by side would take a thread each.
set_option Elab.async false

/-! ### Headers and payload writes that arrive (R117, R121, R123) -/

section
variable {m : Mach} {f off : Nat} {data : List Byte}

theorem chordWriteLocal_none (h : nextHeader m f off data = none) : chordWriteLocal f off data m = m := by
  simp only [chordWriteLocal, h]

theorem chordWriteLocal_header {e : HeaderMsg} (h : nextHeader m f off data = some e) : chordWriteLocal f off data m =
    let m0 : Mach := { m with chordNet := m.chordNet.erase e }
    settleHeader e.srcFacet e.srcSc (headerChord e) (if e.stale then m0 else afterWindow f off (windowWrite f off data m0)) := by
  simp only [chordWriteLocal, h]

variable {w : ChordFar}

theorem chordWriteFar_late (h : lateWrite m w.chord = true) :
    chordWriteFar f off data w m = sendMsg m w.src (.resp w.opid (some (0, []))) := by
  simp only [chordWriteFar, h, if_true, ite_self]

theorem chordWriteFar_header (h : lateWrite m w.chord = false) (hsp : w.space = 3) : chordWriteFar f off data w m =
    sendMsg (afterWindow f off (windowWrite f off data m)) w.src (.resp w.opid (some (0, []))) := by
  simp only [chordWriteFar, h, hsp, if_true, Bool.false_eq_true, if_false]

theorem chordWriteFar_payload (h : lateWrite m w.chord = false) (hsp : w.space ≠ 3) : chordWriteFar f off data w m =
    reqFar w.src w.opid ⟨word (latAddr ⟨self m, f, w.space, off⟩), 0x33, 0, data.length, data, 0⟩ m := by
  simp only [chordWriteFar, h, hsp, Bool.false_eq_true, if_false]

end

/-! ### A chord that is not in effect -/

section
variable {m : Mach} {n : Nat} (h : chordBy m n = none)
include h

theorem creditOp_gone (cnt : Nat) : creditOp n cnt m = m := by
  simp only [creditOp, h]

theorem creditTimeoutOp_gone : creditTimeoutOp n m = m := by
  simp only [creditTimeoutOp, h]

theorem chordLossOp_gone (first cnt dropped : Nat) : chordLossOp n first cnt dropped m = m := by
  simp only [chordLossOp, h]

theorem chordCheckOp_early (depth kind : Nat) (keep ours : Bool) : chordCheckOp n depth kind keep ours m =
    { m with earlyChecks := (m.earlyChecks.filter fun x => x.1 != n) ++ [(n, depth, kind)] } := by
  simp only [chordCheckOp, h]

end

/-! ### A chord in effect -/

section
variable {m : Mach} {n : Nat} {c : Chord} (h : chordBy m n = some c)
include h

theorem creditOp_shut (hshut : chordOpen c = false ∨ hasProducer c.e = false) (cnt : Nat) : creditOp n cnt m = m := by
  simp only [creditOp, h]
  exact if_pos (by simpa using hshut)

theorem creditOp_open (hopen : chordOpen c = true) (hprod : hasProducer c.e = true) (cnt : Nat) : creditOp n cnt m =
    tallyWake c.e.srcFacet c.e.creditTally (serveWaiting 32 n
      (modChord (tallyAddN m c.e.srcFacet c.e.creditTally cnt) n fun c => { c with sent := c.sent.drop cnt })) := by
  simp only [creditOp, addCredit, h, hopen, hprod, Bool.not_true, Bool.or_self, Bool.false_eq_true, if_false]

theorem creditTimeoutOp_idle (hw : c.waitFrom = none) : creditTimeoutOp n m = m := by
  simp only [creditTimeoutOp, h, hw]

theorem creditTimeoutOp_waiting {t : Nat} (hw : c.waitFrom = some t) : creditTimeoutOp n m =
    if c.waitRaised = false ∧ expired m t (regN m offCreditTimeout) = true then
      raise (modChord m n fun c => { c with waitRaised := true }) creditTimeoutEv (srcFacet c.e.srcFacet 1) (some c.job)
        [n, c.e.srcFacet, c.e.srcSc]
    else m := by
  simp only [creditTimeoutOp, h, hw, Bool.and_eq_true, Bool.not_eq_true']

theorem chordLossOp_eq (first cnt dropped : Nat) : chordLossOp n first cnt dropped m =
    let ids := (c.sent.filter fun p => decide ((p.1 + 65536 - first) % 65536 < cnt) || p.1 == dropped).map (·.2)
    if ids = [] then m else abandonMb c.job (chordPipe m c) ids.eraseDups m := by
  simp only [chordLossOp, h, List.isEmpty_iff]

/-- Ends that differ close the chord, once (R113). -/
theorem chordCheckOp_differs {depth kind : Nat} (hd : depth ≠ c.e.depth ∨ kind ≠ c.e.kind) (keep ours : Bool) :
    chordCheckOp n depth kind keep ours m =
      let m1 := modChord m n fun c => { c with closed := true }
      if c.closed then m
      else raise (if hasProducer c.e then tallySet m1 c.e.srcFacet c.e.creditTally 0 else m1) chordMismatch
        (srcFacet (if hasProducer c.e then c.e.srcFacet else c.e.dstFacet) 1) (some c.job)
        [n, if depth ≠ c.e.depth then 1 else 2] := by
  have hfield : (if depth ≠ c.e.depth then some 1 else if kind ≠ c.e.kind then some 2 else none) =
      some (if depth ≠ c.e.depth then 1 else 2) := by
    by_cases hdepth : depth = c.e.depth
    · simp [hdepth, hd.resolve_left (absurd hdepth)]
    · simp [hdepth]
  simp only [chordCheckOp, h, hfield]

/-- Ends that agree: the first exchange opens the chord, a later one says whether the far end keeps it (R113, R123). -/
theorem chordCheckOp_agrees {depth kind : Nat} (hd : depth = c.e.depth) (hk : kind = c.e.kind) (keep ours : Bool) :
    chordCheckOp n depth kind keep ours m =
      let m1 := modChord m n fun c => { c with farKeep := some (keep && !nearSweepEdge m) }
      if c.checked then (if c.asked then m1 else sendCheck n ours m1)
      else serveWaiting 32 n (modChord m n fun c => { c with checked := true }) := by
  cases hchecked : c.checked <;> simp [chordCheckOp, h, hd, hk, hchecked]

end

/-! ### The commands -/

/-- A command that may change what the module reports runs its function, and the report follows (R438). -/
theorem reporting_runs {row : Instr} {exists_ : Bool} {f : Mach → Mach} {s : State} (hs : Ready s) (hx : exists_ = true)
    (hrow : exec row s = reporting exists_ f s) : exec row s = .next ⟨sendReport false (f s.m), s.pending⟩ :=
  row_runs (f := fun m => sendReport false (f m)) hs hx hrow

section
variable {s : State} (hs : Ready s)
include hs

theorem exec_chordWrite {f : Nat} (hf : f < 96) (off : Nat) (data : List Byte) (far : Option ChordFar) :
    exec (.chordWrite f off data far) s = .next ⟨sendReport false (chordWriteOp f off data far s.m), s.pending⟩ :=
  reporting_runs hs (decide_eq_true hf) rfl

variable {n : Nat} (hn : n < 1024)
include hn

theorem exec_credit (cnt : Nat) : exec (.credit n cnt) s = .next ⟨sendReport false (creditOp n cnt s.m), s.pending⟩ :=
  reporting_runs hs (decide_eq_true hn) rfl

theorem exec_creditTimeout : exec (.creditTimeout n) s = .next ⟨creditTimeoutOp n s.m, s.pending⟩ :=
  row_runs hs (decide_eq_true hn) rfl

theorem exec_chordLoss (first cnt dropped : Nat) :
    exec (.chordLoss n first cnt dropped) s = .next ⟨sendReport false (chordLossOp n first cnt dropped s.m), s.pending⟩ :=
  reporting_runs hs (decide_eq_true hn) rfl

theorem exec_chordCheck (depth kind mode : Nat) (keep : Bool) : exec (.chordCheck n depth kind mode keep) s =
    .next ⟨chordCheckOp n depth kind keep (keepsNext s.m n) s.m, s.pending⟩ :=
  row_runs (f := fun m => chordCheckOp n depth kind keep (keepsNext m n) m) hs (decide_eq_true hn) rfl

end

/-- Settles O33: a write through the window by its case, and every command by whether its chord is in effect and what it finds
there. -/
theorem chordEntriesCommitAndCreditsReturn : Obligations.ChordEntriesCommitAndCreditsReturn := by
  refine ⟨fun m f off bs h => windowWrite_missed h bs, fun m f off bs c h => ⟨fun hbad => ?_, fun hlen hofs => ?_⟩,
    fun m n f off mb seq bs c h => commitEntry_joins h f off mb seq bs,
    fun s hs => ⟨fun f off data hf => ⟨fun e he => ?_, fun hnone => ?_, fun w => ?_⟩, fun n hn => ⟨fun h => ?_, fun c h => ?_⟩⟩⟩
  · exact windowWrite_fault h (windowCase_misshaped hbad)
  · have hcase := windowCase_header hlen hofs
    refine ⟨fun hseq hslot => windowWrite_fault h ?_, fun hseq hslot hfull => windowWrite_overrun h ?_,
      fun hseq hslot hroom => ?_, fun hseq hslot => windowWrite_badSeq h ?_, fun hseq h1 h2 => windowWrite_fault h ?_⟩
    · rw [hcase, if_pos hseq, if_pos hslot]
    · rw [hcase, if_pos hseq, if_neg (absurd hslot), if_pos hfull]
    · rw [← hseq]
      refine windowWrite_commit h ?_
      rw [hcase, if_pos hseq, if_neg (absurd hslot), if_neg (Nat.not_le.2 hroom)]
    · rw [hcase, if_neg hseq, if_pos hslot]
    · rw [hcase, if_neg hseq, if_neg (not_or.2 ⟨h1, h2⟩)]
  · rw [exec_chordWrite hs hf, chordWriteOp, chordWriteLocal_header he, headerChord]
  · rw [exec_chordWrite hs hf, chordWriteOp, chordWriteLocal_none hnone]
  · simp only [exec_chordWrite hs hf, chordWriteOp]
    refine ⟨fun hlate => ?_, fun hlive hsp => ?_, fun hlive hsp => ?_⟩
    · rw [chordWriteFar_late hlate]
    · rw [chordWriteFar_header hlive hsp]
    · rw [chordWriteFar_payload hlive hsp]
  · simp only [exec_credit hs hn, exec_creditTimeout hs hn, exec_chordLoss hs hn, exec_chordCheck hs hn, creditOp_gone h,
      creditTimeoutOp_gone h, chordLossOp_gone h, chordCheckOp_early h, implies_true, and_self]
  · simp only [exec_credit hs hn, exec_creditTimeout hs hn, exec_chordLoss hs hn, exec_chordCheck hs hn]
    refine ⟨fun hshut cnt => ?_, fun hopen hprod cnt => ?_, fun t hw => ⟨fun hquiet hexp => ?_, fun hno => ?_⟩, fun hw => ?_,
      fun first cnt dropped => ⟨fun hids => ?_, fun hids => ?_⟩,
      fun depth kind mode keep => ⟨fun hd => ⟨fun hclosed => ?_, fun hclosed => ?_⟩, fun hd hk hchecked => ?_,
        fun hd hk hchecked => ⟨fun hasked => ?_, fun hasked => ?_⟩⟩⟩
    · rw [creditOp_shut h hshut]
    · rw [creditOp_open h hopen hprod]
    · rw [creditTimeoutOp_waiting h hw, if_pos ⟨hquiet, hexp⟩]
    · rw [creditTimeoutOp_waiting h hw, if_neg]
      rintro ⟨hquiet, hexp⟩
      obtain hraised | hearly := hno
      · exact ne_true_of_eq_false hquiet hraised
      · exact ne_true_of_eq_false hearly hexp
    · rw [creditTimeoutOp_idle h hw]
    · simp only [chordLossOp_eq h, hids, if_true]
    · simp only [chordLossOp_eq h, hids, if_false]
    · simp only [chordCheckOp_differs h hd, hclosed, if_true]
    · simp only [chordCheckOp_differs h hd, hclosed, Bool.false_eq_true, if_false]
    · simp only [chordCheckOp_agrees h hd hk, hchecked, Bool.false_eq_true, if_false]
    · simp only [chordCheckOp_agrees h hd hk, hchecked, hasked, if_true]
    · simp only [chordCheckOp_agrees h hd hk, hchecked, hasked, Bool.false_eq_true, if_true, if_false]

end Sys2Proof.Machine
end

section
/-!
CERTIFICATE. MAP_LOAD, SCHED_LOAD and MB_ADMIT of descriptors that pass their checks (R109, R125, R131–R133, R140, R143, R403).
-/
namespace Sys2Proof.Machine
-- As in the tests: theorems elaborated side by side would take a thread each.
set_option Elab.async false

/-! ### Descriptors whose image was fetched (R132) -/

theorem takeEffect_fetched {sp : OpSpec} {eff : Effect} {d : DescIn} {m m' : Mach} {st det : Nat}
    (hb : (imageBytes d).isSome = true) (heff : eff d m = (some (st, det), m')) :
    takeEffect sp eff d false m = finishDesc d false st det m' := by
  have hfetched : (imageBytes d).isNone = false := by rw [← Option.not_isSome, hb, Bool.not_true]
  simp only [takeEffect, hfetched, heff, Bool.and_false, Bool.false_eq_true, if_false]

section
variable {s : State} {d : DescIn} {c : Instr} {sp : OpSpec} {eff : Effect} {m' : Mach} (hs : Ready s) (hd : d.ring < 32)
  (hrow : exec c s = actReady (decide (d.ring < 32)) (descRow sp eff d) s) (hop : dOpcode d = sp.code)
  (hst : earlyStatus s.m sp d = 0)
include hs hd hrow hop hst

/-- A descriptor whose effect ends at once completes with what the effect answers. -/
theorem exec_descRow_fetched {st det : Nat} (hb : (imageBytes d).isSome = true) (heff : eff d s.m = (some (st, det), m')) :
    exec c s = .next ⟨finishDesc d false st det m', s.pending⟩ := by
  rw [row_runs hs (decide_eq_true hd) hrow, descRow_passed hop hst, takeEffect_fetched hb heff]

theorem exec_descRow_done {st det : Nat} (himg : sp.image d = false) (heff : eff d s.m = (some (st, det), m')) :
    exec c s = .next ⟨finishDesc d false st det m', s.pending⟩ := by
  rw [row_runs hs (decide_eq_true hd) hrow, descRow_passed hop hst, takeEffect_done himg heff]

theorem exec_descRow_open (himg : sp.image d = false) (heff : eff d s.m = (none, m')) :
    exec c s = .next ⟨sp.after d (keepDesc d m'), s.pending⟩ := by
  rw [row_runs hs (decide_eq_true hd) hrow, descRow_passed hop hst, takeEffect_open himg heff]

end

/-! ### The effects -/

section
variable {m : Mach} {d : DescIn} {l : List Byte} (hl : imageBytes d = some l)
include hl

theorem effMap_fault {k i : Nat} (h : mapFault m (dJob m d) (mapPhases d) (mapLen d) l = some (k, i)) :
    effMap d m = (some (0x40, k * 2 ^ 24 + i), m) := by
  have hstatus : mapStatus m d = (0x40, k * 2 ^ 24 + i) := by simp only [mapStatus, hl, h]
  simp only [effMap, effMapAt, hstatus]
  exact if_pos (by decide)

theorem effMap_sound (h : mapFault m (dJob m d) (mapPhases d) (mapLen d) l = none) : effMap d m =
    (some (0, slowLoads (timing m) d (readMap l) (installMap d (readMap l) m)), installMap d (readMap l) m) := by
  have hstatus : mapStatus m d = (0, 0) := by simp only [mapStatus, hl, h]
  simp only [effMap, effMapAt, hstatus, hl]
  exact if_neg (absurd rfl)

end

/-- The FILL map in which a SCHED_LOAD counts its stages: the coming one, or the one in effect (log entry 77). -/
def countedMap (m : Mach) (j : Nat) : Option PlaceMap :=
  match (jobOf m j).coming.find? fun e => e.1 == 0 with
  | some e => some e.2
  | none => fillMap m j

/-- Ticks that a schedule spans (R133). -/
def schedSpan (m : Mach) (d : DescIn) : Nat :=
  let stages := stageTotal m (dJob m d) (schedPipe d) (countedMap m (dJob m d))
  if schedFwdOnly d then schedM d + stages - 1 else schedM d + 2 * stages - 1 + schedReserve d

/-- The module once the pipeline has the schedule. -/
def withSched (m : Mach) (d : DescIn) : Mach :=
  let l := (imageBytes d).getD []
  let cost := (List.range 64).map fun i => (imgNat l (8 * i) 4, imgNat l (8 * i + 4) 4)
  modPipe m (dJob m d) (schedPipe d) fun x => { x with
    sched := some ⟨schedFwdOnly d, schedReserve d, schedM d, schedBudget d, cost, m.tick.tickNo⟩, steerAt := none,
    rollout := if schedFwdOnly d then x.rollout else none }

section
variable {m : Mach} {d : DescIn}

theorem effSched_eq (m : Mach) (d : DescIn) : effSched d m =
    if !schedFwdOnly d && preemptible m (dJob m d) then (some (0x80, 0), m)
    else if (timing m).period - 1 < schedBudget d ∨ (timing m).fill + (timing m).steady + (timing m).drain < schedSpan m d then
      (some (0x41, 0), m)
    else (some (0, 0), withSched m d) := rfl

theorem effSched_preemptible (htrain : schedFwdOnly d = false) (hpre : preemptible m (dJob m d) = true) :
    effSched d m = (some (0x80, 0), m) := by
  rw [effSched_eq, htrain, hpre]
  rfl

variable (hrun : schedFwdOnly d = true ∨ preemptible m (dJob m d) = false)
include hrun

theorem sched_allowed : ¬(!schedFwdOnly d && preemptible m (dJob m d)) = true := by
  obtain hfwd | hkept := hrun
  · rw [hfwd, Bool.not_true, Bool.false_and]
    exact Bool.false_ne_true
  · rw [hkept, Bool.and_false]
    exact Bool.false_ne_true

theorem effSched_misfit (h : (timing m).period - 1 < schedBudget d ∨
    (timing m).fill + (timing m).steady + (timing m).drain < schedSpan m d) : effSched d m = (some (0x41, 0), m) := by
  rw [effSched_eq, if_neg (sched_allowed hrun), if_pos h]

theorem effSched_fits (hbudget : schedBudget d ≤ (timing m).period - 1)
    (hspan : schedSpan m d ≤ (timing m).fill + (timing m).steady + (timing m).drain) :
    effSched d m = (some (0, 0), withSched m d) := by
  rw [effSched_eq, if_neg (sched_allowed hrun), if_neg (not_or.2 ⟨Nat.not_lt.2 hbudget, Nat.not_lt.2 hspan⟩)]

end

theorem effAdmit_eq (m : Mach) (d : DescIn) : effAdmit d m =
    let q := pipeOf m (dJob m d) (admitPipe d)
    if 256 ≤ q.queue.length then (some (0x44, 0), m)
    else if q.sched.isNone then (some (0x42, 0), m)
    else if (admitOf m d).len = 0 then (some (0x45, 0), m)
    else (none, modPipe m (dJob m d) (admitPipe d) fun x => { x with queue := x.queue ++ [admitOf m d] }) := rfl

/-- Settles O22: each descriptor by the branches of its effect. -/
theorem mapsSchedulesAndAdmissions : Obligations.MapsSchedulesAndAdmissions := by
  intro s d hs hd
  dsimp only
  refine ⟨fun hop hst hb => ?_, fun hop hst hb => ?_, fun hop hst => ?_⟩
  · obtain ⟨l, hl⟩ := Option.isSome_iff_exists.1 hb
    rw [hl, Option.getD_some]
    exact ⟨fun k i h => exec_descRow_fetched hs hd rfl hop hst hb (effMap_fault hl h),
      fun h => exec_descRow_fetched hs hd rfl hop hst hb (effMap_sound hl h)⟩
  · exact ⟨fun htrain hpre => exec_descRow_fetched hs hd rfl hop hst hb (effSched_preemptible htrain hpre),
      fun hrun h => exec_descRow_fetched hs hd rfl hop hst hb (effSched_misfit hrun h),
      fun hrun hbudget hspan => exec_descRow_fetched hs hd rfl hop hst hb (effSched_fits hrun hbudget hspan)⟩
  · refine ⟨fun hfull => ?_, fun hroom hnone => ?_, fun hroom hsched hlen => ?_, fun hroom hsched hlen => ?_⟩
    · refine exec_descRow_done hs hd rfl hop hst rfl ((effAdmit_eq s.m d).trans ?_)
      exact if_pos hfull
    · refine exec_descRow_done hs hd rfl hop hst rfl ((effAdmit_eq s.m d).trans ?_)
      simp only [Nat.not_le.2 hroom, hnone, Option.isNone_none, if_true, if_false]
    · refine exec_descRow_done hs hd rfl hop hst rfl ((effAdmit_eq s.m d).trans ?_)
      simp only [Nat.not_le.2 hroom, hsched, hlen, Option.isNone_iff_eq_none, if_true, if_false]
    · refine exec_descRow_open hs hd rfl hop hst rfl ((effAdmit_eq s.m d).trans ?_)
      simp only [Nat.not_le.2 hroom, hsched, hlen, Option.isNone_iff_eq_none, if_false]

end Sys2Proof.Machine
end

section
/-!
CERTIFICATE. The end of a slot (R105, R144, R195, R407), WAVE sides that wait (R119), activation transfers (R313, R314) and the
copy of a moved layer (R145, R395).
-/
namespace Sys2Proof.Machine
-- As in the tests: theorems elaborated side by side would take a thread each.
set_option Elab.async false

/-! ### SLOT_COMPLETE -/

/-- Statistics of a slot that ran units, its time less what gathered fetches took (R144, R180, R407). -/
def countSlot (f c j : Nat) (e : MapSc) (r : SlotRun) (m : Mach) : Mach :=
  let t := m.now - r.startAt
  if r.units.isEmpty then m
  else if r.fetched then slotStats f c j e t (min t (freeVal m 32).toNat) (spendFree m)
  else slotStats f c j e t 0 m

/-- A stage context is left free: entries of expert return chords that its slot took and tiles that it kept are released. -/
def freeContext (f c : Nat) (m : Mach) : Mach :=
  let rets := (inChords m f c 3 false).flatMap fun q => List.replicate q.taken q.e.chord
  let m1 := forAll rets (fun m n => releaseEntry n m) m
  let m2 := modFacet m1 f fun y => { y with prisms := y.prisms.map fun p => { p with kept := p.kept.filter fun k => k.sc != c } }
  modSc m2 f c fun x => { x with run := none, owner := mapOwner m2 f c }

section
variable {m : Mach} {f c : Nat}

theorem slotCompleteOp_runs (h : slotDone m f c = false) : slotCompleteOp f c m = m := by
  simp only [slotCompleteOp, h, Bool.not_false, if_true]

theorem slotCompleteOp_done {j : Nat} {e : MapSc} {r : SlotRun} (h : slotDone m f c = true)
    (ho : (scOf m f c).owner = some (j, e)) (hr : (scOf m f c).run = some r) :
    slotCompleteOp f c m = freeContext f c (countSlot f c j e r (finishUnits f c j e m)) := by
  simp only [slotCompleteOp, h, ho, hr, Bool.not_true, Bool.false_eq_true, if_false]
  cases hf : r.fetched <;> simp only [freeContext, countSlot, hf, Bool.false_eq_true, if_true, if_false]

/-! ### WAVE_DEADLINE -/

/-- A WAVE side whose deadline has come: an entry that is visible joins the slot, else the side is a bubble. -/
theorem waveDeadlineOp_due {dir j : Nat} {e : MapSc} {r : SlotRun} {w : Nat × Nat} (ho : (scOf m f c).owner = some (j, e))
    (hr : (scOf m f c).run = some r) (hw : (r.waves.find? fun w => w.1 == dir) = some w) (ht : w.2 ≤ (atTime m w.2).now) :
    waveDeadlineOp f c dir m =
      let m1 := waveArrive f c dir (atTime m w.2)
      let p := passClass m1 dir j e (inChords m1 f c dir false) m1
      if ((scOf m1 f c).run.map fun r => r.waves.any fun w => w.1 == dir).getD false then
        poke f c (dropWave f c dir (countBubble j e.pipe p.1 (modSc p.2 f c fun x =>
          { x with shift := x.shift + (if p.1 = 3 then 1 else 0), fwd := if dir = 0 then p.1 else x.fwd,
                   bwd := if dir = 1 then p.1 else x.bwd })))
      else m1 := by
  simp only [waveDeadlineOp, ho, hr, hw]
  exact byTime_reached ht _

/-! ### Activation transfers -/

section
variable {key j : Nat} {e : MapSc} {a : ActPolicy} {y : ActSlot} (ho : (scOf m f c).owner = some (j, e))
  (hy : actOf (scOf m f c) key = some y) (ha : actPolicyOf m j e = some a)
include ho hy ha

theorem prefetchDoneOp_other (h : y.state ≠ 4) (r : HostData) : prefetchDoneOp f c key r m = m := by
  simp only [prefetchDoneOp, ho, hy, ha]
  exact if_pos h

theorem prefetchDoneOp_bytes (h : y.state = 4) (bs : List Byte) : prefetchDoneOp f c key (.bytes bs) m =
    poke f c (openUnit f c (setAct f c key (fun s => some { s with state := 5 })
      (writeChecked m f 1 (actAddr a y.slot) (bs.take a.bytes)))) := by
  simp only [prefetchDoneOp, ho, hy, ha]
  exact if_neg (absurd h)

theorem prefetchDoneOp_error (h : y.state = 4) (g : List Byte) : prefetchDoneOp f c key (.error g) m =
    setAct f c key (fun s => some { s with state := 3 }) m := by
  simp only [prefetchDoneOp, ho, hy, ha]
  exact if_neg (absurd h)

theorem writeoutDoneOp_other (h : y.state ≠ 2) (ok : Bool) : writeoutDoneOp f c key ok m = m := by
  simp only [writeoutDoneOp, ho, hy, ha]
  exact if_pos h

theorem writeoutDoneOp_written (h : y.state = 2) : writeoutDoneOp f c key true m =
    poke f c (openUnit f c (setAct f c key (fun s => some { s with state := 3 })
      (emit m (.hostWrite a.ep (actHost a e.stage y.u) (readMem m f 1 (actAddr a y.slot) a.bytes) true)))) := by
  simp only [writeoutDoneOp, ho, hy, ha]
  exact if_neg (absurd h)

theorem writeoutDoneOp_failed (h : y.state = 2) : writeoutDoneOp f c key false m =
    setAct f c key (fun s => some { s with state := 1 }) m := by
  simp only [writeoutDoneOp, ho, hy, ha]
  exact if_neg (absurd h)

end

end

/-! ### REBAL_COPY_DONE -/

@[simp] theorem copyVersions_tick (a b : MapSc) (y : LocusLayer) (at_ : Nat) (skip : List Nat) (m : Mach) :
    (copyVersions a b y at_ skip m).tick = m.tick := by
  refine forAll_keeps Mach.tick (fun m e => ?_) _ m
  dsimp only
  split
  · rfl
  · rw [writeChecked_tick, readChecked_tick]

section
variable {m : Mach} {j p : Nat}

theorem rebalCopyOp_idle (h : ∀ r, (pipeOf m j p).rebal = some r → r.copied.isSome = true) : rebalCopyOp j p m = m := by
  unfold rebalCopyOp
  split
  · rfl
  · next r hr => exact if_pos (h r hr)

theorem rebalCopyOp_copies {r : Rebal} {a b : MapSc} {y : LocusLayer} (hr : (pipeOf m j p).rebal = some r) (hc : r.copied = none)
    (ha : stageEntry m j p r.from_ = some a) (hb : stageEntry m j p r.toStage = some b)
    (hy : (let ls := (locusOf m a.facet a.sc).layers
      if r.from_ < r.toStage then ls.getLast? else ls.head?) = some y) : rebalCopyOp j p m =
      modPipe (copyVersions a b y (layoutEnd (locusOf m b.facet b.sc)) [] m) j p fun x => { x with
        rebal := some { r with
          copied := some m.tick.tickNo
          tags := ((locusOf m a.facet a.sc).entries.filter fun e => e.state != 0).map (·.vtag) } } := by
  simp only [rebalCopyOp, hr, hc, ha, hb, hy, Option.isSome_none, Bool.false_eq_true, if_false, decide_eq_true_eq,
    copyVersions_tick]

end

/-! ### The commands -/

section
variable {s : State} (hs : Ready s) {f c : Nat} (hf : f < 96) (hc : c < 4)
include hs hf hc

theorem exec_slotComplete : exec (.slotComplete f c) s = .next ⟨sendReport false (slotCompleteOp f c s.m), s.pending⟩ :=
  reporting_runs hs (decide_eq_true ⟨hf, hc⟩) rfl

theorem exec_waveDeadline {dir : Nat} (hd : dir < 2) :
    exec (.waveDeadline f c dir) s = .next ⟨waveDeadlineOp f c dir s.m, s.pending⟩ :=
  row_runs hs (decide_eq_true ⟨hf, hc, hd⟩) rfl

theorem exec_actPrefetchDone (key : Nat) (r : HostData) :
    exec (.actPrefetchDone f c key r) s = .next ⟨prefetchDoneOp f c key r s.m, s.pending⟩ :=
  row_runs hs (decide_eq_true ⟨hf, hc⟩) rfl

theorem exec_actWriteoutDone (key : Nat) (ok : Bool) :
    exec (.actWriteoutDone f c key ok) s = .next ⟨writeoutDoneOp f c key ok s.m, s.pending⟩ :=
  row_runs hs (decide_eq_true ⟨hf, hc⟩) rfl

end

theorem exec_rebalCopyDone {s : State} (hs : Ready s) {j p : Nat} (hj : j < 16) (hp : p < 4) :
    exec (.rebalCopyDone j p) s = .next ⟨rebalCopyOp j p s.m, s.pending⟩ :=
  row_runs hs (decide_eq_true ⟨hj, hp⟩) rfl

/-- Settles O32: a slot by whether it is done, a WAVE side by what its deadline finds, a transfer by the state of its unit, a copy
by the move that it ends. -/
theorem slotsCompleteAndWaitForEntries : Obligations.SlotsCompleteAndWaitForEntries := by
  intro s f c hs hf hc
  refine ⟨fun h => ?_, fun j e r h ho hr => ?_, fun dir hd j e r w ho hr hw ht => ?_, fun key j e a y ho hy ha => ?_,
    fun j p hj hp => ⟨fun h => ?_, fun r a b y hr hcopied ha hb hy => ?_⟩⟩
  · rw [exec_slotComplete hs hf hc, slotCompleteOp_runs h]
  · rw [exec_slotComplete hs hf hc, slotCompleteOp_done h ho hr]
    rfl
  · rw [exec_waveDeadline hs hf hc hd, waveDeadlineOp_due ho hr hw ht]
    dsimp only
    exact ⟨fun hserved => by rw [if_neg (ne_true_of_eq_false hserved)], fun hwaits => by rw [if_pos hwaits]⟩
  · simp only [exec_actPrefetchDone hs hf hc, exec_actWriteoutDone hs hf hc]
    refine ⟨fun bs h => ?_, fun g h => ?_, fun r h => ?_, fun h => ?_, fun h => ?_, fun ok h => ?_⟩
    · rw [prefetchDoneOp_bytes ho hy ha h]
    · rw [prefetchDoneOp_error ho hy ha h]
    · rw [prefetchDoneOp_other ho hy ha h]
    · rw [writeoutDoneOp_written ho hy ha h]
    · rw [writeoutDoneOp_failed ho hy ha h]
    · rw [writeoutDoneOp_other ho hy ha h]
  · rw [exec_rebalCopyDone hs hj hp, rebalCopyOp_idle h]
  · rw [exec_rebalCopyDone hs hj hp, rebalCopyOp_copies hr hcopied ha hb hy]

end Sys2Proof.Machine
end

section
/-!
CERTIFICATE. VER_BUILD of descriptors that pass their checks, and the end of its copies and CRC reads (R149–R153, Tables 5.4 and
5.7).
-/
namespace Sys2Proof.Machine
-- As in the tests: theorems elaborated side by side would take a thread each.
set_option Elab.async false

/-! ### The commands: an effect that ends at once, and one that goes on -/

section
variable {d : DescIn} {m m' : Mach} {eff : Effect} (himg : vbImage d = 0 ∨ (imageBytes d).isSome = true)
include himg

/-- The image that VER_BUILD asks for is there. -/
theorem imageThere_verBuild : ¬(specBuild.image d && (imageBytes d).isNone) = true := by
  have hask : specBuild.image d = (vbImage d != 0) := rfl
  obtain hnone | hsome := himg
  · simp [hask, hnone]
  · simp [Option.isSome_iff_ne_none.1 hsome]

theorem takeEffect_verBuild_done {st det : Nat} (heff : eff d m = (some (st, det), m')) :
    takeEffect specBuild eff d false m = finishDesc d false st det m' := by
  rw [takeEffect, if_neg (imageThere_verBuild himg), heff]

theorem takeEffect_verBuild_open (heff : eff d m = (none, m')) : takeEffect specBuild eff d false m = keepDesc d m' := by
  rw [takeEffect, if_neg (imageThere_verBuild himg), heff]
  rfl

end

section
variable {s : State} {d : DescIn} (hs : Ready s) (hd : d.ring < 32) (hop : dOpcode d = 0x18)
  (hst : earlyStatus s.m specBuild d = 0) {k : Nat} (hk : vbAction d = k) {c : Instr} {eff : Effect}
  (hrow : exec c s = actReady (decide (d.ring < 32)) (onlyIf (okAction d k) (descRow specBuild eff d)) s)
include hs hd hop hst hk hrow

/-- The row of the descriptor's ACTION takes its effect. -/
theorem exec_verBuild : exec c s = .next ⟨takeEffect specBuild eff d false s.m, s.pending⟩ := by
  rw [row_runs hs (decide_eq_true hd) hrow, okAction_of_verBuild hk hop, onlyIf_true, descRow_passed hop hst]

variable (himg : vbImage d = 0 ∨ (imageBytes d).isSome = true) {m' : Mach}
include himg

theorem exec_verBuild_done {st det : Nat} (heff : eff d s.m = (some (st, det), m')) :
    exec c s = .next ⟨finishDesc d false st det m', s.pending⟩ := by
  rw [exec_verBuild hs hd hop hst hk hrow, takeEffect_verBuild_done himg heff]

theorem exec_verBuild_open (heff : eff d s.m = (none, m')) : exec c s = .next ⟨keepDesc d m', s.pending⟩ := by
  rw [exec_verBuild hs hd hop hst hk hrow, takeEffect_verBuild_open himg heff]

end

/-! ### ALLOC (R149, R152, R153) -/

theorem dJob_vbInstall (d : DescIn) (m : Mach) : dJob (vbInstall d m) d = dJob m d := by
  unfold vbInstall
  split <;> rfl

@[simp] theorem vbInstall_tick (d : DescIn) (m : Mach) : (vbInstall d m).tick = m.tick := by
  unfold vbInstall
  split <;> rfl

/-- The entry as VER_BUILD ALLOC names it, before its SOURCE gives it a state. -/
def allocEntry (m : Mach) (d : DescIn) : VerEntry :=
  { VerEntry.init with
    source := vbSource d, srcSc := if vbSource d = 1 ∨ vbSource d = 3 then vbSrcSc d else 0
    srcTag := if vbSource d = 0 then 0 else vbSrcTag d
    vtag := vbTag d, pipe := vbPipe d, job := dJob m d, space := vbSpace d, base := vbBase d, size := vbSize d }

/-- The image is installed and the entry stands in the first FREE one of its locus. -/
def withEntryAt (d : DescIn) (e : VerEntry) (m : Mach) : Mach :=
  modLocus (vbInstall d m) (vbFacet d) (vbSc d) fun l =>
    { l with entries := match freeIdx l with | some i => l.entries.set i e | none => l.entries }

section
variable {m : Mach} {d : DescIn}

theorem effAlloc_refused (h : vbStatus m d ≠ 0) : effAlloc d m = (some (vbStatus m d, 0), m) := if_pos h

variable (h : vbStatus m d = 0)
include h

theorem effAlloc_built (hsrc : vbSource d = 0 ∨ vbSource d = 2) :
    effAlloc d m = (some (0, 0), withEntryAt d { allocEntry m d with state := 1 } m) := by
  refine (if_neg (absurd h)).trans ((if_neg (by omega)).trans ((if_neg (by omega)).trans ?_))
  rw [dJob_vbInstall]
  rfl

theorem effAlloc_copy (hsrc : vbSource d = 1) :
    effAlloc d m = (none, withEntryAt d { allocEntry m d with busy := [(d.ring, d.index)] } m) := by
  refine (if_neg (absurd h)).trans ((if_pos hsrc).trans ?_)
  rw [dJob_vbInstall]
  rfl

theorem effAlloc_ref (hsrc : vbSource d = 3) {y : VerEntry} (hy : vbSourceEntry m d = some y) :
    effAlloc d m = (some (0, 0), addRef (vbFacet d) (vbSrcSc d) (vbSrcTag d) (withEntryAt d
      { allocEntry m d with
        state := 2, sealTick := m.tick.tickNo, space := y.space, base := y.base, size := y.size, crc := y.crc } m)) := by
  refine (if_neg (absurd h)).trans ((if_neg (by omega)).trans ((if_pos hsrc).trans ?_))
  rw [hy, dJob_vbInstall, vbInstall_tick]
  rfl

end

/-! ### SEAL and FREE (R150–R153) -/

section
variable {m : Mach} {d : DescIn}

theorem effSeal_refused (h : vbStatus m d ≠ 0) : effSeal d m = (some (vbStatus m d, 0), m) := if_pos h

theorem effSeal_reads (h : vbStatus m d = 0) {i : Nat} (hi : entryOf (locusOf m (vbFacet d) (vbSc d)) (vbTag d) = some i) :
    effSeal d m = (none, modLocus m (vbFacet d) (vbSc d) fun l =>
      { l with entries := l.entries.modify i fun e => { e with busy := e.busy ++ [(d.ring, d.index)] } }) := by
  simp only [effSeal, h, hi, ne_eq, not_true_eq_false, if_false]

theorem effFree_refused (h : vbStatus m d ≠ 0) : effFree d m = (some (vbStatus m d, 0), m) := if_pos h

theorem effFree_held (h : vbStatus m d = 0) {i : Nat} (hi : entryOf (locusOf m (vbFacet d) (vbSc d)) (vbTag d) = some i) :
    effFree d m =
      let y := (locusOf m (vbFacet d) (vbSc d)).entries.getD i VerEntry.init
      (some (0, 0), dropRow y.job y.pipe y.vtag
        (freeEntry (vbFacet d) (vbSc d) i (keepReads (vbFacet d) (vbSc d) i m))) := by
  simp only [effFree, h, hi, ne_eq, not_true_eq_false, if_false]

theorem effFree_unknown (h : vbStatus m d = 0) (hnone : entryOf (locusOf m (vbFacet d) (vbSc d)) (vbTag d) = none) :
    effFree d m = (some (0, 0), vbInstall d m) := by
  simp only [effFree, h, hnone, ne_eq, not_true_eq_false, if_false]

end

/-! ### CRC_READ_DONE (R152) -/

/-- A read that meets no uncorrectable unit. -/
theorem readChecked_correct {m : Mach} {f sp off n : Nat} (h : ueHit m f sp off n = []) :
    readChecked m f sp off n = (readMem m f sp off n, false, m) := by
  rw [readChecked, h]
  rfl

/-- A write that covers no uncorrectable unit in part. -/
theorem writeChecked_correct {m : Mach} {f sp off : Nat} {bs : List Byte} (h : uePart m f sp off bs.length = []) :
    writeChecked m f sp off bs = writeMem m f sp off bs := by
  rw [writeChecked, h]
  rfl

theorem copyRegion_correct {m : Mach} {f : Nat} {e y : VerEntry} (hy : resolveTag (locusOf m f e.srcSc) e.srcTag = some y)
    (hsrc : ueHit m f y.space (4096 * y.base) (4096 * min y.size e.size) = []) :
    let src := readMem m f y.space (4096 * y.base) (4096 * min y.size e.size)
    uePart m f e.space (4096 * e.base) src.length = [] →
    copyRegion f e m = (false, writeMem m f e.space (4096 * e.base) src) := by
  intro src hpart
  simp only [copyRegion, hy, readChecked_correct hsrc, writeChecked_correct hpart, src]

theorem endRead_only {m : Mach} {x : Desc} (h : m.descs = [x]) (size crc : Nat) :
    endRead x.d.ring x.d.index false size crc m = finishDesc x.d false 0 crc m := by
  have hfind : ([x].find? fun y => y.d.ring == x.d.ring && y.d.index == x.d.index) = some x := by simp
  simp only [endRead, h, hfind, Bool.false_eq_true, if_false]

/-- The entry's only read has ended: an entry that was not yet READY is, with the CRC of its region. -/
def withCrc (f c i crc : Nat) (m : Mach) : Mach :=
  modLocus m f c fun l => { l with entries := l.entries.modify i fun e =>
    if e.state < 2 then { e with busy := [], state := 2, sealTick := m.tick.tickNo, crc := BitVec.ofNat 32 crc }
    else { e with busy := [] } }

section
variable {m : Mach} {f c i : Nat}

/-- The read of a held entry ends, by the module that its copy leaves. -/
theorem crcReadDoneOp_entry {e : VerEntry} {ring : Nat} {index : W32} {y : Mach} (hfreed : (locusOf m f c).freed = [])
    (he : (locusOf m f c).entries[i]? = some e) (hbusy : e.busy = [(ring, index)])
    (hcopy : (if e.source = 1 ∧ e.state = 0 then copyRegion f e m else (false, m)) = (false, y))
    (hue : ueHit y f e.space (4096 * e.base) (4096 * e.size) = []) : crcReadDoneOp f c i m =
      let crc := crc32 (readMem y f e.space (4096 * e.base) (4096 * e.size))
      endRead ring index false e.size crc (withCrc f c i crc y) := by
  simp only [crcReadDoneOp, hfreed, he, hbusy, hcopy, readChecked_correct hue, List.find?_nil, Bool.or_self, withCrc]

theorem crcReadDoneOp_freed {r : FreedRead} (hfreed : (locusOf m f c).freed = [r]) (hr : r.entry = i)
    (hue : ueHit m f r.space (4096 * r.base) (4096 * r.size) = []) : crcReadDoneOp f c i m =
      endRead r.ring r.index false r.size (crc32 (readMem m f r.space (4096 * r.base) (4096 * r.size)))
        (modLocus m f c fun l => { l with freed := l.freed.erase r }) := by
  have hfind : ([r].find? fun r => r.entry == i) = some r := by simp [hr]
  simp only [crcReadDoneOp, hfreed, hfind, readChecked_correct hue]

variable {s : State} (hs : Ready s) (hf : f < 104) (hc : c < 4) (hi : i < 4) {x : Desc} (hdescs : s.m.descs = [x]) {y : Mach}
  {size crc : Nat} (hy : y.descs = s.m.descs) (hop : crcReadDoneOp f c i s.m = endRead x.d.ring x.d.index false size crc y)
include hs hf hc hi hdescs hy hop

/-- The read of the only open descriptor ends and completes it with the CRC. -/
theorem exec_crcReadDone_only : exec (.crcReadDone f c i) s = .next ⟨finishDesc x.d false 0 crc y, s.pending⟩ := by
  have hrun : exec (.crcReadDone f c i) s = .next ⟨pumpAll (crcReadDoneOp f c i s.m), s.pending⟩ :=
    row_runs (f := fun m => pumpAll (crcReadDoneOp f c i m)) hs (decide_eq_true ⟨hf, hc, hi⟩) rfl
  have hdescs' : y.descs = [x] := hy.trans hdescs
  rw [hrun, hop, endRead_only hdescs', finishDesc, pumpAll_completeAt]
  intro z hz
  rw [hdescs', List.mem_singleton] at hz
  exact ⟨congrArg (·.d.ring) hz, congrArg (·.d.index) hz⟩

end

/-- Settles O23: VER_BUILD by its ACTION and SOURCE, a read that ends by whether its entry is held and was a copy. -/
theorem versionsAreBuiltSealedAndFreed : Obligations.VersionsAreBuiltSealedAndFreed := by
  refine ⟨fun s d hs hd hop hst himg => ?_, fun s f c i e x hs hf hc hi hfreed he hbusy hdescs hue hplain => ?_,
    fun s f c i e y x hs hf hc hi hfreed he hbusy hdescs hsrc hstate hy hsrcUe => ?_,
    fun s f c i r x hs hf hc hi hfreed hr hring hindex hdescs hue => ?_⟩
  · have hdone {c : Instr} {k : Nat} {eff : Effect} (hk : vbAction d = k) {st det : Nat} {m' : Mach}
        (hrow : exec c s = actReady (decide (d.ring < 32)) (onlyIf (okAction d k) (descRow specBuild eff d)) s) :=
      exec_verBuild_done hs hd hop hst hk hrow himg (st := st) (det := det) (m' := m')
    have hopen {c : Instr} {k : Nat} {eff : Effect} (hk : vbAction d = k) {m' : Mach}
        (hrow : exec c s = actReady (decide (d.ring < 32)) (onlyIf (okAction d k) (descRow specBuild eff d)) s) :=
      exec_verBuild_open hs hd hop hst hk hrow himg (m' := m')
    refine ⟨fun hbad => ⟨fun hk => hdone hk rfl (effAlloc_refused hbad), fun hk => hdone hk rfl (effSeal_refused hbad),
        fun hk => hdone hk rfl (effFree_refused hbad)⟩,
      fun hok hk => ⟨fun hsrc => hdone hk rfl (effAlloc_built hok hsrc), fun hsrc => hopen hk rfl (effAlloc_copy hok hsrc),
        fun hsrc y hy => hdone hk rfl (effAlloc_ref hok hsrc hy)⟩,
      fun i hok hk hi => hopen hk rfl (effSeal_reads hok hi), fun i hok hk hi => hdone hk rfl (effFree_held hok hi),
      fun hok hk hnone => hdone hk rfl (effFree_unknown hok hnone)⟩
  · have hnocopy : (if e.source = 1 ∧ e.state = 0 then copyRegion f e s.m else (false, s.m)) = (false, s.m) :=
      if_neg (by omega)
    exact exec_crcReadDone_only hs hf hc hi hdescs rfl (crcReadDoneOp_entry hfreed he hbusy hnocopy hue)
  · intro src m hpart hue
    have hcopy : (if e.source = 1 ∧ e.state = 0 then copyRegion f e s.m else (false, s.m)) = (false, m) :=
      (if_pos ⟨hsrc, hstate⟩).trans (copyRegion_correct hy hsrcUe hpart)
    exact exec_crcReadDone_only hs hf hc hi hdescs rfl (crcReadDoneOp_entry hfreed he hbusy hcopy hue)
  · have hread := crcReadDoneOp_freed hfreed hr hue
    rw [hring, hindex] at hread
    exact exec_crcReadDone_only hs hf hc hi hdescs rfl hread

end Sys2Proof.Machine
end

section
/-!
CERTIFICATE. VER_PUBLISH at the home of a pipeline, and what its modules do with the commands that carry it (R156–R165, R179), with
abandoned micro-batches (R112, R164).
-/
namespace Sys2Proof.Machine
-- As in the tests: theorems elaborated side by side would take a thread each.
set_option Elab.async false

/-! ### VER_PUBLISH (R156–R161) -/

theorem effPublish_away {m : Mach} {d : DescIn} (h : isHome m (dJob m d) (vpPipe d) = false) :
    effPublish d m = (some (0x4D, 0), m) := by
  simp only [effPublish, h, Bool.not_false, if_true]

/-- The module once the PEND marks that a publish's check set have ended (R159). -/
def endPend (d : DescIn) (c : PubCheck) (m : Mach) : Mach :=
  modTag (dJob m d) (vpPipe d) (vpTag d)
    (fun e => if e.pendTill ≤ max c.sweep m.tick.sweepNo then { e with pend := false } else e) m

theorem effPublish_checked {m : Mach} {d : DescIn} {c : PubCheck} (hhome : isHome m (dJob m d) (vpPipe d) = true)
    (hcheck : checkOf m d = some c) : effPublish d m =
      if checkPassed m (dJob m d) (vpPipe d) (some c) = false then (some (0x4C, 0), endPend d c m)
      else (some (0, 0), publish (dJob m d) (vpPipe d) (vpTag d) (vpKeep d) (endPend d c m)) := by
  simp only [effPublish, hhome, hcheck, Option.isSome_some, Option.map_some, Option.getD_some, Bool.not_true, Bool.not_eq_true',
    Bool.false_eq_true, if_true, if_false, endPend]

/-! ### Commands of the pipeline's other modules (R157–R160, R179) -/

/-- A reply counts for the check of the query that it answers, unless it comes too close to the edge of that check's sweep. -/
theorem verReplyOp_eq (src j p vtag : Nat) (ready : Bool) (m : Mach) : verReplyOp src j p vtag ready m =
    let a := takeAsked src vtag (pipeOf m j p).asked
    modPipe m j p fun x => { x with
      asked := a.2
      checks := x.checks.map fun c =>
        if c.tag = vtag ∧ a.1 = some c.sweep ∧ (nearSweepEdge m = false ∨ m.tick.sweepNo + 1 < c.sweep) then
          { c with ready := c.ready.filter (· != src) ++ (if ready then [src] else []) }
        else c } := by
  have hlate (t : Nat) : (!(nearSweepEdge m && decide (t ≤ m.tick.sweepNo + 1))) = true ↔
      nearSweepEdge m = false ∨ m.tick.sweepNo + 1 < t := by
    simp
  simp only [verReplyOp, Bool.and_eq_true, beq_iff_eq, hlate, and_assoc]

section
variable {m : Mach} {j p new old edge : Nat} {keep : Bool}

theorem verSwitchOp_early (hrun : m.tick.running = true) (hedge : m.tick.tickNo < edge) : verSwitchOp j p new old keep edge m =
    modPipe m j p fun x => { x with switches := x.switches ++ [(edge, new, old, keep)] } :=
  if_pos (by simp [hrun, hedge])

theorem verSwitchOp_due (h : m.tick.running = false ∨ edge ≤ m.tick.tickNo) :
    verSwitchOp j p new old keep edge m = takeSwitch j p new old keep m :=
  if_neg fun hearly => by
    obtain ⟨hrun, hedge⟩ := Bool.and_eq_true_iff.1 hearly
    obtain hstopped | hpast := h
    · exact ne_true_of_eq_false hstopped hrun
    · exact Nat.not_lt.2 hpast (of_decide_eq_true hedge)

theorem switchTags_eq : switchTags j p new old (old != new) keep m =
    let m1 := modTag j p new (fun e =>
      if e.state == 2 || e.state == 3 then { e with state := 3, pend := false, retired := false } else e) m
    if old = new then m1
    else modTag j p old (fun e => if e.state == 3 then { e with state := 4, hold := keep, retired := false } else e) m1 := by
  by_cases h : old = new
  · simp only [switchTags, h, bne_self_eq_false, Bool.and_self, Bool.false_eq_true, if_true, if_false]
  · simp only [switchTags, bne_iff_ne.2 h, h, Bool.and_self, if_true, if_false]

end

/-! ### MB_LOST (R112, R164) -/

section
variable {m : Mach} {j p : Nat}

theorem freshMbs_abandoned {ids : List Nat} (h : ∀ id ∈ ids, (pipeOf m j p).abandoned.contains id = true) :
    freshMbs m j p ids = [] := by
  have hnone : (ids.filter fun id => !(pipeOf m j p).abandoned.contains id) = [] :=
    List.filter_eq_nil_iff.2 fun id hid => by simpa using h id hid
  rw [freshMbs, hnone, List.eraseDups_nil]

theorem freshMbs_new {id : Nat} (h : (pipeOf m j p).abandoned.contains id = false) : freshMbs m j p [id] = [id] := by
  simp only [freshMbs, List.filter_cons, h, Bool.not_false, if_true, List.filter_nil, List.eraseDups_cons, List.eraseDups_nil]

theorem mbLostOp_abandoned {ids : List Nat} (hhome : isHome m j p = true)
    (h : ∀ id ∈ ids, (pipeOf m j p).abandoned.contains id = true) : mbLostOp j p ids m = m := by
  rw [mbLostOp, if_pos hhome, abandonAt, freshMbs_abandoned h]
  rfl

theorem mbLostOp_away {id : Nat} (haway : isHome m j p = false) (h : (pipeOf m j p).abandoned.contains id = false) :
    mbLostOp j p [id] m = markLost j p [id] m := by
  rw [mbLostOp, if_neg (ne_true_of_eq_false haway), freshMbs_new h]

theorem mbLostOp_home {id v : Nat} (hhome : isHome m j p = true) (h : (pipeOf m j p).abandoned.contains id = false)
    (hv : liveTag m j p id = some v) : mbLostOp j p [id] m =
      let m' := liveDown j p v (markLost j p [id] m)
      forAll (pipeModules m' j p) (fun m d => sendMsg m d (.mbLost j p [id])) m' := by
  have htags : [id].filterMap (liveTag m j p) = [v] := by simp [hv]
  rw [mbLostOp, if_pos hhome, abandonAt, freshMbs_new h]
  dsimp only
  rw [htags]
  rfl

end

/-! ### The commands -/

section
variable {s : State} (hs : Ready s) {j p : Nat} (hj : j < 16) (hp : p < 4)
include hs hj hp

theorem exec_verQuery (src vtag sweep : Nat) :
    exec (.verQuery src j p vtag sweep) s = .next ⟨verQueryOp src j p vtag sweep s.m, s.pending⟩ :=
  row_runs hs (decide_eq_true ⟨hj, hp⟩) rfl

theorem exec_verReply (src vtag : Nat) (ready : Bool) (n : Nat) :
    exec (.verReply src j p vtag ready n) s = .next ⟨verReplyOp src j p vtag ready s.m, s.pending⟩ :=
  row_runs hs (decide_eq_true ⟨hj, hp⟩) rfl

theorem exec_verSwitch (new old : Nat) (keep : Bool) (edge : Nat) :
    exec (.verSwitch j p new old keep edge) s = .next ⟨verSwitchOp j p new old keep edge s.m, s.pending⟩ :=
  row_runs hs (decide_eq_true ⟨hj, hp⟩) rfl

theorem exec_verLastUnit (vtag id : Nat) :
    exec (.verLastUnit j p vtag id) s = .next ⟨lastUnitAt j p vtag id s.m, s.pending⟩ :=
  row_runs hs (decide_eq_true ⟨hj, hp⟩) rfl

theorem exec_verRetire (vtag tick : Nat) :
    exec (.verRetire j p vtag tick) s = .next ⟨verRetireOp j p vtag s.m, s.pending⟩ :=
  row_runs hs (decide_eq_true ⟨hj, hp⟩) rfl

theorem exec_mbLost (ids : List Nat) :
    exec (.mbLost j p ids) s = .next ⟨sendReport false (mbLostOp j p ids s.m), s.pending⟩ :=
  reporting_runs hs (decide_eq_true ⟨hj, hp⟩) rfl

end

/-- Settles O24: VER_PUBLISH by whether its check passed, VER_SWITCH by whether its edge has been, MB_LOST by whether the
micro-batch is abandoned already. -/
theorem publishingFollowsTheReadinessCheck : Obligations.PublishingFollowsTheReadinessCheck := by
  refine ⟨fun s d hs hd hop hst => ⟨fun haway => ?_, fun c hhome hcheck => ⟨fun hok => ?_, fun hbad => ?_⟩⟩,
    fun s j p vtag hs hj hp => ⟨fun src sweep => exec_verQuery hs hj hp src vtag sweep, fun src ready n => ?_,
      fun old keep edge hrun hedge => ?_, fun old keep edge hpast => ?_, fun id => exec_verLastUnit hs hj hp vtag id,
      fun tick => exec_verRetire hs hj hp vtag tick, fun ids hhome hall => ?_,
      fun id hnew => ⟨fun haway => ?_, fun v hhome hv => ?_⟩⟩⟩
  · exact exec_descRow_done hs hd rfl hop hst rfl (effPublish_away haway)
  · exact exec_descRow_done hs hd rfl hop hst rfl ((effPublish_checked hhome hcheck).trans (if_neg (ne_false_of_eq_true hok)))
  · exact exec_descRow_done hs hd rfl hop hst rfl ((effPublish_checked hhome hcheck).trans (if_pos hbad))
  · rw [exec_verReply hs hj hp, verReplyOp_eq]
  · rw [exec_verSwitch hs hj hp, verSwitchOp_early hrun hedge]
  · rw [exec_verSwitch hs hj hp, verSwitchOp_due hpast, takeSwitch, switchTags_eq]
    rfl
  · rw [exec_mbLost hs hj hp, mbLostOp_abandoned hhome hall]
  · rw [exec_mbLost hs hj hp, mbLostOp_away haway hnew]
    rfl
  · rw [exec_mbLost hs hj hp, mbLostOp_home hhome hnew hv]
    rfl

end Sys2Proof.Machine
end

section
/-!
CERTIFICATE. What the home gathers of a sweep, the step verdict and its values, steering, and the update units' entries (R168,
R300–R311, R318–R321, R344, R389, R390, R406).
-/
namespace Sys2Proof.Machine
-- As in the tests: theorems elaborated side by side would take a thread each.
set_option Elab.async false

/-! ### FOLD_TOTALS (R344, R389) -/

theorem foldTotalsOp_other {m : Mach} {sweep : Nat} (h : sweep ≠ m.tick.sweepNo) (src j p mb tokens : Nat) (loss : Word) :
    foldTotalsOp src j p sweep mb tokens loss m = m := if_pos h

/-- The pipeline once it has the folded totals and loss of the sweep. -/
def withTotals (j p mb tokens : Nat) (loss : Word) (m : Mach) : Mach :=
  noteLoss j p (modPipe m j p fun x => { x with
    gather := { x.gather with mb := mb, tokens := tokens, totalsIn := true, loss := loss }, foldLoss := loss })

theorem foldTotalsOp_present (m : Mach) (src j p mb tokens : Nat) (loss : Word) :
    foldTotalsOp src j p m.tick.sweepNo mb tokens loss m =
      if src ≠ self (withTotals j p mb tokens loss m) ∧ pipeFolded (withTotals j p mb tokens loss m) j p = true then
        verifyLoss j p (withTotals j p mb tokens loss m)
      else withTotals j p mb tokens loss m := by
  rw [foldTotalsOp, if_neg (absurd rfl)]
  simp only [Bool.and_eq_true, decide_eq_true_eq]
  rfl

/-! ### STEP_VERDICT (R305, R310, R311) -/

/-- Non-finite elements of the gathered layers. -/
def gatheredNonf (m : Mach) (j p : Nat) : Nat := ((layersInOrder m j p).map fun l => l.2.1).foldl (· + ·) 0

/-- G of the gathered layers: the squared norm of the sweep's gradients, in FP32. -/
def gatheredNorm (m : Mach) (j p : Nat) : Nat :=
  (pairTo32 (wordPair (sumP ((layersInOrder m j p).map fun l => l.2.2)).toNat)).1

/-- A sweep without tokens is empty (R311). -/
def sweepEmpty (m : Mach) (j p : Nat) : Bool := (groupTotals m j p).1 == 0

/-- A sweep with tokens is poisoned by a non-finite element or norm (R310). -/
def gatheredPoison (m : Mach) (j p : Nat) : Bool :=
  !sweepEmpty m j p && (decide (0 < gatheredNonf m j p) || !isFin (v32 (gatheredNorm m j p)))

/-- The values of the step that the home sends (R305). -/
def judgedValues (m : Mach) (j p : Nat) (u : UpdSetup) : UpdValues :=
  stepValues m j p u
    (if sweepEmpty m j p then 1 else if !gatheredPoison m j p then 0 else if u.policy = 0 then 1 else if u.policy = 1 then 2 else 3)
    (groupTotals m j p).1 (gatheredNorm m j p)

/-- The home once it has sent and taken the step's values, and raised the event of an empty sweep. -/
def withVerdict (j p : Nat) (u : UpdSetup) (m : Mach) : Mach :=
  let v := judgedValues m j p u
  let m1 := takeValues j p v (!gatheredPoison m j p) (forAll (pipeModules m j p) (fun m d => sendMsg m d (.updValues j p v)) m)
  if sweepEmpty m j p then raise m1 updEmpty (srcJob j) (some j) [j, p, m1.tick.sweepNo] else m1

section
variable {m : Mach} {j p : Nat} {u : UpdSetup} (hset : (pipeOf m j p).setup = some u)
include hset

theorem stepVerdictOp_idle (h : updEnabled m j p = false ∨ isHome m j p = false ∨ (pipeOf m j p).verdict.isSome = true ∨
    (jobOf m j).halted = true ∨ gathered m j p = false) : stepVerdictOp j p m = m := by
  simp only [stepVerdictOp, hset]
  exact if_pos (by simpa [or_assoc] using h)

theorem stepVerdictOp_judges (hen : updEnabled m j p = true) (hhome : isHome m j p = true) (hnew : (pipeOf m j p).verdict = none)
    (hrun : (jobOf m j).halted = false) (hin : gathered m j p = true) : stepVerdictOp j p m =
      summaryOp j p (judgedValues m j p u) (gatheredNonf m j p) (sweepEmpty m j p) (gatheredPoison m j p)
        (gatheredPoison m j p && u.policy == 0)
        (if gatheredPoison m j p then notePoisoned j p u.policy (gatheredNonf m j p) (withVerdict j p u m)
          else withVerdict j p u m) := by
  simp only [stepVerdictOp, hset, hen, hhome, hnew, hrun, hin, Bool.not_true, Bool.or_self, Option.isSome_none, Bool.false_eq_true,
    if_false]
  rfl

end

/-! ### UPD_VALUES (R305, R310, R390) -/

theorem updValuesOp_passed {m : Mach} {j p : Nat} {v : UpdValues}
    (h : v.sweep ≠ m.tick.sweepNo ∨ (pipeOf m j p).verdict.isSome = true ∨ (jobOf m j).halted = true) : updValuesOp j p v m = m :=
  if_pos (by simpa [or_assoc] using h)

/-- Does a verdict leave the sweep unpoisoned: an update, or an empty sweep (R236, R311)? -/
def verdictFine (m : Mach) (j p : Nat) (v : UpdValues) : Bool := v.verdict == 0 || (v.verdict == 1 && tokenless m j p)

section
variable {m : Mach} {j p : Nat} {v : UpdValues} (hsweep : v.sweep = m.tick.sweepNo) (hnew : (pipeOf m j p).verdict = none)
  (hrun : (jobOf m j).halted = false)
include hsweep hnew hrun

theorem updValuesOp_taken : updValuesOp j p v m =
    if verdictFine m j p v then takeValues j p v (verdictFine m j p v) m
    else notePoisoned j p (v.verdict - 1) (pipeOf (takeValues j p v (verdictFine m j p v) m) j p).gather.ownNonf
      (takeValues j p v (verdictFine m j p v) m) :=
  if_neg (by simp [hsweep, hnew, hrun])

theorem updValuesOp_fine (h : verdictFine m j p v = true) : updValuesOp j p v m = takeValues j p v (verdictFine m j p v) m := by
  rw [updValuesOp_taken hsweep hnew hrun, if_pos h]

theorem updValuesOp_poisoned (h : verdictFine m j p v = false) : updValuesOp j p v m =
    notePoisoned j p (v.verdict - 1) (pipeOf (takeValues j p v (verdictFine m j p v) m) j p).gather.ownNonf
      (takeValues j p v (verdictFine m j p v) m) := by
  rw [updValuesOp_taken hsweep hnew hrun, if_neg (ne_true_of_eq_false h)]

end

/-! ### UPDATE_START (R168, R309, R310, R390, R406) -/

/-- An entry of a stage context's update work that has not started. -/
def waitingEntry (r : UpdateRun) : Bool := !r.started && !r.copy

section
variable {m : Mach} {f c : Nat}

theorem updateStartOp_nothing (h : (scOf m f c).update.find? waitingEntry = none) : updateStartOp f c m = m := by
  unfold waitingEntry at h
  simp only [updateStartOp, h]

section
variable {r : UpdateRun} (h : (scOf m f c).update.find? waitingEntry = some r)
include h

theorem updateStartOp_next : updateStartOp f c m =
    if ((pipeOf m r.job r.pipe).verdict == some 1 || (jobOf m r.job).halted) = true then modRunOf f c waitingEntry (fun _ => none) m
    else if (!m.twin.frozen && runReady m r) = false then m
    else if momentHeld m r.entry = true then
      if (facetOf m f).updWaited = true then m
      else raise (modFacet m f fun x => { x with updWaited := true }) updWait (srcFacet f 7) (some r.job) [f, c, m.tick.sweepNo]
    else if hasTurn m f 6 r.job (updateJobs m f) = false then m
    else noteTurn f 6 r.job (modRunOf f c waitingEntry (fun x => some { x with started := true }) m) := by
  have hskip : ((pipeOf m r.job r.pipe).verdict == some 1 || (jobOf m r.job).halted) = true ↔
      (pipeOf m r.job r.pipe).verdict = some 1 ∨ (jobOf m r.job).halted = true := by simp
  have hwait : (!m.twin.frozen && runReady m r) = false ↔ (m.twin.frozen || !runReady m r) = true := by
    cases m.twin.frozen <;> simp
  unfold waitingEntry at h ⊢
  simp only [updateStartOp, h, hskip, hwait, Bool.or_eq_true, decide_eq_true_eq, Bool.not_eq_true']

variable (hgo : ((pipeOf m r.job r.pipe).verdict == some 1 || (jobOf m r.job).halted) = false)
include hgo

theorem updateStartOp_waits (hwait : (!m.twin.frozen && runReady m r) = false) : updateStartOp f c m = m := by
  rw [updateStartOp_next h, if_neg (ne_true_of_eq_false hgo), if_pos hwait]

variable (hready : (!m.twin.frozen && runReady m r) = true)
include hready

theorem updateStartOp_held (hheld : momentHeld m r.entry = true) : updateStartOp f c m =
    if (facetOf m f).updWaited = true then m
    else raise (modFacet m f fun x => { x with updWaited := true }) updWait (srcFacet f 7) (some r.job) [f, c, m.tick.sweepNo] := by
  rw [updateStartOp_next h, if_neg (ne_true_of_eq_false hgo), if_neg (ne_false_of_eq_true hready), if_pos hheld]

theorem updateStartOp_ready (hfree : momentHeld m r.entry = false) : updateStartOp f c m =
    if hasTurn m f 6 r.job (updateJobs m f) = false then m
    else noteTurn f 6 r.job (modRunOf f c waitingEntry (fun x => some { x with started := true }) m) := by
  rw [updateStartOp_next h, if_neg (ne_true_of_eq_false hgo), if_neg (ne_false_of_eq_true hready),
    if_neg (ne_true_of_eq_false hfree)]

end

/-! ### UPDATE_COMPLETE (R300, R307, R390, R400) -/

theorem updateCompleteOp_idle (h : m.twin.frozen = true ∨ ∀ r ∈ (scOf m f c).update, r.started = false) :
    updateCompleteOp f c m = m := by
  have hnone : (if m.twin.frozen then none else (scOf m f c).update.find? fun r => r.started) = none := by
    obtain hfrozen | hidle := h
    · rw [if_pos hfrozen]
    · rw [List.find?_eq_none.2 fun r hr => ne_true_of_eq_false (hidle r hr), ite_self]
  simp only [updateCompleteOp, hnone]

theorem updateCompleteOp_writes {r : UpdateRun} {e : MapSc} {st : UpdSetup} {v : UpdValues} {src dst : VerEntry}
    (hfree : m.twin.frozen = false) (hr : ((scOf m f c).update.find? fun r => r.started) = some r)
    (hrun : (jobOf m r.job).halted = false) :
    let m1 := modRunOf f c (·.started) (fun _ => none) m
    ownerOf m1 r.job r.entry = some e → (pipeOf m1 r.job r.pipe).setup = some st → (pipeOf m1 r.job r.pipe).values = some v →
    publishedOf m1 e.facet e.sc r.job r.pipe = some src → autoTarget m1 e.facet e.sc r.job r.pipe = some dst →
    updateCompleteOp f c m = updLayers r.job r.entry e src dst st v
      ((List.range (r.entry.lastLayer + 1 - r.entry.firstLayer)).map (r.entry.firstLayer + ·)) (4096 * r.entry.area) m1 := by
  intro m1 howner hset hval hsrc hdst
  have hrun1 : (jobOf m1 r.job).halted = false := hrun
  simp only [updateCompleteOp, hfree, hr, Bool.false_eq_true, if_false]
  simp only [m1] at howner hset hval hsrc hdst hrun1 ⊢
  simp only [howner, hset, hval, hsrc, hdst, hrun1, Bool.false_eq_true, if_false]

end

/-! ### The commands -/

section
variable {s : State} (hs : Ready s)

section
variable {j p : Nat} (hj : j < 16) (hp : p < 4)
include hs hj hp

theorem exec_updReport (src layer nonf : Nat) (gsq : Word) :
    exec (.updReport src j p layer nonf gsq) s = .next ⟨updReportOp src j p layer nonf gsq s.m, s.pending⟩ :=
  row_runs hs (decide_eq_true ⟨hj, hp⟩) rfl

theorem exec_foldTotals (src sweep mb tokens : Nat) (loss : Word) : exec (.foldTotals src j p sweep mb tokens loss) s =
    .next ⟨sendReport false (foldTotalsOp src j p sweep mb tokens loss s.m), s.pending⟩ :=
  reporting_runs hs (decide_eq_true ⟨hj, hp⟩) rfl

theorem exec_stepVerdict : exec (.stepVerdict j p) s = .next ⟨sendReport false (stepVerdictOp j p s.m), s.pending⟩ :=
  reporting_runs hs (decide_eq_true ⟨hj, hp⟩) rfl

theorem exec_updValues (v : UpdValues) :
    exec (.updValues j p v) s = .next ⟨sendReport false (updValuesOp j p v s.m), s.pending⟩ :=
  reporting_runs hs (decide_eq_true ⟨hj, hp⟩) rfl

theorem exec_steer (n edge : Nat) : exec (.steer j p n edge) s = .next ⟨steerOp j p n edge s.m, s.pending⟩ :=
  row_runs hs (decide_eq_true ⟨hj, hp⟩) rfl

end

variable {f c : Nat} (hf : f < 96) (hc : c < 4)
include hs hf hc

theorem exec_updateStart : exec (.updateStart f c) s = .next ⟨sendReport false (updateStartOp f c s.m), s.pending⟩ :=
  reporting_runs hs (decide_eq_true ⟨hf, hc⟩) rfl

theorem exec_updateComplete : exec (.updateComplete f c) s = .next ⟨sendReport false (updateCompleteOp f c s.m), s.pending⟩ :=
  reporting_runs hs (decide_eq_true ⟨hf, hc⟩) rfl

end

/-- Settles O41: the home's verdict by whether the sweep is poisoned, the values of a step by whether they are of an unpoisoned
one, an update entry by what holds it back. -/
theorem sweepsAreJudgedAndUpdatesRun : Obligations.SweepsAreJudgedAndUpdatesRun := by
  refine ⟨fun s j p hs hj hp => ?_, fun s f c hs hf hc => ?_⟩
  · refine ⟨fun src layer nonf gsq => exec_updReport hs hj hp src layer nonf gsq, fun src sweep mb tokens loss h => ?_,
      fun src mb tokens loss => ?_, fun u hset => ⟨fun hidle => ?_, fun hen hhome hnew hrun hin => ⟨fun hbad => ?_, fun hgood => ?_⟩⟩,
      fun v h => ?_, fun v hsweep hnew hrun => ⟨fun hfine => ?_, fun hbad => ?_⟩, fun n edge => exec_steer hs hj hp n edge⟩
    · rw [exec_foldTotals hs hj hp, foldTotalsOp_other h]
    · rw [exec_foldTotals hs hj hp, foldTotalsOp_present]
      rfl
    · rw [exec_stepVerdict hs hj hp, stepVerdictOp_idle hset hidle]
    · rw [exec_stepVerdict hs hj hp, stepVerdictOp_judges hset hen hhome hnew hrun hin,
        if_pos (show gatheredPoison s.m j p = true from hbad)]
      rfl
    · rw [exec_stepVerdict hs hj hp, stepVerdictOp_judges hset hen hhome hnew hrun hin,
        if_neg (ne_true_of_eq_false (show gatheredPoison s.m j p = false from hgood))]
      rfl
    · rw [exec_updValues hs hj hp, updValuesOp_passed h]
    · rw [exec_updValues hs hj hp, updValuesOp_fine hsweep hnew hrun hfine]
      rfl
    · rw [exec_updValues hs hj hp, updValuesOp_poisoned hsweep hnew hrun hbad]
      rfl
  · simp only [exec_updateStart hs hf hc, exec_updateComplete hs hf hc]
    refine ⟨fun h => ?_, fun r hr => ?_, fun h => ?_, fun r e st v src dst hfree hr hrun howner hset hval hsrc hdst => ?_⟩
    · rw [updateStartOp_nothing h]
    · refine ⟨fun hskip => ?_, fun hgo hwait => ?_, fun hgo hready hheld htold => ?_, fun hgo hready hheld htold => ?_,
        fun hgo hready hfree hturn => ?_, fun hgo hready hfree hturn => ?_⟩
      · rw [updateStartOp_next hr, if_pos hskip]
        rfl
      · rw [updateStartOp_waits hr hgo hwait]
      · rw [updateStartOp_held hr hgo hready hheld, if_pos htold]
      · rw [updateStartOp_held hr hgo hready hheld, if_neg (ne_true_of_eq_false htold)]
      · rw [updateStartOp_ready hr hgo hready hfree, if_pos hturn]
      · rw [updateStartOp_ready hr hgo hready hfree, if_neg (ne_false_of_eq_true hturn)]
        rfl
    · rw [updateCompleteOp_idle h]
    · rw [updateCompleteOp_writes hfree hr hrun howner hset hval hsrc hdst]

end Sys2Proof.Machine
end

section
/-!
CERTIFICATE. Numbers of chapter 7: a finite pattern comes back from its value, a magnitude above a format saturates, sums of zero
and extremes keep their signs, and integers convert exactly or saturate (R207, R209, R213–R217).
-/
namespace Sys2Proof.Machine
-- As in the tests: theorems elaborated side by side would take a thread each.
set_option Elab.async false

/-! ### Rounding (R213) -/

theorem rneAt_of_le {m : Nat} {e q : Int} (h : q ≤ e) : rneAt m e q = (m <<< (e - q).toNat, false) := if_pos h

@[simp] theorem rneAt_self (m : Nat) (e : Int) : rneAt m e e = (m, false) := by simp [rneAt_of_le]

/-- Rounding to a coarser unit never goes below the part that the unit keeps. -/
theorem shiftRight_le_rneAt {m : Nat} {e q : Int} (h : e < q) : m >>> (q - e).toNat ≤ (rneAt m e q).1 := by
  rw [rneAt, if_neg (Int.not_le.2 h)]
  dsimp only
  split
  · exact Nat.le_succ _
  · exact Nat.le_refl _

/-- A value rounded `k` places below its leading bit keeps that bit. -/
theorem two_pow_le_rneAt {m : Nat} (hm : m ≠ 0) (e : Int) (k : Nat) : 2 ^ k ≤ (rneAt m e (m.log2 + e - k)).1 := by
  have hlead : 2 ^ m.log2 ≤ m := Nat.log2_self_le hm
  obtain hk | hk := Nat.lt_or_ge k m.log2
  · have hd : ((m.log2 : Int) + e - k - e).toNat = m.log2 - k := by omega
    refine Nat.le_trans ?_ (shiftRight_le_rneAt (by omega))
    rw [hd, Nat.shiftRight_eq_div_pow, Nat.le_div_iff_mul_le (Nat.two_pow_pos _), ← Nat.pow_add, Nat.add_sub_cancel' (Nat.le_of_lt hk)]
    exact hlead
  · have hd : (e - ((m.log2 : Int) + e - k)).toNat = k - m.log2 := by omega
    rw [rneAt_of_le (by omega), hd, Nat.shiftLeft_eq]
    calc 2 ^ k = 2 ^ m.log2 * 2 ^ (k - m.log2) := by rw [← Nat.pow_add, Nat.add_sub_cancel' hk]
      _ ≤ m * 2 ^ (k - m.log2) := Nat.mul_le_mul_right _ hlead

section
variable {f : FmtDef}

/-- The magnitude pattern of a value whose unit is the one that the format gives it. -/
theorem roundMag_at_unit {m : Nat} {e : Int} (h : max (m.log2 + e - f.mb) f.qmin = e) :
    ∃ tiny, roundMag f m e = ((e - f.qmin).toNat * 2 ^ f.mb + m, false, tiny) := by
  simp only [roundMag, Int.ofNat_eq_natCast, h, rneAt_self]
  exact ⟨_, rfl⟩

/-- A normal value's pattern is at least that of the power of two at its leading bit. -/
theorem le_roundMag {m : Nat} {e : Int} (hm : m ≠ 0) (h : f.qmin ≤ m.log2 + e - f.mb) :
    ((m.log2 + e - f.mb - f.qmin).toNat + 1) * 2 ^ f.mb ≤ (roundMag f m e).1 := by
  simp only [roundMag, Int.ofNat_eq_natCast, Int.max_eq_left h, Nat.succ_mul]
  exact Nat.add_le_add_left (two_pow_le_rneAt hm e f.mb) _

/-! ### Encoding (R209, R213, R214) -/

/-- The sign's part of a pattern: a format without a sign has none. -/
def signPart (f : FmtDef) (neg : Bool) : Nat := if f.sgn && neg then 2 ^ f.w else 0

theorem fpEnc_zero (neg : Bool) (e : Int) : fpEnc f (.fin neg 0 e) = (signPart f neg, 0) := rfl

section
variable {neg : Bool} {m : Nat} {e : Int} (hm : m ≠ 0) (hneg : (neg && !f.sgn) = false)
include hm hneg

theorem fpEnc_exact {mag : Nat} {tiny : Bool} (h : roundMag f m e = (mag, false, tiny)) (htop : mag ≤ f.top) :
    fpEnc f (.fin neg m e) = (mag + signPart f neg, 0) := by
  simp [fpEnc, hm, hneg, h, Nat.not_lt.2 htop, signPart]

theorem fpEnc_above (h : f.top < (roundMag f m e).1) : fpEnc f (.fin neg m e) =
    ((if f.mb = 2 then f.top else f.infP.getD f.top) + signPart f neg, flOverflow ||| flInexact) := by
  simp [fpEnc, hm, hneg, h, signPart]

end

/-- A magnitude of at least 2^k saturates, where the pattern of 2^k is above the format's largest. -/
theorem fpEnc_of_two_pow_le {m e k : Nat} (neg : Bool) (hsgn : f.sgn = true) (hk : f.qmin + f.mb ≤ k)
    (htop : f.top < ((k - f.mb - f.qmin).toNat + 1) * 2 ^ f.mb) (h : 2 ^ k ≤ m * 2 ^ e) : fpEnc f (.fin neg m e) =
    ((if f.mb = 2 then f.top else f.infP.getD f.top) + signPart f neg, flOverflow ||| flInexact) := by
  have hm : m ≠ 0 := by
    rintro rfl
    simp at h
  have hlead : k ≤ m.log2 + e := by
    refine Nat.le_of_lt_succ ((Nat.pow_lt_pow_iff_right (by omega : 1 < 2)).1 ?_)
    calc 2 ^ k ≤ m * 2 ^ e := h
      _ < 2 ^ (m.log2 + 1) * 2 ^ e := Nat.mul_lt_mul_of_pos_right Nat.lt_log2_self (Nat.two_pow_pos e)
      _ = 2 ^ (m.log2 + e + 1) := by rw [← Nat.pow_add, Nat.add_right_comm]
  refine fpEnc_above hm (by simp [hsgn]) (Nat.lt_of_lt_of_le htop ?_)
  refine Nat.le_trans (Nat.mul_le_mul_right _ ?_) (le_roundMag hm (by omega))
  omega

/-! ### Decoding (R207) -/

/-- The sign that a pattern of the format carries. -/
def patSign (f : FmtDef) (bits : Nat) : Bool := f.sgn && bits.testBit f.w

theorem patSign_unsigned (bits : Nat) : (patSign f bits && !f.sgn) = false := by
  cases hsgn : f.sgn <;> simp [patSign, hsgn]

/-- A pattern is its magnitude and its sign's part. -/
theorem mag_add_signPart {bits : Nat} (h : bits < 2 ^ (f.w + b2n f.sgn)) :
    bits % 2 ^ f.w + signPart f (patSign f bits) = bits := by
  unfold signPart patSign
  cases hsgn : f.sgn with
  | false =>
    have hlow : bits < 2 ^ f.w := by simpa [hsgn, b2n] using h
    simpa using Nat.mod_eq_of_lt hlow
  | true =>
    have hhigh : bits / 2 ^ f.w < 2 := by
      rw [Nat.div_lt_iff_lt_mul (Nat.two_pow_pos _)]
      simpa [hsgn, b2n, Nat.pow_succ, Nat.mul_comm] using h
    have hbit : (if bits.testBit f.w then 2 ^ f.w else 0) = 2 ^ f.w * (bits / 2 ^ f.w) := by
      generalize hq : bits / 2 ^ f.w = q at hhigh
      obtain rfl | rfl : q = 0 ∨ q = 1 := by omega
      · simp [Nat.testBit_eq_decide_div_mod_eq, hq]
      · simp [Nat.testBit_eq_decide_div_mod_eq, hq]
    simpa [hbit] using Nat.mod_add_div bits (2 ^ f.w)

theorem mag_le_top_of_isFin {bits : Nat} (h : isFin (fpDec f bits) = true) : bits % 2 ^ f.w ≤ f.top := by
  refine Nat.le_of_not_lt fun hlt => ?_
  rw [fpDec, if_pos hlt] at h
  split at h <;> simp [isFin] at h

section
variable {bits : Nat} (htop : bits % 2 ^ f.w ≤ f.top)
include htop

theorem fpDec_subnormal (h : bits % 2 ^ f.w < 2 ^ f.mb) :
    fpDec f bits = .fin (patSign f bits) (bits % 2 ^ f.w) f.qmin := by
  simp [fpDec, Nat.not_lt.2 htop, Nat.shiftRight_eq_div_pow, Nat.div_eq_of_lt h, Nat.mod_eq_of_lt h, patSign]

theorem fpDec_normal (h : 2 ^ f.mb ≤ bits % 2 ^ f.w) : fpDec f bits =
    .fin (patSign f bits) (2 ^ f.mb + bits % 2 ^ f.w % 2 ^ f.mb) (f.qmin + (bits % 2 ^ f.w / 2 ^ f.mb : Nat) - 1) := by
  have hex : bits % 2 ^ f.w / 2 ^ f.mb ≠ 0 := Nat.ne_of_gt (Nat.div_pos h (Nat.two_pow_pos _))
  simp only [fpDec, if_neg (Nat.not_lt.2 htop), Nat.shiftRight_eq_div_pow, if_neg hex]
  rfl

/-- A subnormal's unit is the format's smallest. -/
theorem fpEnc_fpDec_subnormal (h : bits % 2 ^ f.w < 2 ^ f.mb) :
    fpEnc f (fpDec f bits) = (bits % 2 ^ f.w + signPart f (patSign f bits), 0) := by
  rw [fpDec_subnormal htop h]
  obtain hz | hnz := Decidable.em (bits % 2 ^ f.w = 0)
  · rw [hz, fpEnc_zero, Nat.zero_add]
  · have hlog : (bits % 2 ^ f.w).log2 < f.mb := (Nat.log2_lt hnz).2 h
    obtain ⟨tiny, hround⟩ := roundMag_at_unit (f := f) (m := bits % 2 ^ f.w) (e := f.qmin) (by omega)
    rw [Int.sub_self, Int.toNat_zero, Nat.zero_mul, Nat.zero_add] at hround
    exact fpEnc_exact hnz (patSign_unsigned bits) hround htop

/-- A normal's unit is its own exponent's, its leading bit the one that its pattern leaves out. -/
theorem fpEnc_fpDec_normal (h : 2 ^ f.mb ≤ bits % 2 ^ f.w) :
    fpEnc f (fpDec f bits) = (bits % 2 ^ f.w + signPart f (patSign f bits), 0) := by
  rw [fpDec_normal htop h]
  have hex : 0 < bits % 2 ^ f.w / 2 ^ f.mb := Nat.div_pos h (Nat.two_pow_pos _)
  have hsplit := Nat.mod_add_div (bits % 2 ^ f.w) (2 ^ f.mb)
  have hmn := Nat.mod_lt (bits % 2 ^ f.w) (Nat.two_pow_pos f.mb)
  generalize bits % 2 ^ f.w / 2 ^ f.mb = ex at *
  generalize bits % 2 ^ f.w % 2 ^ f.mb = mn at *
  have hm : 2 ^ f.mb + mn ≠ 0 := by omega
  have hlog : (2 ^ f.mb + mn).log2 = f.mb := (Nat.log2_eq_iff hm).2 ⟨by omega, by rw [Nat.pow_succ]; omega⟩
  obtain ⟨tiny, hround⟩ := roundMag_at_unit (f := f) (m := 2 ^ f.mb + mn) (e := f.qmin + ex - 1) (by omega)
  have hmag : (f.qmin + (ex : Int) - 1 - f.qmin).toNat * 2 ^ f.mb + (2 ^ f.mb + mn) = bits % 2 ^ f.w := by
    have hpred : (f.qmin + (ex : Int) - 1 - f.qmin).toNat = ex - 1 := by omega
    calc (f.qmin + (ex : Int) - 1 - f.qmin).toNat * 2 ^ f.mb + (2 ^ f.mb + mn)
        = (ex - 1 + 1) * 2 ^ f.mb + mn := by rw [hpred, Nat.succ_mul, Nat.add_assoc]
      _ = bits % 2 ^ f.w := by rw [Nat.sub_add_cancel hex, ← hsplit, Nat.mul_comm, Nat.add_comm]
  rw [hmag] at hround
  exact fpEnc_exact hm (patSign_unsigned bits) hround htop

end

/-- A finite pattern's value encodes to that pattern, in every format. -/
theorem fpEnc_fpDec {bits : Nat} (hbits : bits < 2 ^ (f.w + b2n f.sgn)) (hfin : isFin (fpDec f bits) = true) :
    fpEnc f (fpDec f bits) = (bits, 0) := by
  have htop := mag_le_top_of_isFin hfin
  have hpat : fpEnc f (fpDec f bits) = (bits % 2 ^ f.w + signPart f (patSign f bits), 0) := by
    obtain hsub | hnorm := Nat.lt_or_ge (bits % 2 ^ f.w) (2 ^ f.mb)
    · exact fpEnc_fpDec_subnormal htop hsub
    · exact fpEnc_fpDec_normal htop hnorm
  rw [hpat, mag_add_signPart hbits]

end

/-! ### Sums and extremes (R216, R217) -/

@[simp] theorem fpAt_zero (neg : Bool) (e e0 : Int) : fpAt neg 0 e e0 = 0 := by cases neg <;> simp [fpAt]

theorem fpAt_not (neg : Bool) (m : Nat) (e e0 : Int) : fpAt (!neg) m e e0 = -fpAt neg m e e0 := by
  cases neg <;> simp [fpAt]

theorem fpAdd_fpNeg {a : Fp} (h : isFin a = true) : (fpAdd a (fpNeg a)).1 = .fin false 0 0 := by
  cases a with
  | fin neg m e =>
    have hsign : (m == 0 && m == 0 && neg && !neg) = false := by cases neg <;> simp
    simp only [fpNeg, fpAdd, fpAt_not, Int.min_self, Int.add_right_neg, if_true, hsign]
  | inf neg => cases h
  | nan => cases h

theorem fpAdd_negZeros (e1 e2 : Int) : fpAdd (.fin true 0 e1) (.fin true 0 e2) = (.fin true 0 0, 0) := by simp [fpAdd]

/-- −0 is below +0 in the order of the extremes, and not the other way round. -/
theorem fpLt_zeros (e1 e2 : Int) (n1 n2 : Bool) : fpLt true (.fin n1 0 e1) (.fin n2 0 e2) = (n1 && !n2) := by simp [fpLt]

theorem fpMin_zeros (e1 e2 : Int) (n1 n2 : Bool) : fpMin (.fin n1 0 e1) (.fin n2 0 e2) =
    if n2 && !n1 then .fin n2 0 e2 else .fin n1 0 e1 := by simp only [fpMin, fpLt_zeros]

theorem fpMax_zeros (e1 e2 : Int) (n1 n2 : Bool) : fpMax (.fin n1 0 e1) (.fin n2 0 e2) =
    if n1 && !n2 then .fin n2 0 e2 else .fin n1 0 e1 := by simp only [fpMax, fpLt_zeros]

theorem extremes_nan (a : Fp) : fpMin .nan a = .nan ∧ fpMin a .nan = .nan ∧ fpMax .nan a = .nan ∧ fpMax a .nan = .nan := by
  cases a <;> exact ⟨rfl, rfl, rfl, rfl⟩

/-! ### Integers (R213) -/

/-- An integer is saturated to the range of `w` bits, and nothing else happens to it. -/
theorem fpToInt_fpInt (w : Nat) (x : Int) : fpToInt w (fpInt x) =
    if 2 ^ (w - 1) - 1 < x then (2 ^ (w - 1) - 1, flOverflow ||| flInexact)
    else if x < -(2 ^ (w - 1)) then (-(2 ^ (w - 1)), flOverflow ||| flInexact) else (x, 0) := by
  have hx : (if x < 0 then -(x.natAbs : Int) else (x.natAbs : Int)) = x := by split <;> omega
  simp only [fpToInt, fpInt, rneAt_self, Int.ofNat_eq_natCast, decide_eq_true_eq, hx, Bool.false_eq_true, if_false]

/-- Settles O57: every format's patterns are those of its values, and the other clauses follow from one equation per operation. -/
theorem numbersConvertByTheirFormats : Obligations.NumbersConvertByTheirFormats := by
  refine ⟨fun F _ bits hbits hfin => fpEnc_fpDec hbits hfin, fun neg m e => ⟨fun h => ?_, fun h => ?_⟩,
    fun a h => fpAdd_fpNeg h,
    fun e1 e2 => ⟨congrArg Prod.fst (fpAdd_negZeros e1 e2), fpMin_zeros e1 e2 true false, fpMin_zeros e2 e1 false true,
      fpMax_zeros e1 e2 true false, fpMax_zeros e2 e1 false true⟩,
    extremes_nan, fun w _ x => ⟨fun hlo hhi => ?_, fun h => ?_, fun h => ?_, rfl⟩⟩
  · rw [fpEnc_of_two_pow_le (k := 128) neg rfl (by decide) (by decide) h]
    cases neg <;> rfl
  · rw [fpEnc_of_two_pow_le (k := 9) neg rfl (by decide) (by decide) h]
    cases neg <;> rfl
  · rw [fpToInt_fpInt, if_neg (by omega), if_neg (by omega)]
  · rw [fpToInt_fpInt, if_pos (by omega)]
  · have hpos : (0 : Int) < 2 ^ (w - 1) := Int.pow_pos (by decide)
    rw [fpToInt_fpInt, if_neg (by omega), if_pos h]

end Sys2Proof.Machine
end

section
/-!
CERTIFICATE. PROG_LOAD, FOLD_SETUP, UPDATE_SETUP and ACT_POLICY of descriptors that pass their checks (R261–R263, R271, R303,
R312–R315, R326–R328).
-/
namespace Sys2Proof.Machine
-- As in the tests: theorems elaborated side by side would take a thread each.
set_option Elab.async false

/-! ### Rows of a KIND, and descriptors that ask for an image or not -/

section
variable {s : State} {d : DescIn} {c : Instr} {sp : OpSpec} {eff : Effect} {ok : Bool} (hs : Ready s) (hd : d.ring < 32)
  (hrow : exec c s = actReady (decide (d.ring < 32)) (onlyIf ok (descRow sp eff d)) s) (hok : ok = true)
  (hop : dOpcode d = sp.code) (hst : earlyStatus s.m sp d = 0) {m' : Mach} {st det : Nat}
include hs hd hrow hok hop hst

/-- A row for one KIND of its opcode takes the effect of a descriptor of that KIND. -/
theorem exec_kindRow : exec c s = .next ⟨takeEffect sp eff d false s.m, s.pending⟩ := by
  rw [row_runs hs (decide_eq_true hd) hrow, hok, onlyIf_true, descRow_passed hop hst]

theorem exec_kindRow_fetched (hb : (imageBytes d).isSome = true) (heff : eff d s.m = (some (st, det), m')) :
    exec c s = .next ⟨finishDesc d false st det m', s.pending⟩ := by
  rw [exec_kindRow hs hd hrow hok hop hst, takeEffect_fetched hb heff]

theorem exec_kindRow_done (himg : sp.image d = false) (heff : eff d s.m = (some (st, det), m')) :
    exec c s = .next ⟨finishDesc d false st det m', s.pending⟩ := by
  rw [exec_kindRow hs hd hrow hok hop hst, takeEffect_done himg heff]

end

/-! ### PROG_LOAD (R261–R263, R271) -/

/-- The image that a PROG_LOAD brings, under a handle. -/
def progUnder (m : Mach) (d : DescIn) (h : Nat) : Prog :=
  ⟨h, dJob m d, pgKind d == 1, imageRecs ((imageBytes d).getD []) (pgLen d)⟩

/-- Would the image bring the store above 16 MiB? -/
def storeFull (m : Mach) (d : DescIn) (h : Nat) : Bool := decide (16777216 < storeUsed m h + pgLen d)

/-- The image under the handle may not be replaced: it is another job's or of the other kind, or the descriptor is immediate
and a map names it. -/
abbrev ProgKept (m : Mach) (d : DescIn) (o : Prog) : Prop :=
  o.job ≠ dJob m d ∨ o.strand ≠ (pgKind d == 1) ∨ (dKind d = 0 ∧ handleNamed m (pgHandle d) = true)

section
variable {m : Mach} {d : DescIn}

theorem effProg_unsound (h : (progStatus m d).1 ≠ 0) : effProg d m = (some (progStatus m d), m) := if_pos h

section
variable (hsound : (progStatus m d).1 = 0)
include hsound

section
variable (hnew : pgHandle d = 0)
include hnew

theorem effProg_takesHandle {h : Nat} (hfree : freeHandle m = some h) (hroom : storeFull m d h = false) :
    effProg d m = (some (0, h), putProg m (progUnder m d h)) := by
  refine (if_neg (absurd hsound)).trans ((if_pos hnew).trans ?_)
  rw [hfree]
  exact if_neg (ne_true_of_eq_false hroom)

theorem effProg_noHandle (hfree : freeHandle m = none) : effProg d m = (some (0x56, 0), m) := by
  refine (if_neg (absurd hsound)).trans ((if_pos hnew).trans ?_)
  rw [hfree]

theorem effProg_noRoom {h : Nat} (hfree : freeHandle m = some h) (hfull : storeFull m d h = true) :
    effProg d m = (some (0x56, 0), m) := by
  refine (if_neg (absurd hsound)).trans ((if_pos hnew).trans ?_)
  rw [hfree]
  exact if_pos hfull

end

section
variable (hheld : pgHandle d ≠ 0)
include hheld

theorem effProg_unknown (hnone : progImage m (pgHandle d) = none) : effProg d m = (some (0x55, 0), m) := by
  refine (if_neg (absurd hsound)).trans ((if_neg hheld).trans ?_)
  rw [hnone]

theorem effProg_image {o : Prog} (ho : progImage m (pgHandle d) = some o) : effProg d m =
    if ProgKept m d o then (some (0x55, 0), m)
    else if storeFull m d (pgHandle d) then (some (0x56, 0), m)
    else (some (0, 0), putProg m (progUnder m d (pgHandle d))) := by
  refine (if_neg (absurd hsound)).trans ((if_neg hheld).trans ?_)
  rw [ho]
  rfl

end
end

theorem effProgFree_refused (h : ∀ o, progImage m (pgHandle d) = some o →
    pgHandle d = 0 ∨ o.job ≠ dJob m d ∨ handleNamed m (pgHandle d) = true) : effProgFree d m = (some (0x55, 0), m) := by
  cases ho : progImage m (pgHandle d) with
  | none => simp only [effProgFree, ho]
  | some o => simp only [effProgFree, ho, if_pos (h o ho)]

theorem effProgFree_frees {o : Prog} (ho : progImage m (pgHandle d) = some o) (h0 : pgHandle d ≠ 0) (hj : o.job = dJob m d)
    (hnamed : handleNamed m (pgHandle d) = false) :
    effProgFree d m = (some (0, 0), { m with progs := m.progs.filter fun x => x.handle != pgHandle d }) := by
  have hfree : ¬(pgHandle d = 0 ∨ o.job ≠ dJob m d ∨ handleNamed m (pgHandle d) = true) :=
    not_or.2 ⟨h0, not_or.2 ⟨absurd hj, ne_true_of_eq_false hnamed⟩⟩
  simp only [effProgFree, ho, if_neg hfree]

end

/-! ### FOLD_SETUP (R326–R328) -/

/-- The channel is open for another job or pipeline than the descriptor's. -/
abbrev ChanForeign (m : Mach) (d : DescIn) : Prop :=
  (chanOf m (fsChan d)).en = true ∧ ((chanOf m (fsChan d)).job ≠ dJob m d ∨ (chanOf m (fsChan d)).pipe ≠ fsPipe d)

/-- The channel holds the settings of the body and the table, and the tensors of a BLK8 channel are declared (R237). -/
def withChannel (m : Mach) (d : DescIn) (l : List Byte) : Mach :=
  let c := readChannel m d l
  let m' := modChan (freeParts (chanOf m (fsChan d)).parts m) (fsChan d) fun _ => c
  if c.fmt = 2 then ((c.layers.filter fun y => y.rank == 0).map (·.tensor)).foldl (declareTensor (dJob m d)) m' else m'

section
variable {m : Mach} {d : DescIn}

theorem chanForeign_iff : ((chanOf m (fsChan d)).en && ((chanOf m (fsChan d)).job != dJob m d ||
    (chanOf m (fsChan d)).pipe != fsPipe d)) = true ↔ ChanForeign m d := by
  rw [Bool.and_eq_true, Bool.or_eq_true, bne_iff_ne, bne_iff_ne]

section
variable (hoff : fsEn d = false)
include hoff

theorem effFold_offForeign (h : ChanForeign m d) : effFold d m = (some (0x6D, 0), m) := by
  simp only [effFold, hoff, Bool.false_eq_true, if_false]
  exact if_pos (chanForeign_iff.2 h)

theorem effFold_closes (h : ¬ChanForeign m d) : effFold d m = (some (0, 0),
    modChan (freeParts (chanOf m (fsChan d)).parts m) (fsChan d) fun _ =>
      { Channel.init with widened := (chanOf m (fsChan d)).widened }) := by
  simp only [effFold, hoff, Bool.false_eq_true, if_false]
  exact if_neg (mt chanForeign_iff.1 h)

end

section
variable (hon : fsEn d = true)
include hon

theorem effFold_fault {c : Nat} (h : foldFault m d ((imageBytes d).getD []) = some c) : effFold d m = (some (0x6C, c), m) := by
  simp only [effFold, hon, if_true, h]

/-- A sound setup of a channel that is not another's, with LOSS_EN on no other channel of the pipeline and a window where its
tree is ordered, opens the channel. -/
theorem effFold_opens (h : foldFault m d ((imageBytes d).getD []) = none) (hown : ¬ChanForeign m d)
    (hloss : ∀ c, c < 32 → c ≠ fsChan d → (chanOf m c).en = true → (chanOf m c).job = dJob m d →
      (chanOf m c).pipe = fsPipe d → fsLoss d = true → (chanOf m c).lossEn = false)
    (hwindow : fsOrdered d = true → fsTopo d = 2 → regN m (offFoldWindow (fsChan d)) ≠ 0) :
    effFold d m = (some (0, 0), openChannel (fsChan d) (withChannel m d ((imageBytes d).getD []))) := by
  have hlossOnce : ¬(fsLoss d && (List.range 32).any fun c => c != fsChan d && (chanOf m c).en && (chanOf m c).job == dJob m d
      && (chanOf m c).pipe == fsPipe d && (chanOf m c).lossEn) = true := by
    simp only [Bool.and_eq_true, List.any_eq_true, List.mem_range, bne_iff_ne, beq_iff_eq]
    rintro ⟨hl, c, hc, ⟨⟨⟨hne, hen⟩, hjob⟩, hpipe⟩, hlossEn⟩
    exact ne_true_of_eq_false (hloss c hc hne hen hjob hpipe hl) hlossEn
  have hordered : ¬(fsOrdered d && fsTopo d == 2 && regN m (offFoldWindow (fsChan d)) == 0) = true := by
    simp only [Bool.and_eq_true, beq_iff_eq]
    rintro ⟨⟨ho, ht⟩, hzero⟩
    exact hwindow ho ht hzero
  simp only [effFold, hon, if_true, h]
  exact (if_neg (mt chanForeign_iff.1 hown)).trans
    ((if_neg Bool.false_ne_true).trans ((if_neg hlossOnce).trans (if_neg hordered)))

end
end

/-! ### UPDATE_SETUP (R303) and ACT_POLICY (R315) -/

/-- The policy stands before those of other stages of its pipeline. -/
def withPolicy (m : Mach) (d : DescIn) : Mach :=
  let a := readPolicy m d
  modPipe m (dJob m d) (apPipe d) fun x => { x with
    acts := a :: x.acts.filter fun b => !(decide (a.first ≤ b.first) && decide (b.last ≤ a.last)) }

/-- The policy offloads and brings the traffic above the host share. -/
abbrev PolicyExcess (m : Mach) (d : DescIn) : Prop :=
  (readPolicy m d).policy = 1 ∧ regN m offHostShare * 24 * (timing m).period < offloadBytes (withPolicy m d)

section
variable {m : Mach} {d : DescIn}

theorem effUpdate_fault {c : Nat} (h : updFault m d ((imageBytes d).getD []) = some c) :
    effUpdate d m = (some (0x66, c), m) := by
  simp only [effUpdate, h]

theorem effUpdate_sound (h : updFault m d ((imageBytes d).getD []) = none) : effUpdate d m = (some (0, 0),
    modPipe m (dJob m d) (usPipe d) fun x => { x with setup := some (readSetup d ((imageBytes d).getD [])) }) := by
  simp only [effUpdate, h]

theorem effAct_bad (h : actBad m d (readPolicy m d) = true) : effAct d m = (some (0x67, 0), m) := if_pos h

variable (h : actBad m d (readPolicy m d) = false)
include h

theorem effAct_excess (hex : PolicyExcess m d) : effAct d m = (some (0x68, 0), m) :=
  (if_neg (ne_true_of_eq_false h)).trans (if_pos hex)

theorem effAct_stands (hex : ¬PolicyExcess m d) : effAct d m = (some (0, 0), withPolicy m d) :=
  (if_neg (ne_true_of_eq_false h)).trans (if_neg hex)

end

/-- Settles O26: each descriptor by the branches of its effect. -/
theorem programsAndSetupsAreInstalled : Obligations.ProgramsAndSetupsAreInstalled := by
  intro s d hs hd
  dsimp only
  refine ⟨fun hop hkind hst hb => ?_, fun hop hkind hst => ?_, fun hop hst => ?_, fun hop hst hb => ?_, fun hop hst => ?_⟩
  · have hrun {st det : Nat} {m' : Mach} := exec_kindRow_fetched (c := .progLoad d) (eff := effProg) (m' := m') (st := st)
      (det := det) hs hd rfl (bne_iff_ne.2 hkind) hop hst hb
    refine ⟨fun h => hrun (effProg_unsound h), fun hsound hnew => ⟨fun h hfree hroom => ?_, fun hnone => ?_⟩,
      fun o hsound hheld ho => ⟨fun hkept => ?_, fun hown hfull => ?_, fun hown hroom => ?_⟩, fun hsound hheld hnone => ?_⟩
    · exact hrun (effProg_takesHandle hsound hnew hfree hroom)
    · obtain hfree | ⟨h, hfree, hfull⟩ := hnone
      · exact hrun (effProg_noHandle hsound hnew hfree)
      · exact hrun (effProg_noRoom hsound hnew hfree hfull)
    · exact hrun ((effProg_image hsound hheld ho).trans (if_pos hkept))
    · exact hrun ((effProg_image hsound hheld ho).trans ((if_neg hown).trans (if_pos hfull)))
    · exact hrun ((effProg_image hsound hheld ho).trans ((if_neg hown).trans (if_neg (ne_true_of_eq_false hroom))))
    · exact hrun (effProg_unknown hsound hheld hnone)
  · have himg : specProg.image d = false := by simp [specProg, hkind]
    have hrun {st det : Nat} {m' : Mach} := exec_kindRow_done (c := .progLoadFree d) (eff := effProgFree) (m' := m') (st := st)
      (det := det) hs hd rfl (beq_iff_eq.2 hkind) hop hst himg
    exact ⟨fun h => hrun (effProgFree_refused h), fun o ho h0 hj hnamed => hrun (effProgFree_frees ho h0 hj hnamed)⟩
  · exact ⟨fun hoff hforeign => exec_descRow_done hs hd rfl hop hst hoff (effFold_offForeign hoff hforeign),
      fun hoff hown => exec_descRow_done hs hd rfl hop hst hoff (effFold_closes hoff hown),
      fun c hon hb h => exec_descRow_fetched hs hd rfl hop hst hb (effFold_fault hon h),
      fun hon hb h hown hloss hwindow =>
        exec_descRow_fetched hs hd rfl hop hst hb (effFold_opens hon h hown hloss hwindow)⟩
  · exact ⟨fun c h => exec_descRow_fetched hs hd rfl hop hst hb (effUpdate_fault h),
      fun h => exec_descRow_fetched hs hd rfl hop hst hb (effUpdate_sound h)⟩
  · exact ⟨fun hbad => exec_descRow_done hs hd rfl hop hst rfl (effAct_bad hbad),
      fun h hex => exec_descRow_done hs hd rfl hop hst rfl (effAct_excess h hex),
      fun h hex => exec_descRow_done hs hd rfl hop hst rfl (effAct_stands h hex)⟩

end Sys2Proof.Machine
end

section
/-!
CERTIFICATE. Strand instructions (R266, R269, R270, R273–R275, R277): what a strand that stands before an instruction does, and
the local instructions of Tables 9.2 and 9.3.
-/
namespace Sys2Proof.Machine
-- As in the tests: theorems elaborated side by side would take a thread each.
set_option Elab.async false

/-! ### Registers of a strand (R266) -/

@[simp] theorem getReg_zero (a : Strand) : getReg a 0 = 0 := rfl

@[simp] theorem setReg_zero (a : Strand) (v : Word) : setReg a 0 v = a := rfl

theorem getReg_setReg_same (a : Strand) {r : Nat} (v : Word) (h0 : r ≠ 0) (hr : r < a.regs.length) :
    getReg (setReg a r v) r = v := by
  simp only [getReg, setReg, h0, if_false]
  simp [List.getD_eq_getElem?_getD, hr]

theorem getReg_setReg_other (a : Strand) {q r : Nat} (v : Word) (h : q ≠ r) : getReg (setReg a r v) q = getReg a q := by
  simp only [getReg, setReg]
  split
  · rfl
  · split
    · rfl
    · simp [List.getD_eq_getElem?_getD, h.symm]

/-! ### A strand before an instruction (R270, R277) -/

theorem idx_of_strandOf {m : Mach} {f i : Nat} {a : Strand} (h : strandOf m f i = some a) : a.idx = i :=
  beq_iff_eq.1 (List.find?_some (p := fun t : Strand => t.idx == i) h)

section
variable {m : Mach} {f i : Nat} {a : Strand} {g : Group} {w : Word} {ok : Nat → Bool}
  {body : Strand → Group → Word → Mach → Mach}

/-- A strand that may run stands before an instruction: only the instruction's own row executes it, once its registers are free
and while STEPS last. -/
theorem strandStep_standing (ha : strandOf m f i = some a) (hg : launchGroup m f a.group = some g) (hw : g.prog[a.pc]? = some w)
    (hrun : a.wait = .run ∨ a.wait = .blocked) (hworks : (facetOf m f).failed = false) : strandStep f i ok body m =
      if ok (iOp w) then
        if regsBusy m f i w then blockStrand f a g .blocked m
        else if gSteps g ≤ a.steps then strandFaultAt f i a.pc 0x5D m
        else body a g w m
      else m := by
  have hmay : (a.wait == .run || a.wait == .blocked) = true := by simpa using hrun
  simp only [strandStep, ha, hg, hw, hmay, hworks]
  cases ok (iOp w) <;> simp

theorem strandStep_executes (h : StrandAt m f i a g w) (hok : ok (iOp w) = true) : strandStep f i ok body m = body a g w m := by
  obtain ⟨ha, hg, hw, hrun, hworks, hfree, hsteps⟩ := h
  rw [strandStep_standing ha hg hw hrun hworks, if_pos hok, if_neg (ne_true_of_eq_false hfree), if_neg (Nat.not_le.2 hsteps)]

theorem strandStep_other (h : StrandAt m f i a g w) (hok : ok (iOp w) = false) : strandStep f i ok body m = m := by
  obtain ⟨ha, hg, hw, hrun, hworks, -⟩ := h
  rw [strandStep_standing ha hg hw hrun hworks, if_neg (ne_true_of_eq_false hok)]

theorem strandStep_stepsUsed (ha : strandOf m f i = some a) (hg : launchGroup m f a.group = some g) (hw : g.prog[a.pc]? = some w)
    (hrun : a.wait = .run) (hworks : (facetOf m f).failed = false) (hfree : regsBusy m f i w = false)
    (hused : gSteps g ≤ a.steps) (hok : ok (iOp w) = true) : strandStep f i ok body m = strandFaultAt f i a.pc 0x5D m := by
  rw [strandStep_standing ha hg hw (.inl hrun) hworks, if_pos hok, if_neg (ne_true_of_eq_false hfree), if_pos hused]

end

/-! ### Blocking points (R270) -/

section
variable {m : Mach} {f i : Nat} {a : Strand} {g : Group} (ha : strandOf m f i = some a) (v : StrandWait) (m' : Mach)
include ha

/-- A running strand whose WAITS are used up faults at a blocking point. -/
theorem blockStrand_waitsUsed (hused : gWaits g ≤ a.waits) :
    blockStrand f { a with wait := .run } g v m' = strandFaultAt f i a.pc 0x5D m' := by
  rw [← idx_of_strandOf ha]
  exact if_pos hused

theorem blockStrand_enters (hleft : a.waits < gWaits g) :
    blockStrand f { a with wait := .run } g v m' = modStrand m' f i fun t => { t with wait := v, waits := t.waits + 1 } := by
  rw [← idx_of_strandOf ha]
  exact if_neg (Nat.not_le.2 hleft)

end

/-! ### The commands of a strand -/

section
variable {s : State} {f i : Nat} {a : Strand} {g : Group} {w : Word} {row : Instr} {ok : Nat → Bool}
  {body : Strand → Group → Word → Mach → Mach} {m' : Mach}
  (hs : Ready s) (hf : f < 96) (hi : i < 16384) (hrow : exec row s = actReady (okStrand f i) (strandStep f i ok body) s)
include hs hf hi hrow

theorem exec_strandStep : exec row s = .next ⟨strandStep f i ok body s.m, s.pending⟩ :=
  row_runs hs (decide_eq_true ⟨hf, hi⟩) hrow

/-- The row of the instruction before which the strand stands does what the instruction does. -/
theorem exec_strandRow (h : StrandAt s.m f i a g w) (hok : ok (iOp w) = true) (hbody : body a g w s.m = m') :
    exec row s = .next ⟨m', s.pending⟩ := by
  rw [exec_strandStep hs hf hi hrow, strandStep_executes h hok, hbody]

/-- With STEPS used up the instruction faults. -/
theorem exec_strandRow_stepsUsed (ha : strandOf s.m f i = some a) (hg : launchGroup s.m f a.group = some g)
    (hw : g.prog[a.pc]? = some w) (hrun : a.wait = .run) (hworks : (facetOf s.m f).failed = false)
    (hfree : regsBusy s.m f i w = false) (hused : gSteps g ≤ a.steps) (hok : ok (iOp w) = true) :
    exec row s = .next ⟨strandFaultAt f i a.pc 0x5D s.m, s.pending⟩ := by
  rw [exec_strandStep hs hf hi hrow, strandStep_stepsUsed ha hg hw hrun hworks hfree hused hok]

theorem exec_strandRow_other (h : StrandAt s.m f i a g w) (hok : ok (iOp w) = false) : exec row s = .next s := by
  rw [exec_strandStep hs hf hi hrow, strandStep_other h hok]

end

/-! ### FCMP, STL and HALT -/

section
variable {s : State} {f i : Nat} {a : Strand} {g : Group} {w : Word}
  (hs : Ready s) (hf : f < 96) (hi : i < 16384) (h : StrandAt s.m f i a g w)
include hs hf hi h

/-- FCMP writes whether the condition that MOD names holds. -/
theorem exec_fcmp (hop : iOp w = 0x1F) : exec (.fcmp f i) s =
    let x := v32 ((getReg a (iRa w)).toNat % 2 ^ 32)
    let y := v32 ((getReg a (iRb w)).toNat % 2 ^ 32)
    let holds := if iMod w = 0 then fpEq x y else if iMod w = 1 then fpLt false x y else fpLt false x y || fpEq x y
    .next ⟨retireInstr f i (putResult w (word (b2n holds)) 0) s.m, s.pending⟩ := by
  refine exec_strandRow hs hf hi rfl h (beq_iff_eq.2 hop) ?_
  dsimp only
  generalize iMod w = mod
  match mod with
  | 0 => rfl
  | 1 => rfl
  | _ + 2 => rfl

section
variable (hop : iOp w = 0x29) (hst : strandLocal s.m g.job f (iAddr a w).toNat (2 ^ iSize w) (2 ^ iSize w) .write = 0)
include hop hst

/-- A store into a payload ring without credit waits. -/
theorem exec_stl_waits {k : Nat}
    (hplace : payloadWrite s.m f g.sc ⟨self s.m, f, 0, (iAddr a w).toNat⟩ (2 ^ iSize w) = .wait k) :
    exec (.stl f i) s = .next ⟨blockStrand f a g .blocked (beginWait k s.m), s.pending⟩ := by
  refine exec_strandRow hs hf hi rfl h (beq_iff_eq.2 hop) ((if_neg (not_not_intro hst)).trans ?_)
  rw [hplace]

theorem exec_stl_stores {l : Lat} {k : Option Nat} {m : Mach}
    (hplace : payloadWrite s.m f g.sc ⟨self s.m, f, 0, (iAddr a w).toNat⟩ (2 ^ iSize w) = .go l k m) : exec (.stl f i) s =
      .next ⟨retireInstr f i id (writeChecked m f 0 l.off (leBytes (2 ^ iSize w) (getReg a (iRb w)).toNat)), s.pending⟩ := by
  refine exec_strandRow hs hf hi rfl h (beq_iff_eq.2 hop) ((if_neg (not_not_intro hst)).trans ?_)
  rw [hplace]

end

theorem exec_halt (hop : iOp w = 1) : exec (.halt f i) s = .next ⟨
    if (strandFlights s.m f i).isEmpty then reapStrand f i (modStrand s.m f i fun t => { t with wait := .done })
    else blockStrand f { a with wait := .run } g .halting s.m, s.pending⟩ :=
  exec_strandRow hs hf hi rfl h (beq_iff_eq.2 hop) rfl

end

/-- Settles O36: each instruction of Tables 9.2 and 9.3 by the row that executes it, the memory instructions by their checks, HALT
by its open operations. -/
theorem strandInstructionsComputeByTheirTables : Obligations.StrandInstructionsComputeByTheirTables := by
  refine ⟨fun a r q v => ⟨getReg_zero a, setReg_zero a v, getReg_setReg_same a v, getReg_setReg_other a v⟩,
    fun s f i a g w hs hf hi h => ?_, fun s f i a g w hs hf hi ha hg hw hrun hworks hfree hused =>
      ⟨fun hop => ?_, fun hlo hhi => ?_⟩⟩
  · intro ra b lo wrote n addr
    have hrun {row : Instr} {ok : Nat → Bool} {body : Strand → Group → Word → Mach → Mach} {m' : Mach}
        (hrow : exec row s = actReady (okStrand f i) (strandStep f i ok body) s) :=
      exec_strandRow (m' := m') hs hf hi hrow h
    have ha : strandOf s.m f i = some a := h.1
    refine ⟨fun hop => ?_, fun hlo hhi => ?_, fun hlo hhi => ?_, fun hop => ?_, fun hop => ?_, fun hlo hhi => ?_,
      fun hop => ⟨fun hst => ?_, fun hst hue => ?_, fun hst hue => ?_⟩,
      fun hop => ⟨fun hst => ?_, fun k hst hplace => ?_, fun l k m hst hplace => ?_⟩,
      fun hop => ⟨fun hopen => ?_, fun hopen hused => ?_, fun hopen hleft => ?_⟩, fun hop => ?_⟩
    · exact hrun rfl (beq_iff_eq.2 hop) rfl
    · exact hrun rfl (decide_eq_true ⟨hlo, hhi⟩) rfl
    · exact hrun rfl (decide_eq_true ⟨hlo, hhi⟩) rfl
    · exact hrun rfl (beq_iff_eq.2 hop) rfl
    · exact exec_fcmp hs hf hi h hop
    · exact hrun rfl (decide_eq_true ⟨hlo, hhi⟩) rfl
    · exact hrun rfl (beq_iff_eq.2 hop) (if_pos hst)
    · exact hrun rfl (beq_iff_eq.2 hop) ((if_neg (not_not_intro hst)).trans (if_pos hue))
    · exact hrun rfl (beq_iff_eq.2 hop) ((if_neg (not_not_intro hst)).trans (if_neg (ne_true_of_eq_false hue)))
    · exact hrun rfl (beq_iff_eq.2 hop) (if_pos hst)
    · exact exec_stl_waits hs hf hi h hop hst hplace
    · exact exec_stl_stores hs hf hi h hop hst hplace
    · rw [exec_halt hs hf hi h hop, if_pos (List.isEmpty_iff.2 hopen)]
    · rw [exec_halt hs hf hi h hop, if_neg (mt List.isEmpty_iff.1 hopen), blockStrand_waitsUsed ha _ _ hused]
    · rw [exec_halt hs hf hi h hop, if_neg (mt List.isEmpty_iff.1 hopen), blockStrand_enters ha _ _ hleft]
    · exact exec_strandRow_other hs hf hi rfl h (beq_false_of_ne hop)
  · exact exec_strandRow_stepsUsed hs hf hi rfl ha hg hw hrun hworks hfree hused (beq_iff_eq.2 hop)
  · exact exec_strandRow_stepsUsed hs hf hi rfl ha hg hw hrun hworks hfree hused (decide_eq_true ⟨hlo, hhi⟩)

end Sys2Proof.Machine
end

section
/-!
CERTIFICATE. Remote operations of strands and their waits (R270, R276–R283, R286): an operation that sets out, block operations,
TADD with REL, TWAIT, BAR and FENCE.
-/
namespace Sys2Proof.Machine
-- As in the tests: theorems elaborated side by side would take a thread each.
set_option Elab.async false

/-- A result without flags is a register write. -/
theorem putResult_noFlags (w v : Word) : putResult w v 0 = (setReg · (iRd w) v) := by
  funext t
  simp only [putResult, Nat.or_zero]

/-! ### Issuing (R276, R277, R138) -/

section
variable (f i : Nat) (a : Strand) (g : Group) (w : Word) (n : Nat) (data : List Byte) (dest : Option Nat)

/-- The operation that an instruction issues, to the place `l`, of the number that comes next. -/
def strandFlight (l : Lat) (chord : Option Nat) (m : Mach) : Flight :=
  { opid := m.nextOp, issuer := .strand f i, job := g.job
    req := ⟨word (latAddr l), BitVec.ofNat 8 (iOp w), iMod w, n, data, getReg a (iRc w)⟩
    dest := dest, localOfs := (getReg a (iRb w)).toNat, isWrite := opIsWrite (iOp w), sentAt := m.now, state := .requested
    word := none, via := none, chord := chord, pc := a.pc, orphan := false, ue := false, stale := false }

/-- The operation sets out and the strand runs on. -/
def strandSends (l : Lat) (chord : Option Nat) (m : Mach) : Mach :=
  sendFlight (strandFlight f i a g w n data dest l chord m)
    (retireInstr f i (addMoved w n) { m with nextOp := m.nextOp + 1 })

/-- The group of a strand has written into a chord's payload slots (R138). -/
def touchChord (k : Nat) (m : Mach) : Mach :=
  modGroup m f a.group fun g => { g with touched := if g.touched.contains k then g.touched else g.touched ++ [k] }

end

section
variable {f i : Nat} {a : Strand} {g : Group} {w : Word} {n al : Nat} {data : List Byte} {dest : Option Nat} {m : Mach}

theorem strandRemote_refused (hst : remoteStatus m g.job (iOp w) al n (iAddr a w) ≠ 0) :
    strandRemote f i a g w n al data dest m = strandFaultAt f i a.pc (remoteStatus m g.job (iOp w) al n (iAddr a w)) m :=
  if_pos hst

section
variable (hst : remoteStatus m g.job (iOp w) al n (iAddr a w) = 0)
include hst

theorem strandRemote_ninth (hfull : 8 ≤ (strandFlights m f i).length) :
    strandRemote f i a g w n al data dest m = blockStrand f a g .blocked m := (if_neg (not_not_intro hst)).trans (if_pos hfull)

variable (hroom : (strandFlights m f i).length < 8)
include hroom

theorem strandRemote_direct (h1 : iOp w ≠ 0x31) (h3 : iOp w ≠ 0x33) : strandRemote f i a g w n al data dest m =
    strandSends f i a g w n data dest (latOf (iAddr a w).toNat) none m :=
  (if_neg (not_not_intro hst)).trans ((if_neg (Nat.not_le.2 hroom)).trans (if_pos ⟨h1, h3⟩))

variable (hwrite : iOp w = 0x31 ∨ iOp w = 0x33)
include hwrite

/-- A token for which every replica is full goes nowhere. -/
theorem strandRemote_lost {m1 : Mach} (hlost : placeToken m f g.sc (iOp w) (latOf (iAddr a w).toNat) = .lost m1) :
    strandRemote f i a g w n al data dest m = retireInstr f i (addMoved w n) m1 := by
  refine (if_neg (not_not_intro hst)).trans ((if_neg (Nat.not_le.2 hroom)).trans ((if_neg (by omega)).trans ?_))
  rw [hlost]

variable {l : Lat} {m1 : Mach} (hplaced : placeToken m f g.sc (iOp w) (latOf (iAddr a w).toNat) = .go l m1)
include hplaced

/-- A write whose entry has no credit waits. -/
theorem strandRemote_waits {k : Nat} (hwait : payloadWrite m1 f g.sc l n = .wait k) :
    strandRemote f i a g w n al data dest m = blockStrand f a g .blocked (beginWait k m) := by
  refine (if_neg (not_not_intro hst)).trans ((if_neg (Nat.not_le.2 hroom)).trans ((if_neg (by omega)).trans ?_))
  simp only [hplaced, hwait]

variable {l2 : Lat} {k : Option Nat} {m2 : Mach} (hgo : payloadWrite m1 f g.sc l n = .go l2 k m2)
include hgo

/-- A write into a payload ring goes to its slot, and the group has touched the ring's chord. -/
theorem strandRemote_ring {x : Nat} (hring : payloadChord m2 f g.sc (word (latAddr l2)) = some x) :
    strandRemote f i a g w n al data dest m = strandSends f i a g w n data dest l2 k (touchChord f a x m2) := by
  refine (if_neg (not_not_intro hst)).trans ((if_neg (Nat.not_le.2 hroom)).trans ((if_neg (by omega)).trans ?_))
  simp only [hplaced, hgo, hring]
  rfl

theorem strandRemote_elsewhere (hring : payloadChord m2 f g.sc (word (latAddr l2)) = none) :
    strandRemote f i a g w n al data dest m = strandSends f i a g w n data dest l2 k m2 := by
  refine (if_neg (not_not_intro hst)).trans ((if_neg (Nat.not_le.2 hroom)).trans ((if_neg (by omega)).trans ?_))
  simp only [hplaced, hgo, hring]
  rfl

end

end

/-! ### Block operations (R270) -/

/-- Status of the checks of a block operation: those of the remote side, then those of the local side. -/
def blockStatus (m : Mach) (f : Nat) (a : Strand) (g : Group) (w : Word) (p : Perm) : Nat :=
  let st := remoteStatus m g.job (iOp w) 64 (2 ^ iSize w) (iAddr a w)
  if st ≠ 0 then st else strandLocal m g.job f (getReg a (iRb w)).toNat (2 ^ iSize w) 64 p

section
variable {f i : Nat} {a : Strand} {g : Group} {w : Word} {p : Perm} {m : Mach}

theorem strandBlock_refused (hst : blockStatus m f a g w p ≠ 0) :
    strandBlock f i a g w p m = strandFaultAt f i a.pc (blockStatus m f a g w p) m := if_pos hst

variable (hst : blockStatus m f a g w p = 0)
include hst

theorem strandBlock_bytesUsed (hused : gBytes g < a.bytes + 2 ^ iSize w) :
    strandBlock f i a g w p m = strandFaultAt f i a.pc 0x5D m := (if_neg (not_not_intro hst)).trans (if_pos hused)

variable (hleft : a.bytes + 2 ^ iSize w ≤ gBytes g)
include hleft

theorem strandBlock_ninth (hfull : 8 ≤ (strandFlights m f i).length) :
    strandBlock f i a g w p m = blockStrand f a g .blocked m :=
  (if_neg (not_not_intro hst)).trans ((if_neg (Nat.not_lt.2 hleft)).trans (if_pos hfull))

variable (hroom : ¬8 ≤ (strandFlights m f i).length)
include hroom

theorem strandBlock_get (hp : p = .write) :
    strandBlock f i a g w p m = strandRemote f i a g w (2 ^ iSize w) 64 [] none m := by
  subst hp
  exact (if_neg (not_not_intro hst)).trans ((if_neg (Nat.not_lt.2 hleft)).trans ((if_neg hroom).trans (if_pos rfl)))

/-- A block put reads its bytes when it is issued. -/
theorem strandBlock_put (hp : p = .read) : strandBlock f i a g w p m =
    let x := readChecked m f 0 (getReg a (iRb w)).toNat (2 ^ iSize w)
    if x.2.1 then strandFaultAt f i a.pc 0x0F x.2.2 else strandRemote f i a g w (2 ^ iSize w) 64 x.1 none x.2.2 := by
  subst hp
  exact (if_neg (not_not_intro hst)).trans ((if_neg (Nat.not_lt.2 hleft)).trans ((if_neg hroom).trans (if_neg Bool.false_ne_true)))

end

/-- What a block operation does on its local side: a get writes it, a put reads it. -/
def blockPerm (w : Word) : Perm := if iOp w = 0x32 then .write else .read

section
variable {s : State} {f i : Nat} {a : Strand} {g : Group} {w : Word}
  (hs : Ready s) (hf : f < 96) (hi : i < 16384) (h : StrandAt s.m f i a g w)
include hs hf hi h

section
variable {m' : Mach} (hbody : strandBlock f i a g w (blockPerm w) s.m = m')
include hbody

theorem exec_getb (hop : iOp w = 0x32) : exec (.getb f i) s = .next ⟨m', s.pending⟩ := by
  rw [blockPerm, if_pos hop] at hbody
  exact exec_strandRow hs hf hi rfl h (beq_iff_eq.2 hop) hbody

theorem exec_putb (hop : iOp w = 0x33) : exec (.putb f i) s = .next ⟨m', s.pending⟩ := by
  rw [blockPerm, if_neg (by omega)] at hbody
  exact exec_strandRow hs hf hi rfl h (beq_iff_eq.2 hop) hbody

theorem exec_block (hop : iOp w = 0x32 ∨ iOp w = 0x33) :
    exec (if iOp w = 0x32 then .getb f i else .putb f i) s = .next ⟨m', s.pending⟩ := by
  obtain hget | hput := hop
  · rw [if_pos hget, exec_getb hs hf hi h hbody hget]
  · rw [if_neg (by omega), exec_putb hs hf hi h hbody hput]

end

/-! ### TWAIT (R282) -/

section
variable (hop : iOp w = 0x3A) (hst : waitStatus s.m g.job f (iAddr a w).toNat = 0)
include hop hst

/-- A tally that meets the condition gives 0 at once. -/
theorem exec_twait_met
    (hmet : tallyMet (tallyGet s.m f (iAddr a w).toNat) ((getReg a (iRb w)).setWidth 32) (iMod w == 1) = true) :
    exec (.twait f i) s = .next ⟨retireInstr f i (setReg · (iRd w) 0) s.m, s.pending⟩ := by
  refine exec_strandRow hs hf hi rfl h (beq_iff_eq.2 hop) ((if_neg (not_not_intro hst)).trans ((if_pos hmet).trans ?_))
  rw [putResult_noFlags]

variable (hmet : tallyMet (tallyGet s.m f (iAddr a w).toNat) ((getReg a (iRb w)).setWidth 32) (iMod w == 1) = false)
include hmet

theorem exec_twait_waitsUsed (hused : gWaits g ≤ a.waits) :
    exec (.twait f i) s = .next ⟨strandFaultAt f i a.pc 0x5D s.m, s.pending⟩ :=
  exec_strandRow hs hf hi rfl h (beq_iff_eq.2 hop)
    ((if_neg (not_not_intro hst)).trans ((if_neg (ne_true_of_eq_false hmet)).trans (if_pos hused)))

/-- The strand waits on the tally; without a time limit it has no deadline. -/
theorem exec_twait_waits (hleft : a.waits < gWaits g) {dl : Option Nat}
    (hdl : (if (getReg a (iRc w)).toNat = 0 then none else some (s.m.now + (getReg a (iRc w)).toNat)) = dl) :
    exec (.twait f i) s = .next ⟨retireInstr f i (fun u => { u with
      waits := u.waits + 1
      wait := .tally (iAddr a w).toNat ((getReg a (iRb w)).setWidth 32) (iMod w == 1) dl (iRd w) }) s.m, s.pending⟩ := by
  subst hdl
  exact exec_strandRow hs hf hi rfl h (beq_iff_eq.2 hop)
    ((if_neg (not_not_intro hst)).trans ((if_neg (ne_true_of_eq_false hmet)).trans (if_neg (Nat.not_le.2 hleft))))

end

end

/-- Settles O37: an operation by its checks, the open operations and the place of its write; block operations by their local
side and BYTES; TADD with REL and FENCE by the open operations, TWAIT by its tally. -/
theorem strandRemoteOperationsAndWaits : Obligations.StrandRemoteOperationsAndWaits := by
  refine ⟨fun m f i a g w n al data dest => ⟨strandRemote_refused, strandRemote_ninth, fun hst hroom =>
      ⟨strandRemote_direct hst hroom, fun hwrite => ⟨fun m1 hlost => strandRemote_lost hst hroom hwrite hlost,
        fun l m1 k hplaced hwait => strandRemote_waits hst hroom hwrite hplaced hwait, fun l m1 l2 k m2 hplaced hgo =>
          ⟨fun x hring => strandRemote_ring hst hroom hwrite hplaced hgo hring,
            fun hring => strandRemote_elsewhere hst hroom hwrite hplaced hgo hring⟩⟩⟩⟩,
    fun s f i a g w hs hf hi h => ?_⟩
  intro n issue fault block rbv
  have hrun {row : Instr} {ok : Nat → Bool} {body : Strand → Group → Word → Mach → Mach} {m' : Mach}
      (hrow : exec row s = actReady (okStrand f i) (strandStep f i ok body) s) :=
    exec_strandRow (m' := m') hs hf hi hrow h
  refine ⟨fun hop => hrun rfl (beq_iff_eq.2 hop) rfl, fun hop => hrun rfl (beq_iff_eq.2 hop) rfl,
    fun hop => hrun rfl (beq_iff_eq.2 hop) rfl, fun hop => hrun rfl (beq_iff_eq.2 hop) rfl,
    fun hop => ⟨fun hrel hopen => ?_, fun hgo => ?_⟩, fun hop => hrun rfl (beq_iff_eq.2 hop) rfl, fun hop => ?_,
    fun hop => ⟨fun hst => ?_, fun hst hmet => ?_, fun hst hmet hused => ?_,
      fun hst hmet hleft => ⟨fun hlim => ?_, fun hlim => ?_⟩⟩,
    fun hop => hrun rfl (beq_iff_eq.2 hop) rfl, fun hop => ⟨fun hheld => ?_, fun hfree => ?_⟩⟩
  · exact hrun rfl (beq_iff_eq.2 hop) (if_pos (by rw [tb, hrel, hopen, Bool.and_self]))
  · exact hrun rfl (beq_iff_eq.2 hop) (if_neg (by obtain h | h := hgo <;> simp [tb, h]))
  · refine ⟨fun hst => exec_block hs hf hi h (strandBlock_refused hst) hop,
      fun hst hused => exec_block hs hf hi h (strandBlock_bytesUsed hst hused) hop,
      fun hst hleft hfull => exec_block hs hf hi h (strandBlock_ninth hst hleft hfull) hop,
      fun hst hleft hroom hget => exec_getb hs hf hi h (strandBlock_get hst hleft hroom (if_pos hget)) hget,
      fun hst hleft hroom hput => ?_⟩
    have hbody := strandBlock_put hst hleft hroom (if_neg (by omega))
    exact ⟨fun hue => exec_putb hs hf hi h (hbody.trans (if_pos hue)) hput,
      fun hue => exec_putb hs hf hi h (hbody.trans (if_neg (ne_true_of_eq_false hue))) hput⟩
  · exact hrun rfl (beq_iff_eq.2 hop) (if_pos hst)
  · exact exec_twait_met hs hf hi h hop hst hmet
  · exact exec_twait_waitsUsed hs hf hi h hop hst hmet hused
  · exact exec_twait_waits hs hf hi h hop hst hmet hleft (if_pos hlim)
  · exact exec_twait_waits hs hf hi h hop hst hmet hleft (if_neg hlim)
  · exact hrun rfl (beq_iff_eq.2 hop) (if_pos hheld)
  · exact hrun rfl (beq_iff_eq.2 hop) (if_neg (ne_true_of_eq_false hfree))

end Sys2Proof.Machine
end

section
/-!
CERTIFICATE. Remote operations (R276, R278–R280, R289, R290, R432, R433, R461): their effect at the target, their answers,
what settles them, and their timeouts with those of shard writes (R370, R379).
-/
namespace Sys2Proof.Machine
-- As in the tests: theorems elaborated side by side would take a thread each.
set_option Elab.async false

/-! ### The effect at the target (R278, R279, R289) -/

section
variable {m : Mach} {r : RemoteReq} {far : Bool}

theorem perform_missing (h : targetMissing m (latOf r.laddr.toNat) far = true) : perform r far m = (0x5E, [], m) := if_pos h

section
variable (h : targetMissing m (latOf r.laddr.toNat) far = false)
include h

theorem perform_get (hop : r.op.toNat = 0x30 ∨ r.op.toNat = 0x32) : perform r far m =
    let x := readSpace m (latOf r.laddr.toNat) r.bytes
    (if x.2.1 then 0x0F else 0, x.1, x.2.2) :=
  (if_neg (ne_true_of_eq_false h)).trans (if_pos hop)

theorem perform_put (hop : r.op.toNat = 0x31 ∨ r.op.toNat = 0x33) (hspace : (latOf r.laddr.toNat).space ≠ 3) :
    perform r far m =
      (0, [], writeChecked m (latOf r.laddr.toNat).facet (latOf r.laddr.toNat).space (latOf r.laddr.toNat).off r.data) :=
  (if_neg (ne_true_of_eq_false h)).trans ((if_neg (by omega)).trans ((if_pos hop).trans (if_neg hspace)))

theorem perform_window (hop : r.op.toNat = 0x31 ∨ r.op.toNat = 0x33) (hspace : (latOf r.laddr.toNat).space = 3) :
    perform r far m =
      let w := windowWrite (latOf r.laddr.toNat).facet (latOf r.laddr.toNat).off r.data m
      (0, [], afterWindow (latOf r.laddr.toNat).facet (latOf r.laddr.toNat).off (w.1, countForeign w.1 w.2)) :=
  (if_neg (ne_true_of_eq_false h)).trans ((if_neg (by omega)).trans ((if_pos hop).trans (if_pos hspace)))

theorem perform_atomic (hop : r.op.toNat = 0x34 ∨ r.op.toNat = 0x35) : perform r far m =
    let l := latOf r.laddr.toNat
    let x := readChecked m l.facet l.space l.off r.bytes
    (if x.2.1 then 0x0F else 0, if r.op.toNat = 0x34 then x.1 else [], writeChecked x.2.2 l.facet l.space l.off
      (leBytes r.bytes (atomValue r.mod r.bytes (leNat x.1) (leNat r.data % 2 ^ (8 * r.bytes))
        (r.compare.toNat % 2 ^ (8 * r.bytes))))) :=
  (if_neg (ne_true_of_eq_false h)).trans ((if_neg (by omega)).trans ((if_neg (by omega)).trans (if_pos hop)))

theorem perform_tallyAdd (hop : r.op.toNat = 0x38) : perform r far m =
    (0, [], tallyOp (latOf r.laddr.toNat).facet ((latOf r.laddr.toNat).off / 4) r.mod (BitVec.ofNat 32 (leNat r.data)) m) :=
  (if_neg (ne_true_of_eq_false h)).trans ((if_neg (by omega)).trans ((if_neg (by omega)).trans ((if_neg (by omega)).trans
    (if_pos hop))))

theorem perform_tallyRead (hop : r.op.toNat = 0x39) : perform r far m =
    (0, leBytes 4 (tallyGet m (latOf r.laddr.toNat).facet ((latOf r.laddr.toNat).off / 4)).toNat, m) :=
  (if_neg (ne_true_of_eq_false h)).trans ((if_neg (by omega)).trans ((if_neg (by omega)).trans ((if_neg (by omega)).trans
    (if_neg (by omega)))))

end

end

/-! ### Requests on the panel and from other modules -/

/-- The operation `opid` has taken effect: its issuer's reply waits, unless the issuer gave it up; a write of a chord that was
removed has no effect (R123). -/
def takenEffect (opid : Nat) (fl : Flight) (m : Mach) : Mach :=
  let x := if fl.stale then (0, [], m) else perform fl.req false m
  { x.2.2 with flights :=
      if fl.orphan then x.2.2.flights.filter fun g => g.opid != opid
      else x.2.2.flights.map fun g => if g.opid == opid then { g with state := .replied x.1 x.2.1 } else g }

section
variable {m : Mach} {opid : Nat} {fl : Flight} (hfl : (m.flights.find? fun fl => fl.opid == opid) = some fl)
include hfl

theorem reqLocal_requested (hmod : (latOf fl.req.laddr.toNat).mod = self m) (hstate : fl.state = .requested) : reqLocal opid m =
    if earlierOp m fl || targetHeld m (latOf fl.req.laddr.toNat) then m else takenEffect opid fl m := by
  have hhere : ¬((latOf fl.req.laddr.toNat).mod ≠ self m ∨ fl.state ≠ .requested) := by simp [hmod, hstate]
  simp only [reqLocal, hfl, if_neg hhere]
  rfl

end

section
variable {m : Mach} {src opid : Nat} {r : RemoteReq}

theorem reqFar_misrouted (hmod : (latOf r.laddr.toNat).mod ≠ self m) :
    reqFar src opid r m = misrouted m src 0x10 (latOf r.laddr.toNat).mod := if_pos hmod

variable (hmod : (latOf r.laddr.toNat).mod = self m)
include hmod

theorem reqFar_held (hheld : targetHeld m (latOf r.laddr.toNat) = true) :
    reqFar src opid r m = { m with heldReqs := m.heldReqs ++ [(src, opid, r)] } :=
  (if_neg (not_not_intro hmod)).trans (if_pos hheld)

theorem reqFar_answers (hheld : targetHeld m (latOf r.laddr.toNat) = false) : reqFar src opid r m =
    sendMsg (perform r true m).2.2 src (.resp opid (some ((perform r true m).1, (perform r true m).2.1))) :=
  (if_neg (not_not_intro hmod)).trans (if_neg (ne_true_of_eq_false hheld))

end

/-! ### Replies (R279, R290) -/

section
variable {m : Mach} {opid : Nat}

theorem respOp_unknown (hnone : (m.flights.find? fun fl => fl.opid == opid) = none) (far : Option (Nat × List Byte)) :
    respOp opid far m = m := by
  simp only [respOp, hnone]

variable {fl : Flight} (hfl : (m.flights.find? fun fl => fl.opid == opid) = some fl)
include hfl

theorem respOp_replied {st : Nat} {data : List Byte} (hstate : fl.state = .replied st data) :
    respOp opid none m = settle fl st data m := by
  simp only [respOp, hfl, hstate]

theorem respOp_far (hstate : fl.state = .requested) (hmod : (latOf fl.req.laddr.toNat).mod ≠ self m) (st : Nat)
    (data : List Byte) : respOp opid (some (st, data)) m = settle fl st data m := by
  simp only [respOp, hfl, hstate, if_neg hmod]

end

/-! ### What an event leaves of the registers -/

theorem stickyReg_ne_moduleNum {block off n : Nat} (h : stickyReg block = some (off, n)) : off ≠ offModuleNum := by
  unfold stickyReg at h
  split at h <;> cases h <;> decide

@[simp] theorem self_modFocus (m : Mach) (g : Focus → Focus) : self (modFocus m g) = self m := rfl

@[simp] theorem self_atTime (m : Mach) (t : Nat) : self (atTime m t) = self m := rfl

@[simp] theorem self_setSticky (m : Mach) (code : Nat) : self (setSticky m code) = self m := by
  unfold setSticky
  split
  · next off n hsticky =>
    split
    · exact congrArg (wf · 11 0) (kvGet_kvSet_other _ _ off offModuleNum _ (stickyReg_ne_moduleNum hsticky).symm m.regs)
    · rfl
  · rfl

@[simp] theorem self_enqueue (m : Mach) (r : EvRec) : self (enqueue m r) = self m := by
  unfold enqueue
  split
  · rfl
  · dsimp only
    split <;> simp

/-- An event leaves the module's number. -/
@[simp] theorem self_raise (m : Mach) (code src : Nat) (job : Option Nat) (d : List Nat) :
    self (raise m code src job d) = self m := by
  unfold raise
  split
  · rfl
  · dsimp only
    split <;> simp

/-! ### Timeouts of operations (R290) -/

/-- Facet that REMOTE_TIMEOUT names for an operation. -/
def timeoutFacet (fl : Flight) : Nat :=
  match fl.issuer with
  | .strand f _ => f
  | .sc f _ => f
  | .gather f _ => f
  | .fold _ => fl.pc

/-- The operation can still reach its target: it waits for its route, or it is on the panel. -/
def reachable (fl : Flight) (m : Mach) : Bool :=
  fl.state == .waiting || (decide ((latOf fl.req.laddr.toNat).mod = self m) && fl.state == .requested)

/-- The issuer gives the operation up: the event that names facet `f`, and the status that settles it; one that can still
reach its target goes on unseen. -/
def givenUp (fl : Flight) (f : Nat) (m : Mach) : Mach :=
  let m1 := raise m remoteTimeoutEv (srcFacet f 3) (some fl.job) [f, fl.req.laddr.toNat]
  let m2 := settle fl 0x60 [] m1
  if reachable fl m1 then { m2 with flights := m2.flights ++ [{ fl with orphan := true }] } else m2

section
variable {fl : Flight} {f : Nat} {m : Mach}

theorem reachable_raise (code src : Nat) (job : Option Nat) (d : List Nat) :
    reachable fl (raise m code src job d) = reachable fl m := by
  rw [reachable, self_raise, reachable]

theorem reachable_atTime (t : Nat) : reachable fl (atTime m t) = reachable fl m := by
  rw [reachable, self_atTime, reachable]

theorem givenUp_reachable (h : reachable fl m = true) : givenUp fl f m =
    let m' := settle fl 0x60 [] (raise m remoteTimeoutEv (srcFacet f 3) (some fl.job) [f, fl.req.laddr.toNat])
    { m' with flights := m'.flights ++ [{ fl with orphan := true }] } :=
  if_pos ((reachable_raise ..).trans h)

theorem givenUp_over (h : reachable fl m = false) : givenUp fl f m =
    settle fl 0x60 [] (raise m remoteTimeoutEv (srcFacet f 3) (some fl.job) [f, fl.req.laddr.toNat]) :=
  if_neg (ne_true_of_eq_false ((reachable_raise ..).trans h))

end

section
variable {m : Mach} {opid : Nat}

theorem remoteTimeoutOp_unknown (hnone : (m.flights.find? fun fl => fl.opid == opid) = none) : remoteTimeoutOp opid m = m := by
  simp only [remoteTimeoutOp, hnone]

variable {fl : Flight} (hfl : (m.flights.find? fun fl => fl.opid == opid) = some fl)
include hfl

theorem remoteTimeoutOp_exempt (h : fl.orphan = true ∨ isHeader fl = true) : remoteTimeoutOp opid m = m := by
  simp only [remoteTimeoutOp, hfl, Bool.or_eq_true, if_pos h]

theorem remoteTimeoutOp_due (horphan : fl.orphan = false) (hheader : isHeader fl = false)
    (hdue : fl.sentAt + 100 * regN m offRemoteTimeout ≤ (atTime m (fl.sentAt + 100 * regN m offRemoteTimeout)).now) :
    remoteTimeoutOp opid m = givenUp fl (timeoutFacet fl) (atTime m (fl.sentAt + 100 * regN m offRemoteTimeout)) := by
  have hopen : (fl.orphan || isHeader fl) = false := by rw [horphan, hheader, Bool.or_self]
  unfold remoteTimeoutOp
  rw [hfl]
  refine (if_neg (ne_true_of_eq_false hopen)).trans ((byTime_reached hdue _).trans ?_)
  refine congrArg (givenUp fl · (atTime m (fl.sentAt + 100 * regN m offRemoteTimeout))) (?_ : _ = timeoutFacet fl)
  unfold timeoutFacet
  cases fl.issuer <;> rfl

end

/-! ### Timeouts of shard writes (R370, R379) -/

/-- The write of a shard of a cut of job `j` that has this operation number. -/
def cutWrite (m : Mach) (opid j : Nat) : Option (Nat × Nat × Nat × Nat × Nat) :=
  match (snapOf m j).cut with
  | some c => (c.sent.find? fun x => x.1 == opid).map fun x => (j, x)
  | none => none

/-- The rebuilt shard of job `j` whose write has this operation number. -/
def movedWrite (m : Mach) (opid j : Nat) : Option (Nat × MovedShard) :=
  ((snapOf m j).moving.find? fun y => y.op == opid).map fun y => (j, y)

section
variable {m : Mach} {opid j : Nat}

theorem cutWrite_none (h : ∀ c ∈ (snapOf m j).cut, ∀ y ∈ c.sent, y.1 ≠ opid) : cutWrite m opid j = none := by
  unfold cutWrite
  split
  · next c hc =>
    rw [List.find?_eq_none.2 fun y hy => by simpa using h c hc y hy]
    rfl
  · rfl

theorem cutWrite_some {c : Cut} {x : Nat × Nat × Nat × Nat} (hc : (snapOf m j).cut = some c)
    (hx : (c.sent.find? fun y => y.1 == opid) = some x) : cutWrite m opid j = some (j, x) := by
  simp only [cutWrite, hc, hx, Option.map_some]

theorem movedWrite_none (h : ∀ y ∈ (snapOf m j).moving, y.op ≠ opid) : movedWrite m opid j = none := by
  rw [movedWrite, List.find?_eq_none.2 fun y hy => by simpa using h y hy]
  rfl

theorem movedWrite_some {v : MovedShard} (hv : ((snapOf m j).moving.find? fun y => y.op == opid) = some v) :
    movedWrite m opid j = some (j, v) := by
  rw [movedWrite, hv, Option.map_some]

end

/-- A search through a range ends at the first number at which it succeeds. -/
theorem findSome?_range_first {α : Type} {p : Nat → Option α} {j : Nat} {x : α} (hx : p j = some x)
    (hbelow : ∀ i < j, p i = none) : ∀ {n : Nat}, j < n → (List.range n).findSome? p = some x
  | n + 1, hj => by
    rw [List.range_succ, List.findSome?_append]
    obtain hlt | rfl := Nat.lt_succ_iff_lt_or_eq.1 hj
    · rw [findSome?_range_first hx hbelow hlt, Option.some_or]
    · rw [List.findSome?_eq_none_iff.2 fun i hi => hbelow i (List.mem_range.1 hi), List.findSome?_cons, hx]
      rfl

section
variable {m : Mach} {opid : Nat}

/-- The write of a cut goes to its shard's next target. -/
theorem anyTimeoutOp_cut {j : Nat} {x : Nat × Nat × Nat × Nat}
    (h : (List.range 16).findSome? (cutWrite m opid) = some (j, x)) :
    anyTimeoutOp opid m = byTime (x.2.2.2 + 100 * regN m offRemoteTimeout)
      (fun m => turnAway j x.2.1 x.2.2.1 (modCut j (fun c => { c with sent := c.sent.filter fun y => y != x }) m)) m := by
  rw [← List.head?_filterMap] at h
  unfold anyTimeoutOp
  dsimp only
  split
  · next hnone _ => exact absurd (h.symm.trans hnone) (Option.some_ne_none _)
  · next hsome =>
    obtain ⟨rfl, rfl⟩ := Prod.mk.inj (Option.some.inj (h.symm.trans hsome))
    rfl
  · next hnone _ => exact absurd (h.symm.trans hnone) (Option.some_ne_none _)

variable (hcut : (List.range 16).findSome? (cutWrite m opid) = none)
include hcut

/-- A rebuilt shard that no one acknowledges goes to its next target. -/
theorem anyTimeoutOp_moved {j : Nat} {v : MovedShard} (h : (List.range 16).findSome? (movedWrite m opid) = some (j, v)) :
    anyTimeoutOp opid m = byTime (v.sentAt + 100 * regN m offRemoteTimeout) (settleMoved j v true) m := by
  rw [← List.head?_filterMap] at hcut
  unfold anyTimeoutOp
  dsimp only
  split
  · next hsome =>
    obtain ⟨rfl, rfl⟩ := Prod.mk.inj (Option.some.inj (h.symm.trans hsome))
    rfl
  · next hsome => exact absurd (hsome.symm.trans hcut) (Option.some_ne_none _)
  · next hnone => exact absurd (h.symm.trans hnone) (Option.some_ne_none _)

theorem anyTimeoutOp_operation (h : (List.range 16).findSome? (movedWrite m opid) = none) :
    anyTimeoutOp opid m = remoteTimeoutOp opid m := by
  rw [← List.head?_filterMap] at hcut
  unfold anyTimeoutOp
  dsimp only
  split
  · next hsome => exact absurd (hsome.symm.trans h) (Option.some_ne_none _)
  · next hsome => exact absurd (hsome.symm.trans hcut) (Option.some_ne_none _)
  · rfl

end

theorem anyTimeoutOp_noShard {m : Mach} {opid : Nat} (h : NoShard m opid) : anyTimeoutOp opid m = remoteTimeoutOp opid m :=
  anyTimeoutOp_operation (List.findSome?_eq_none_iff.2 fun j hj => cutWrite_none (h j (List.mem_range.1 hj)).1)
    (List.findSome?_eq_none_iff.2 fun j hj => movedWrite_none (h j (List.mem_range.1 hj)).2)

/-! ### The commands -/

section
variable {s : State} (hs : Ready s) (opid : Nat)
include hs

theorem exec_req (src : Option (Nat × RemoteReq)) : exec (.req opid src) s = .next ⟨reqOp opid src s.m, s.pending⟩ :=
  row_runs hs rfl rfl

theorem exec_tally (src : Nat) (laddr : Word) (mod : Nat) (v : Option W32) :
    exec (.tally src opid laddr mod v) s = .next ⟨tallyMsgOp src opid laddr mod v s.m, s.pending⟩ := row_runs hs rfl rfl

/-- TALLY of this module is a request on the panel. -/
theorem exec_tally_self (laddr : Word) (mod : Nat) (v : Option W32) :
    exec (.tally (self s.m) opid laddr mod v) s = exec (.req opid none) s := by
  simp only [exec_tally hs, exec_req hs, tallyMsgOp, reqOp, if_true]

/-- TALLY of another module is its TADD, or its TREAD where it has no operand. -/
theorem exec_tally_far {src : Nat} (hsrc : src ≠ self s.m) (laddr : Word) (mod : Nat) (v : W32) :
    exec (.tally src opid laddr mod (some v)) s =
      exec (.req opid (some (src, ⟨laddr, 0x38, mod, 4, leBytes 4 v.toNat, 0⟩))) s ∧
    exec (.tally src opid laddr mod none) s = exec (.req opid (some (src, ⟨laddr, 0x39, mod, 4, [], 0⟩))) s := by
  simp only [exec_tally hs, exec_req hs, tallyMsgOp, if_neg hsrc, reqOp, and_self]

theorem exec_resp (far : Option (Nat × List Byte)) :
    exec (.resp opid far) s = .next ⟨sendReport false (respOp opid far s.m), s.pending⟩ := reporting_runs hs rfl rfl

theorem exec_remoteTimeout : exec (.remoteTimeout opid) s = .next ⟨anyTimeoutOp opid s.m, s.pending⟩ := row_runs hs rfl rfl

end

/-- Settles O39: an operation's effect by its kind and target, a request by what holds it, a reply by its operation, a timeout
by whose write or operation has the number. -/
theorem remoteOperationsTakeEffectAndSettle : Obligations.RemoteOperationsTakeEffectAndSettle := by
  refine ⟨fun m r far => ⟨perform_missing, fun h => ⟨perform_get h, perform_put h, perform_window h, perform_atomic h,
    perform_tallyAdd h, perform_tallyRead h⟩⟩, fun s hs => ⟨fun opid fl hfl hmod hstate => ?_, fun opid src r => ?_,
      fun src opid laddr mod v hsrc => exec_tally_far hs opid hsrc laddr mod v, fun opid hnone => ?_,
      fun opid j c x hj hc hx hfirst hdue => ?_, fun opid j v hj hcut hv hfirst hdue => ?_, fun opid fl hfl => ?_⟩⟩
  · intro l x stop fs t
    have hreq : exec (.req opid none) s =
        .next ⟨if stop then s.m else takenEffect opid fl s.m, s.pending⟩ := by
      rw [exec_req hs, reqOp, reqLocal_requested hfl hmod hstate]
    refine ⟨fun hstop => ?_, fun hstop => ?_⟩
    · rw [if_pos hstop] at hreq
      exact ⟨hreq, fun laddr mod v => (exec_tally_self hs opid laddr mod v).trans hreq⟩
    · rw [if_neg (ne_true_of_eq_false hstop)] at hreq
      exact ⟨hreq, fun laddr mod v => (exec_tally_self hs opid laddr mod v).trans hreq⟩
  · refine ⟨fun hmod => ?_, fun hmod hheld => ?_, fun hmod hserves => ?_⟩ <;> rw [exec_req hs, reqOp]
    · rw [reqFar_misrouted hmod]
    · rw [reqFar_held hmod hheld]
    · rw [reqFar_answers hmod hserves]
  · refine ⟨fun far => ?_, fun hno => ?_⟩
    · rw [exec_resp hs, respOp_unknown hnone]
    · rw [exec_remoteTimeout hs, anyTimeoutOp_noShard hno, remoteTimeoutOp_unknown hnone]
  · have hfound := findSome?_range_first (cutWrite_some hc hx) (fun i hi => cutWrite_none (hfirst i hi)) hj
    rw [exec_remoteTimeout hs, anyTimeoutOp_cut hfound, byTime_reached hdue]
  · have hnone := List.findSome?_eq_none_iff.2 fun i hi => cutWrite_none (hcut i (List.mem_range.1 hi))
    have hfound := findSome?_range_first (movedWrite_some hv) (fun i hi => movedWrite_none (hfirst i hi)) hj
    rw [exec_remoteTimeout hs, anyTimeoutOp_moved hnone hfound, byTime_reached hdue]
  · refine ⟨fun st data hstate => ?_, fun st data hstate hmod => ?_, fun hno hexempt => ?_, fun hno horphan hheader => ?_⟩
    · rw [exec_resp hs, respOp_replied hfl hstate]
    · rw [exec_resp hs, respOp_far hfl hstate hmod]
    · rw [exec_remoteTimeout hs, anyTimeoutOp_noShard hno, remoteTimeoutOp_exempt hfl hexempt]
    · intro d hdue f m lives
      have hrun : exec (.remoteTimeout opid) s = .next ⟨givenUp fl (timeoutFacet fl) (atTime s.m d), s.pending⟩ := by
        rw [exec_remoteTimeout hs, anyTimeoutOp_noShard hno, remoteTimeoutOp_due hfl horphan hheader hdue]
      refine ⟨fun h => ?_, fun h => ?_⟩
      · rw [hrun, givenUp_reachable ((reachable_atTime d).trans h)]
        rfl
      · rw [hrun, givenUp_over ((reachable_atTime d).trans h)]
        rfl

end Sys2Proof.Machine
end

section
/-!
CERTIFICATE. GRAD_ACC and its completion in the update unit's queue, and a fold channel's segments, finished layers, stall and exchange
of settings (R295–R298, R317, R328, R329, R344–R353, R406).
-/
namespace Sys2Proof.Machine
-- As in the tests: theorems elaborated side by side would take a thread each.
set_option Elab.async false

/-! ### Records in turn, whatever makes jobs ready (R406) -/

section
variable {m : Mach} {f c j e : Nat} {r : Rec} {ready : Mach → Nat → List Nat} {k : Rec → Nat → Mach → Mach}
  (he : engineOf m f r = some e)
include he

theorem inTurn_other (ht : hasTurn m f e j (ready m e) = false) : inTurn f c ready k r j m = m := by
  simp only [inTurn, he, ht, Bool.not_false, if_true]

theorem inTurn_moved {i : Nat} {v w : ScWait} (ht : hasTurn m f e j (ready m e) = true)
    (hi : recordPos m f c = some (i, v)) (hmoved : recordPos (k r j m) f c = some (i + 1, w)) :
    inTurn f c ready k r j m = noteTurn f e j (k r j m) := by
  simp only [inTurn, he, ht, Bool.not_true, Bool.false_eq_true, if_false, recIdx_of_recordPos hi, recIdx_of_recordPos hmoved]
  exact if_neg (by simp)

/-- A record that its own command holds back takes no turn. -/
theorem inTurn_held (hk : k r j m = m) : inTurn f c ready k r j m = m := by
  simp only [inTurn, he, hk, beq_self_eq_true, if_true, ite_self]

end

/-! ### GRAD_ACC (R295, R296, R406) -/

theorem engineOf_gradAcc {m : Mach} {f c j : Nat} {r : Rec} (h : RecordAt m f c r j 0x10) : engineOf m f r = some 6 := by
  obtain ⟨-, hop, -⟩ := h
  simp only [engineOf, hop]

/-- The source span of a GRAD_ACC, which it reads. -/
abbrev gradFoot (r : Rec) : Footprint := ⟨[(gSrc r, gLength r)], []⟩

/-- A GRAD_ACC in the update unit's queue, one more command of its stage context in flight. -/
abbrev gradQueued (f c : Nat) (r : Rec) (j : Nat) (m : Mach) : Mach :=
  stepRec f c 1 (modFacet m f fun x => { x with grads := x.grads ++ [(c, j, r)] })

section
variable {m : Mach} {f c j j' : Nat} {r : Rec} {e : MapSc} (howner : (scOf m f c).owner = some (j', e))
include howner

theorem gradAccRec_refused (hst : gradStatus m f c j e r ≠ 0) :
    gradAccRec f c r j m = badRecord f c r (gradStatus m f c j e r) m := by
  simp only [gradAccRec, howner, if_pos hst]

theorem gradAccRec_hazard (hst : gradStatus m f c j e r = 0) (hheld : heldByHazard m f c (gradFoot r) = true) :
    gradAccRec f c r j m = m := by
  simp only [gradAccRec, howner, hst, ne_eq, not_true_eq_false, hheld, if_false, if_true]

theorem gradAccRec_queued (hst : gradStatus m f c j e r = 0) (hfree : heldByHazard m f c (gradFoot r) = false) :
    gradAccRec f c r j m = gradQueued f c r j m := by
  simp only [gradAccRec, howner, hst, ne_eq, not_true_eq_false, hfree, if_false, Bool.false_eq_true]

end

theorem recordPos_gradQueued {m : Mach} {f c i : Nat} (hi : recordPos m f c = some (i, .none)) (r : Rec) (j : Nat) :
    recordPos (gradQueued f c r j m) f c = some (i + 1, .none) := by
  rw [recordPos_stepRec, recordPos_modFacet, hi, Option.map_some]

section
variable {s : State} {f c j : Nat} {r : Rec} (hs : Ready s) (hf : f < 96) (hc : c < 4) (h : RecordAt s.m f c r j 0x10)
include hs hf hc h

theorem exec_gradAcc_other (ht : hasTurn s.m f 6 j (updateJobs s.m f) = false) : exec (.gradAcc f c) s = .next s :=
  actReady_takeRecord_held hs hf hc h (inTurn_other (engineOf_gradAcc h) ht) rfl

theorem exec_gradAcc_held (hk : gradAccRec f c r j s.m = s.m) : exec (.gradAcc f c) s = .next s :=
  actReady_takeRecord_held hs hf hc h (inTurn_held (engineOf_gradAcc h) hk) rfl

/-- A GRAD_ACC in turn that moves the record pointer on counts the turn and the record. -/
theorem exec_gradAcc_turn {m' : Mach} (ht : hasTurn s.m f 6 j (updateJobs s.m f) = true) (hk : gradAccRec f c r j s.m = m')
    (hmoved : ∀ i, recordPos s.m f c = some (i, .none) → recordPos m' f c = some (i + 1, .none)) :
    exec (.gradAcc f c) s = issued s f c r (noteTurn f 6 j m') := by
  subst hk
  obtain ⟨i, hi⟩ := recordPos_of_recordAt h
  have hturn := inTurn_moved (ready := fun m _ => updateJobs m f) (engineOf_gradAcc h) ht hi (hmoved i hi)
  exact actReady_takeRecord_moved hs hf hc h hturn fun i hi => (recordPos_noteTurn ..).trans (hmoved i hi)

end

/-! ### GRAD_ACC_COMPLETE (R295, R298) -/

/-- The facet once its update unit's queue is `t`. -/
abbrev withGrads (f : Nat) (t : List (Nat × Nat × Rec)) (m : Mach) : Mach := modFacet m f fun x => { x with grads := t }

/-- The values of a GRAD_ACC are in its layer's gradient, where the stage context has an area, and its completion word is given. -/
def gradAdded (f c : Nat) (r : Rec) (e : MapSc) (m : Mach) : Mach :=
  let a := match gradAddr m e (gLayer r) with
    | some a => addGrad f c (a + gOfs r) (gSrc r) (gLength r) m
    | none => (0, false, m)
  giveWord f c (recTag r) a.1 (if a.2.1 then 0x0F else 0) 0x10 a.2.2

section
variable {m : Mach} {f c j j' : Nat} {r : Rec} {t : List (Nat × Nat × Rec)} {e : MapSc}
  (hhead : (facetOf m f).grads = (c, j, r) :: t) (hworks : (facetOf m f).failed = false) (howner : (scOf m f c).owner = some (j', e))
include hhead hworks howner

/-- The record at the head leaves the queue and is judged by whether its layer was handed off. -/
theorem gradAccCompleteOp_head : gradAccCompleteOp f m =
    if (scOf (withGrads f t m) f c).handed.contains (gLayer r) = true then
      endCommand f c j (raise (giveWord f c (recTag r) 0 0x65 0x10 (withGrads f t m)) seqFault (srcFacet f 3) (some j)
        [f, c, recTag r, 0x65])
    else endCommand f c j (if gEnd r = true then endLayerAcc f c j e (gLayer r) (gradAdded f c r e (withGrads f t m))
      else gradAdded f c r e (withGrads f t m)) := by
  have hctx : scOf (withGrads f t m) f c = scOf m f c := scOf_modFacet_scs m fun _ => rfl
  have howner' : (scOf (withGrads f t m) f c).owner = some (j', e) := by rw [hctx, howner]
  simp only [gradAccCompleteOp, hhead, hworks, Bool.false_eq_true, if_false, howner']
  rfl

end

/-! ### FOLD_SEG (R349, R351) -/

section
variable {m : Mach} {link n entry pass seq src : Nat} {segs : List FoldSegIn}

/-- The segments leave the receive buffer. -/
abbrev segsDropped (link n entry pass seq src : Nat) (segs : List FoldSegIn) (m : Mach) : Mach :=
  freeRx link 1 (msgFlits m (.foldSeg link n entry pass seq src segs)) m

/-- A channel that moves, at the present edge. -/
abbrev chanMoves (n : Nat) (m : Mach) : Mach := modChan m n fun c => { c with lastMove := m.edges, stalled := false }

/-- The sequence number that a channel expects of a member. -/
def wantedSeq (ch : Channel) (p : Nat) : Nat := ((ch.rxSeq.find? fun t => t.1 == p).map (·.2)).getD 0

/-- The channel moves, and the number that it expects of member `p` is the one past `segs` segments from `seq` on (R349). -/
def seqMoved (n p seq segs : Nat) (m : Mach) : Mach :=
  modChan (chanMoves n m) n fun c => { c with
    rxSeq := ((chanOf m n).rxSeq.filter fun t => t.1 != p) ++ [(p, (seq + segs) % 65536)] }

theorem foldSegOp_dropped (h : (chanOf m n).en = false ∨ memberPos (chanOf m n) src = none) :
    foldSegOp link n entry pass seq src segs m = segsDropped link n entry pass seq src segs m := by
  have hnone : (if (chanOf m n).en then memberPos (chanOf m n) src else none) = none := by
    obtain hshut | hforeign := h
    · rw [hshut]
      rfl
    · rw [hforeign, ite_self]
  simp only [foldSegOp, hnone]

section
variable {p : Nat} (hen : (chanOf m n).en = true) (hp : memberPos (chanOf m n) src = some p)
include hen hp

theorem foldSegOp_abort : foldSegOp link n entry 2 seq src segs m =
    abortLayer n entry (some p) (segsDropped link n entry 2 seq src segs (chanMoves n m)) := by
  simp only [foldSegOp, hen, hp, if_true]

theorem foldSegOp_outOfOrder (hpass : pass ≠ 2) (hseq : seq ≠ wantedSeq (chanOf m n) p) :
    foldSegOp link n entry pass seq src segs m =
      let m1 := seqMoved n p seq segs.length m
      let y := chanLayer (chanOf m n) entry
      let f := ((y.bind fun y => layerHolder m1 (chanOf m n).job (chanOf m n).pipe y.layer).map (·.facet)).getD 0
      abortLayer n entry none (segsDropped link n entry pass seq src segs
        (raise m1 foldSeqEv (srcFacet f 8) (some (chanOf m n).job)
          [n, src, wantedSeq (chanOf m n) p, seq, (y.map (·.layer)).getD 0])) := by
  unfold wantedSeq at hseq ⊢
  simp only [foldSegOp, hen, hp, if_true, if_neg hpass, if_pos hseq]
  rfl

theorem foldSegOp_delivers (hpass : pass ≠ 2) (hseq : seq = wantedSeq (chanOf m n) p) :
    foldSegOp link n entry pass seq src segs m =
      let m1 := seqMoved n p seq segs.length m
      runFold n (modChan m1 n fun c => { c with parts := c.parts ++ partsOf m1 n entry p link 32 segs }) := by
  subst hseq
  unfold wantedSeq
  simp only [foldSegOp, hen, hp, if_true, if_neg hpass, ne_eq, not_true_eq_false, if_false]
  rfl

end

end

/-! ### FOLD_LAYER_DONE (R329, R344, R345) -/

section
variable {m : Mach} {n : Nat}

theorem foldLayerDoneOp_idle (h : (chanOf m n).done = []) : foldLayerDoneOp n m = m := by
  simp only [foldLayerDoneOp, h]

/-- The folded values of an FP8 tensor's first shard count toward its amax, unless the layer failed (R236, R345). -/
def amaxNoted (ch : Channel) (y : FoldLayer) (d : FoldDone) (m : Mach) : Mach :=
  if ch.fmt = 2 ∧ y.rank = 0 ∧ d.failed = false then
    match layerHolder m ch.job ch.pipe y.layer with
    | some e => modJob m ch.job fun x => { x with amaxPend := x.amaxPend ++
        [(ch.pipe, y.tensor, BitVec.ofNat 32 (maxMag (gradVals m e y.layer 0 (layerElems m e y.layer))))] }
    | none => m
  else m

theorem foldLayerDoneOp_completes {d : FoldDone} {t : List FoldDone} {y : FoldLayer} (hdone : (chanOf m n).done = d :: t)
    (hsettled : ∀ fl ∈ m.flights, fl.issuer = .fold n → fl.dest ≠ some d.entry ∨ fl.orphan = true)
    (hy : chanLayer (chanOf m n) d.entry = some y) :
    foldLayerDoneOp n m = checkPipeFolded (chanOf m n).job (chanOf m n).pipe (shareTotals n d
      (completeLayer (chanOf m n).job (chanOf m n).pipe y.layer (chanOf m n).members.length d
        (amaxNoted (chanOf m n) y d (modChan m n fun c => { c with done := t })))) := by
  have hnone : (m.flights.any fun fl => fl.issuer == .fold n && fl.dest == some d.entry && !fl.orphan) = false := by
    refine List.any_eq_false.2 fun fl hfl hopen => ?_
    simp only [Bool.and_eq_true, beq_iff_eq, Bool.not_eq_true'] at hopen
    obtain ⟨⟨hissuer, hdest⟩, horphan⟩ := hopen
    exact (hsettled fl hfl hissuer).elim (absurd hdest) (ne_true_of_eq_false horphan)
  simp only [foldLayerDoneOp, hdone, hnone, Bool.false_eq_true, if_false, hy, Bool.not_eq_true']
  rfl

/-! ### FOLD_STALL (R353) -/

theorem foldStallOp_idle (h : (chanOf m n).en = false ∨ (chanOf m n).stalled = true ∨
    expired m (chanOf m n).lastMove (regN m offFoldTimeout) = false) : foldStallOp n m = m := by
  unfold foldStallOp
  dsimp only
  split
  · rfl
  · refine if_neg fun hdue => ?_
    simp only [Bool.and_eq_true, Bool.not_eq_true'] at hdue
    obtain ⟨⟨⟨hen, -⟩, hnew⟩, hexp⟩ := hdue
    simp [hen, hnew, hexp] at h

/-- The member from which a channel waits: its tree parent, or the one before it in the first ring. -/
def stallSource (ch : Channel) : Nat :=
  if ch.topo = 2 then treeParent ch ch.self
  else (legRing ch 0).pos (((legRing ch 0).idx + (legRing ch 0).len - 1) % max 1 (legRing ch 0).len)

theorem foldStallOp_raises {y : FoldLayer} (hy : chanLayer (chanOf m n) (chanOf m n).cur = some y)
    (hen : (chanOf m n).en = true) (hbegun : (chanOf m n).began = true ∨ (chanOf m n).parts ≠ [])
    (hnew : (chanOf m n).stalled = false) (hexp : expired m (chanOf m n).lastMove (regN m offFoldTimeout) = true) :
    foldStallOp n m = raise (modChan m n fun c => { c with stalled := true }) foldStallEv
      (srcFacet (((layerHolder m (chanOf m n).job (chanOf m n).pipe y.layer).map (·.facet)).getD 0) 8) (some (chanOf m n).job)
      [n, y.layer, (((chanOf m n).members[stallSource (chanOf m n)]?).map (·.2.1)).getD 63, m.edges - (chanOf m n).lastMove] := by
  have hwork : ((chanOf m n).began || !(chanOf m n).parts.isEmpty) = true := by simpa using hbegun
  simp only [foldStallOp, hy, hen, hwork, hnew, hexp, Bool.not_false, Bool.and_self, if_true]
  rfl

/-! ### FOLD_CHECK (R328) -/

variable {md : Nat} {st : FoldSettings}

theorem compareFold_agrees (h : settingsDiffer (foldSettings (chanOf m n)) st = none) : compareFold n md st m = m := by
  simp only [compareFold, h]

/-- The channel closes and the event names the first setting that differs. -/
def foldMismatched (n md k : Nat) (m : Mach) : Mach :=
  raise (modChan m n fun c => { c with closed := true }) foldMismatch (srcChan n) (some (chanOf m n).job) [n, md, k]

theorem compareFold_differs {k : Nat} (h : settingsDiffer (foldSettings (chanOf m n)) st = some k) : compareFold n md st m =
    if (chanOf m n).began = true then
      runFold n (modChan (foldMismatched n md k m) n fun c => { c with aborted := c.aborted ++ [c.cur] })
    else foldMismatched n md k m := by
  simp only [compareFold, h]
  rfl

variable {link : Nat}

theorem foldCheckOp_known (hen : (chanOf m n).en = true)
    (hmem : (memberPos (chanOf m n) (linkOf m link).farModule).isSome = true) :
    foldCheckOp link n st m = compareFold n (linkOf m link).farModule st m := by
  simp only [foldCheckOp, hen, hmem, Bool.and_self, if_true]

theorem foldCheckOp_early (h : (chanOf m n).en = false ∨ memberPos (chanOf m n) (linkOf m link).farModule = none) :
    foldCheckOp link n st m = modChan m n fun c => { c with
      early := (c.early.filter fun e => e.1 != (linkOf m link).farModule) ++ [((linkOf m link).farModule, st)] } := by
  refine if_neg fun hknown => ?_
  obtain ⟨hen, hmem⟩ := Bool.and_eq_true_iff.1 hknown
  obtain hshut | hforeign := h
  · exact ne_true_of_eq_false hshut hen
  · rw [hforeign] at hmem
    cases hmem

end

/-! ### The commands -/

section
variable {s : State} (hs : Ready s)
include hs

theorem exec_gradAccComplete {f : Nat} (hf : f < 96) :
    exec (.gradAccComplete f) s = .next ⟨sendReport false (gradAccCompleteOp f s.m), s.pending⟩ :=
  reporting_runs hs (decide_eq_true hf) rfl

variable {n : Nat} (hn : n < 32)
include hn

theorem exec_foldSeg (link entry pass seq src : Nat) (segs : List FoldSegIn) : exec (.foldSeg link n entry pass seq src segs) s =
    .next ⟨sendReport false (foldSegOp link n entry pass seq src segs s.m), s.pending⟩ :=
  reporting_runs hs (decide_eq_true hn) rfl

theorem exec_foldLayerDone : exec (.foldLayerDone n) s = .next ⟨sendReport false (foldLayerDoneOp n s.m), s.pending⟩ :=
  reporting_runs hs (decide_eq_true hn) rfl

theorem exec_foldStall : exec (.foldStall n) s = .next ⟨sendReport false (foldStallOp n s.m), s.pending⟩ :=
  reporting_runs hs (decide_eq_true hn) rfl

theorem exec_foldCheck {link : Nat} (hlink : link < 36) (st : FoldSettings) :
    exec (.foldCheck link n st) s = .next ⟨foldCheckOp link n st s.m, s.pending⟩ :=
  row_runs hs (decide_eq_true ⟨hlink, hn⟩) rfl

end

/-- Settles O40: a GRAD_ACC by its turn, its checks and its hazard, its completion by whether the layer was handed off, segments by
their sender, pass and number, a finished layer by its deliveries, settings by whether and where they differ. -/
theorem gradientsAccumulateAndFoldsProceed : Obligations.GradientsAccumulateAndFoldsProceed := by
  refine ⟨fun s f c r j j' e hs hf hc h howner => ⟨fun ht => ?_, fun ht hst => ?_, fun hst hheld => ?_, fun ht hst hfree => ?_⟩,
    fun s f c j j' r t e hs hf hhead hworks howner => ?_, fun s n hs hn => ⟨fun link entry pass seq src segs hdrop => ?_,
      fun link entry pass seq src segs p hen hp => ⟨fun hpass => ?_, fun hpass hseq => ?_, fun hpass hseq => ?_⟩,
      fun hdone => ?_, fun d t y hdone hsettled hy => ?_, fun y hy hen hbegun hnew hexp => ?_, fun hidle => ?_,
      fun link st hlink => ⟨fun hen hmem hsame => ?_, fun k hen hmem hdiff => ?_, fun hunknown => ?_⟩⟩⟩
  · exact exec_gradAcc_other hs hf hc h ht
  · exact exec_gradAcc_turn hs hf hc h ht (gradAccRec_refused howner hst) fun i hi => recordPos_badRecord hi r _
  · exact exec_gradAcc_held hs hf hc h (gradAccRec_hazard howner hst hheld)
  · exact exec_gradAcc_turn hs hf hc h ht (gradAccRec_queued howner hst hfree) fun i hi => recordPos_gradQueued hi r j
  · rw [exec_gradAccComplete hs hf, gradAccCompleteOp_head hhead hworks howner]
    refine ⟨fun hlate => ?_, fun hlate hend => ?_, fun hlate hend => ?_⟩
    · rw [if_pos hlate]
    · rw [if_neg (ne_true_of_eq_false hlate), if_pos hend]
      rfl
    · rw [if_neg (ne_true_of_eq_false hlate), if_neg (ne_true_of_eq_false hend)]
      rfl
  · rw [exec_foldSeg hs hn, foldSegOp_dropped hdrop]
  · subst hpass
    exact (exec_foldSeg hs hn ..).trans (by rw [foldSegOp_abort hen hp])
  · refine (exec_foldSeg hs hn ..).trans ?_
    rw [foldSegOp_outOfOrder hen hp hpass hseq]
    rfl
  · refine (exec_foldSeg hs hn ..).trans ?_
    rw [foldSegOp_delivers hen hp hpass hseq]
    rfl
  · rw [exec_foldLayerDone hs hn, foldLayerDoneOp_idle hdone]
  · rw [exec_foldLayerDone hs hn, foldLayerDoneOp_completes hdone hsettled hy]
    rfl
  · rw [exec_foldStall hs hn, foldStallOp_raises hy hen hbegun hnew hexp]
    rfl
  · rw [exec_foldStall hs hn, foldStallOp_idle hidle]
  · rw [exec_foldCheck hs hn hlink, foldCheckOp_known hen hmem, compareFold_agrees hsame]
  · rw [exec_foldCheck hs hn hlink, foldCheckOp_known hen hmem, compareFold_differs hdiff]
    refine ⟨fun hbegan => ?_, fun hbegan => ?_⟩
    · rw [if_pos hbegan]
      rfl
    · rw [if_neg (ne_true_of_eq_false hbegan)]
      rfl
  · rw [exec_foldCheck hs hn hlink, foldCheckOp_early hunknown]

end Sys2Proof.Machine
end

section
/-!
CERTIFICATE. Cuts from their decision to their commit, and the store of shards (R364–R382).
-/
namespace Sys2Proof.Machine
-- As in the tests: theorems elaborated side by side would take a thread each.
set_option Elab.async false

/-! ### SNAP_CHECK and SNAP_CUT (R364, R380) -/

section
variable {m : Mach} {j : Nat}

theorem snapCheckOp_agrees {src : Nat} {crc : W32}
    (h : (snapOf m j).armed = false ∨ crc = (snapOf m j).crc ∨
      (isLeader (snapOf m j) = false ∧ src ≠ memberModule (snapOf m j) (snapOf m j).leader)) : snapCheckOp src j crc m = m := by
  unfold snapCheckOp
  dsimp only
  obtain hunarmed | hcrc | ⟨hmember, hsrc⟩ := h
  · simp only [hunarmed, Bool.not_false, Bool.true_or, if_true]
  · simp only [hcrc, beq_self_eq_true, Bool.or_true, if_true]
  · simp only [hmember, hsrc, Bool.false_eq_true, if_false, ite_self]

section
variable {src : Nat} {crc : W32} (harmed : (snapOf m j).armed = true) (hcrc : crc ≠ (snapOf m j).crc)
include harmed hcrc

theorem snapCheckOp_leader (h : isLeader (snapOf m j) = true) :
    snapCheckOp src j crc m = sendMsg m src (.snapCheck (self m) j (snapOf m j).crc) := by
  simp only [snapCheckOp, harmed, beq_false_of_ne hcrc, h, Bool.not_true, Bool.or_self, Bool.false_eq_true, if_false, if_true]

theorem snapCheckOp_mismatch (h : isLeader (snapOf m j) = false) (hsrc : src = memberModule (snapOf m j) (snapOf m j).leader) :
    snapCheckOp src j crc m = raise (modSnap m j fun x => { x with armed := false }) snapMismatch (srcUnit 5) (some j)
      [j, m.tick.sweepNo] := by
  simp only [snapCheckOp, harmed, beq_false_of_ne hcrc, h, hsrc, Bool.not_true, Bool.or_self, Bool.false_eq_true, if_false, if_true]

end

theorem snapCutOp_armed (h : (snapOf m j).armed = true) (sweep : Nat) :
    snapCutOp j sweep m = modSnap m j fun x => { x with cutAt := some sweep } := if_pos h

theorem snapCutOp_unarmed (h : (snapOf m j).armed = false) (sweep : Nat) : snapCutOp j sweep m = m :=
  if_neg (ne_true_of_eq_false h)

end

/-! ### SNAP_POLICY_DECISION (R380–R382) -/

section
variable {m : Mach} {j : Nat}

/-- Where the leader decides: 20 µs after a sweep edge. -/
def decisionAt (m : Mach) : Mach := if m.tick.tickNo = m.tick.sweepFirst then atTime m (m.tick.edgeAt + 2000) else m

/-- The sweep of the next cut by the interval of R381. -/
def nextCut (j : Nat) (m : Mach) : Nat := (snapOf m j).lastCut + cutInterval (decisionAt m) j

/-- The score and the next cut are noted. -/
def scored (j : Nat) (m : Mach) : Mach :=
  let sn := snapOf m j
  modSnap (if sn.members.length ≤ 1 then decisionAt m else spendFree (spendFree (decisionAt m))) j fun x =>
    { x with score := domainScore (decisionAt m) sn, prevScore := sn.score, next := nextCut j m }

/-- A cut is due by rate (R381). -/
def cutDueByRate (j : Nat) (m : Mach) : Bool :=
  (policyOf (scored j m) j == 1 || policyOf (scored j m) j == 3) && decide (nextCut j m ≤ cutSweep (scored j m))

/-- A cut is due by risk (R382). -/
def cutDueByRisk (j : Nat) (m : Mach) : Bool :=
  let sn := snapOf m j
  let score := domainScore (decisionAt m) sn
  let thr := bf (regN (scored j m) (offSnapJob j)) 25 16
  (policyOf (scored j m) j == 2 || policyOf (scored j m) j == 3) && decide (thr ≤ score)
    && (decide (sn.score < thr) || decide (sn.lastRisk + regN (scored j m) offRiskRepeat ≤ (scored j m).tick.sweepNo))

/-- The risk that made a cut due is noted. -/
def riskNoted (j : Nat) (m : Mach) : Mach :=
  if cutDueByRisk j m then modSnap (scored j m) j fun x => { x with riskDue := true } else scored j m

/-- A cut that is due is announced; with one in progress it is deferred, once. -/
def cutDecided (sn : SnapDom) (j : Nat) (m : Mach) : Mach :=
  if sn.cut.isNone then announceCut j m
  else if sn.deferred then m
  else raise (modSnap m j fun x => { x with deferred := true }) snapDeferred (srcUnit 5) (some j) [j, m.tick.sweepNo]

section
variable {sn : SnapDom}

theorem cutDecided_announces (hcut : sn.cut = none) : cutDecided sn j m = announceCut j m :=
  if_pos (Option.isNone_iff_eq_none.2 hcut)

theorem cutDecided_again {c : Cut} (hcut : sn.cut = some c) (hdeferred : sn.deferred = true) : cutDecided sn j m = m := by
  simp only [cutDecided, hcut, Option.isNone_some, hdeferred, Bool.false_eq_true, if_false, if_true]

theorem cutDecided_defers {c : Cut} (hcut : sn.cut = some c) (hdeferred : sn.deferred = false) : cutDecided sn j m =
    raise (modSnap m j fun x => { x with deferred := true }) snapDeferred (srcUnit 5) (some j) [j, m.tick.sweepNo] := by
  simp only [cutDecided, hcut, Option.isNone_some, hdeferred, Bool.false_eq_true, if_false]

end

theorem policyOp_idle (h : (snapOf m j).armed = false ∨ isLeader (snapOf m j) = false ∨ m.tick.running = false ∨
    m.twin.frozen = true) : policyOp j m = m := by
  refine if_pos ?_
  obtain h | h | h | h := h <;> simp [h]

section
variable (harmed : (snapOf m j).armed = true) (hleads : isLeader (snapOf m j) = true) (hruns : m.tick.running = true)
  (hthawed : m.twin.frozen = false)
include harmed hleads hruns hthawed

/-- What a leader that may decide does, by what is due and what stands in the way. -/
theorem policyOp_decides : policyOp j m =
    if (!(cutDueByRate j m || cutDueByRisk j m) || (snapOf m j).cutAt.isSome) = true then scored j m
    else cutDecided (snapOf m j) j (riskNoted j m) := by
  simp only [policyOp, harmed, hleads, hruns, hthawed, Bool.not_true, Bool.or_self, Bool.false_eq_true, if_false]
  rfl

theorem policyOp_nothingDue (hrate : cutDueByRate j m = false) (hrisk : cutDueByRisk j m = false) : policyOp j m = scored j m := by
  rw [policyOp_decides harmed hleads hruns hthawed, hrate, hrisk]
  rfl

theorem policyOp_named {sweep : Nat} (hcut : (snapOf m j).cutAt = some sweep) : policyOp j m = scored j m := by
  rw [policyOp_decides harmed hleads hruns hthawed, hcut, Option.isSome_some, Bool.or_true, if_pos rfl]

theorem policyOp_due (hdue : cutDueByRate j m = true ∨ cutDueByRisk j m = true) (hnamed : (snapOf m j).cutAt = none) :
    policyOp j m = cutDecided (snapOf m j) j (riskNoted j m) := by
  rw [policyOp_decides harmed hleads hruns hthawed, hnamed, Bool.or_eq_true_iff.2 hdue]
  rfl

end

end

/-! ### SNAP_STREAM_READ and SNAP_RING_TIMEOUT (R373, R376) -/

section
variable {m : Mach} {j : Nat}

theorem streamReadOp_idle (h : (snapOf m j).cut = none) (e : Option SnapEntryIn) : streamReadOp j e m = m := by
  simp only [streamReadOp, h, Option.isNone_none, if_true]

theorem streamReadOp_cut {c : Cut} (h : (snapOf m j).cut = some c) (e : Option SnapEntryIn) : streamReadOp j e m =
    let m1 := pumpCut j (takeEntry j e m)
    pumpCut j (if 0x1000000 < bufferBytes m1 + 65536 then m1 else readBlock j m1) := by
  simp only [streamReadOp, h, Option.isNone_some, Bool.false_eq_true, if_false]

theorem ringTimeoutOp_full (h : (snapOf m j).cut.bind (·.ringEmpty) = none) : ringTimeoutOp j m = m := by
  simp only [ringTimeoutOp, h]

theorem ringTimeoutOp_empty {e : Nat} (h : (snapOf m j).cut.bind (·.ringEmpty) = some e) : ringTimeoutOp j m =
    if (expired m e (regN m offRingTimeout) && needsSlot m j) = true then abortCut j 5 m else m := by
  simp only [ringTimeoutOp, h]

/-! ### SNAP_DONE and SNAP_COMMIT (R375) -/

theorem snapDoneOp_idle (h : (snapOf m j).cut = none) (src gen : Nat) : snapDoneOp src j gen m = m := by
  simp only [snapDoneOp, h]

section
variable {c : Cut} (hc : (snapOf m j).cut = some c)
include hc

theorem snapDoneOp_leader (h : isLeader (snapOf m j) = true) (src : Nat) : snapDoneOp src j c.gen m =
    tryCommit j (modCut j (fun c => { c with
      membersDone := if c.membersDone.contains src then c.membersDone else c.membersDone ++ [src] }) m) := by
  simp only [snapDoneOp, hc, h, ne_eq, not_true_eq_false, decide_false, Bool.not_true, Bool.or_self, Bool.false_eq_true, if_false]

theorem snapDoneOp_other {gen : Nat} (h : gen ≠ c.gen ∨ isLeader (snapOf m j) = false) (src : Nat) : snapDoneOp src j gen m = m := by
  have hskip : (decide (c.gen ≠ gen) || !isLeader (snapOf m j)) = true := by
    obtain hgen | hmember := h
    · simp [hgen.symm]
    · simp [hmember]
  simp only [snapDoneOp, hc, hskip, if_true]

variable (src commit : Nat) (losses : List Word)

theorem snapCommitOp_ack : snapCommitOp src j c.gen true commit losses m = finishCommit j (modCut j (fun c => { c with
    membersAck := if c.membersAck.contains src then c.membersAck else c.membersAck ++ [src] }) m) := by
  simp only [snapCommitOp, hc, ne_eq, not_true_eq_false, if_false, if_true]

theorem snapCommitOp_done (hdone : c.done = true) (hopen : c.committing = none) :
    snapCommitOp src j c.gen false commit losses m = memberCommit j commit losses m := by
  simp only [snapCommitOp, hc, ne_eq, not_true_eq_false, if_false, Bool.false_eq_true, hdone, hopen, Option.isNone_none, Bool.and_self,
    if_true]

theorem snapCommitOp_notDue (h : c.done = false ∨ c.committing.isSome = true) :
    snapCommitOp src j c.gen false commit losses m = m := by
  have hskip : (c.done && c.committing.isNone) = false := by
    obtain hdone | hcommits := h
    · rw [hdone, Bool.false_and]
    · rw [Option.isNone_eq_false_iff.2 hcommits, Bool.and_false]
  simp only [snapCommitOp, hc, ne_eq, not_true_eq_false, if_false, Bool.false_eq_true, hskip]

theorem snapCommitOp_other {gen : Nat} (h : gen ≠ c.gen) (ack : Bool) : snapCommitOp src j gen ack commit losses m = m := by
  simp only [snapCommitOp, hc, ne_eq, h.symm, not_false_eq_true, if_true]

end

end

/-! ### SHARD (R367, R370) -/

section
variable {m : Mach} {src j gen shard ofs : Nat} {mirror : Bool} {data : List Byte}

/-- The store as a shard's bytes find it: what an aborted older cut of the owner left is gone. -/
def storeCleared (src j gen len : Nat) (m : Mach) : Mach :=
  let m1 := freeRxFrom src 3 (flitsOf len) m
  { m1 with store := m1.store.filter fun i => !(i.owner == src && i.job == j && !i.committed && decide (i.gen < gen)) }

/-- The bytes of a data or parity shard join item `i`. -/
def bytesJoined (src j gen shard ofs : Nat) (mirror : Bool) (data : List Byte) (i : StoreItem) (m : Mach) : Mach :=
  let m1 := writeChecked m (i.slot % 96) 1 (storeOfs m i.slot + ofs) data
  { m1 with store := m1.store.map fun x =>
      if sameItem src j gen shard mirror x then { x with len := max i.len (ofs + data.length) } else x }

/-- A shard whose last bytes are in is acknowledged. -/
def ackedIfWhole (src j gen shard ofs : Nat) (data : List Byte) (m : Mach) : Mach :=
  if ofs + data.length = shardBytes then sendMsg m src (.shardAck (self m) j gen shard false) else m

/-- A new item in slot `n`; one that comes back to a committed generation belongs to it (R379). -/
def newItem (src j gen shard n : Nat) (mirror : Bool) (m : Mach) : StoreItem :=
  let com := (m.store.find? fun i => i.owner == src && i.job == j && i.gen == gen && i.committed).map (·.commit)
  ⟨n, src, j, gen, shard, mirror, 0, com.getD 0, com.isSome⟩

theorem sameItem_newItem (n : Nat) (m : Mach) : sameItem src j gen shard mirror (newItem src j gen shard n mirror m) = true := by
  simp [sameItem, newItem]

theorem shardOp_joins (hman : shard ≠ manifestIdx) {i : StoreItem}
    (hi : (storeCleared src j gen data.length m).store.find? (sameItem src j gen shard mirror) = some i) :
    shardOp src j gen shard ofs mirror data m =
      ackedIfWhole src j gen shard ofs data (bytesJoined src j gen shard ofs mirror data i (storeCleared src j gen data.length m)) := by
  have hany : (storeCleared src j gen data.length m).store.any (sameItem src j gen shard mirror) = true :=
    List.any_eq_true.2 ⟨i, List.mem_of_find?_eq_some hi, List.find?_some hi⟩
  unfold storeCleared at hi hany
  simp only [shardOp, hany, if_true, hi, beq_false_of_ne hman, Bool.false_and, Bool.false_eq_true, if_false, Bool.or_false,
    decide_eq_true_eq]
  rfl

section
variable (hnew : ∀ i ∈ (storeCleared src j gen data.length m).store, sameItem src j gen shard mirror i = false)
include hnew

theorem any_sameItem_new :
    (storeCleared src j gen data.length m).store.any (sameItem src j gen shard mirror) = false :=
  List.any_eq_false.2 fun i hi => ne_true_of_eq_false (hnew i hi)

theorem shardOp_later (hofs : ofs ≠ 0) : shardOp src j gen shard ofs mirror data m = storeCleared src j gen data.length m := by
  have hany := any_sameItem_new hnew
  unfold storeCleared at hany
  simp only [shardOp, hany, Bool.false_eq_true, if_false, ne_eq, hofs, not_false_eq_true, if_true]
  rfl

theorem shardOp_full (hofs : ofs = 0) (hfull : freeSlot (storeCleared src j gen data.length m) = none) :
    shardOp src j gen shard ofs mirror data m =
      sendMsg (raise (storeCleared src j gen data.length m) snapStoreFull (srcUnit 5) (some j) [src, j]) src
        (.shardAck (self (storeCleared src j gen data.length m)) j gen shard true) := by
  have hany := any_sameItem_new hnew
  unfold storeCleared at hany hfull
  simp only [shardOp, hany, Bool.false_eq_true, if_false, ne_eq, hofs, not_true_eq_false, hfull]
  rfl

theorem shardOp_takesSlot (hman : shard ≠ manifestIdx) {n : Nat} (hofs : ofs = 0)
    (hfree : freeSlot (storeCleared src j gen data.length m) = some n) :
    shardOp src j gen shard ofs mirror data m =
      let m0 := storeCleared src j gen data.length m
      let i := newItem src j gen shard n mirror m0
      ackedIfWhole src j gen shard ofs data (bytesJoined src j gen shard ofs mirror data i { m0 with store := m0.store ++ [i] }) := by
  have hany := any_sameItem_new hnew
  have hfound : ((storeCleared src j gen data.length m).store ++
      [newItem src j gen shard n mirror (storeCleared src j gen data.length m)]).find?
      (sameItem src j gen shard mirror) = some (newItem src j gen shard n mirror (storeCleared src j gen data.length m)) := by
    rw [List.find?_append, List.find?_eq_none.2 fun i hi => ne_true_of_eq_false (hnew i hi), Option.none_or,
      List.find?_cons_of_pos (sameItem_newItem n _)]
  unfold storeCleared newItem at hfound
  unfold storeCleared at hany hfree
  simp only [shardOp, hany, Bool.false_eq_true, if_false, ne_eq, hofs, not_true_eq_false, hfree, hfound, beq_false_of_ne hman,
    Bool.false_and, Bool.or_false, decide_eq_true_eq]
  rfl

end

end

/-! ### SHARD_ACK (R370, R379, R391) -/

theorem snapOf_modSnap {m : Mach} {j : Nat} (h : j < m.jobs.length) (g : SnapDom → SnapDom) :
    snapOf (modSnap m j g) j = g (snapOf m j) := by
  simp only [snapOf, jobOf, modSnap, modJob_jobs, List.getD_eq_getElem?_getD, List.getElem?_modify_eq, List.getElem?_eq_getElem h,
    Option.map_eq_map, Option.map_some, Option.getD_some]

/-- A job with a cut is one of the module's. -/
theorem lt_jobs_of_cut {m : Mach} {j : Nat} {c : Cut} (h : (snapOf m j).cut = some c) : j < m.jobs.length := by
  refine Nat.lt_of_not_le fun hout => ?_
  rw [snapOf, jobOf, List.getD_eq_getElem?_getD, List.getElem?_eq_none hout] at h
  cases h

theorem cut_modCut {m : Mach} {j : Nat} {c : Cut} (h : (snapOf m j).cut = some c) (g : Cut → Cut) :
    (snapOf (modCut j g m) j).cut = some (g c) := by
  rw [modCut, snapOf_modSnap (lt_jobs_of_cut h), h, Option.map_some]

/-- Does an answer of module `src` settle the rebuilt shard `v` on its way? -/
abbrev answersMoved (m : Mach) (src j gen shard : Nat) (v : MovedShard) : Bool :=
  v.gen == gen && v.shard == shard && targetModule m (snapOf m j) v.target == some src

section
variable {m : Mach} {src j gen shard : Nat}

theorem find?_answersMoved_none (h : ∀ v ∈ (snapOf m j).moving, ¬(v.gen = gen ∧ v.shard = shard ∧
    targetModule m (snapOf m j) v.target = some src)) : (snapOf m j).moving.find? (answersMoved m src j gen shard) = none := by
  refine List.find?_eq_none.2 fun v hv hsettles => h v hv ?_
  simpa [and_assoc] using hsettles

theorem shardAckOp_moved {v : MovedShard} (hv : (snapOf m j).moving.find? (answersMoved m src j gen shard) = some v) (refused : Bool) :
    shardAckOp src j gen shard refused m = settleMoved j v refused m := by
  simp only [shardAckOp, hv]

section
variable (hstill : (snapOf m j).moving.find? (answersMoved m src j gen shard) = none)
include hstill

theorem shardAckOp_otherCut (hcut : ∀ c, (snapOf m j).cut = some c → c.gen ≠ gen) (refused : Bool) :
    shardAckOp src j gen shard refused m = if refused = true then shardLostOp j gen shard m else m := by
  have hany : ((snapOf m j).cut.any fun c => c.gen == gen) = false :=
    Bool.eq_false_iff.2 fun hgen => by
      obtain ⟨c, hc, heq⟩ := (Option.any_eq_true ..).1 hgen
      exact hcut c hc (beq_iff_eq.1 heq)
  simp only [shardAckOp, hstill, hany, Bool.not_false, if_true]

section
variable {c : Cut} (hc : (snapOf m j).cut = some c) (hgen : c.gen = gen)
include hc hgen

section
variable (hsent : sentTo m j src shard = none)
include hsent

theorem shardAckOp_unasked {refused : Bool} (h : refused = false ∨ placedOn m j src shard = none) :
    shardAckOp src j gen shard refused m = m := by
  simp only [shardAckOp, hstill, hc, hgen, hsent, Option.any_some, beq_self_eq_true, Bool.not_true, Bool.false_eq_true, if_false]
  obtain hfalse | hnone := h
  · subst hfalse
    cases placedOn m j src shard <;> rfl
  · rw [hnone]

/-- A refusal of a shard that counts already. -/
theorem shardAckOp_disowned {t : Nat} (hplaced : placedOn m j src shard = some t) : shardAckOp src j gen shard true m =
    turnAway j shard t (modCut j (fun c => { c with acked := c.acked.filter fun x => x != (shard, t) }) m) := by
  simp only [shardAckOp, hstill, hc, hgen, hsent, hplaced, Option.any_some, beq_self_eq_true, Bool.not_true, Bool.false_eq_true, if_false,
    if_true]

end

section
variable {w : Nat × Nat × Nat × Nat} (hsent : sentTo m j src shard = some w)
include hsent

/-- The write is no longer on its way. -/
abbrev writeAnswered (j : Nat) (w : Nat × Nat × Nat × Nat) (m : Mach) : Mach :=
  modCut j (fun c => { c with sent := c.sent.filter fun x => x != w }) m

/-- A target holds the manifest. -/
abbrev manifestHeld (j t : Nat) (m : Mach) : Mach :=
  modCut j (fun c => { c with manifested := if c.manifested.contains t then c.manifested else c.manifested ++ [t] }) m

theorem shardAckOp_refused : shardAckOp src j gen shard true m = turnAway j shard w.2.2.1 (writeAnswered j w m) := by
  simp only [shardAckOp, hstill, hc, hgen, hsent, Option.any_some, beq_self_eq_true, Bool.not_true, Bool.false_eq_true, if_false, if_true]

theorem shardAckOp_manifest (hman : shard = manifestIdx) : shardAckOp src j gen shard false m =
    if c.committing.isSome = true then ackCommit j (manifestHeld j w.2.2.1 (writeAnswered j w m))
    else checkDone j (manifestHeld j w.2.2.1 (writeAnswered j w m)) := by
  have hheld := cut_modCut (cut_modCut hc fun c => { c with sent := c.sent.filter fun x => x != w }) fun c =>
    { c with manifested := if c.manifested.contains w.2.2.1 then c.manifested else c.manifested ++ [w.2.2.1] }
  subst hman
  simp only [shardAckOp, hstill, hc, hgen, hsent, Option.any_some, beq_self_eq_true, Bool.not_true, Bool.false_eq_true, if_false, if_true,
    hheld, Option.bind_some]

theorem shardAckOp_counts (hshard : shard ≠ manifestIdx) : shardAckOp src j gen shard false m =
    pumpCut j (modCut j (fun c => { c with acked := c.acked ++ [(shard, w.2.2.1)] }) (writeAnswered j w m)) := by
  simp only [shardAckOp, hstill, hc, hgen, hsent, Option.any_some, beq_self_eq_true, Bool.not_true, Bool.false_eq_true, if_false, hshard]

end

end

end

end

/-! ### The commands -/

section
variable {s : State} {j : Nat} (hs : Ready s) (hj : j < 16)
include hs hj

theorem exec_snapPolicyDecision : exec (.snapPolicyDecision j) s = .next ⟨policyOp j s.m, s.pending⟩ :=
  row_runs hs (decide_eq_true hj) rfl

theorem exec_snapCut (sweep : Nat) : exec (.snapCut j sweep) s = .next ⟨snapCutOp j sweep s.m, s.pending⟩ :=
  row_runs hs (decide_eq_true hj) rfl

theorem exec_snapStreamRead (e : Option SnapEntryIn) : exec (.snapStreamRead j e) s = .next ⟨streamReadOp j e s.m, s.pending⟩ :=
  row_runs hs (decide_eq_true hj) rfl

theorem exec_snapRingTimeout : exec (.snapRingTimeout j) s = .next ⟨ringTimeoutOp j s.m, s.pending⟩ :=
  row_runs hs (decide_eq_true hj) rfl

variable {src : Nat} (hsrc : src < 4096)
include hsrc

theorem exec_snapCheck (crc : W32) : exec (.snapCheck src j crc) s = .next ⟨snapCheckOp src j crc s.m, s.pending⟩ :=
  row_runs hs (decide_eq_true ⟨hsrc, hj⟩) rfl

theorem exec_snapDone (gen : Nat) : exec (.snapDone src j gen) s = .next ⟨snapDoneOp src j gen s.m, s.pending⟩ :=
  row_runs hs (decide_eq_true ⟨hsrc, hj⟩) rfl

theorem exec_snapCommit (gen : Nat) (ack : Bool) (commit : Nat) (losses : List Word) :
    exec (.snapCommit src j gen ack commit losses) s = .next ⟨snapCommitOp src j gen ack commit losses s.m, s.pending⟩ :=
  row_runs hs (decide_eq_true ⟨hsrc, hj⟩) rfl

theorem exec_shard (gen shard ofs : Nat) (mirror : Bool) (data : List Byte) :
    exec (.shard src j gen shard ofs mirror data) s = .next ⟨shardOp src j gen shard ofs mirror data s.m, s.pending⟩ :=
  row_runs hs (decide_eq_true ⟨hsrc, hj⟩) rfl

theorem exec_shardAck (gen shard : Nat) (refused : Bool) :
    exec (.shardAck src j gen shard refused) s = .next ⟨shardAckOp src j gen shard refused s.m, s.pending⟩ :=
  row_runs hs (decide_eq_true ⟨hsrc, hj⟩) rfl

end

/-- Settles O42: the leader's decision by what is due and what stands in the way; bytes for the store by the item that they join or the
slot that they find; an acknowledgement by the write that it answers; the rest by the cut in progress. -/
theorem snapshotsAreCutStoredAndCommitted : Obligations.SnapshotsAreCutStoredAndCommitted := by
  intro s j hs hj
  refine ⟨fun src crc hsrc => ⟨fun hagree => ?_, fun harmed hcrc hleads => ?_, fun harmed hcrc hmember hfrom => ?_⟩, fun hidle => ?_,
    fun harmed hleads hruns hthawed => ⟨fun hrate hrisk => ?_, fun sweep hnamed => ?_, fun hdue hnamed => ⟨fun hcut => ?_,
      fun c hcut hdeferred => ?_, fun c hcut hdeferred => ?_⟩⟩,
    fun sweep => ⟨fun harmed => ?_, fun hunarmed => ?_⟩, fun hnone => ⟨fun e => ?_, ?_, fun src gen hsrc => ?_⟩,
    fun src gen shard ofs mirror data hsrc hman => ⟨fun i hi => ?_, fun n hnew hofs hfree => ?_, fun hnew hofs => ?_,
      fun hnew hofs hfull => ?_⟩,
    fun src gen shard refused hsrc => ⟨fun v hv => ?_, fun hstill hother => ?_⟩,
    fun c hc => ⟨fun e => ⟨fun hroom => ?_, fun hroom => ?_⟩,
      fun src shard refused w hsrc hmoving hsent => ⟨fun hrefused => ?_, fun hcounts hman hcommits => ?_, fun hcounts hman hopen => ?_,
        fun hcounts hshard => ?_⟩,
      fun src shard hsrc hmoving hsent => ⟨?_, fun hplaced => ?_, fun t hplaced => ?_⟩,
      fun src hsrc => ⟨fun hleads => ?_, fun hmember => ?_⟩,
      fun src commit losses hsrc => ⟨?_, fun hdone hopen => ?_, fun hskip => ?_⟩,
      fun src gen ack commit losses hsrc hgen => ⟨?_, ?_⟩,
      fun e hempty => ⟨fun hlate => ?_, fun hlate => ?_⟩, fun hempty => ?_⟩⟩
  · rw [exec_snapCheck hs hj hsrc, snapCheckOp_agrees hagree]
  · rw [exec_snapCheck hs hj hsrc, snapCheckOp_leader harmed hcrc hleads]
  · rw [exec_snapCheck hs hj hsrc, snapCheckOp_mismatch harmed hcrc hmember hfrom]
  · rw [exec_snapPolicyDecision hs hj, policyOp_idle hidle]
  · exact (exec_snapPolicyDecision hs hj).trans (by rw [policyOp_nothingDue harmed hleads hruns hthawed hrate hrisk]; rfl)
  · exact (exec_snapPolicyDecision hs hj).trans (by rw [policyOp_named harmed hleads hruns hthawed hnamed]; rfl)
  · exact (exec_snapPolicyDecision hs hj).trans
      (by rw [policyOp_due harmed hleads hruns hthawed hdue hnamed, cutDecided_announces hcut]; rfl)
  · exact (exec_snapPolicyDecision hs hj).trans
      (by rw [policyOp_due harmed hleads hruns hthawed hdue hnamed, cutDecided_again hcut hdeferred]; rfl)
  · exact (exec_snapPolicyDecision hs hj).trans
      (by rw [policyOp_due harmed hleads hruns hthawed hdue hnamed, cutDecided_defers hcut hdeferred]; rfl)
  · rw [exec_snapCut hs hj, snapCutOp_armed harmed]
  · rw [exec_snapCut hs hj, snapCutOp_unarmed hunarmed]
  · rw [exec_snapStreamRead hs hj, streamReadOp_idle hnone]
  · rw [exec_snapRingTimeout hs hj, ringTimeoutOp_full (by rw [hnone]; rfl)]
  · rw [exec_snapDone hs hj hsrc, snapDoneOp_idle hnone]
  · rw [exec_shard hs hj hsrc, shardOp_joins hman hi]
    exact ⟨fun hwhole => by rw [ackedIfWhole, if_pos hwhole]; rfl, fun hpart => by rw [ackedIfWhole, if_neg hpart]; rfl⟩
  · rw [exec_shard hs hj hsrc, shardOp_takesSlot hnew hman hofs hfree]
    exact ⟨fun hwhole => by rw [ackedIfWhole, if_pos hwhole]; rfl, fun hpart => by rw [ackedIfWhole, if_neg hpart]; rfl⟩
  · rw [exec_shard hs hj hsrc, shardOp_later hnew hofs]
    rfl
  · rw [exec_shard hs hj hsrc, shardOp_full hnew hofs hfull]
    rfl
  · rw [exec_shardAck hs hj hsrc, shardAckOp_moved hv]
  · rw [exec_shardAck hs hj hsrc, shardAckOp_otherCut hstill hother]
  · exact (exec_snapStreamRead hs hj e).trans (by rw [streamReadOp_cut hc]; dsimp only; rw [if_pos hroom])
  · exact (exec_snapStreamRead hs hj e).trans (by rw [streamReadOp_cut hc]; dsimp only; rw [if_neg (Nat.not_lt.2 hroom)])
  · subst hrefused
    rw [exec_shardAck hs hj hsrc, shardAckOp_refused (find?_answersMoved_none hmoving) hc rfl hsent]
  · subst hcounts
    rw [exec_shardAck hs hj hsrc, shardAckOp_manifest (find?_answersMoved_none hmoving) hc rfl hsent hman, if_pos hcommits]
  · subst hcounts
    rw [exec_shardAck hs hj hsrc, shardAckOp_manifest (find?_answersMoved_none hmoving) hc rfl hsent hman, hopen]
    rfl
  · subst hcounts
    rw [exec_shardAck hs hj hsrc, shardAckOp_counts (find?_answersMoved_none hmoving) hc rfl hsent hshard]
  · rw [exec_shardAck hs hj hsrc, shardAckOp_unasked (find?_answersMoved_none hmoving) hc rfl hsent (.inl rfl)]
  · rw [exec_shardAck hs hj hsrc, shardAckOp_unasked (find?_answersMoved_none hmoving) hc rfl hsent (.inr hplaced)]
  · rw [exec_shardAck hs hj hsrc, shardAckOp_disowned (find?_answersMoved_none hmoving) hc rfl hsent hplaced]
  · rw [exec_snapDone hs hj hsrc, snapDoneOp_leader hc hleads]
  · rw [exec_snapDone hs hj hsrc, snapDoneOp_other hc (.inr hmember)]
  · rw [exec_snapCommit hs hj hsrc, snapCommitOp_ack hc]
  · rw [exec_snapCommit hs hj hsrc, snapCommitOp_done hc src commit losses hdone hopen]
  · rw [exec_snapCommit hs hj hsrc, snapCommitOp_notDue hc src commit losses hskip]
  · rw [exec_snapCommit hs hj hsrc, snapCommitOp_other hc src commit losses hgen]
  · rw [exec_snapDone hs hj hsrc, snapDoneOp_other hc (.inl hgen)]
  · rw [exec_snapRingTimeout hs hj, ringTimeoutOp_empty (by rw [hc, Option.bind_some, hempty]), if_pos hlate]
  · rw [exec_snapRingTimeout hs hj, ringTimeoutOp_empty (by rw [hc, Option.bind_some, hempty]), if_neg (ne_true_of_eq_false hlate)]
  · rw [exec_snapRingTimeout hs hj, ringTimeoutOp_full (by rw [hc, Option.bind_some, hempty])]

end Sys2Proof.Machine
end

section
/-!
CERTIFICATE. The commands of a restore: manifests, reports, the choice of a generation, and the shards that were read (R383–R388, R396).
-/
namespace Sys2Proof.Machine
-- As in the tests: theorems elaborated side by side would take a thread each.
set_option Elab.async false

/-! ### A module without a restore -/

section
variable {m : Mach} {j : Nat} (hnone : (snapOf m j).restore = none)
include hnone

theorem manifestsOp_idle (src : Nat) (ms : List (Option ManifestInfo)) : manifestsOp src j false ms m = m := by
  simp only [manifestsOp, Bool.false_eq_true, if_false, hnone]

theorem choiceOp_idle (gen : Nat) (none_ : Bool) : choiceOp j gen none_ m = m := by
  simp only [choiceOp, hnone]

theorem restoredOp_idle (gen : Nat) (copies : List ShardRead) : restoredOp j gen copies m = m := by
  simp only [restoredOp, hnone]

end

/-! ### SNAP_MANIFESTS (R383) -/

section
variable {m : Mach} {j src : Nat} {r : Restore} {ms : List (Option ManifestInfo)} (hr : (snapOf m j).restore = some r)
include hr

theorem manifestsOp_unasked (h : src ∉ r.awaited ∨ src ∈ r.answered) : manifestsOp src j false ms m = m := by
  have hskip : (!r.awaited.contains src || r.answered.contains src) = true := by simpa using h
  simp only [manifestsOp, Bool.false_eq_true, if_false, hr, hskip, if_true]

/-- The reply of an awaited source joins what was gathered; the host's entries are written back as done. -/
abbrev replyJoined (src j : Nat) (ms : List (Option ManifestInfo)) (m : Mach) : Mach :=
  modRestore j (fun r => { r with manifests := r.manifests ++ ms.filterMap id, answered := r.answered ++ [src] })
    (if src = self m then doneEntries j ms m else m)

theorem manifestsOp_awaited (hin : src ∈ r.awaited) (hnew : src ∉ r.answered) : manifestsOp src j false ms m =
    if (r.awaited.all fun d => d == src || r.answered.contains d) = true then reportGens j (replyJoined src j ms m)
    else replyJoined src j ms m := by
  have hjoins : (!r.awaited.contains src || r.answered.contains src) = false := by simp [hin, hnew]
  simp only [manifestsOp, Bool.false_eq_true, if_false, hr, hjoins]

end

/-! ### SNAP_GENS (R384, R387) -/

section
variable {m : Mach} {j src : Nat} {gens : List Nat}

theorem gensOp_member (h : isLeader (snapOf m j) = false) : gensOp src j gens m = m := by
  simp only [gensOp, h, Bool.not_false, if_true]

variable (hleads : isLeader (snapOf m j) = true)
include hleads

section
variable (hnone : (snapOf m j).restore = none)
include hnone

/-- A report that comes after the leader's own restore has ended, before every member's is in. -/
theorem gensOp_late_open (hopen : chooseFrom m (snapOf m j) (putReport src gens (snapOf m j).lastReports) (snapOf m j).lastWant = none) :
    gensOp src j gens m = m := by
  simp only [gensOp, hleads, Bool.not_true, Bool.false_eq_true, if_false, hnone, hopen]

theorem gensOp_late_chosen {c : Option Nat}
    (hchosen : chooseFrom m (snapOf m j) (putReport src gens (snapOf m j).lastReports) (snapOf m j).lastWant = some c) :
    gensOp src j gens m = sendMsg (modSnap m j fun x => { x with lastReports := putReport src gens (snapOf m j).lastReports }) src
      (.snapChoice j (c.getD 0) c.isNone) := by
  simp only [gensOp, hleads, Bool.not_true, Bool.false_eq_true, if_false, hnone, hchosen]

end

section
variable {r : Restore} (hr : (snapOf m j).restore = some r)
include hr

/-- The leader's restore with a member's report in place of its last. -/
abbrev reportNoted (src j : Nat) (gens : List Nat) (r : Restore) (m : Mach) : Mach :=
  modRestore j (fun x => { x with reports := putReport src gens r.reports }) m

theorem gensOp_open (hopen : chooseFrom (reportNoted src j gens r m) (snapOf m j) (putReport src gens r.reports) r.want = none) :
    gensOp src j gens m = reportNoted src j gens r m := by
  simp only [gensOp, hleads, Bool.not_true, Bool.false_eq_true, if_false, hr, hopen]

theorem gensOp_chosen {c : Option Nat}
    (hchosen : chooseFrom (reportNoted src j gens r m) (snapOf m j) (putReport src gens r.reports) r.want = some c) :
    gensOp src j gens m = choiceOp j (c.getD 0) c.isNone
      (forAll ((domainModules (snapOf m j)).filter fun d => d != self (reportNoted src j gens r m))
        (fun m d => sendMsg m d (.snapChoice j (c.getD 0) c.isNone)) (reportNoted src j gens r m)) := by
  simp only [gensOp, hleads, Bool.not_true, Bool.false_eq_true, if_false, hr, hchosen]

end

end

/-! ### SNAP_CHOICE and SNAP_RESTORED (R384–R388, R396) -/

section
variable {m : Mach} {j : Nat} {r : Restore} (hr : (snapOf m j).restore = some r)
include hr

theorem choiceOp_none (gen : Nat) : choiceOp j gen true m = endRestore j 0x74 0 m := by
  simp only [choiceOp, hr, if_true]

theorem choiceOp_some (gen : Nat) : choiceOp j gen false m = modRestore j (fun r => { r with chosen := some gen, held := none }) m := by
  simp only [choiceOp, hr, Bool.false_eq_true, if_false]

theorem restoredOp_unchosen {gen : Nat} (h : r.chosen ≠ some gen) (copies : List ShardRead) : restoredOp j gen copies m = m := by
  cases hchosen : r.chosen with
  | none => simp only [restoredOp, hr, hchosen]
  | some g =>
    have hother : g ≠ gen := fun heq => h (by rw [hchosen, heq])
    simp only [restoredOp, hr, hchosen, ne_eq, hother, not_false_eq_true, if_true]

section
variable {g : Nat} {copies : List ShardRead} (hchosen : r.chosen = some g)
include hchosen

theorem restoredOp_held (hshift : jobShifting m j = true) :
    restoredOp j g copies m = modRestore j (fun r => { r with held := some copies }) m := by
  simp only [restoredOp, hr, hchosen, ne_eq, not_true_eq_false, if_false, hshift, if_true]

variable {own w : ManifestInfo} (hstill : jobShifting m j = false) (hown : winning r (self m) g = some own)
  (hwriter : winning r (writerModule (snapOf m j)) g = some w)
include hstill hown hwriter

/-- A polygon of this member's stream or of its writer's is beyond repair (R387). -/
theorem restoredOp_beyondRepair (h : recover own copies = none ∨ recover w copies = none) :
    restoredOp j g copies m = fallBack j g m := by
  simp only [restoredOp, hr, hchosen, ne_eq, not_true_eq_false, if_false, hstill, Bool.false_eq_true, hown, hwriter]
  obtain ha | hb := h
  · simp only [ha]
  · simp only [hb]
    cases recover own copies <;> rfl

/-- The pipelines that STATE names as published. -/
abbrev publishedIn (st : List Byte) : List Nat := (List.range 4).filter fun p => strNat st (48 + 64 * p + 8) 8 == 1

theorem restoredOp_recovered {a b : List Byte × List (Nat × Nat)} (ha : recover own copies = some a) (hb : recover w copies = some b) :
    restoredOp j g copies m =
      if readerDiffers m j w (publishedIn (a.1.take (own.sections.getD 1 0))) = true then endRestore j 0x76 0 m
      else writeRestore j g r own w a b m := by
  simp only [restoredOp, hr, hchosen, ne_eq, not_true_eq_false, if_false, hstill, Bool.false_eq_true, hown, hwriter, ha, hb]

end

end

/-! ### The commands -/

section
variable {s : State} {j : Nat} (hs : Ready s) (hj : j < 16)
include hs hj

theorem exec_snapManifests {src : Nat} (hsrc : src < 4096) (request : Bool) (ms : List (Option ManifestInfo)) :
    exec (.snapManifests src j request ms) s = .next ⟨pumpAll (manifestsOp src j request ms s.m), s.pending⟩ :=
  row_runs (f := fun m => pumpAll (manifestsOp src j request ms m)) hs (decide_eq_true ⟨hsrc, hj⟩) rfl

theorem exec_snapGens {src : Nat} (hsrc : src < 4096) (gens : List Nat) :
    exec (.snapGens src j gens) s = .next ⟨pumpAll (gensOp src j gens s.m), s.pending⟩ :=
  row_runs (f := fun m => pumpAll (gensOp src j gens m)) hs (decide_eq_true ⟨hsrc, hj⟩) rfl

theorem exec_snapChoice (gen : Nat) (none_ : Bool) :
    exec (.snapChoice j gen none_) s = .next ⟨pumpAll (choiceOp j gen none_ s.m), s.pending⟩ :=
  row_runs (f := fun m => pumpAll (choiceOp j gen none_ m)) hs (decide_eq_true hj) rfl

theorem exec_snapRestored (gen : Nat) (polygon mirrors : List ShardRead) : exec (.snapRestored j gen polygon mirrors) s =
    .next ⟨pumpAll (restoredOp j gen (polygon ++ mirrors) s.m), s.pending⟩ :=
  row_runs (f := fun m => pumpAll (restoredOp j gen (polygon ++ mirrors) m)) hs (decide_eq_true hj) rfl

end

/-- Settles O43: each message by the restore that runs, whom it awaits, who leads, and which generation was chosen; the shards that
were read by a shift copy that runs, by what of them can be recovered, and by whether the reader's layers are its writer's. -/
theorem restoresGatherChooseAndWrite : Obligations.RestoresGatherChooseAndWrite := by
  intro s j hs hj
  refine ⟨fun src ms hsrc => exec_snapManifests hs hj hsrc true ms, fun hnone src ms gen none_ polygon mirrors hsrc => ⟨?_, ?_, ?_⟩,
    fun src gens hsrc => ⟨fun hmember => ?_, fun hleads hnone => ⟨fun hopen => ?_, fun c hchosen => ?_⟩⟩,
    fun r hr => ⟨fun src ms hsrc hunasked => ?_, fun src ms hsrc hin hnew => ⟨fun hall => ?_, fun hopen => ?_⟩,
      fun src gens hsrc hleads => ⟨fun hopen => ?_, fun c hchosen => ?_⟩, fun gen => ⟨?_, ?_⟩,
      fun gen polygon mirrors hchosen => ?_, fun g polygon mirrors hchosen hshift => ?_,
      fun g polygon mirrors own w hchosen hstill hown hwriter => ⟨fun hlost => ?_, fun a b ha hb =>
        ⟨fun hdiffers => ?_, fun hsame => ?_⟩⟩⟩⟩
  · rw [exec_snapManifests hs hj hsrc, manifestsOp_idle hnone]
  · rw [exec_snapChoice hs hj, choiceOp_idle hnone]
  · rw [exec_snapRestored hs hj, restoredOp_idle hnone]
  · rw [exec_snapGens hs hj hsrc, gensOp_member hmember]
  · rw [exec_snapGens hs hj hsrc, gensOp_late_open hleads hnone hopen]
  · rw [exec_snapGens hs hj hsrc, gensOp_late_chosen hleads hnone hchosen]
    rfl
  · rw [exec_snapManifests hs hj hsrc, manifestsOp_unasked hr hunasked]
  · rw [exec_snapManifests hs hj hsrc, manifestsOp_awaited hr hin hnew, if_pos (by simpa using hall)]
  · rw [exec_snapManifests hs hj hsrc, manifestsOp_awaited hr hin hnew, if_neg (by simpa using hopen)]
  · rw [exec_snapGens hs hj hsrc, gensOp_open hleads hr hopen]
    rfl
  · rw [exec_snapGens hs hj hsrc, gensOp_chosen hleads hr hchosen]
    rfl
  · rw [exec_snapChoice hs hj, choiceOp_none hr]
  · rw [exec_snapChoice hs hj, choiceOp_some hr]
  · rw [exec_snapRestored hs hj, restoredOp_unchosen hr hchosen]
  · rw [exec_snapRestored hs hj, restoredOp_held hr hchosen hshift]
  · rw [exec_snapRestored hs hj, restoredOp_beyondRepair hr hchosen hstill hown hwriter hlost]
    rfl
  · rw [exec_snapRestored hs hj, restoredOp_recovered hr hchosen hstill hown hwriter ha hb, if_pos hdiffers]
  · refine (exec_snapRestored hs hj g polygon mirrors).trans ?_
    rw [restoredOp_recovered hr hchosen hstill hown hwriter ha hb, if_neg (ne_true_of_eq_false hsame)]
    rfl

end Sys2Proof.Machine
end

section
/-!
CERTIFICATE. The host's twin commands and PWR_CMD.FAIL_FACET (R400, R401, R444, R503), and what the end of a shift copy sets going
(R396).
-/
namespace Sys2Proof.Machine
-- As in the tests: theorems elaborated side by side would take a thread each.
set_option Elab.async false

/-! ### Freeze and lease (R400, R401) -/

section
variable {m : Mach}

theorem unfreezeOp_ends (h : m.twin.frozen = true ∨ m.twin.freezeDue = true) :
    unfreezeOp m = driveFail (modTwin m fun t => { t with frozen := false, freezeDue := false }) :=
  if_pos (Bool.or_eq_true_iff.2 h)

theorem unfreezeOp_idle (hfrozen : m.twin.frozen = false) (hdue : m.twin.freezeDue = false) : unfreezeOp m = m := by
  simp only [unfreezeOp, hfrozen, hdue, Bool.or_self, Bool.false_eq_true, if_false]

theorem leaseExpOp_held {h : HeartbeatMsg} (hlast : m.twin.last = some h) (hlease : h.lease = true) (v : Word) :
    leaseExpOp v m = raise m twinLeaseErr (srcUnit 1) none [m.tick.tickNo, m.twin.modNum] := by
  simp only [leaseExpOp, hlast, Option.any_some, hlease, if_true]

theorem leaseExpOp_stores (hlease : ∀ h, m.twin.last = some h → h.lease = false) (v : Word) :
    leaseExpOp v m = regSet m offLeaseExp v := by
  refine if_neg fun hheld => ?_
  obtain ⟨h, hlast, htrue⟩ := (Option.any_eq_true ..).1 hheld
  exact ne_true_of_eq_false (hlease h hlast) htrue

/-! ### TWIN_LINKS (R444, Table 14.10) -/

variable {v : Word}

theorem twinLinksOp_enabled (hen : tb (regN m offTwinCtl) 0 = true) : twinLinksOp v m =
    raise m twinBridgeErr (srcUnit 1) none [(bridgeLinks m).headD 0, (linkOf m ((bridgeLinks m).headD 0)).farModule] :=
  if_pos hen

theorem twinLinksOp_bad (hen : tb (regN m offTwinCtl) 0 = false) (hcount : popc 36 (wf v 35 0) < 2 ∨ 8 < popc 36 (wf v 35 0)) :
    twinLinksOp v m = raise m hostCfgErr srcHost none [] :=
  (if_neg (ne_true_of_eq_false hen)).trans (if_pos hcount)

theorem twinLinksOp_stores (hen : tb (regN m offTwinCtl) 0 = false) (hlo : 2 ≤ popc 36 (wf v 35 0))
    (hhi : popc 36 (wf v 35 0) ≤ 8) : twinLinksOp v m = updatePaired (regSet m offTwinLinks (word (wf v 35 0))) :=
  (if_neg (ne_true_of_eq_false hen)).trans (if_neg (by omega))

end

/-! ### The commands -/

section
variable {s : State} (hs : Ready s)
include hs

theorem exec_detach : exec .detach s = .next ⟨detachOp s.m, s.pending⟩ := row_runs hs rfl rfl

theorem exec_unfreeze : exec .unfreeze s = .next ⟨sendReport false (unfreezeOp s.m), s.pending⟩ := reporting_runs hs rfl rfl

theorem exec_twinLeaseExp (v : Word) : exec (.twinLeaseExp v) s = .next ⟨leaseExpOp v s.m, s.pending⟩ := row_runs hs rfl rfl

theorem exec_twinLinks (v : Word) : exec (.twinLinks v) s = .next ⟨twinLinksOp v s.m, s.pending⟩ := row_runs hs rfl rfl

theorem exec_facetFail {f : Nat} (hf : f < 96) :
    exec (.facetFail f) s = .next ⟨sendReport false (failFacetOp f s.m), s.pending⟩ :=
  reporting_runs hs (decide_eq_true hf) rfl

theorem exec_failFacet {f : Nat} (hf : f < 128) :
    exec (.failFacet f) s = .next ⟨sendReport false (if f < 96 then failFacetOp f s.m else s.m), s.pending⟩ :=
  reporting_runs (f := fun m => if f < 96 then failFacetOp f m else m) hs (decide_eq_true hf) rfl

theorem exec_shiftCopyDone {row : Nat} (hrow : row < 8) : exec (.shiftCopyDone row) s =
    .next ⟨pumpAll (forAll (List.range 16) (fun m j => lateRestore j m) (shiftCopyDoneOp row s.m)), s.pending⟩ :=
  row_runs (f := fun m => pumpAll (forAll (List.range 16) (fun m j => lateRestore j m) (shiftCopyDoneOp row m))) hs
    (decide_eq_true hrow) rfl

end

/-- Settles O46: each command by whether the module is frozen, the twin holds the lease, the bridge is enabled, and the number names
a facet. -/
theorem twinCommandsAct : Obligations.TwinCommandsAct := by
  intro s hs
  refine ⟨exec_detach hs, fun hfreeze => ?_, fun hfrozen hdue => ?_, fun v h hlast hlease => ?_, fun v hlease => ?_,
    fun v hen => ?_, fun v hen hlo hhi => ?_, fun v hen hcount => ?_, fun f hf => ?_, fun f hlo hhi => ?_⟩
  · rw [exec_unfreeze hs, unfreezeOp_ends hfreeze]
    rfl
  · rw [exec_unfreeze hs, unfreezeOp_idle hfrozen hdue]
  · rw [exec_twinLeaseExp hs, leaseExpOp_held hlast hlease]
  · rw [exec_twinLeaseExp hs, leaseExpOp_stores hlease]
  · rw [exec_twinLinks hs, twinLinksOp_enabled hen]
  · rw [exec_twinLinks hs, twinLinksOp_stores hen hlo hhi]
  · rw [exec_twinLinks hs, twinLinksOp_bad hen hcount]
  · rw [exec_failFacet hs (by omega), exec_facetFail hs hf, if_pos hf]
    exact ⟨rfl, rfl⟩
  · rw [exec_failFacet hs hhi, if_neg (Nat.not_lt.2 hlo)]

/-! ### The end of a shift copy (R392, R396) -/

/-- A READY module, member of a domain that module 1 leads.  The one stage context of its job 0 stands on facet 0 in row 0, where a
shift copy runs.  The restore of the job was to read generation 4, of which it got no copy of any shard, and waits for the end of the
shift copy (R396). -/
def restoreWaiting : Mach :=
  let stage : MapSc := ⟨0, 0, 0, 0, 0, 0, 0, 0, false, 0, 0⟩
  let manifest : ManifestInfo :=
    { modNum := 0, gen := 4, commit := 1, committed := true, mzero := false, k := 4, m := 1, nData := 1
      crcs := [], sections := [], losses := [], places := [], home := none }
  let restore : Restore :=
    { ring := 0, index := 0, tag := 0, want := 4, exclHist := false, exclProj := false, verify := false, quiet := false
      places := [], awaited := [], answered := [], manifests := [manifest], refused := [], reports := []
      chosen := some 4, held := some [] }
  { State.reset.m with
    boot := { Boot.init with state := 3 }
    shifts := [⟨0, 0, 12, false, false, false⟩]
    jobs := { Job.init with
      maps := List.replicate 6 (some ⟨0, [stage], [], [], []⟩)
      snap := { SnapDom.init with
        armed := true, members := [(1, 0), (0, 1)], leader := 0, self := 1, restore := some restore } } :: List.replicate 15 Job.init }

/-- States that differ in their shift copies alone have the same snapshot domains. -/
theorem snapOf_copyNoted {m m' : Mach} {l : List Shift} {q : List Instr} (h : (⟨m', q⟩ : State) = ⟨{ m with shifts := l }, q⟩)
    (j : Nat) : snapOf m' j = snapOf m j :=
  congrArg (fun t : State => snapOf t.m j) h

/-- The generation that the restore of job 0 is to read. -/
def chosenGen (m : Mach) : Option Nat := (snapOf m 0).restore.bind (·.chosen)

/-- The module of `restoreWaiting` when the copy has ended and what waited for it has gone on. -/
def restoreGoneOn : Mach := forAll (List.range 16) (fun m j => lateRestore j m) (shiftCopyDoneOp 0 restoreWaiting)

/-- The restore had to wait for the copy.  With its end it goes on, finds the generation beyond repair and gives it up (R387). -/
theorem restoreWaiting_goesOn : jobShifting restoreWaiting 0 = true ∧ chosenGen restoreWaiting = some 4 ∧
    chosenGen restoreGoneOn = none ∧ restoreGoneOn.descs.isEmpty = true := by
  decide +kernel

theorem exec_restoreWaiting : exec (.shiftCopyDone 0) ⟨restoreWaiting, []⟩ = .next ⟨restoreGoneOn, []⟩ := by
  obtain ⟨-, -, -, hdescs⟩ := restoreWaiting_goesOn
  rw [exec_shiftCopyDone (s := ⟨restoreWaiting, []⟩) rfl (by omega), ← restoreGoneOn, pumpAll_nothing (List.isEmpty_iff.1 hdescs)]

/-- Refutes O44, by its clause on SHIFT_COPY_DONE, which has the command do no more than note the end of the copy.  A restore that
waited for the copy goes on with it (R396): that of `restoreWaiting` gives up the generation that it was to read. -/
theorem not_facetsFailAndTwinsWatchEachOther : ¬ Obligations.FacetsFailAndTwinsWatchEachOther := by
  intro h
  obtain ⟨-, -, hdone, -⟩ := h ⟨restoreWaiting, []⟩ rfl
  have hstated := hdone 0 ⟨0, 0, 12, false, false, false⟩ [] [] (by omega) rfl rfl (by simp)
  rw [exec_restoreWaiting] at hstated
  obtain ⟨-, hbefore, hafter, -⟩ := restoreWaiting_goesOn
  injection hstated with hstate
  rw [chosenGen, snapOf_copyNoted hstate, ← chosenGen, hbefore] at hafter
  cases hafter

end Sys2Proof.Machine
end

section
/-!
CERTIFICATE. Power states, their resets, the wake and the boot steps (R485, R491, R502, R507–R512, R515, R546).
-/
namespace Sys2Proof.Machine
-- As in the tests: theorems elaborated side by side would take a thread each.
set_option Elab.async false

/-! ### What events leave -/

section
variable (m : Mach) (code src : Nat) (job : Option Nat) (d : List Nat)

@[simp] theorem raise_now : (raise m code src job d).now = m.now := by
  have hframe := congrArg Mach.now (raise_frame m code src job d)
  exact hframe

@[simp] theorem raise_boot : (raise m code src job d).boot = m.boot := by
  have hframe := congrArg Mach.boot (raise_frame m code src job d)
  exact hframe

@[simp] theorem raise_flash : (raise m code src job d).flash = m.flash := by
  have hframe := congrArg Mach.flash (raise_frame m code src job d)
  exact hframe

@[simp] theorem raise_ctr : (raise m code src job d).ctr = m.ctr := by
  have hframe := congrArg Mach.ctr (raise_frame m code src job d)
  exact hframe

end

/-! ### A cut that aborts leaves the instant and flash (R376) -/

/-- The instant and the contents of flash, which an entry into STANDBY keeps. -/
abbrev nowFlash (m : Mach) : Nat × Flash := (m.now, m.flash)

theorem nowFlash_raise (m : Mach) (code src : Nat) (job : Option Nat) (d : List Nat) :
    nowFlash (raise m code src job d) = nowFlash m := by
  simp only [nowFlash, raise_now, raise_flash]

theorem nowFlash_sendTx (l vc key flits : Nat) (head : BitVec 2048) (o : Option Output) (m : Mach) :
    nowFlash (sendTx l vc key flits head o m) = nowFlash m := by
  have hframe := congrArg nowFlash (pumpLink_frame l (modLink m l fun x => { x with
    txQ := x.txQ ++ [⟨vc, key, flits, false, head, o⟩], shares := joinShare vc key x.shares }))
  exact hframe

theorem nowFlash_sendMsg (m : Mach) (dst : Nat) (c : Instr) : nowFlash (sendMsg m dst c) = nowFlash m := by
  unfold sendMsg
  split
  · exact foldl_keeps nowFlash (fun _ _ => nowFlash_sendTx ..) _ m
  · rfl

theorem nowFlash_resumeDeferred (j : Nat) (m : Mach) : nowFlash (resumeDeferred j m) = nowFlash m := by
  unfold resumeDeferred
  split
  · exact forAll_keeps nowFlash (fun m d => nowFlash_sendMsg m d _) _ _
  · rfl

theorem nowFlash_finishEntries (gen : Nat) (l : List SnapUse) (m : Mach) : nowFlash (finishEntries gen l m) = nowFlash m :=
  forAll_keeps nowFlash (g := fun m (e : SnapUse) => emit m (.snapEntryWrite (portOf m 34) e.place e.used gen true e.failed))
    (fun _ _ => rfl) l m

theorem nowFlash_abortCut (j cause : Nat) (m : Mach) : nowFlash (abortCut j cause m) = nowFlash m := by
  unfold abortCut
  dsimp only
  split
  · rfl
  · rw [nowFlash_resumeDeferred]
    split
    · rw [nowFlash_raise]
      split
      · rfl
      · exact nowFlash_finishEntries ..
    · split
      · rfl
      · exact nowFlash_finishEntries ..

/-! ### The input range and RESET_N (R509, R546) -/

section
variable {m : Mach}

theorem inputOutOp_off (h : m.boot.state = 0) : inputOutOp m = m := if_pos h

theorem inputOutOp_powered (h : m.boot.state ≠ 0) :
    inputOutOp m = dropPins (powerDown { Boot.init with state := 0, resetN := m.boot.resetN } m) := if_neg h

theorem inputInOp_powered (h : m.boot.state ≠ 0) (mv : Nat) (addr : BitVec 2) : inputInOp mv addr m = m := if_pos h

theorem inputInOp_off (h : m.boot.state = 0) (mv : Nat) (addr : BitVec 2) :
    inputInOp mv addr m = modPower (powerDown { Boot.init with state := 1, resetN := m.boot.resetN } m) fun p =>
      { p with addr := addr, inputMv := mv } := if_neg (not_not_intro h)

theorem resetNOp_off (h : m.boot.state = 0) : resetNOp m = m := if_pos h

theorem resetNOp_powered (h : m.boot.state ≠ 0) : resetNOp m =
    { moduleResetOp m.boot.cause m with boot := { (moduleResetOp m.boot.cause m).boot with resetN := true } } := if_neg h

end

/-! ### The wake (R485, R508) -/

section
variable {m : Mach} (hstandby : m.boot.state = 1) (confirmed : List (Nat × Nat))
include hstandby

/-- The module leaves STANDBY for step 1 of BOOT. -/
abbrev entersBoot (confirmed : List (Nat × Nat)) (m : Mach) : Mach :=
  judgeLatches confirmed { m with boot := { m.boot with state := 2, step := 1, cause := 0, wakeCause := false } }

theorem wakeOp_line (n : Nat) : wakeOp (.line n) confirmed m =
    if (m.boot.resetN || m.power.flowLow || m.power.leak || !m.boot.wakeCause) = true then m else entersBoot confirmed m := by
  simp only [wakeOp, hstandby, ne_eq, not_true_eq_false, if_false]

/-- The release of RESET_N is itself a wake cause where RESET_N held the module. -/
theorem wakeOp_release (hflow : m.power.flowLow = false) (hleak : m.power.leak = false)
    (hcause : m.boot.wakeCause = true ∨ m.boot.resetN = true) : wakeOp .resetRelease confirmed m =
      entersBoot confirmed { m with boot := { m.boot with resetN := false } } := by
  have hwake : (m.boot.wakeCause || m.boot.resetN) = true := Bool.or_eq_true_iff.2 hcause
  simp only [wakeOp, hstandby, hflow, hleak, hwake, ne_eq, not_true_eq_false, if_false, Bool.not_false, Bool.not_true, Bool.and_self,
    Bool.or_self, Bool.false_eq_true]

end

theorem wakeOp_other {m : Mach} (h : m.boot.state ≠ 1) (c : WakeCause) (confirmed : List (Nat × Nat)) : wakeOp c confirmed m = m :=
  if_pos h

/-! ### The boot steps (R511) -/

/-- The boot goes on to the step after the present one. -/
abbrev bootOnward (m : Mach) : Mach := { m with boot := { m.boot with step := m.boot.step + 1 } }

theorem bootStepOp_other {m : Mach} (h : m.boot.state ≠ 2) (ok : Bool) (failed : List Nat) : bootStepOp ok failed m = m := if_pos h

section
variable {m : Mach} (hboot : m.boot.state = 2) (ok : Bool) (failed : List Nat)
include hboot

/-- Steps 1 and 2, the rails and the clocks. -/
theorem bootStepOp_early (hstep : m.boot.step ≤ 2) :
    bootStepOp ok failed m = if ok = true then bootOnward m else moduleResetOp 3 m := by
  rw [bootStepOp, if_neg (not_not_intro hboot)]
  exact if_pos hstep

/-- Step 3, a bank that boots (R491). -/
theorem bootStepOp_bank {bank : Nat} (hstep : m.boot.step = 3) (hbank : bootBank m.flash = some bank) :
    bootStepOp ok failed m =
      if ok = true then bootOnward { m with boot := { m.boot with fellBack := bank != m.flash.committed } } else moduleResetOp 1 m := by
  simp [bootStepOp, hboot, hstep, hbank]

theorem bootStepOp_noBank (hstep : m.boot.step = 3) (hbank : bootBank m.flash = none) :
    bootStepOp ok failed m = modCtr (moduleResetOp 1 m) fun c => { c with noImage := true } := by
  simp [bootStepOp, hboot, hstep, hbank]

/-- Step 4, a copy of the record area (R515). -/
theorem bootStepOp_copy {x : Nat × Nat} (hstep : m.boot.step = 4) (hcopy : bootCopy m.flash = some x) :
    bootStepOp ok failed m =
      if ok = true then bootOnward { m with boot := { m.boot with fmapFell := m.flash.copies.any fun c => !c.1 } }
      else moduleResetOp 2 m := by
  simp [bootStepOp, hboot, hstep, hcopy]

theorem bootStepOp_noCopy (hstep : m.boot.step = 4) (hcopy : bootCopy m.flash = none) :
    bootStepOp ok failed m = moduleResetOp 2 m := by
  simp [bootStepOp, hboot, hstep, hcopy]

/-- A failed step 4 ends the boot, whether or not a copy is valid. -/
theorem bootStepOp_fourthFails (hstep : m.boot.step = 4) : bootStepOp false failed m = moduleResetOp 2 m := by
  cases hcopy : bootCopy m.flash with
  | none => exact bootStepOp_noCopy hboot false failed hstep hcopy
  | some x => exact bootStepOp_copy hboot false failed hstep hcopy

/-- Steps 5 and 6 with no site that failed. -/
theorem bootStepOp_sound (hstep : m.boot.step = 5 ∨ m.boot.step = 6) (hnone : ∀ x ∈ failed, 104 ≤ x) :
    bootStepOp ok failed m = bootOnward m := by
  have hbad : (failed.filter fun x => decide (x < 104)) = [] :=
    List.filter_eq_nil_iff.2 fun x hx => by simpa using hnone x hx
  have hlate : ¬ m.boot.step ≤ 2 ∧ m.boot.step ≠ 3 ∧ m.boot.step ≠ 4 ∧ m.boot.step ≤ 6 := by omega
  obtain ⟨h2, h3, h4, h6⟩ := hlate
  rw [bootStepOp, if_neg (not_not_intro hboot)]
  simp only [hbad, h2, h3, h4, h6, if_false, if_true, List.isEmpty_nil, List.append_nil]

theorem bootStepOp_last (hstep : 7 ≤ m.boot.step) : bootStepOp ok failed m = becomeReady m := by
  have hlate : ¬ m.boot.step ≤ 2 ∧ m.boot.step ≠ 3 ∧ m.boot.step ≠ 4 ∧ ¬ m.boot.step ≤ 6 := by omega
  obtain ⟨h2, h3, h4, h6⟩ := hlate
  simp only [bootStepOp, hboot, h2, h3, h4, h6, ne_eq, not_true_eq_false, if_false]

end

/-! ### READY (R491, R511) -/

/-- With no site that the facet map has as FAILED, no facet is taken over at READY. -/
theorem bootTakeover_none {m : Mach} (hsites : ∀ x ∈ m.flash.sites, x.state ≠ 1) :
    forAll ((List.range 104).filter fun s => ((m.flash.sites[s]?).map (·.state)) == some 1) bootTakeover m = m := by
  have hnone : ((List.range 104).filter fun s => ((m.flash.sites[s]?).map (·.state)) == some 1) = [] := by
    refine List.filter_eq_nil_iff.2 fun i _ hfailed => ?_
    obtain ⟨x, hx, hstate⟩ := Option.map_eq_some_iff.1 (beq_iff_eq.1 hfailed)
    exact hsites x (List.mem_of_getElem? hx) hstate
  rw [hnone]
  rfl

theorem becomeReady_sound {m : Mach} (hsites : ∀ x ∈ m.flash.sites, x.state ≠ 1) :
    (becomeReady m).boot.state = 3 ∧ (becomeReady m).ctr.bank = (bootBank m.flash).getD 0 := by
  unfold becomeReady
  dsimp only
  rw [bootTakeover_none]
  · simp only [apply_ite Mach.boot, apply_ite Mach.ctr, raise_boot, raise_ctr, ite_self]
    exact ⟨rfl, rfl⟩
  · simp only [apply_ite Mach.flash, raise_flash, ite_self]
    refine List.forall_mem_map.2 fun x hx => ?_
    exact hsites x hx

/-! ### The end of the leak's grace (R502) -/

/-- The jobs halt and their cuts abort before the module enters STANDBY. -/
abbrev jobsHalted (m : Mach) : Mach :=
  forAll ((List.range 16).filter fun j => (jobOf m j).admitted)
    (fun m j => abortCut j 2 (modJob m j fun x => { x with halted := true })) m

theorem nowFlash_jobsHalted (m : Mach) : nowFlash (jobsHalted m) = nowFlash m :=
  forAll_keeps nowFlash (g := fun m j => abortCut j 2 (modJob m j fun x => { x with halted := true }))
    (fun _ _ => nowFlash_abortCut ..) _ m

theorem leakGraceOp_none {m : Mach} (h : m.power.leakAt = none) : leakGraceOp m = m := by
  simp only [leakGraceOp, h]

theorem leakGraceOp_due {m : Mach} {t : Nat} (h : m.power.leakAt = some t)
    (hdue : t + regN m offLeakGrace * 100000 ≤ (atTime m (t + regN m offLeakGrace * 100000)).now) :
    leakGraceOp m = moduleResetOp 0 (jobsHalted (atTime m (t + regN m offLeakGrace * 100000))) := by
  simp only [leakGraceOp, h]
  exact byTime_reached hdue _

/-! ### The commands -/

section
variable {s : State}

theorem exec_inputOutOfRange : exec .inputOutOfRange s = .next ⟨inputOutOp s.m, s.pending⟩ := rfl

theorem exec_inputInRange (mv : Nat) (addr : BitVec 2) :
    exec (.inputInRange mv addr) s = .next ⟨inputInOp mv addr s.m, s.pending⟩ := rfl

theorem exec_resetN : exec .resetN s = .next ⟨resetNOp s.m, s.pending⟩ := rfl

theorem exec_wake (c : WakeCause) (confirmed : List (Nat × Nat)) :
    exec (.wake c confirmed) s = .next ⟨wakeOp c confirmed s.m, s.pending⟩ := rfl

theorem exec_bootStepEnd (ok : Bool) (failed : List Nat) :
    exec (.bootStepEnd ok failed) s = .next ⟨bootStepOp ok failed s.m, s.pending⟩ := rfl

theorem exec_leakGrace (hs : Ready s) : exec .leakGrace s = .next ⟨leakGraceOp s.m, s.pending⟩ := row_runs hs rfl rfl

end

/-- Settles O52: each event by the power state, the lines that hold the module, and the boot step with what flash holds. -/
theorem powerStatesFollowTheirRules : Obligations.PowerStatesFollowTheirRules := by
  intro s
  refine ⟨fun hoff => ?_, fun hon mv addr => ?_, fun hon => ?_, fun hoff mv addr => ?_, fun hon => ?_, fun hother c l => ?_,
    fun hstandby n l => ?_, fun hstandby hflow hleak hcause l => ?_, fun hother ok l => ?_, fun hboot l => ?_,
    fun t hready hleak hdue => ?_, fun hready hleak => ?_⟩
  · rw [exec_inputOutOfRange, exec_resetN, inputOutOp_off hoff, resetNOp_off hoff]
    exact ⟨rfl, rfl⟩
  · rw [exec_inputInRange, inputInOp_powered hon]
  · exact ⟨_, exec_inputOutOfRange, by rw [inputOutOp_powered hon]; exact ⟨rfl, rfl, rfl, rfl, rfl, rfl⟩⟩
  · exact ⟨_, exec_inputInRange mv addr, by rw [inputInOp_off hoff]; exact ⟨rfl, rfl, rfl, rfl, rfl⟩⟩
  · exact ⟨_, exec_resetN, by rw [resetNOp_powered hon]; exact ⟨rfl, rfl, rfl, rfl, rfl, rfl, rfl, rfl, rfl⟩⟩
  · rw [exec_wake, wakeOp_other hother]
  · rw [exec_wake, wakeOp_line hstandby]
    refine ⟨fun hheld => ?_, fun hfree => ?_⟩
    · rw [if_pos hheld]
    · rw [if_neg (ne_true_of_eq_false hfree)]
  · rw [exec_wake, wakeOp_release hstandby l hflow hleak hcause]
  · rw [exec_bootStepEnd, bootStepOp_other hother]
  · refine ⟨fun hstep => ⟨?_, ?_⟩, fun bank hstep hbank => ⟨?_, ?_⟩, fun ok hstep hbank => ?_, fun x hstep hcopy => ?_,
      fun hstep => ?_, fun ok hstep hcopy => ?_, fun ok hstep hnone => ?_, fun ok hstep hsites => ?_⟩
    · exact (exec_bootStepEnd true l).trans (by rw [bootStepOp_early hboot true l hstep, if_pos rfl])
    · exact (exec_bootStepEnd false l).trans (by rw [bootStepOp_early hboot false l hstep, if_neg Bool.false_ne_true])
    · exact (exec_bootStepEnd true l).trans (by rw [bootStepOp_bank hboot true l hstep hbank, if_pos rfl])
    · exact (exec_bootStepEnd false l).trans (by rw [bootStepOp_bank hboot false l hstep hbank, if_neg Bool.false_ne_true])
    · exact ⟨_, exec_bootStepEnd ok l, by rw [bootStepOp_noBank hboot ok l hstep hbank]; exact ⟨rfl, rfl⟩⟩
    · exact (exec_bootStepEnd true l).trans (by rw [bootStepOp_copy hboot true l hstep hcopy, if_pos rfl])
    · rw [exec_bootStepEnd, bootStepOp_fourthFails hboot l hstep]
    · rw [exec_bootStepEnd, bootStepOp_noCopy hboot ok l hstep hcopy]
    · rw [exec_bootStepEnd, bootStepOp_sound hboot ok l hstep hnone]
    · refine ⟨_, exec_bootStepEnd ok l, ?_⟩
      rw [bootStepOp_last hboot ok l hstep]
      exact becomeReady_sound hsites
  · have hkept := nowFlash_jobsHalted (atTime s.m (t + regN s.m offLeakGrace * 100000))
    obtain ⟨hnow, hflash⟩ := Prod.mk.inj hkept
    exact ⟨_, exec_leakGrace hready, by rw [leakGraceOp_due hleak hdue]; exact ⟨rfl, hnow, hflash⟩⟩
  · rw [exec_leakGrace hready, leakGraceOp_none hleak]

end Sys2Proof.Machine
end

section
/-!
CERTIFICATE. Steps and runs of a queue, what needs a READY module (R507, R512), raising an event (R470, R471, R543), and the register
commands with a row of their own (R16, R66, R98, R533, R535, R541, R542).
-/
namespace Sys2Proof.Machine
-- As in the tests: theorems elaborated side by side would take a thread each.
set_option Elab.async false

/-! ### Steps -/

theorem step_cons (m : Mach) (c : Instr) (rest : List Instr) : step ⟨m, c :: rest⟩ = exec c ⟨m, rest⟩ := rfl

theorem step_nil (m : Mach) : step ⟨m, []⟩ = .next ⟨idle m, []⟩ := rfl

/-- Settles O1: both equations are the definition of a step, one per shape of the queue. -/
theorem stepRunsFrontCommand : Obligations.StepRunsFrontCommand := ⟨step_cons, step_nil⟩

/-- A step answers a next state, and the queue loses its front command. -/
theorem step_takes_front : ∀ s : State, ∃ m', step s = .next ⟨m', s.pending.drop 1⟩
  | ⟨m, []⟩ => ⟨idle m, step_nil m⟩
  | ⟨m, c :: rest⟩ => (commandsOfExistingUnitsComplete c ⟨m, rest⟩).1

theorem queueWf_step {s s' : State} (h : QueueWf s) (hstep : step s = .next s') : QueueWf s' := by
  obtain ⟨m', hfront⟩ := step_takes_front s
  obtain rfl : ⟨m', s.pending.drop 1⟩ = s' := Host.Outcome.next.inj (hfront.symm.trans hstep)
  exact fun c hc => h c (List.mem_of_mem_drop hc)

/-! ### Runs -/

theorem run_succ {k : Nat} {s s' : State} (h : step s = .next s') :
    Host.Core.run Sys2Proof.core (k + 1) s = Host.Core.run Sys2Proof.core k s' := by
  have hcore : Sys2Proof.core.step s = .next s' := h
  simp only [Host.Core.run, hcore]

/-- The first `k` commands leave the queue in `k` steps. -/
theorem run_takes_front (k : Nat) : ∀ s : State, ∃ m', Host.Core.run Sys2Proof.core k s = .next ⟨m', s.pending.drop k⟩ := by
  induction k with
  | zero => exact fun s => ⟨s.m, rfl⟩
  | succ k ih =>
    intro s
    obtain ⟨m1, hstep⟩ := step_takes_front s
    obtain ⟨m2, hrest⟩ := ih ⟨m1, s.pending.drop 1⟩
    refine ⟨m2, (run_succ hstep).trans (hrest.trans ?_)⟩
    rw [List.drop_drop, Nat.add_comm]

theorem safe_of_any (s : State) : Safe s := fun k =>
  (run_takes_front k s).elim fun m' h => ⟨⟨m', s.pending.drop k⟩, h⟩

/-- Settles O3: every command answers a next state and leaves the rest of the queue, so runs go on by induction on their steps. -/
theorem wellFormedQueuesRunSafely : Obligations.WellFormedQueuesRunSafely :=
  ⟨fun _ h _ hstep => queueWf_step h hstep, fun s k => run_takes_front k s, safe_of_any⟩

/-! ### Before READY (R507, R512) -/

/-- A row of the READY-only domain changes nothing before READY, whether its unit exists or not. -/
theorem row_other {exists_ : Bool} {f : Mach → Mach} {s : State} (h : ¬Ready s) : actReady exists_ f s = .next s := by
  cases exists_
  · rfl
  · exact actReady_other f h

theorem exec_beforeReady {c : Instr} {s : State} (hc : alwaysOn c = false) (h : ¬Ready s) : exec c s = .next s := by
  obtain ⟨f, hform⟩ := exec_form c
  rw [hform s, hc, if_neg Bool.false_ne_true, row_other h]

theorem run_beforeReady (m : Mach) (h : m.boot.state ≠ 3) : ∀ q : List Instr, (∀ c ∈ q, alwaysOn c = false) →
    Host.Core.run Sys2Proof.core q.length ⟨m, q⟩ = .next ⟨m, []⟩
  | [], _ => rfl
  | c :: rest, hq => by
    have hfront : step ⟨m, c :: rest⟩ = .next ⟨m, rest⟩ := exec_beforeReady (hq c List.mem_cons_self) h
    rw [List.length_cons, run_succ hfront, run_beforeReady m h rest fun d hd => hq d (List.mem_cons_of_mem c hd)]

/-- Settles O4: a command of the READY-only domain runs behind the test of the power state, so a queue of them changes nothing. -/
theorem beforeReadyNothingHappens : Obligations.BeforeReadyNothingHappens :=
  ⟨fun _ _ hc h => exec_beforeReady hc h, fun s hq h => run_beforeReady s.m h s.pending hq⟩

theorem readBar_beforeReady {m : Mach} {off : Nat} (h : m.boot.state ≠ 3) (hoff : 0x1000 ≤ off) (size : Nat) :
    readBar m off size = List.replicate size 0 := by
  refine if_pos ?_
  rw [bne_iff_ne.2 h, decide_eq_true hoff, Bool.and_self, Bool.or_true]

/-- Settles O5: writes are commands of the READY-only domain, and a read looks at the power state first. -/
theorem writesBeforeReadyHaveNoEffect : Obligations.WritesBeforeReadyHaveNoEffect :=
  ⟨fun _ _ h => exec_beforeReady rfl h, fun _ _ _ _ h => exec_beforeReady rfl h, fun _ _ _ _ _ h => exec_beforeReady rfl h,
    fun _ _ _ h => exec_beforeReady rfl h, fun _ _ h => exec_beforeReady rfl h, fun _ h => exec_beforeReady rfl h,
    fun _ _ size h hoff => readBar_beforeReady h hoff size⟩

/-! ### Raising an event (R470, R471, R543) -/

/-- The event registers lie below the sources' words, and a block has less than 64 sticky bits. -/
theorem stickyReg_bounds {block off n : Nat} (h : stickyReg block = some (off, n)) : off < 0xA1000 ∧ n < 64 := by
  unfold stickyReg at h
  split at h <;> cases h <;> decide

theorem setSticky_listed {m : Mach} {code off n : Nat} (h : stickyReg (code / 256) = some (off, n)) (hn : code % 256 < n) :
    setSticky m code = regOr m off (word (2 ^ (code % 256))) := by
  simp only [setSticky, h, if_pos hn]

theorem regsWf_setSticky {m : Mach} (h : RegsWf m) (code : Nat) : RegsWf (setSticky m code) := by
  unfold setSticky
  split
  · split
    · exact regsWf_regSet h _ _
    · exact h
  · exact h

/-- A sticky bit that is set stays set. -/
theorem getLsbD_setSticky {m : Mach} (h : RegsWf m) {off i : Nat} (code : Nat) (hi : (regGet m off).getLsbD i = true) :
    (regGet (setSticky m code) off).getLsbD i = true := by
  unfold setSticky
  split
  · split
    · rw [regOr, regGet_regSet h]
      split
      · next heq => rw [BitVec.getLsbD_or, ← heq, hi, Bool.true_or]
      · exact hi
    · exact hi
  · exact hi

/-- The event registers do not hold the words of the sources. -/
theorem regGet_setSticky_src (m : Mach) (code src : Nat) : regGet (setSticky m code) (offSrc src) = regGet m (offSrc src) := by
  unfold setSticky
  split
  · next off n hsticky =>
    split
    · have hbelow := (stickyReg_bounds hsticky).1
      refine kvGet_kvSet_other _ _ off (offSrc src) _ (fun heq => ?_) m.regs
      rw [offSrc] at heq
      omega
    · rfl
  · rfl

theorem enqueue_room {m : Mach} (h : m.focus.queue.length < 1024) (r : EvRec) :
    enqueue m r = modFocus m fun x => { x with queue := x.queue ++ [r] } := if_pos h

theorem getLsbD_enqueue {m : Mach} (h : RegsWf m) (r : EvRec) {off i : Nat} (hi : (regGet m off).getLsbD i = true) :
    (regGet (enqueue m r) off).getLsbD i = true := by
  unfold enqueue
  split
  · exact hi
  · dsimp only
    split
    · exact hi
    · exact getLsbD_setSticky (m := modFocus m fun x => { x with dropped := sat32 (x.dropped + 1), lostFocus := x.lostFocus + 1 })
        h focQueueFull hi

section
variable {m : Mach} {code src : Nat} (job : Option Nat) (detail : List Nat)

/-- The record that an event puts into the queue of focus. -/
def eventRec (m : Mach) (code src : Nat) (job : Option Nat) (detail : List Nat) : EvRec :=
  ⟨code, src, bf (regGet m (offSrc src)).toNat 4 1, job, detail, (stamp m).1, (stamp m).2, m.now⟩

theorem stamp_setSticky (m : Mach) (code : Nat) : stamp (setSticky m code) = stamp m := by
  have hframe := congrArg stamp (setSticky_frame m code)
  exact hframe

theorem setSticky_now (m : Mach) (code : Nat) : (setSticky m code).now = m.now := by
  have hframe := congrArg Mach.now (setSticky_frame m code)
  exact hframe

theorem setSticky_focus (m : Mach) (code : Nat) : (setSticky m code).focus = m.focus := by
  have hframe := congrArg Mach.focus (setSticky_frame m code)
  exact hframe

variable (hlive : deadSource m src = false)
include hlive

theorem raise_queues (h : tb (regGet m (offSrc src)).toNat 0 = true ∨ code = focOrderFault) :
    raise m code src job detail = enqueue (setSticky m code) (eventRec m code src job detail) := by
  simp only [raise, hlive, Bool.false_eq_true, if_false, regGet_setSticky_src, stamp_setSticky, setSticky_now, eventRec, ite_eq_left_iff,
    Bool.or_eq_true, beq_iff_eq, h, not_true_eq_false, false_imp_iff]

theorem raise_ignored (h : tb (regGet m (offSrc src)).toNat 0 = false) (hcode : code ≠ focOrderFault) :
    raise m code src job detail = setSticky m code := by
  simp only [raise, hlive, Bool.false_eq_true, if_false, regGet_setSticky_src, h, Bool.false_or, beq_iff_eq, hcode]

theorem getLsbD_raise (hregs : RegsWf m) {off n : Nat} (h : stickyReg (code / 256) = some (off, n)) (hn : code % 256 < n) :
    (regGet (raise m code src job detail) off).getLsbD (code % 256) = true := by
  have hset : (regGet (setSticky m code) off).getLsbD (code % 256) = true := by
    have hbit := (stickyReg_bounds h).2
    rw [setSticky_listed h hn, regOr, regGet_regSet hregs, if_pos rfl, BitVec.getLsbD_or, getLsbD_word_two_pow (by omega),
      decide_eq_true rfl, Bool.or_true]
  by_cases hq : tb (regGet m (offSrc src)).toNat 0 = true ∨ code = focOrderFault
  · rw [raise_queues job detail hlive hq]
    exact getLsbD_enqueue (regsWf_setSticky hregs code) _ hset
  · rw [not_or, Bool.not_eq_true] at hq
    rw [raise_ignored job detail hlive hq.1 hq.2]
    exact hset

end

/-- Settles O11: an event sets its bit and then either queues its record or does not; the queue's own event clears no bit. -/
theorem raisedEventsAreStickyAndQueued : Obligations.RaisedEventsAreStickyAndQueued := by
  intro m code src job detail off n hregs hlive hsticky hn
  refine ⟨getLsbD_raise job detail hlive hregs hsticky hn, fun hen hcode => ?_, fun hen hroom => ?_, raise_frame m code src job detail⟩
  · rw [raise_ignored job detail hlive hen hcode, setSticky_listed hsticky hn]
  · rw [raise_queues job detail hlive (.inl hen), enqueue_room (by rw [setSticky_focus]; exact hroom), setSticky_listed hsticky hn]
    rfl

/-! ### Register commands -/

section
variable {m : Mach}

theorem jobKeyOp_stores {j ofs size : Nat} (v : Word) (hbad : accessBad true ofs size = false) (hin : ofs + size ≤ 16)
    (hadm : (jobOf m j).admitted = false) (hrel : (jobOf m j).releasing = false) : jobKeyOp j ofs size v m =
      regSet m (offJob j + 0x20 + 8 * (ofs / 8)) (mergeBytes (regGet m (offJob j + 0x20 + 8 * (ofs / 8))) (ofs % 8) size v) := by
  simp only [jobKeyOp, hbad, hadm, hrel, decide_eq_false (Nat.not_lt.2 hin), Bool.or_self, Bool.false_eq_true, if_false]

theorem jobKeyOp_held {j ofs size : Nat} (v : Word) (h : (jobOf m j).admitted = true ∨ (jobOf m j).releasing = true) :
    jobKeyOp j ofs size v m = hostBad m := by
  simp only [jobKeyOp, Bool.or_eq_true, h, if_true, ite_self]

theorem accessBad_word {size : Nat} (h : size = 4 ∨ size = 8) : accessBad true 0 size = false := by
  obtain rfl | rfl := h <;> rfl

theorem idNumOp_running {size : Nat} (v : Word) (h : size = 4 ∨ size = 8) (hrun : m.tick.running = true) :
    idNumOp size v m = raise m tickConfigErr (srcUnit 0) none [] := by
  simp only [idNumOp, accessBad_word h, Bool.false_eq_true, if_false, hrun, if_true]

theorem idNumOp_stores {size : Nat} (v : Word) (h : size = 4 ∨ size = 8) (hrun : m.tick.running = false) :
    idNumOp size v m = regSet m offModuleNum (mergeBytes (regGet m offModuleNum) 0 size v &&& word (ones 0 12)) := by
  simp only [idNumOp, accessBad_word h, Bool.false_eq_true, if_false, hrun]

theorem tickRoleOp_stores (v : Word) (h : m.tick.holdover = false) : tickRoleOp v m = regSet m offRole (v &&& 1) := by
  have hhold : (regSet m offRole (v &&& 1)).tick.holdover = false := h
  simp only [tickRoleOp, hhold, Bool.and_false, Bool.false_and, Bool.false_eq_true, if_false]

theorem tickUplinkOp_stores {v : Word} (h : m.tick.holdover = false) (hl : wf v 5 0 ≤ 35) :
    tickUplinkOp v m = regSet m offUplink (word (wf v 5 0)) := by
  have hhold : (regSet m offUplink (word (wf v 5 0))).tick.holdover = false := h
  simp only [tickUplinkOp, if_neg (Nat.not_lt.2 hl), hhold, Bool.and_false, Bool.false_eq_true, if_false]

theorem tickUplinkOp_holdover {v : Word} (hrun : m.tick.running = true) (h : m.tick.holdover = true) (hl : wf v 5 0 ≤ 35) :
    tickUplinkOp v m =
      modTick (regSet m offUplink (word (wf v 5 0))) fun t => { t with uplink := wf v 5 0, relock := true } := by
  have hrun' : (regSet m offUplink (word (wf v 5 0))).tick.running = true := hrun
  have hhold : (regSet m offUplink (word (wf v 5 0))).tick.holdover = true := h
  simp only [tickUplinkOp, if_neg (Nat.not_lt.2 hl), hrun', hhold, Bool.and_self, if_true]

theorem w1cOp_listed {r off : Nat} (v same : Word) (h : eventOffs[r]? = some off) :
    w1cOp r v same m = clearSticky off v same m := by
  simp only [w1cOp, h]

end

section
variable {s : State} (hs : Ready s)
include hs

theorem exec_setupBadAccess (isWrite : Bool) (off size : Nat) :
    exec (.setupBadAccess isWrite off size) s = .next ⟨setupBadOp isWrite off size s.m, s.pending⟩ := row_runs hs rfl rfl

theorem exec_w1cClear {r : Nat} (hr : r < 14) (v same : Word) :
    exec (.w1cClear r v same) s = .next ⟨w1cOp r v same s.m, s.pending⟩ := row_runs hs (decide_eq_true hr) rfl

theorem exec_jobKey {j : Nat} (hj : j < 16) (ofs size : Nat) (v : Word) :
    exec (.jobKey j ofs size v) s = .next ⟨jobKeyOp j ofs size v s.m, s.pending⟩ := row_runs hs (decide_eq_true hj) rfl

theorem exec_idModuleNum (size : Nat) (v : Word) :
    exec (.idModuleNum size v) s = .next ⟨idNumOp size v s.m, s.pending⟩ := row_runs hs rfl rfl

theorem exec_tickRole (v : Word) : exec (.tickRole v) s = .next ⟨tickRoleOp v s.m, s.pending⟩ := row_runs hs rfl rfl

theorem exec_tickUplink (v : Word) : exec (.tickUplink v) s = .next ⟨tickUplinkOp v s.m, s.pending⟩ := row_runs hs rfl rfl

theorem exec_latClr : exec .latClr s = .next ⟨latClrOp s.m, s.pending⟩ := row_runs hs rfl rfl

end

/-- Settles O14: every command by whether its access, its context and the generator let it store. -/
theorem registerCommandsAct : Obligations.RegisterCommandsAct := by
  intro s hs
  refine ⟨fun isWrite off size => ⟨fun hbad => ?_, fun hok => ?_⟩, fun r off v same hr => ?_,
    fun j ofs size v hj hok hin => ⟨fun hadm hrel => ?_, fun hheld => ?_⟩,
    fun size v hsize => ⟨fun hrun => ?_, fun hrun => ?_⟩, fun v hhold => ?_, fun v hhold hl => ?_, fun v hrun hhold hl => ?_, ?_⟩
  · rw [exec_setupBadAccess hs, setupBadOp, if_pos hbad, hostBad]
  · rw [exec_setupBadAccess hs, setupBadOp, hok, if_neg Bool.false_ne_true]
  · have hlisted : r < eventOffs.length := (List.getElem?_eq_some_iff.1 hr).1
    rw [exec_w1cClear hs hlisted, w1cOp_listed v same hr, clearSticky]
  · rw [exec_jobKey hs hj, jobKeyOp_stores v hok hin hadm hrel]
  · rw [exec_jobKey hs hj, jobKeyOp_held v hheld, hostBad]
  · rw [exec_idModuleNum hs, idNumOp_running v hsize hrun]
  · rw [exec_idModuleNum hs, idNumOp_stores v hsize hrun]
  · rw [exec_tickRole hs, tickRoleOp_stores v hhold]
  · rw [exec_tickUplink hs, tickUplinkOp_stores hhold hl]
  · rw [exec_tickUplink hs, tickUplinkOp_holdover hrun hhold hl]
  · rw [exec_latClr hs, latClrOp]

end Sys2Proof.Machine
end

section
/-!
CERTIFICATE. Focus: the release order and its hold-off (R472, R473), claims and completions of the cores (R477–R481), firmware sources
(R486), and the external lines (R483–R485, R508).
-/
namespace Sys2Proof.Machine
-- As in the tests: theorems elaborated side by side would take a thread each.
set_option Elab.async false

/-! ### Updates of one place of a list -/

/-- An update of one place depends on what it makes of the entry there. -/
theorem modify_congr {α : Type} {l : List α} {i : Nat} {g g' : α → α} {d : α} (h : g (l.getD i d) = g' (l.getD i d)) :
    l.modify i g = l.modify i g' := by
  refine List.ext_getElem? fun k => ?_
  rw [List.getElem?_modify, List.getElem?_modify]
  by_cases hk : i = k
  · subst hk
    rw [List.getD_eq_getElem?_getD] at h
    cases hx : l[i]? with
    | none => rfl
    | some x =>
      rw [hx] at h
      simpa using h
  · simp only [if_neg hk]

/-! ### The release order (R473) -/

theorem evBefore_irrefl (r : EvRec) : evBefore r r = false := by simp [evBefore]

/-- What does not go before `r` does not go before a record that goes before `r` either. -/
theorem evBefore_of_before {q r n : EvRec} (hq : evBefore q r = false) (hn : evBefore n r = true) : evBefore q n = false := by
  simp only [evBefore] at *
  grind

/-- One step of the choice of the record to release. -/
def keepFirst (m : Mach) (best : Option (Nat × EvRec)) (x : EvRec × Nat) : Option (Nat × EvRec) :=
  if timerClear m (groupOf x.1.source) then
    match best with
    | none => some (x.2, x.1)
    | some (j, b) => if evBefore x.1 b then some (x.2, x.1) else some (j, b)
  else best

theorem nextRelease_eq (m : Mach) : nextRelease m = m.focus.queue.zipIdx.foldl (keepFirst m) none := rfl

/-- What the choice says of the records that it has seen. -/
def FirstOf (m : Mach) (l : List EvRec) : Option (Nat × EvRec) → Prop
  | none => ∀ q ∈ l, timerClear m (groupOf q.source) = false
  | some (i, r) => l[i]? = some r ∧ timerClear m (groupOf r.source) = true ∧
      ∀ q ∈ l, timerClear m (groupOf q.source) = true → evBefore q r = false

/-- A record whose group is held off changes no choice. -/
theorem firstOf_concat_held {m : Mach} {l : List EvRec} {x : EvRec} (hx : timerClear m (groupOf x.source) = false) :
    ∀ {best : Option (Nat × EvRec)}, FirstOf m l best → FirstOf m (l ++ [x]) best
  | none, h => List.forall_mem_append.2 ⟨h, List.forall_mem_singleton.2 hx⟩
  | some _, ⟨hat, hclear, hfirst⟩ =>
    ⟨List.getElem?_append_left (List.getElem?_eq_some_iff.1 hat).1 ▸ hat, hclear,
      List.forall_mem_append.2 ⟨hfirst, List.forall_mem_singleton.2 fun h => absurd (hx.symm.trans h) Bool.false_ne_true⟩⟩

/-- A record whose group is clear is chosen where nothing was chosen or where it goes before the choice. -/
theorem firstOf_concat_clear {m : Mach} {l : List EvRec} {x : EvRec} (hx : timerClear m (groupOf x.source) = true) :
    ∀ {best : Option (Nat × EvRec)}, FirstOf m l best → FirstOf m (l ++ [x]) (keepFirst m best (x, l.length))
  | none, h => by
    rw [keepFirst, if_pos hx]
    exact ⟨List.getElem?_concat_length, hx, List.forall_mem_append.2
      ⟨fun q hq hclear => absurd ((h q hq).symm.trans hclear) Bool.false_ne_true,
        List.forall_mem_singleton.2 fun _ => evBefore_irrefl x⟩⟩
  | some (i, r), ⟨hat, hclear, hfirst⟩ => by
    simp only [keepFirst, if_pos hx]
    split
    · next hbefore =>
      exact ⟨List.getElem?_concat_length, hx, List.forall_mem_append.2
        ⟨fun q hq hq' => evBefore_of_before (hfirst q hq hq') hbefore,
          List.forall_mem_singleton.2 fun _ => evBefore_irrefl x⟩⟩
    · next hafter =>
      exact ⟨List.getElem?_append_left (List.getElem?_eq_some_iff.1 hat).1 ▸ hat, hclear,
        List.forall_mem_append.2 ⟨hfirst, List.forall_mem_singleton.2 fun _ => Bool.eq_false_of_not_eq_true hafter⟩⟩

theorem firstOf_foldl (m : Mach) (l : List EvRec) : FirstOf m l (l.zipIdx.foldl (keepFirst m) none) := by
  induction l using List.reverseRecOn with
  | nil => exact List.forall_mem_nil _
  | append_singleton l x ih =>
    rw [List.zipIdx_append, List.foldl_append, List.zipIdx_singleton, Nat.zero_add, List.foldl_cons, List.foldl_nil]
    cases hx : timerClear m (groupOf x.source) with
    | true => exact firstOf_concat_clear hx ih
    | false =>
      have hkept (best : Option (Nat × EvRec)) : keepFirst m best (x, l.length) = best := if_neg (ne_true_of_eq_false hx)
      rw [hkept]
      exact firstOf_concat_held hx ih

/-! ### Release, hold-off and firmware sources (R472, R486) -/

section
variable {m : Mach}

theorem focusReleaseOp_early (h : (atTime m m.focus.relAt).now < m.focus.relAt) : focusReleaseOp m = m := if_pos h

theorem focusReleaseOp_none (h : m.focus.relAt ≤ (atTime m m.focus.relAt).now)
    (hnone : nextRelease (atTime m m.focus.relAt) = none) : focusReleaseOp m = atTime m m.focus.relAt := by
  simp only [focusReleaseOp, if_neg (Nat.not_lt.2 h), hnone]

theorem focusReleaseOp_some {i : Nat} {r : EvRec} (h : m.focus.relAt ≤ (atTime m m.focus.relAt).now)
    (hsome : nextRelease (atTime m m.focus.relAt) = some (i, r)) : focusReleaseOp m =
      let m0 := atTime m m.focus.relAt
      let hold := regN m0 (offGrpHold (groupOf r.source))
      deliver (roomReturned (modFocus m0 fun x => { x with
        queue := x.queue.eraseIdx i, relAt := m0.now + 1
        timers := if hold = 0 then x.timers else x.timers.set (groupOf r.source) (edge25 m0.now + 100 * hold) })) r := by
  simp only [focusReleaseOp, if_neg (Nat.not_lt.2 h), hsome]

theorem focRaiseOp_firmware {src : Nat} (code : BitVec 16) (detail : Word) (hlo : 1476 ≤ src) (hhi : src ≤ 2231)
    (hen : tb (regN m (offSrc src)) 0 = true) : focRaiseOp src code detail m =
      enqueue m ⟨code.toNat, src, bf (regN m (offSrc src)) 4 1, none, [detail.toNat], (stamp m).1, (stamp m).2, m.now⟩ :=
  if_pos ⟨hlo, hhi, hen⟩

theorem focRaiseOp_other {src : Nat} (code : BitVec 16) (detail : Word)
    (h : src < 1476 ∨ 2231 < src ∨ tb (regN m (offSrc src)) 0 = false) : focRaiseOp src code detail m = m := by
  refine if_neg fun ⟨hlo, hhi, hen⟩ => ?_
  obtain h | h | h := h
  · omega
  · omega
  · exact ne_true_of_eq_false h hen

/-! ### Claims and completions (R477–R481) -/

variable {c : Nat}

/-- A change of a core depends on what it makes of that core's state. -/
theorem changeCore_congr {g g' : CoreFocus → CoreFocus} (h : g (coreOf m c) = g' (coreOf m c)) :
    changeCore m c g = changeCore m c g' := by
  have hmod : modCore m c g = modCore m c g' :=
    congrArg (fun l => modFocus m fun x => { x with cores := l }) (modify_congr (l := m.focus.cores) h)
  simp only [changeCore, hmod]

theorem focClaimOp_none (h : (coreOf m c).frozen = true ∨ claimPick (coreOf m c) = none) :
    focClaimOp c m = changeCore m c fun x => { x with claimed := none } := by
  refine changeCore_congr ?_
  split
  · rfl
  · next hrun => simp only [h.resolve_left hrun]

theorem focClaimOp_takes {i : Nat} {r : EvRec} (hrun : (coreOf m c).frozen = false) (hpick : claimPick (coreOf m c) = some (i, r)) :
    focClaimOp c m = changeCore m c fun x => { x with
      pending := x.pending.eraseIdx i, stack := (r.source, r.prio) :: x.stack, claimed := some r, lastRec := some r } := by
  refine changeCore_congr ?_
  rw [if_neg (ne_true_of_eq_false hrun)]
  simp only [hpick]

theorem focCompleteOp_frozen (src : Nat) (h : (coreOf m c).frozen = true) : focCompleteOp c src m = m := if_pos h

theorem focCompleteOp_top {src prio : Nat} {t : List (Nat × Nat)} (hrun : (coreOf m c).frozen = false)
    (hstack : (coreOf m c).stack = (src, prio) :: t) :
    focCompleteOp c src m = changeCore m c fun x => { x with stack := t } := by
  simp only [focCompleteOp, hrun, Bool.false_eq_true, if_false, hstack, if_true]

theorem focCompleteOp_wrong {src top prio : Nat} {t : List (Nat × Nat)} (hrun : (coreOf m c).frozen = false)
    (hstack : (coreOf m c).stack = (top, prio) :: t) (hne : top ≠ src) : focCompleteOp c src m =
      raise (changeCore m c fun x => { x with frozen := true }) focOrderFault (2268 + c) none
        [c, src, top, (coreOf m c).stack.length] := by
  simp only [focCompleteOp, hrun, Bool.false_eq_true, if_false, hstack, if_neg hne]

/-! ### External lines (R483–R485, R508) -/

variable {l : Nat} {up : Bool}

theorem lineOp_idle (h : m.focus.sampling = false ∨ (m.focus.lines.getD l ⟨false, none⟩).asserted = up) : lineOp l up m = m := by
  refine if_neg ?_
  rw [Bool.and_eq_true, bne_iff_ne]
  exact fun ⟨hrun, hchanged⟩ => h.elim (ne_true_of_eq_false · hrun) hchanged

theorem lineOp_changes (hrun : m.focus.sampling = true) (h : (m.focus.lines.getD l ⟨false, none⟩).asserted ≠ up) :
    lineOp l up m = if l = 5 then modPower (lineChange l up m) fun p => { p with flowLow := up }
      else if l = 4 then modPower (lineChange l up m) fun p => { p with leak := up } else lineChange l up m :=
  if_pos (by rw [hrun, bne_iff_ne.2 h]; rfl)

theorem standbyLatchOp_running (h : m.focus.sampling = true) : standbyLatchOp l up m = m := if_pos h

/-- What power management sees of lines 5 and 4 while the filters stand still. -/
def levelSeen (l : Nat) (up : Bool) (p : Power) : Power :=
  { p with flowLow := if l = 5 then up else p.flowLow, leak := if l = 4 then up else p.leak }

/-- The level of a line and its latch, noted while the filters stand still. -/
def latched (l : Nat) (up : Bool) (m : Mach) : Mach :=
  modFocus { m with power := levelSeen l up m.power } fun x => { x with lines := x.lines.modify l fun y =>
    { y with latch := if modeSelects m l up && y.latch.isNone then some up else y.latch } }

theorem levelSeen_eq (m : Mach) (l : Nat) (up : Bool) :
    (let m1 := if l = 5 then modPower m fun p => { p with flowLow := up } else m
     if l = 4 then modPower m1 fun p => { p with leak := up } else m1) = { m with power := levelSeen l up m.power } := by
  by_cases h5 : l = 5
  · subst h5
    rfl
  · by_cases h4 : l = 4
    · subst h4
      rfl
    · simp only [levelSeen, if_neg h5, if_neg h4]

theorem standbyLatchOp_leak (h : m.focus.sampling = false) (hleak : (levelSeen l up m.power).leak = true) :
    standbyLatchOp l up m = { latched l up m with boot := { m.boot with wakeCause := false } } := by
  have hlevel := levelSeen_eq m l up
  dsimp only at hlevel
  rw [standbyLatchOp, if_neg (ne_true_of_eq_false h)]
  simp only [hlevel, modFocus, hleak, if_true, Bool.not_true, Bool.and_false, Bool.false_and, Bool.false_eq_true, if_false]
  rfl

theorem standbyLatchOp_dry (h : m.focus.sampling = false) (hleak : (levelSeen l up m.power).leak = false) : standbyLatchOp l up m =
    if (up && tb (regN m (offLineCtl l)) 11 && m.boot.state == 1) = true then
      { latched l up m with boot := { m.boot with wakeCause := true } }
    else latched l up m := by
  have hlevel := levelSeen_eq m l up
  dsimp only at hlevel
  rw [standbyLatchOp, if_neg (ne_true_of_eq_false h)]
  simp only [hlevel, modFocus, hleak, Bool.false_eq_true, if_false, Bool.not_false, Bool.and_true]
  rfl

end

/-! ### The commands -/

section
variable {s : State}

theorem exec_lineAsserted {l : Nat} (hl : l < 12) : exec (.lineAsserted l) s = .next ⟨lineOp l true s.m, s.pending⟩ := by
  show act (decide (l < 12)) (lineOp l true) s = _
  rw [decide_eq_true hl, act_exists]

theorem exec_lineDeasserted {l : Nat} (hl : l < 12) : exec (.lineDeasserted l) s = .next ⟨lineOp l false s.m, s.pending⟩ := by
  show act (decide (l < 12)) (lineOp l false) s = _
  rw [decide_eq_true hl, act_exists]

theorem exec_lineLevel {l : Nat} (hl : l < 12) (up : Bool) :
    exec (if up then .lineAsserted l else .lineDeasserted l) s = .next ⟨lineOp l up s.m, s.pending⟩ := by
  cases up
  · exact exec_lineDeasserted hl
  · exact exec_lineAsserted hl

theorem exec_standbyLineLatch {l : Nat} (hl : l < 12) (up : Bool) :
    exec (.standbyLineLatch l up) s = .next ⟨standbyLatchOp l up s.m, s.pending⟩ := by
  show act (decide (l < 12)) (standbyLatchOp l up) s = _
  rw [decide_eq_true hl, act_exists]

variable (hs : Ready s)
include hs

theorem exec_focusRelease : exec .focusRelease s = .next ⟨focusReleaseOp s.m, s.pending⟩ := row_runs hs rfl rfl

theorem exec_holdoffExpiry {g : Nat} (hg : g < 64) : exec (.holdoffExpiry g) s = .next ⟨holdoffOp g s.m, s.pending⟩ :=
  row_runs hs (decide_eq_true hg) rfl

theorem exec_focRaise {core : Nat} (hc : core < 16) (src : Nat) (code : BitVec 16) (detail : Word) :
    exec (.focRaise core src code detail) s = .next ⟨focRaiseOp src code detail s.m, s.pending⟩ :=
  row_runs hs (decide_eq_true hc) rfl

variable {c : Nat} (hc : c < 16)
include hc

theorem exec_focClaim : exec (.focClaim c) s = .next ⟨focClaimOp c s.m, s.pending⟩ := row_runs hs (decide_eq_true hc) rfl

theorem exec_focComplete (src : Nat) : exec (.focComplete c src) s = .next ⟨focCompleteOp c src s.m, s.pending⟩ :=
  row_runs hs (decide_eq_true hc) rfl

theorem exec_focStackRst : exec (.focStackRst c) s = .next ⟨emptyStack c s.m, s.pending⟩ :=
  row_runs hs (decide_eq_true hc) rfl

end

/-- Settles O49: the release by what the choice over the queue says, claims and completions by the core's stack, lines by whether the
filters run. -/
theorem focusReleasesAndCoresClaim : Obligations.FocusReleasesAndCoresClaim := by
  refine ⟨fun m i r hsome => ?_, fun s hs => ⟨?_, fun g hg hdue => ?_, fun core src code detail hcore => ?_, fun c hc => ?_⟩,
    fun s l up hl => ⟨fun hidle => ?_, fun hrun hchanged => ?_, fun hrun => ?_, fun hstill => ?_⟩⟩
  · have hfirst := firstOf_foldl m m.focus.queue
    rw [← nextRelease_eq, hsome] at hfirst
    exact hfirst
  · rw [exec_focusRelease hs]
    refine ⟨fun hearly => ?_, fun hdue hnone => ?_, fun i r hdue hsome => ?_⟩
    · rw [focusReleaseOp_early hearly]
    · rw [focusReleaseOp_none hdue hnone]
    · rw [focusReleaseOp_some hdue hsome]
  · rw [exec_holdoffExpiry hs hg, holdoffOp, byTime_reached hdue]
  · rw [exec_focRaise hs hcore]
    refine ⟨fun hlo hhi hen => ?_, fun hother => ?_⟩
    · rw [focRaiseOp_firmware code detail hlo hhi hen]
    · rw [focRaiseOp_other code detail hother]
  · refine ⟨fun hnone => ?_, fun i r hrun hpick => ?_, fun src hfrozen => ?_, fun src prio t hrun hstack => ?_,
      fun src top prio t hrun hstack hne => ?_, ?_⟩
    · rw [exec_focClaim hs hc, focClaimOp_none hnone]
    · rw [exec_focClaim hs hc, focClaimOp_takes hrun hpick]
    · rw [exec_focComplete hs hc, focCompleteOp_frozen src hfrozen]
    · rw [exec_focComplete hs hc, focCompleteOp_top hrun hstack]
    · rw [exec_focComplete hs hc, focCompleteOp_wrong hrun hstack hne]
    · rw [exec_focStackRst hs hc, emptyStack]
  · rw [exec_lineLevel hl, lineOp_idle hidle]
  · rw [exec_lineLevel hl, lineOp_changes hrun hchanged]
    refine ⟨fun h4 h5 => ?_, fun h5 => ?_, fun h4 => ?_⟩
    · rw [if_neg h5, if_neg h4]
      rfl
    · rw [if_pos h5]
      rfl
    · rw [if_neg (by omega), if_pos h4]
      rfl
  · rw [exec_standbyLineLatch hl, standbyLatchOp_running hrun]
  · rw [exec_standbyLineLatch hl]
    refine ⟨fun hleak => ?_, fun hleak hwakes => ?_, fun hleak hsleeps => ?_⟩
    · rw [standbyLatchOp_leak hstill hleak]
      rfl
    · rw [standbyLatchOp_dry hstill hleak, if_pos hwakes]
      rfl
    · rw [standbyLatchOp_dry hstill hleak, if_neg (ne_true_of_eq_false hsleeps)]
      rfl

end Sys2Proof.Machine
end

section
/-!
CERTIFICATE. The management targets (R506, R556, R558), MODULE_RESET and test access (R509, R510, R517, R518), and the operations of
TEST_CMD (R522–R530).
-/
namespace Sys2Proof.Machine
-- As in the tests: theorems elaborated side by side would take a thread each.
set_option Elab.async false

/-! ### Management targets: a command that every state but OFF serves, one that READY serves, a block read, a NACK -/

section
variable {s : State}

/-- What a management target answers. -/
abbrev answers (s : State) (bs : List Byte) : Res := .next ⟨emit s.m (.mgmtReply bs), s.pending⟩

abbrev nacks (s : State) : Res := .next ⟨emit s.m .mgmtNack, s.pending⟩

theorem act_same {f : Mach → Mach} (h : f s.m = s.m) : act true f s = .next s := by rw [act_exists, h]

theorem act_pmbAlways_off (h : s.m.boot.state = 0) (bs : Mach → List Byte) : act true (pmbAlways bs) s = .next s :=
  act_same (if_pos h)

theorem act_pmbAlways_on (h : s.m.boot.state ≠ 0) (bs : Mach → List Byte) : act true (pmbAlways bs) s = answers s (bs s.m) := by
  rw [act_exists, pmbAlways, if_neg h, reply]

theorem act_pmbReady_off (h : s.m.boot.state = 0) (f : Mach → Mach) : act true (pmbReady f) s = .next s :=
  act_same (if_pos h)

theorem act_pmbReady_waits (hon : s.m.boot.state ≠ 0) (h : s.m.boot.state ≠ 3) (f : Mach → Mach) :
    act true (pmbReady f) s = nacks s := by
  rw [act_exists, pmbReady, if_neg hon, if_neg h]

theorem act_pmbReady_ready (h : s.m.boot.state = 3) (f : Mach → Mach) :
    act true (pmbReady f) s = .next ⟨f s.m, s.pending⟩ := by
  rw [act_exists, pmbReady, if_neg (by omega), if_pos h]

theorem act_smbRead_off (h : s.m.boot.state = 0) (v : Mach → Nat) : act true (smbRead v) s = .next s :=
  act_same (if_pos h)

theorem act_smbRead_on (h : s.m.boot.state ≠ 0) (v : Mach → Nat) : act true (smbRead v) s = answers s (leBytes 8 (v s.m)) := by
  rw [act_exists, smbRead, if_neg h, reply]

theorem act_nack_off (h : s.m.boot.state = 0) :
    act true (fun m => if m.boot.state = 0 then m else emit m .mgmtNack) s = .next s :=
  act_same (if_pos h)

theorem act_nack_on (h : s.m.boot.state ≠ 0) :
    act true (fun m => if m.boot.state = 0 then m else emit m .mgmtNack) s = nacks s := by
  rw [act_exists, if_neg h]

end

/-- Settles O51: every command of the targets is of one of the four kinds, each answered by the power state. -/
theorem managementTargetsAnswer : Obligations.ManagementTargetsAnswer := by
  intro s
  refine ⟨fun hoff => ⟨?_, fun ma => act_pmbAlways_off hoff _, fun _ => ⟨act_nack_off hoff, act_nack_off hoff⟩⟩,
    fun hon => ?_, fun hon hwaits => ?_, fun hready => ?_⟩
  · simp only [List.forall_mem_cons, List.not_mem_nil, false_imp_iff, implies_true, and_true]
    exact ⟨act_pmbReady_off hoff _, act_pmbReady_off hoff _, act_pmbReady_off hoff _, act_pmbReady_off hoff _,
      act_pmbAlways_off hoff _, act_pmbAlways_off hoff _, act_pmbReady_off hoff _, act_pmbReady_off hoff _,
      act_pmbAlways_off hoff _, act_pmbAlways_off hoff _, act_pmbAlways_off hoff _, act_smbRead_off hoff _,
      act_smbRead_off hoff _, act_smbRead_off hoff _, act_smbRead_off hoff _, act_smbRead_off hoff _⟩
  · exact ⟨act_pmbAlways_on hon _, fun ma => act_pmbAlways_on hon _, act_pmbAlways_on hon _, act_pmbAlways_on hon _,
      act_pmbAlways_on hon _, act_pmbAlways_on hon _, fun _ => ⟨act_nack_on hon, act_nack_on hon⟩, act_smbRead_on hon _,
      act_smbRead_on hon _, act_smbRead_on hon _, act_smbRead_on hon _, act_smbRead_on hon _⟩
  · exact ⟨act_pmbReady_waits hon hwaits _, act_pmbReady_waits hon hwaits _, act_pmbReady_waits hon hwaits _,
      act_pmbReady_waits hon hwaits _, act_pmbReady_waits hon hwaits _, act_pmbReady_waits hon hwaits _⟩
  · have hcleared : (setStatus [] s.m).power.statusBits = [] := by
      unfold setStatus
      dsimp only
      split <;> rfl
    exact ⟨act_pmbReady_ready hready _, hcleared, act_pmbReady_ready hready _, act_pmbReady_ready hready _,
      act_pmbReady_ready hready _, act_pmbReady_ready hready _, act_pmbReady_ready hready _⟩

/-! ### MODULE_RESET and test access (R509, R510, R517) -/

section
variable {m : Mach}

theorem jtagRunOp_refused {v : Word} (hv : v.getLsbD 0 = true) (hrun : m.tick.running = true) : jtagRunOp v m = m :=
  if_pos (Bool.and_eq_true_iff.2 ⟨hv, hrun⟩)

theorem jtagRunOp_stores {v : Word} (h : v.getLsbD 0 = false ∨ m.tick.running = false) :
    jtagRunOp v m = regSet m offTestCtl (v &&& 1) :=
  if_neg (ne_true_of_eq_false (Bool.and_eq_false_iff.2 h))

/-- The instruction that acts: a test instruction acts as BYPASS outside STANDBY and JTAG_RUN (R517). -/
def tapEffect (m : Mach) (i : TapInstr) : TapInstr :=
  if m.boot.state = 1 ∨ tb (regN m offTestCtl) 0 = true then i else match i with | .test _ => .bypass | x => x

theorem jtagOp_off (h : m.boot.state = 0) (i : TapInstr) : jtagOp i m = m := if_pos h

theorem jtagOp_on (h : m.boot.state ≠ 0) (i : TapInstr) : jtagOp i m =
    if tapEffect m i = .idcode then emit (modTest m fun t => { t with tap := tapEffect m i }) (.tapId 0x19600A4B)
    else modTest m fun t => { t with tap := tapEffect m i } := by
  by_cases hfree : m.boot.state = 1 ∨ tb (regN m offTestCtl) 0 = true
  · simp only [jtagOp, tapEffect, if_neg h, Bool.or_eq_true, beq_iff_eq, if_pos hfree]
  · cases i <;> simp only [jtagOp, tapEffect, if_neg h, Bool.or_eq_true, beq_iff_eq, if_neg hfree]

theorem jtagOp_idcode (h : m.boot.state ≠ 0) {i : TapInstr} (hid : tapEffect m i = .idcode) :
    jtagOp i m = emit (modTest m fun t => { t with tap := tapEffect m i }) (.tapId 0x19600A4B) := by
  rw [jtagOp_on h, if_pos hid]

theorem jtagOp_other (h : m.boot.state ≠ 0) {i : TapInstr} (hother : tapEffect m i ≠ .idcode) :
    jtagOp i m = modTest m fun t => { t with tap := tapEffect m i } := by
  rw [jtagOp_on h, if_neg hother]

/-- The pins of a reset are driven one after the other. -/
theorem dropPins_out (m : Mach) : dropPins m = { m with out := m.out ++ [.pin .twinFail true, .pin .pwrGood false] } := by
  simp only [dropPins, emit, List.append_assoc, List.singleton_append]

end

theorem exec_moduleReset {s : State} (hs : Ready s) :
    exec .moduleReset s = .next ⟨moduleResetOp s.m.boot.cause s.m, s.pending⟩ :=
  row_runs (f := fun m => moduleResetOp m.boot.cause m) hs rfl rfl

theorem exec_jtagRun {s : State} (hs : Ready s) (v : Word) : exec (.jtagRun v) s = .next ⟨jtagRunOp v s.m, s.pending⟩ :=
  row_runs hs rfl rfl

theorem exec_jtagInstruction (i : TapInstr) (s : State) : exec (.jtagInstruction i) s = .next ⟨jtagOp i s.m, s.pending⟩ := rfl

/-- Settles O54: the reset by its fields, a write of JTAG_RUN by its bit and the generator, an instruction by the power state. -/
theorem moduleResetAndTestAccess : Obligations.ModuleResetAndTestAccess := by
  refine ⟨fun s hs => ⟨?_, fun v hv hrun => ?_, fun v hstores => ?_⟩,
    fun s i => ⟨fun hoff => ?_, fun hon hid => ?_, fun hon hother => ?_⟩⟩
  · rw [exec_moduleReset hs, moduleResetOp, dropPins_out]
    rfl
  · rw [exec_jtagRun hs, jtagRunOp_refused hv hrun]
  · rw [exec_jtagRun hs, jtagRunOp_stores hstores]
  · rw [exec_jtagInstruction, jtagOp_off hoff]
  · rw [exec_jtagInstruction, jtagOp_idcode hon hid]
    rfl
  · rw [exec_jtagInstruction, jtagOp_other hon hother]
    rfl

/-! ### TEST_CMD (R518, R522–R530) -/

section
variable {m : Mach}

theorem wireTestOp_refused {n : Nat} (h : siteInUse m n = true ∨ rowBusy m n = true ∨ m.test.busy = true) :
    wireTestOp n m = refuseTest 1 n (siteSrc m n) m :=
  if_pos (by rwa [Bool.or_eq_true, Bool.or_eq_true, or_assoc])

theorem wireTestOp_starts {n : Nat} (huse : siteInUse m n = false) (hrow : rowBusy m n = false) (hfree : m.test.busy = false) :
    wireTestOp n m = modTest m fun t => { t with busy := true, op := 1, result := 0, site := n, started := false } :=
  if_neg (by rw [huse, hrow, hfree]; exact Bool.false_ne_true)

/-- Version of the microcode of the running bank. -/
def runningUcode (m : Mach) : Nat := ((m.flash.banks[m.ctr.bank]?).map (·.ucode)).getD 0

theorem ucodeOp_refused {n : Nat} {y : Site} (hy : m.flash.sites[n]? = some y)
    (h : reserveSite m (rowOf n) = none ∨ y.state ≠ 0 ∨ 96 ≤ logicalAt m n ∨ y.ucode = runningUcode m ∨ m.test.busy = true ∨
      rowBusy m n = true) : ucodeOp n m = refuseTest 2 n (siteSrc m n) m := by
  have hbad : ((reserveSite m (rowOf n)).isNone || y.state != 0 || decide (96 ≤ logicalAt m n) || y.ucode == runningUcode m ||
      m.test.busy || rowBusy m n) = true := by
    simpa only [Bool.or_eq_true, Option.isNone_iff_eq_none, bne_iff_ne, decide_eq_true_eq, beq_iff_eq, or_assoc] using h
  simp only [ucodeOp, hy, Option.map_some, Option.getD_some]
  exact if_pos hbad

theorem ucodeOp_starts {n r : Nat} {y : Site} (hy : m.flash.sites[n]? = some y) (hr : reserveSite m (rowOf n) = some r)
    (hstate : y.state = 0) (hactive : logicalAt m n < 96) (hold : y.ucode ≠ runningUcode m) (hfree : m.test.busy = false)
    (hrow : rowBusy m n = false) : ucodeOp n m =
      modTest m fun t => { t with busy := true, op := 2, result := 0, site := n, ucode := some ⟨n, 1, 0⟩ } := by
  have hgood : ((reserveSite m (rowOf n)).isNone || y.state != 0 || decide (96 ≤ logicalAt m n) || y.ucode == runningUcode m ||
      m.test.busy || rowBusy m n) = false := by
    rw [hr, hstate, decide_eq_false (Nat.not_le.2 hactive), beq_eq_false_iff_ne.2 hold, hfree, hrow]
    rfl
  simp only [ucodeOp, hy, Option.map_some, Option.getD_some]
  exact if_neg (ne_true_of_eq_false hgood)

theorem flashProgOp_refused {b : Nat} (h : b = m.ctr.bank ∨ m.test.busy = true) :
    flashProgOp b m = refuseTest 3 0 (srcUnit 11) m :=
  if_pos (by rwa [Bool.or_eq_true, decide_eq_true_eq])

theorem flashProgOp_starts {b : Nat} (hidle : b ≠ m.ctr.bank) (hfree : m.test.busy = false) : flashProgOp b m = modTest
    (modFlash (readHost 0 (regN m offFlashSrc) (regN m offFlashLen) false m) fun fl =>
      { fl with banks := fl.banks.modify b fun x => { x with valid := false } })
    fun t => { t with busy := true, op := 3, result := 0, bank := b } :=
  if_neg (by rw [decide_eq_false hidle, hfree]; exact Bool.false_ne_true)

theorem fwCommitOp_refused {b : Nat} (h : m.test.busy = true ∨ bankOk m.flash b = false) :
    fwCommitOp b m = refuseTest 4 0 (srcUnit 11) m :=
  if_pos (by rwa [Bool.or_eq_true, Bool.not_eq_true'])

theorem fwCommitOp_commits {b : Nat} (hfree : m.test.busy = false) (hbank : bankOk m.flash b = true) :
    fwCommitOp b m = modTest (modFlash m fun fl => { fl with committed := b }) fun t => { t with op := 4, result := 0 } :=
  if_neg (by rw [hfree, hbank]; exact Bool.false_ne_true)

theorem pairOp_refused (h : m.test.busy = true ∨ tb (regN m offTwinCtl) 0 = true) :
    pairOp m = refuseTest 5 0 (srcUnit 1) m := if_pos (Bool.or_eq_true_iff.2 h)

theorem pairOp_pairs (hfree : m.test.busy = false) (hoff : tb (regN m offTwinCtl) 0 = false) : pairOp m = modTest
    (flashRecord m fun fl => { fl with twinSerial := regGet m offPairSerial }) fun t => { t with op := 5, result := 0 } :=
  if_neg (by rw [hfree, hoff]; exact Bool.false_ne_true)

theorem phaseUpdateOp_refused (h : m.test.busy = true) : phaseUpdateOp m = refuseTest 6 0 (srcUnit 7) m := if_pos h

theorem phaseUpdateOp_starts (h : m.test.busy = false) :
    phaseUpdateOp m = modTest m fun t => { t with busy := true, op := 6, result := 0 } := if_neg (ne_true_of_eq_false h)

theorem hbmRetrainOp_refused {f c : Nat} (h : m.test.busy = true) : hbmRetrainOp f c m = refuseTest 7 f (srcFacet f 11) m := if_pos h

theorem hbmRetrainOp_asks {f c : Nat} (h : m.test.busy = false) : hbmRetrainOp f c m = modTest
    (modFacet m f fun x => { x with retrainReq := x.retrainReq ++ [c] }) fun t => { t with op := 7, result := 0 } :=
  if_neg (ne_true_of_eq_false h)

end

section
variable {s : State} (hs : Ready s)
include hs

theorem exec_wireTest {n : Nat} (hn : n < 104) : exec (.wireTest n) s = .next ⟨wireTestOp n s.m, s.pending⟩ :=
  row_runs hs (decide_eq_true hn) rfl

theorem exec_ucode {n : Nat} (hn : n < 104) : exec (.ucode n) s = .next ⟨ucodeOp n s.m, s.pending⟩ :=
  row_runs hs (decide_eq_true hn) rfl

theorem exec_flashProg {b : Nat} (hb : b < 2) : exec (.flashProg b) s = .next ⟨flashProgOp b s.m, s.pending⟩ :=
  row_runs hs (decide_eq_true hb) rfl

theorem exec_fwCommit {b : Nat} (hb : b < 2) : exec (.fwCommit b) s = .next ⟨fwCommitOp b s.m, s.pending⟩ :=
  row_runs hs (decide_eq_true hb) rfl

theorem exec_pair : exec .pair s = .next ⟨pairOp s.m, s.pending⟩ := row_runs hs rfl rfl

theorem exec_phaseUpdate : exec .phaseUpdate s = .next ⟨phaseUpdateOp s.m, s.pending⟩ := row_runs hs rfl rfl

theorem exec_hbmRetrain {f c : Nat} (hf : f < 104) (hc : c < 16) :
    exec (.hbmRetrain f c) s = .next ⟨hbmRetrainOp f c s.m, s.pending⟩ := row_runs hs (decide_eq_true ⟨hf, hc⟩) rfl

end

/-- Settles O55: each operation by what refuses it. -/
theorem testOperationsStartOrAreRefused : Obligations.TestOperationsStartOrAreRefused := by
  intro s hs
  refine ⟨fun n hn => ⟨fun hbad => ?_, fun huse hrow hfree => ?_, fun y hy => ⟨fun hbad => ?_,
      fun r hr hstate hactive hold hfree hrow => ?_⟩⟩,
    fun b hb => ⟨fun hbad => ?_, fun hidle hfree => ?_, fun hbad => ?_, fun hfree hbank => ?_⟩, fun hbad => ?_, fun hfree hoff => ?_,
    fun hbusy => ?_, fun hfree => ?_, fun f c hf hc => ⟨fun hbusy => ?_, fun hfree => ?_⟩⟩
  · rw [exec_wireTest hs hn, wireTestOp_refused hbad]
    rfl
  · rw [exec_wireTest hs hn, wireTestOp_starts huse hrow hfree]
  · rw [exec_ucode hs hn, ucodeOp_refused hy hbad]
    rfl
  · rw [exec_ucode hs hn, ucodeOp_starts hy hr hstate hactive hold hfree hrow]
  · rw [exec_flashProg hs hb, flashProgOp_refused hbad]
    rfl
  · rw [exec_flashProg hs hb, flashProgOp_starts hidle hfree]
  · rw [exec_fwCommit hs hb, fwCommitOp_refused hbad]
    rfl
  · rw [exec_fwCommit hs hb, fwCommitOp_commits hfree hbank]
  · rw [exec_pair hs, pairOp_refused hbad]
    rfl
  · rw [exec_pair hs, pairOp_pairs hfree hoff]
  · rw [exec_phaseUpdate hs, phaseUpdateOp_refused hbusy]
    rfl
  · rw [exec_phaseUpdate hs, phaseUpdateOp_starts hfree]
  · rw [exec_hbmRetrain hs hf hc, hbmRetrainOp_refused hbusy]
    rfl
  · rw [exec_hbmRetrain hs hf hc, hbmRetrainOp_asks hfree]

end Sys2Proof.Machine
end

section
/-!
CERTIFICATE. Core resets, firmware switches, operating points, the cap, the thermal and coolant responses, metering and phases (R490,
R492, R495, R496, R499–R502, R505, R536).
-/
namespace Sys2Proof.Machine
-- As in the tests: theorems elaborated side by side would take a thread each.
set_option Elab.async false

/-! ### Core resets (R490) -/

section
variable {m : Mach}

/-- The roles of the centroid's cores after a reset of `core`: a standby core that is free takes the role over. -/
def rolesAfter (m : Mach) (core : Nat) : List Nat :=
  match [14, 15].find? fun c => c != core && !m.ctr.roles.contains c with
  | some n => if m.ctr.roles.idxOf core < m.ctr.roles.length then m.ctr.roles.set (m.ctr.roles.idxOf core) n else m.ctr.roles
  | none => m.ctr.roles

/-- The reset of a core whose stack is empty counts, and its role goes over. -/
def coreReset (core : Nat) (m : Mach) : Mach :=
  let m1 := modCtr m fun c => { c with resetsSweep := c.resetsSweep + 1, roles := rolesAfter m core }
  raise m1 ctrCoreResetEv (srcCore core) none [core, if m.ctr.roles.idxOf core < m1.ctr.roles.length then
    ([14, 15].find? fun c => c != core && !m.ctr.roles.contains c).getD core else core]

theorem coreResetOp_zero : coreResetOp 0 m = haltCentroid (emptyStack 0 m) := by
  unfold coreResetOp
  exact if_pos rfl

theorem coreResetOp_other {core : Nat} (h : core ≠ 0) : coreResetOp core m =
    if 2 < (coreReset core (emptyStack core m)).ctr.resetsSweep then haltCentroid (coreReset core (emptyStack core m))
    else coreReset core (emptyStack core m) := by
  rw [coreResetOp, if_neg h]
  rfl

/-! ### The cap (R499, R500) -/

/-- The module once an emergency of the input power is noted. -/
abbrev emergNoted (mean : Nat) (m : Mach) : Mach := modPower m fun p => { p with inputW := mean, peak := max p.peak mean }

/-- An emergency over the cap, before its event. -/
def emergActed (m : Mach) : Mach :=
  if (emergLow m).isEmpty then addStatus 2 (emergLower m)
  else modPower (addStatus 2 (emergLower m)) fun p => { p with emergWins := p.emergWins + 1 }

theorem capEmergOp_below {mean : Nat} (h : mean ≤ regN (emergNoted mean m) offCap) : capEmergOp mean m = emergNoted mean m :=
  if_pos h

theorem capEmergOp_above {mean : Nat} (h : regN (emergNoted mean m) offCap < mean) : capEmergOp mean m =
    if (emergActed (emergNoted mean m)).power.emergRaised = true then emergActed (emergNoted mean m)
    else raise (modPower (emergActed (emergNoted mean m)) fun p => { p with emergRaised := true }) pwrCapEmergEv (srcUnit 7) none
      [mean] := by
  rw [capEmergOp, if_neg (Nat.not_le.2 h)]
  rfl

/-- The word that a write of PWR_CAP makes, and what R536 takes. -/
abbrev capWord (size : Nat) (v : Word) (m : Mach) : Word := mergeBytes (regGet m offCap) 0 size v &&& word (ones 0 14)

abbrev CapLegal (w : Word) : Prop := 6000 ≤ w.toNat ∧ w.toNat ≤ 11500 ∧ w.toNat % 10 = 0

theorem capWriteOp_legal {size : Nat} {v : Word} (h : CapLegal (capWord size v m)) :
    capWriteOp size v m = regSet m offCap (capWord size v m) := if_pos h

theorem capWriteOp_bad {size : Nat} {v : Word} (h : ¬CapLegal (capWord size v m)) :
    capWriteOp size v m = raise m hostCfgErr srcHost none [] := if_neg h

/-! ### Heat, energy and phases (R501, R502, R505) -/

/-- A sample with its readings kept and its facets and stacks judged. -/
def sampleJudged (r : ThermalReading) (m : Mach) : Mach :=
  let hot := (r.facets ++ r.stackDegs).foldl (fun a e => max a e.2) r.axis
  let m1 := forAll (r.stackDegs.filter fun e => decide (e.1 < 52)) stackTemp
    (forAll (r.facets.filter fun e => decide (e.1 < 104)) facetTemp (modPower m fun p => { p with
      axisTemp := r.axis, inlet := r.inlet, tmaxSweep := max p.tmaxSweep hot, tmax := max p.tmax hot }))
  if m.power.axisTemp < 100 * 16 ∧ 100 * 16 ≤ r.axis then raise m1 pwrAxisHot (srcUnit 8) none [127, r.axis] else m1

theorem thermalOp_eq (r : ThermalReading) : thermalOp r m =
    if m.power.inlet ≤ 45 * 16 ∧ 45 * 16 < r.inlet then raise (sampleJudged r m) coolWarm (srcUnit 9) none [r.inlet, 0]
    else sampleJudged r m := rfl

theorem energyOp_early {e : EnergyReading} (h : regN m offStatDiv = 0 ∨ m.power.statTicks < regN m offStatDiv) :
    energyOp e m = m := if_pos h

theorem energyOp_due {e : EnergyReading} (h0 : regN m offStatDiv ≠ 0) (h : regN m offStatDiv ≤ m.power.statTicks) : energyOp e m =
    modPower (putStat (spendFree m) ⟨3, energyPayload m e m.power.statTicks, m.power.statFirst + m.power.statTicks - 1, energyOfs m⟩)
      fun q => { q with statFirst := q.statFirst + q.statTicks, statTicks := 0, peak := 0, tmax := 0, emergWins := 0 } :=
  if_neg (by omega)

/-- A phase that failed is noted, its rail spent, and its event raised. -/
def phaseNoted (rail phase : Nat) (m : Mach) : Mach :=
  raise (modPower m fun p => { p with
    spentRails := if m.power.spentRails.contains rail then p.spentRails else p.spentRails ++ [rail]
    failedPhases := p.failedPhases ++ [(rail, phase)] }) pwrPhaseFailEv (srcUnit 7) none [rail, phase]

theorem phaseFailOp_again {rail : Nat} (phase : Nat) (h : m.power.spentRails.contains rail = true) (hcore : rail < 104) :
    phaseFailOp rail phase m = failSite rail (phaseNoted rail phase m) :=
  if_pos (Bool.and_eq_true_iff.2 ⟨h, decide_eq_true hcore⟩)

theorem phaseFailOp_first {rail : Nat} (phase : Nat) (h : m.power.spentRails.contains rail = false ∨ 104 ≤ rail) :
    phaseFailOp rail phase m = phaseNoted rail phase m := by
  refine if_neg fun hboth => ?_
  rw [Bool.and_eq_true, decide_eq_true_eq] at hboth
  obtain ⟨hspent, hcore⟩ := hboth
  exact h.elim (ne_true_of_eq_false · hspent) fun hrail => absurd hcore (Nat.not_lt.2 hrail)

end

/-! ### The commands -/

section
variable {s : State} (hs : Ready s)
include hs

theorem exec_ctrCoreReset {core : Nat} (hc : core < 16) :
    exec (.ctrCoreReset core) s = .next ⟨coreResetOp core s.m, s.pending⟩ := row_runs hs (decide_eq_true hc) rfl

theorem exec_idFwCtl (v : Word) : exec (.idFwCtl v) s = .next ⟨fwCtlOp v s.m, s.pending⟩ := row_runs hs rfl rfl

theorem exec_dvfsRampEnd {f : Nat} (hf : f < 104) : exec (.dvfsRampEnd f) s = .next ⟨rampEndOp f s.m, s.pending⟩ :=
  row_runs hs (decide_eq_true hf) rfl

theorem exec_pwrCapEmerg (mean : Nat) : exec (.pwrCapEmerg mean) s = .next ⟨capEmergOp mean s.m, s.pending⟩ := row_runs hs rfl rfl

theorem exec_pwrCap {size : Nat} (h : size = 4 ∨ size = 8) (v : Word) :
    exec (.pwrCap size v) s = .next ⟨capWriteOp size v s.m, s.pending⟩ := row_runs hs (decide_eq_true h) rfl

theorem exec_thermalSample (r : ThermalReading) :
    exec (.thermalSample r) s = .next ⟨sendReport false (thermalOp r s.m), s.pending⟩ := reporting_runs hs rfl rfl

theorem exec_energyRecord (e : EnergyReading) : exec (.energyRecord e) s = .next ⟨energyOp e s.m, s.pending⟩ := row_runs hs rfl rfl

theorem exec_droopEpisode {die : Nat} (h : die < 104 ∨ die = 127) :
    exec (.droopEpisode die) s = .next ⟨droopOp die s.m, s.pending⟩ := row_runs hs (decide_eq_true h) rfl

theorem exec_pwrPhaseFail (rail phase : Nat) :
    exec (.pwrPhaseFail rail phase) s = .next ⟨sendReport false (phaseFailOp rail phase s.m), s.pending⟩ :=
  reporting_runs hs rfl rfl

theorem exec_coolLow : exec .coolLow s = .next ⟨coolLowOp s.m, s.pending⟩ := row_runs hs rfl rfl

theorem exec_coolLeak : exec .coolLeak s = .next ⟨coolLeakOp s.m, s.pending⟩ := row_runs hs rfl rfl

end

/-- Settles O50: each command by the limit that its reading crosses, the core that is reset, or the rail that was spent. -/
theorem powerFollowsCapHeatAndCoolant : Obligations.PowerFollowsCapHeatAndCoolant := by
  intro s hs
  refine ⟨fun core hc => ⟨fun hzero => ?_, fun hother hmany => ?_, fun hother hfew => ?_⟩, exec_idFwCtl hs,
    fun f hf => exec_dvfsRampEnd hs hf, fun mean => ⟨fun hbelow => ?_, fun habove hraised => ?_, fun habove hfirst => ?_⟩,
    fun size v hsize => ⟨fun hlegal => ?_, fun hbad => ?_⟩, fun r => ⟨fun hwarm => ?_, fun hcool => ?_⟩, fun e hearly => ?_,
    fun e hdiv hdue => ?_, fun die hdie => exec_droopEpisode hs hdie, fun rail phase => ⟨fun hspent hcore => ?_, fun hfirst => ?_⟩,
    exec_coolLow hs, exec_coolLeak hs⟩
  · subst hzero
    rw [exec_ctrCoreReset hs hc, coreResetOp_zero]
  · rw [exec_ctrCoreReset hs hc, coreResetOp_other hother]
    exact congrArg (fun m => Host.Outcome.next (State.mk m s.pending)) (if_pos hmany)
  · rw [exec_ctrCoreReset hs hc, coreResetOp_other hother]
    exact congrArg (fun m => Host.Outcome.next (State.mk m s.pending)) (if_neg (Nat.not_lt.2 hfew))
  · rw [exec_pwrCapEmerg hs, capEmergOp_below hbelow]
  · rw [exec_pwrCapEmerg hs, capEmergOp_above habove]
    exact congrArg (fun m => Host.Outcome.next (State.mk m s.pending)) (if_pos hraised)
  · rw [exec_pwrCapEmerg hs, capEmergOp_above habove]
    exact congrArg (fun m => Host.Outcome.next (State.mk m s.pending)) (if_neg (ne_true_of_eq_false hfirst))
  · rw [exec_pwrCap hs hsize, capWriteOp_legal hlegal]
  · rw [exec_pwrCap hs hsize, capWriteOp_bad hbad]
  · rw [exec_thermalSample hs, thermalOp_eq, if_pos hwarm]
    rfl
  · rw [exec_thermalSample hs, thermalOp_eq, if_neg hcool]
    rfl
  · rw [exec_energyRecord hs, energyOp_early hearly]
  · rw [exec_energyRecord hs, energyOp_due hdiv hdue]
  · rw [exec_pwrPhaseFail hs, phaseFailOp_again phase hspent hcore]
    rfl
  · rw [exec_pwrPhaseFail hs, phaseFailOp_first phase hfirst]
    rfl

end Sys2Proof.Machine
end

section
/-!
CERTIFICATE. Memory control: the ends of channel moves and rekeys (R454–R456, R463), imbalance (R453), scrubbing (R459–R462) and the
retraining of channels (R466, R529).
-/
namespace Sys2Proof.Machine
-- As in the tests: theorems elaborated side by side would take a thread each.
set_option Elab.async false

section
variable {m : Mach} {f : Nat}

/-! ### Moves (R454–R456, R463) -/

/-- The facet map with the remap of a channel that moved, and the bursts that could not be corrected marked at their new place. -/
def channelMoved (f ch rc : Nat) (bad : List Nat) (m : Mach) : Mach :=
  let m1 := flashRecord m fun fl => { fl with remaps := fl.remaps ++ [(f, ch, facetRow m f, rc)] }
  { m1 with ue := m1.ue ++ ((bad.map fun o => locate m1 f 1 (o - o % 32)).filter fun u => !m1.ue.contains u).eraseDups }

theorem memRetiredOp_channel {ch rc : Nat} (h : runningMove m f = some (.channel ch rc)) (bad : List Nat) :
    memRetiredOp f bad m = raise (endMove f (channelMoved f ch rc bad m)) memRetiredEv (srcFacet f 6) none [f, ch, rc] := by
  simp only [memRetiredOp, h, channelMoved]

theorem memRetiredOp_none (h : runningMove m f = none) (bad : List Nat) : memRetiredOp f bad m = m := by
  simp only [memRetiredOp, h]

theorem memRekeyedOp_rekey {r : Nat} {k0 k : BitVec 28} (h : runningMove m f = some (.rekey r k0 k)) : memRekeyedOp f m =
    raise (endMove f (spendFree m)) memRekeyedEv (srcFacet f 6) none [f, r, k.toNat, (freeVal m 32).toNat] := by
  simp only [memRekeyedOp, h]

theorem memRekeyedOp_none (h : runningMove m f = none) : memRekeyedOp f m = m := by
  simp only [memRekeyedOp, h]

/-! ### Imbalance (R453) -/

/-- One more imbalanced window of a facet. -/
abbrev windowCounted (f : Nat) (m : Mach) : Mach := modFacet m f fun x => { x with imbRun := (facetOf m f).imbRun + 1 }

theorem imbalanceOp_balanced (ch r : Nat) :
    imbalanceOp f ch r false m = modFacet m f fun x => { x with imbRun := 0, imbRaised := false } := rfl

theorem imbalanceOp_raises {ch r : Nat} (hmany : 100 ≤ (facetOf m f).imbRun + 1)
    (hfirst : (facetOf (windowCounted f m) f).imbRaised = false) : imbalanceOp f ch r true m =
      autoRekey f r (raise (modFacet (windowCounted f m) f fun x => { x with imbRaised := true }) imbalanceEv (srcFacet f 6) none
        [f, ch, r]) :=
  (if_neg Bool.false_ne_true).trans (if_pos ⟨hmany, by rw [hfirst]; rfl⟩)

theorem imbalanceOp_counts {ch r : Nat}
    (h : (facetOf m f).imbRun + 1 < 100 ∨ (facetOf (windowCounted f m) f).imbRaised = true) :
    imbalanceOp f ch r true m = windowCounted f m := by
  refine (if_neg Bool.false_ne_true).trans (if_neg fun ⟨hmany, hfirst⟩ => ?_)
  obtain hfew | hraised := h
  · omega
  · rw [Bool.not_eq_true'] at hfirst
    exact Bool.false_ne_true (hfirst.symm.trans hraised)

/-! ### Retraining (R466, R529) -/

variable {ch : Nat}

theorem periodicRetrainOp_other {ok : Bool} (h : retrainPhase m = false ∨
    (facetOf m f).retrainReq.head?.or (facetOf m f).retrain ≠ some ch ∨ (facetOf m f).retrainAt = some m.tick.edgeAt) :
    periodicRetrainOp f ch ok m = m := by
  refine if_pos ?_
  simpa only [Bool.or_eq_true, Bool.not_eq_true', bne_iff_ne, beq_iff_eq, or_assoc] using h

/-- A facet moves on to its next channel, requested ones first, and notes the temperature of its stack at the end of a round. -/
def retrained (f ch : Nat) (m : Mach) : Mach :=
  let asked := (facetOf m f).retrainReq.head?
  let m0 := modFacet m f fun x => { x with retrainAt := some m.tick.edgeAt }
  let m1 := modFacet m0 f fun x =>
    if asked.isSome then { x with retrainReq := x.retrainReq.drop 1 }
    else { x with retrain := if ch < 15 then some (ch + 1) else none }
  if asked.isNone && ch == 15 then modPower m1 fun p => { p with
    trainTemps := (p.trainTemps.filter fun t => t.1 != stackOf m1 f) ++ [(stackOf m1 f, stackTempOf m1 (stackOf m1 f))] } else m1

theorem periodicRetrainOp_due (ok : Bool) (hphase : retrainPhase m = true)
    (hch : (facetOf m f).retrainReq.head?.or (facetOf m f).retrain = some ch)
    (hnew : (facetOf m f).retrainAt ≠ some m.tick.edgeAt) : periodicRetrainOp f ch ok m =
      if ok then retrained f ch m else decideRetire f ch (raise (retrained f ch m) memTrainFail (srcFacet f 6) none [f, ch]) := by
  refine if_neg ?_
  rw [hphase, hch, bne_self_eq_false, beq_eq_false_iff_ne.2 hnew]
  exact Bool.false_ne_true

end

/-! ### The commands -/

section
variable {s : State} (hs : Ready s) {f : Nat}
include hs

theorem exec_memRetired (hf : f < 96) (bad : List Nat) :
    exec (.memRetired f bad) s = .next ⟨memRetiredOp f bad s.m, s.pending⟩ := row_runs hs (decide_eq_true hf) rfl

theorem exec_memRekeyed (hf : f < 96) : exec (.memRekeyed f) s = .next ⟨memRekeyedOp f s.m, s.pending⟩ :=
  row_runs hs (decide_eq_true hf) rfl

theorem exec_imbalance {ch : Nat} (hf : f < 104) (hch : ch < 16) (r : Nat) (imb : Bool) :
    exec (.imbalance f ch r imb) s = .next ⟨imbalanceOp f ch r imb s.m, s.pending⟩ := row_runs hs (decide_eq_true ⟨hf, hch⟩) rfl

theorem exec_scrubPass {ce ue : List (Nat × Nat)} (hf : f < 104) (hspace : ∀ u ∈ ce ++ ue, u.1 < 2) :
    exec (.scrubPass f ce ue) s = .next ⟨scrubOp f ce ue s.m, s.pending⟩ :=
  row_runs hs (Bool.and_eq_true_iff.2 ⟨decide_eq_true hf, List.all_eq_true.2 fun u hu => decide_eq_true (hspace u hu)⟩) rfl

theorem exec_periodicRetrain {ch : Nat} (hf : f < 104) (hch : ch < 16) (ok : Bool) :
    exec (.periodicRetrain f ch ok) s = .next ⟨periodicRetrainOp f ch ok s.m, s.pending⟩ :=
  row_runs hs (decide_eq_true ⟨hf, hch⟩) rfl

end

/-- Settles O48: the end of a move by the move that runs, a window by the count, a retraining by whether it is the channel's turn. -/
theorem channelsMoveScrubAndRetrain : Obligations.ChannelsMoveScrubAndRetrain := by
  intro s f hs
  refine ⟨fun bad ch rc hf hmove => ?_, fun r k0 k hf hmove => ?_, fun hf hnone => ⟨fun bad => ?_, ?_⟩,
    fun ch r hf hch => ⟨?_, fun hmany hfirst => ?_, fun hcounts => ?_⟩, fun ce ue hf hspace => exec_scrubPass hs hf hspace,
    fun ch ok hf hch => ⟨fun hother => ?_, fun hphase hturn hnew => ⟨fun hok => ?_, fun hfails => ?_⟩⟩⟩
  · rw [exec_memRetired hs hf, memRetiredOp_channel hmove]
    rfl
  · rw [exec_memRekeyed hs hf, memRekeyedOp_rekey hmove]
  · rw [exec_memRetired hs hf, memRetiredOp_none hnone]
  · rw [exec_memRekeyed hs hf, memRekeyedOp_none hnone]
  · rw [exec_imbalance hs hf hch, imbalanceOp_balanced]
  · rw [exec_imbalance hs hf hch, imbalanceOp_raises hmany hfirst]
  · rw [exec_imbalance hs hf hch, imbalanceOp_counts hcounts]
  · rw [exec_periodicRetrain hs hf hch, periodicRetrainOp_other hother]
  · rw [exec_periodicRetrain hs hf hch, periodicRetrainOp_due ok hphase hturn hnew, if_pos hok]
    rfl
  · rw [exec_periodicRetrain hs hf hch, periodicRetrainOp_due ok hphase hturn hnew, if_neg (ne_true_of_eq_false hfails)]
    rfl

end Sys2Proof.Machine
end

section
/-!
CERTIFICATE. Lemir links: frames, replay, training, lanes and optics (R426–R428, R432, R439–R443, R447, R528), the host's link commands,
and MEM_CMD.RETIRE (R463, R465).
-/
namespace Sys2Proof.Machine
-- As in the tests: theorems elaborated side by side would take a thread each.
set_option Elab.async false

/-! ### Links after an update -/

section
variable {m : Mach} {l : Nat}

theorem modLink_congr {g g' : Link → Link} (h : g (linkOf m l) = g' (linkOf m l)) : modLink m l g = modLink m l g' :=
  congrArg (fun x => { m with links := x }) (modify_congr (l := m.links) h)

theorem modLink_modLink (f g : Link → Link) : modLink (modLink m l f) l g = modLink m l (g ∘ f) := by
  simp only [modLink, List.modify_modify_eq]

/-- A link that is not in its initial state is one of the module's. -/
theorem linkOf_modLink_up (h : (linkOf m l).state = 2) (g : Link → Link) : linkOf (modLink m l g) l = g (linkOf m l) := by
  refine (getD_modify_same m.links l g Link.init).trans (if_pos (Decidable.byContradiction fun hlen => ?_))
  rw [linkOf, getD_past_end _ hlen] at h
  exact absurd h (by decide)

/-! ### Frames (R426–R428, R432) -/

/-- The link with the codewords of a frame counted. -/
def frameCounted (l : Nat) (f : FrameIn) (m : Mach) : Mach :=
  modLink m l fun x => { x with
    cntCorr := sat64 (x.cntCorr + f.corrected), cntUncorr := sat64 (x.cntUncorr + b2n (!f.good))
    cntSym := (x.cntSym.zip (f.symbols ++ List.replicate 8 0)).map fun p => sat64 (p.1 + p.2) }

/-- A frame that names the last good one goes out. -/
def ackSent (l : Nat) (m : Mach) : Mach := pumpLink l (modLink m l fun x => { x with ackDue := true })

/-- The control field of the next frame taken. -/
def controlTaken (l : Nat) (f : FrameIn) (m : Mach) : Mach :=
  takeControl l f.ctrl (modLink m l fun x => { x with rxLast := f.seqNum, rxNak := false })

/-- SLOT bits and flit of slot `i`. -/
def slotOf (f : FrameIn) (i : Nat) : Nat × BitVec 256 := (bf f.ctrl.toNat (4 * i + 3) (4 * i), f.heads.getD i 0)

theorem frameCounted_rxLast (f : FrameIn) : (linkOf (frameCounted l f m) l).rxLast = (linkOf m l).rxLast :=
  linkOf_modLink_keeps m Link.rxLast rfl

theorem linkFrameOp_down (h : (linkOf m l).state ≠ 2) (f : FrameIn) : linkFrameOp l f m = m := if_pos h

section
variable (hup : (linkOf m l).state = 2) {f : FrameIn}
include hup

theorem linkFrameOp_bad (hgood : f.good = false) :
    linkFrameOp l f m = ackSent l (modLink (frameCounted l f m) l fun x => { x with rxNak := true }) :=
  (if_neg (not_not_intro hup)).trans (if_pos (by rw [hgood]; rfl))

variable (hgood : f.good = true)
include hgood

theorem linkFrameOp_align (halign : f.align = true) : linkFrameOp l f m = settleLanes l (frameCounted l f m) :=
  (if_neg (not_not_intro hup)).trans ((if_neg (by rw [hgood]; exact Bool.false_ne_true)).trans (if_pos halign))

variable (halign : f.align = false)
include halign

theorem linkFrameOp_gap (hgap : f.seqNum ≠ ((linkOf m l).rxLast + 1) % 4096) :
    linkFrameOp l f m = ackSent l (frameCounted l f m) := by
  rw [← frameCounted_rxLast f] at hgap
  exact (if_neg (not_not_intro hup)).trans ((if_neg (by rw [hgood]; exact Bool.false_ne_true)).trans
    ((if_neg (ne_true_of_eq_false halign)).trans (if_pos hgap)))

variable (hnext : f.seqNum = ((linkOf m l).rxLast + 1) % 4096)
include hnext

theorem linkFrameOp_next : linkFrameOp l f m =
    let m2 := controlTaken l f (frameCounted l f m)
    if (linkOf m2 l).state ≠ 2 then m2
    else settleLanes l (ackSent l (forAll ((List.range 5).map (slotOf f)) (takeSlot l) m2)) := by
  rw [← frameCounted_rxLast f] at hnext
  exact (if_neg (not_not_intro hup)).trans ((if_neg (by rw [hgood]; exact Bool.false_ne_true)).trans
    ((if_neg (ne_true_of_eq_false halign)).trans (if_neg (not_not_intro hnext))))

end

/-! ### Replay, down and flush (R426, R443) -/

theorem replayTimeoutOp_idle (h : (linkOf m l).state ≠ 2 ∨ (linkOf m l).held = []) : replayTimeoutOp l m = m :=
  if_pos (by simpa only [Bool.or_eq_true, decide_eq_true_eq, List.isEmpty_iff] using h)

theorem byTime_early {m : Mach} {t : Nat} (h : (atTime m t).now < t) (g : Mach → Mach) : byTime t g m = m :=
  if_neg (Nat.not_le.2 h)

theorem replayTimeoutOp_held {a : TxFrame} {t : List TxFrame} (hup : (linkOf m l).state = 2) (hheld : (linkOf m l).held = a :: t) :
    replayTimeoutOp l m = byTime ((linkOf m l).replayAt + 400)
      (fun m0 => if (linkOf m l).ackAt + 6400 ≤ m0.now then downLink l m0 else resendHeld l m0) m := by
  refine if_neg ?_
  rw [decide_eq_false (not_not_intro hup), hheld]
  exact Bool.false_ne_true

/-- Every held frame goes out again, with the ACK of now. -/
theorem resendHeld_some {a : TxFrame} {t : List TxFrame} (h : (linkOf m l).held = a :: t) : resendHeld l m =
    (a :: t).foldl (fun m' g => emit m' (.frame l (activeLanes m l) g.seqNum (frameCtrl (linkOf m l) (withoutTicks g))
      (withoutTicks g).slots)) (modLink m l fun x => { x with cntReplay := sat64 ((linkOf m l).cntReplay + 1), replayAt := m.now }) := by
  have hmod : (modLink m l fun x => { x with cntReplay := sat64 (x.cntReplay + 1), replayAt := m.now }) =
      modLink m l fun x => { x with cntReplay := sat64 ((linkOf m l).cntReplay + 1), replayAt := m.now } := modLink_congr rfl
  rw [resendHeld, hmod, h]
  rfl

theorem downLink_idle (h : (linkOf m l).state ≠ 2) : downLink l m = m := if_pos h

theorem downLink_up (h : (linkOf m l).state = 2) : downLink l m = updatePaired (raise (modLink m l fun x => { x with
    state := if linkEn m l then 1 else 0, downAt := m.now, prevFar := some x.farModule, naks := 0, retraining := none
    riseDue := none, retrainQ := [], tryAt := none, farLast := none, cntDown := sat64 (x.cntDown + 1) }) linkDownEv (srcLink l) none
    [l, (linkOf m l).farModule, (linkOf m l).width]) := if_neg (not_not_intro h)

theorem linkFlushOp_idle (h : (linkOf m l).state = 2 ∨ (linkOf m l).prevFar = none) : linkFlushOp l m = m :=
  if_pos (by rwa [Option.isNone_iff_eq_none])

theorem linkFlushOp_due (hdown : (linkOf m l).state ≠ 2) (hprev : (linkOf m l).prevFar.isSome = true)
    (hdue : (linkOf m l).downAt + 100000 * regN m offLinkHold ≤
      (atTime m ((linkOf m l).downAt + 100000 * regN m offLinkHold)).now) :
    linkFlushOp l m = flushFrames l (atTime m ((linkOf m l).downAt + 100000 * regN m offLinkHold)) := by
  refine (if_neg ?_).trans (byTime_reached hdue _)
  rw [Option.isNone_iff_eq_none, not_or]
  exact ⟨hdown, Option.isSome_iff_ne_none.1 hprev⟩

/-! ### Training (R439, R440) -/

theorem trainRetryOp_idle (h : linkEn m l = false ∨ (linkOf m l).state = 2) (failStep : Option Nat) (good : BitVec 8) :
    trainRetryOp l failStep good m = m :=
  if_pos (by rwa [Bool.or_eq_true, Bool.not_eq_true', decide_eq_true_eq])

/-- The instant of the next attempt: a second after the one before, or at once. -/
def attemptTime (l : Nat) (m : Mach) : Mach :=
  match (linkOf m l).tryAt with
  | some t => atTime m (t + second)
  | none => m

theorem attemptTime_again {t : Nat} (h : (linkOf m l).tryAt = some t) : attemptTime l m = atTime m (t + second) := by
  rw [attemptTime, h]

section
variable (hen : linkEn m l = true) (hdown : (linkOf m l).state ≠ 2) (failStep : Option Nat) (good : BitVec 8)
include hen hdown

theorem trainRetryOp_again {t : Nat} (h : (linkOf m l).tryAt = some t) :
    trainRetryOp l failStep good m = byTime (t + second) (attemptOp l failStep good) m := by
  simp only [trainRetryOp, hen, decide_eq_false hdown, h, Bool.not_true, Bool.or_self, Bool.false_eq_true, if_false]

theorem trainRetryOp_first (h : (linkOf m l).tryAt = none) : trainRetryOp l failStep good m = attemptOp l failStep good m := by
  simp only [trainRetryOp, hen, decide_eq_false hdown, h, Bool.not_true, Bool.or_self, Bool.false_eq_true, if_false]

theorem trainRetryOp_due (hdue : ∀ t, (linkOf m l).tryAt = some t → t + second ≤ (attemptTime l m).now) :
    trainRetryOp l failStep good m = attemptOp l failStep good (attemptTime l m) := by
  cases htry : (linkOf m l).tryAt with
  | none => rw [trainRetryOp_first hen hdown failStep good htry, attemptTime, htry]
  | some t =>
    have hreached := hdue t htry
    rw [attemptTime_again htry] at hreached ⊢
    rw [trainRetryOp_again hen hdown failStep good htry, byTime_reached hreached]

end

/-- The link at the start of an attempt. -/
def attempted (l : Nat) (good : BitVec 8) (m : Mach) : Mach :=
  modLink m l fun x => { x with state := 1, good := good, tryAt := some m.now, farLast := none }

/-- The step that fails at once: without its optics a link trains no lane. -/
def failsAt (l : Nat) (failStep : Option Nat) (m : Mach) : Option Nat :=
  if linkOptics m l && !(linkOf m l).optics then some 1 else failStep

/-- What follows of an attempt by the step that fails: a failure, or the exchange at the width that the good lanes allow. -/
def attemptJudged (l : Nat) (good : BitVec 8) (m : Mach) : Option Nat → Mach
  | some st => failTraining l st m
  | none =>
    let w := widthFor (usableLanes m l good).length (linkMinW m l)
    if w = 0 then failTraining l 1 m else emit m (.linkHello l (self m) m.flash.serial w (linkOf m l).rxLast)

theorem attemptOp_eq (failStep : Option Nat) (good : BitVec 8) : attemptOp l failStep good m =
    attemptJudged l good (attempted l good m) (failsAt l failStep (attempted l good m)) := rfl

theorem linkHelloOp_idle {fm fl width last : Nat} {serial twin : Word} (h : (linkOf m l).state ≠ 1 ∨ (linkOf m l).tryAt = none) :
    linkHelloOp l fm fl width last serial twin m = m :=
  if_pos (by rwa [Bool.or_eq_true, decide_eq_true_eq, Option.isNone_iff_eq_none])

/-- The far end of an attempt, as its exchange names it. -/
def farNoted (l fm fl width last : Nat) (serial twin : Word) (m : Mach) : Mach :=
  modLink m l fun x => { x with
    farModule := fm, farLink := fl, farWidth := width, farSerial := serial, farTwin := twin, farLast := some (last % 4096) }

theorem linkHelloOp_waits {fm fl width last : Nat} {serial twin : Word} (hstate : (linkOf m l).state = 1)
    (htry : (linkOf m l).tryAt ≠ none) : linkHelloOp l fm fl width last serial twin m =
      let m1 := farNoted l fm fl width last serial twin m
      if widthFor (min width (usableLanes m1 l (linkOf m1 l).good).length) (linkMinW m1 l) = 0 then failTraining l 3 m1 else m1 := by
  refine if_neg ?_
  rw [decide_eq_false (not_not_intro hstate), Option.isNone_eq_false_iff.2 (Option.isSome_iff_ne_none.2 htry)]
  exact Bool.false_ne_true

theorem linkUpOp_idle {rtt lat : Nat} (h : (linkOf m l).state ≠ 1 ∨ linkEn m l = false ∨ (linkOf m l).tryAt = none ∨
    (linkOf m l).farLast = none) : linkUpOp l rtt lat m = m := by
  unfold linkUpOp
  dsimp only
  split
  · rfl
  · next hon =>
    rw [Bool.or_eq_true, decide_eq_true_eq, Bool.not_eq_true', not_or] at hon
    split
    · next t last htry hlast =>
      obtain h | h | h | h := h
      · exact absurd h hon.1
      · exact absurd h hon.2
      · exact absurd (htry.symm.trans h) (by simp)
      · exact absurd (hlast.symm.trans h) (by simp)
    · rfl

theorem linkUpOp_attempt {rtt lat t last : Nat} (hstate : (linkOf m l).state = 1) (hen : linkEn m l = true)
    (htry : (linkOf m l).tryAt = some t) (hlast : (linkOf m l).farLast = some last) : linkUpOp l rtt lat m =
      let w := widthFor (min (linkOf m l).farWidth (usableLanes m l (linkOf m l).good).length) (linkMinW m l)
      if t + second < m.now then failTraining l 4 m else if w = 0 then failTraining l 3 m else linkRises l rtt lat w last m := by
  simp only [linkUpOp, hstate, hen, htry, hlast, ne_eq, not_true_eq_false, decide_false, Bool.not_true, Bool.or_self,
    Bool.false_eq_true, if_false]

/-! ### Lanes (R441, R442) -/

variable {n : Nat}

theorem retrainDoneOp_other {ok : Bool} (h : (linkOf m l).retraining ≠ some n) : retrainDoneOp l n ok m = m := if_pos h

theorem retrainDoneOp_rises (h : (linkOf m l).retraining = some n) (hdue : m.now ≤ (linkOf m l).retrainAt + 10000000) :
    retrainDoneOp l n true m =
      settleLanes l (modLink (modLink m l fun x => { x with retraining := none }) l fun x => { x with riseDue := some n }) := by
  rw [modLink_modLink]
  exact (if_neg (not_not_intro h)).trans (if_pos (by rw [decide_eq_true hdue]; rfl))

theorem retrainDoneOp_retires {ok : Bool} (h : (linkOf m l).retraining = some n)
    (hbad : ok = false ∨ (linkOf m l).retrainAt + 10000000 < m.now) : retrainDoneOp l n ok m =
      settleLanes l (retireLane l n (modLink m l fun x => { x with retraining := none })) := by
  refine (if_neg (not_not_intro h)).trans (if_neg ?_)
  rw [Bool.and_eq_true, decide_eq_true_eq]
  exact fun ⟨hok, hdue⟩ => hbad.elim (ne_true_of_eq_false · hok) fun hlate => absurd hdue (Nat.not_le.2 hlate)

theorem lockLossOp_idle (h : (linkOf m l).state ≠ 2 ∨ (linkOf m l).retraining = some n) : lockLossOp l n m = m :=
  if_pos (by rwa [Bool.or_eq_true, decide_eq_true_eq, beq_iff_eq])

/-- The link once a lane is good no longer. -/
def laneLost (l n : Nat) (m : Mach) : Mach :=
  modLink m l fun x => { x with good := x.good &&& ~~~(1#8 <<< n), riseDue := x.riseDue.filter (· != n) }

section
variable (hup : (linkOf m l).state = 2) (hother : (linkOf m l).retraining ≠ some n)
include hup hother

theorem lockLossOp_spare (hspare : n ∉ activeLanes m l) : lockLossOp l n m = laneLost l n m := by
  refine (if_neg ?_).trans (if_pos ?_)
  · rw [decide_eq_false (not_not_intro hup), beq_eq_false_iff_ne.2 hother]
    exact Bool.false_ne_true
  · rw [Bool.not_eq_true', ← Bool.not_eq_true, List.contains_iff_mem]
    exact hspare

theorem lockLossOp_serves (hserves : n ∈ activeLanes m l) : lockLossOp l n m =
    let m1 := laneLost l n m
    let k := ((usableLanes m1 l (linkOf m1 l).good).filter fun k => (linkOf m l).retraining != some k).length
    let w := widthFor (min k (linkOf m l).width) (linkMinW m1 l)
    if w = 0 then downLink l m1 else resendHeld l (setWidth l n w m1) := by
  refine (if_neg ?_).trans (if_neg ?_)
  · rw [decide_eq_false (not_not_intro hup), beq_eq_false_iff_ne.2 hother]
    exact Bool.false_ne_true
  · rw [List.contains_iff_mem.2 hserves]
    exact Bool.false_ne_true

end

/-- A request for a lane that waits already, retrains or is about to serve again changes nothing. -/
theorem retrainLaneOp_idle (h : (linkOf m l).state ≠ 2 ∨ (linkOf m l).retraining = some n ∨ (linkOf m l).riseDue = some n ∨
    n ∈ (linkOf m l).retrainQ) : retrainLaneOp l n m = m :=
  if_pos (by simpa only [Bool.or_eq_true, decide_eq_true_eq, List.contains_iff_mem, or_assoc] using h)

/-- The lanes that wait, the new request among them, in lane order. -/
def waitingLanes (m : Mach) (l n : Nat) : List Nat := ((linkOf m l).retrainQ ++ [n]).mergeSort fun a b => decide (a ≤ b)

/-- The link with the new request among those that wait. -/
def laneAsked (l n : Nat) (m : Mach) : Mach := modLink m l fun x => { x with retrainQ := waitingLanes m l n }

theorem retrainLaneOp_asks (hup : (linkOf m l).state = 2) (hother : (linkOf m l).retraining ≠ some n)
    (hrise : (linkOf m l).riseDue ≠ some n) (hnew : n ∉ (linkOf m l).retrainQ) :
    retrainLaneOp l n m = settleLanes l (laneAsked l n m) := by
  have hasked : laneAsked l n m =
      modLink m l fun x => { x with retrainQ := (x.retrainQ ++ [n]).mergeSort fun a b => decide (a ≤ b) } := modLink_congr rfl
  rw [hasked]
  refine if_neg ?_
  simp only [Bool.or_eq_true, decide_eq_true_eq, List.contains_iff_mem, not_or]
  exact ⟨⟨⟨not_not_intro hup, hother⟩, hrise⟩, hnew⟩

theorem settleLanes_held (h : mayPause m = false ∨ ((linkOf m l).retraining ≠ none ∧ (linkOf m l).riseDue = none)) :
    settleLanes l m = m := by
  unfold settleLanes
  dsimp only
  split
  · rfl
  · next hon =>
    rw [Bool.or_eq_true, Bool.not_eq_true', not_or] at hon
    obtain hpause | ⟨hbusy, hrise⟩ := h
    · exact absurd hpause hon.2
    · simp only [hrise]
      exact if_pos (Option.isSome_iff_ne_none.2 hbusy)

theorem settleLanes_free (hup : (linkOf m l).state = 2) (hpause : mayPause m = true) (hfree : (linkOf m l).retraining = none)
    (hrise : (linkOf m l).riseDue = none) : settleLanes l m = nextRetrain l (linkOf m l).retrainQ m := by
  simp only [settleLanes, hup, hpause, hfree, hrise, ne_eq, not_true_eq_false, decide_false, Bool.not_true, Bool.or_self,
    Bool.false_eq_true, if_false, Option.isSome_none]

/-- Lanes that cannot be retrained are dropped before the first that can. -/
theorem nextRetrain_append {k : Nat} {after : List Nat} : ∀ before : List Nat, (∀ y ∈ before, canRetrain m l y = false) →
    canRetrain m l k = true → nextRetrain l (before ++ k :: after) m = setWidth l k (nextLower (linkOf m l).width)
      (modLink m l fun x => { x with retraining := some k, retrainAt := m.now, retrainQ := after })
  | [], _, hk => if_pos hk
  | y :: t, hbefore, hk => (if_neg (ne_true_of_eq_false (hbefore y List.mem_cons_self))).trans
      (nextRetrain_append t (fun z hz => hbefore z (List.mem_cons_of_mem y hz)) hk)

theorem nextRetrain_none : ∀ q : List Nat, (∀ y ∈ q, canRetrain m l y = false) →
    nextRetrain l q m = modLink m l fun x => { x with retrainQ := [] }
  | [], _ => rfl
  | y :: t, hq => (if_neg (ne_true_of_eq_false (hq y List.mem_cons_self))).trans
      (nextRetrain_none t fun z hz => hq z (List.mem_cons_of_mem y hz))

/-- A lane of a link that is up can be retrained above width 4, where the next lower width is not below the least, when it serves. -/
theorem canRetrain_iff (hup : (linkOf m l).state = 2) : canRetrain m l n = true ↔
    (linkOf m l).width ≠ 4 ∧ linkMinW m l ≤ nextLower (linkOf m l).width ∧ n ∈ activeLanes m l := by
  simp only [canRetrain, hup, Bool.and_eq_true, beq_self_eq_true, true_and, bne_iff_ne, decide_eq_true_eq, List.contains_iff_mem,
    and_assoc]

/-- A request leaves the lanes as they are. -/
theorem activeLanes_laneAsked (hup : (linkOf m l).state = 2) : activeLanes (laneAsked l n m) l = activeLanes m l := by
  simp only [activeLanes, usableLanes, laneAsked, linkOf_modLink_up hup, modLink_flash]

theorem canRetrain_laneAsked {k : Nat} (hup : (linkOf m l).state = 2) : canRetrain (laneAsked l n m) l k = true ↔
    (linkOf m l).width ≠ 4 ∧ linkMinW m l ≤ nextLower (linkOf m l).width ∧ k ∈ activeLanes m l := by
  have hlink : linkOf (laneAsked l n m) l = { linkOf m l with retrainQ := waitingLanes m l n } := linkOf_modLink_up hup _
  rw [canRetrain_iff (by rw [hlink]; exact hup), activeLanes_laneAsked hup, hlink]
  rfl

/-- Where the pause may fall and no lane retrains or rises, the first of the waiting lanes that can be retrained begins. -/
theorem retrainLaneOp_begins (hup : (linkOf m l).state = 2) (hfree : (linkOf m l).retraining = none)
    (hrise : (linkOf m l).riseDue = none) (hnew : n ∉ (linkOf m l).retrainQ) (hpause : mayPause m = true) :
    retrainLaneOp l n m = nextRetrain l (waitingLanes m l n) (laneAsked l n m) := by
  have hlink : linkOf (laneAsked l n m) l = { linkOf m l with retrainQ := waitingLanes m l n } := linkOf_modLink_up hup _
  rw [retrainLaneOp_asks hup (by rw [hfree]; exact nofun) (by rw [hrise]; exact nofun) hnew,
    settleLanes_free (m := laneAsked l n m) (by rw [hlink]; exact hup) hpause (by rw [hlink]; exact hfree) (by rw [hlink]; exact hrise),
    hlink]

/-! ### MEM_CMD.RETIRE (R463, R465) -/

variable {f c : Nat}

theorem retireOp_other (h : 96 ≤ f ∨ (facetOf m f).failed = true) : retireOp f c m = m := if_pos h

theorem retireOp_judged (hf : f < 96) (hworks : (facetOf m f).failed = false) : retireOp f c m =
    if (freeReserve m (facetRow m f)).isNone then raise m memRetireNone (srcFacet f 6) none [f, c] else decideRetire f c m := by
  refine if_neg ?_
  rw [hworks, not_or]
  exact ⟨Nat.not_le.2 hf, Bool.false_ne_true⟩

end

/-! ### The commands -/

section
variable {s : State} (hs : Ready s)
include hs

theorem exec_retire {f c : Nat} (hf : f < 128) (hc : c < 16) : exec (.retire f c) s = .next ⟨retireOp f c s.m, s.pending⟩ :=
  row_runs hs (decide_eq_true ⟨hf, hc⟩) rfl

variable {l : Nat} (hl : l < 36)
include hl

theorem exec_linkFrame (f : FrameIn) : exec (.linkFrame l f) s = .next ⟨sendReport false (linkFrameOp l f s.m), s.pending⟩ :=
  reporting_runs hs (decide_eq_true hl) rfl

theorem exec_linkReplayTimeout : exec (.linkReplayTimeout l) s = .next ⟨replayTimeoutOp l s.m, s.pending⟩ :=
  row_runs hs (decide_eq_true hl) rfl

theorem exec_linkDown : exec (.linkDown l) s = .next ⟨downLink l s.m, s.pending⟩ := row_runs hs (decide_eq_true hl) rfl

theorem exec_linkFlush : exec (.linkFlush l) s = .next ⟨linkFlushOp l s.m, s.pending⟩ := row_runs hs (decide_eq_true hl) rfl

theorem exec_linkTrainRetry (failStep : Option Nat) (good : BitVec 8) :
    exec (.linkTrainRetry l failStep good) s = .next ⟨trainRetryOp l failStep good s.m, s.pending⟩ :=
  row_runs hs (decide_eq_true hl) rfl

theorem exec_linkHello (fm fl width last : Nat) (serial twin : Word) :
    exec (.linkHello l fm fl width last serial twin) s = .next ⟨linkHelloOp l fm fl width last serial twin s.m, s.pending⟩ :=
  row_runs hs (decide_eq_true hl) rfl

theorem exec_linkUp (rtt lat : Nat) (resumed : Option Nat) :
    exec (.linkUp l rtt lat resumed) s = .next ⟨sendReport false (linkUpOp l rtt lat s.m), s.pending⟩ :=
  reporting_runs hs (decide_eq_true hl) rfl

theorem exec_retrainAll : exec (.retrainAll l) s = .next ⟨retrainAllOp l s.m, s.pending⟩ := row_runs hs (decide_eq_true hl) rfl

theorem exec_clrCnt : exec (.clrCnt l) s = .next ⟨clrCntOp l s.m, s.pending⟩ := row_runs hs (decide_eq_true hl) rfl

theorem exec_clrRetired : exec (.clrRetired l) s = .next ⟨modLink s.m l fun x => { x with clrAsked := true }, s.pending⟩ :=
  row_runs (f := fun m => modLink m l fun x => { x with clrAsked := true }) hs (decide_eq_true hl) rfl

theorem exec_opticsRemoved : exec (.opticsRemoved l) s = .next ⟨opticsRemovedOp l s.m, s.pending⟩ :=
  row_runs hs (decide_eq_true hl) rfl

theorem exec_opticsInserted : exec (.opticsInserted l) s =
    .next ⟨emit (modLink s.m l fun x => { x with optics := true }) (.pin .cageInt true), s.pending⟩ :=
  row_runs (f := fun m => emit (modLink m l fun x => { x with optics := true }) (.pin .cageInt true)) hs (decide_eq_true hl) rfl

variable {n : Nat} (hn : n < 8)
include hn

theorem exec_retrainLane : exec (.retrainLane l n) s = .next ⟨retrainLaneOp l n s.m, s.pending⟩ :=
  row_runs hs (decide_eq_true ⟨hl, hn⟩) rfl

theorem exec_laneFecThreshold (symbols : Nat) : exec (.laneFecThreshold l n symbols) s =
    .next ⟨if tb (regN s.m (offLinkCtl l)) 4 && decide (regN s.m offRetrainThr < symbols) then retrainLaneOp l n s.m else s.m,
      s.pending⟩ :=
  row_runs (f := fun m => if tb (regN m (offLinkCtl l)) 4 && decide (regN m offRetrainThr < symbols) then retrainLaneOp l n m else m)
    hs (decide_eq_true ⟨hl, hn⟩) rfl

theorem exec_laneRetrainDone (ok : Bool) : exec (.laneRetrainDone l n ok) s = .next ⟨retrainDoneOp l n ok s.m, s.pending⟩ :=
  row_runs hs (decide_eq_true ⟨hl, hn⟩) rfl

theorem exec_laneLockLoss : exec (.laneLockLoss l n) s = .next ⟨lockLossOp l n s.m, s.pending⟩ :=
  row_runs hs (decide_eq_true ⟨hl, hn⟩) rfl

end

/-- Settles O45: every command by the state of its link; a frame by its codewords and its number, an attempt by its instant and the width
that its lanes allow, a lane by whether it serves. -/
theorem linksCarryTrainAndRecover : Obligations.LinksCarryTrainAndRecover := by
  intro s l hs hl
  refine ⟨fun hdown => ⟨fun f => ?_, ?_, ?_, fun n hn => ?_⟩,
    fun hup => ⟨fun f => ⟨fun hgood => ?_, fun hgood halign => ?_, fun hgood halign hgap => ?_,
        fun hgood halign hnext => ⟨fun hfell => ?_, fun hstays => ?_⟩⟩,
      fun hnone => ?_, fun a t hheld => ⟨fun hearly => ?_, fun hdue hlost => ?_, fun hdue hlive => ?_⟩, ?_,
      fun n hn hbusy => ?_, fun n hn hother hspare => ?_, fun n hn hother hserves => ⟨fun hw => ?_, fun hw => ?_⟩⟩,
    fun hidle => ?_, fun hdown hprev hdue => ?_, fun failStep good hidle => ?_,
    fun failStep good hen hdown => ⟨fun t htry hearly => ?_, fun hdue => ⟨fun st hfails => ?_, fun hfails hw => ?_, fun hfails hw => ?_⟩⟩,
    fun fm fl width last serial twin hidle => ?_,
    fun fm fl width last serial twin hstate htry => ⟨fun hw => ?_, fun hw => ?_⟩,
    fun rtt lat resumed hidle => ?_, fun rtt lat resumed t last hstate hen htry hlast => ⟨fun hlate => ?_, fun hdue hw => ?_, fun hdue hw => ?_⟩,
    fun n symbols hn => ⟨fun hexcess => ?_, fun hbelow => ?_⟩, fun n ok hn hother => ?_,
    fun n ok hn hlane => ⟨fun hok hdue => ?_, fun hbad => ?_⟩, ⟨fun hcarries => ?_, fun hcarries => ?_⟩, exec_opticsInserted hs hl⟩
  · rw [exec_linkFrame hs hl, linkFrameOp_down hdown]
  · rw [exec_linkReplayTimeout hs hl, replayTimeoutOp_idle (.inl hdown)]
  · rw [exec_linkDown hs hl, downLink_idle hdown]
  · rw [exec_laneLockLoss hs hl hn, lockLossOp_idle (.inl hdown)]
  · rw [exec_linkFrame hs hl, linkFrameOp_bad hup hgood]
    rfl
  · rw [exec_linkFrame hs hl, linkFrameOp_align hup hgood halign]
    rfl
  · rw [exec_linkFrame hs hl, linkFrameOp_gap hup hgood halign hgap]
    rfl
  · rw [exec_linkFrame hs hl, linkFrameOp_next hup hgood halign hnext]
    exact congrArg (fun m => Host.Outcome.next (State.mk (sendReport false m) s.pending)) (if_pos hfell)
  · rw [exec_linkFrame hs hl, linkFrameOp_next hup hgood halign hnext]
    exact congrArg (fun m => Host.Outcome.next (State.mk (sendReport false m) s.pending)) (if_neg (not_not_intro hstays))
  · rw [exec_linkReplayTimeout hs hl, replayTimeoutOp_idle (.inr hnone)]
  · rw [exec_linkReplayTimeout hs hl, replayTimeoutOp_held hup hheld, byTime_early hearly]
  · rw [exec_linkReplayTimeout hs hl, replayTimeoutOp_held hup hheld, byTime_reached hdue, if_pos hlost]
  · rw [exec_linkReplayTimeout hs hl, replayTimeoutOp_held hup hheld, byTime_reached hdue, if_neg (Nat.not_le.2 hlive),
      resendHeld_some (m := atTime s.m ((linkOf s.m l).replayAt + 400)) hheld]
    rfl
  · rw [exec_linkDown hs hl, downLink_up hup]
  · rw [exec_laneLockLoss hs hl hn, lockLossOp_idle (.inr hbusy)]
  · rw [exec_laneLockLoss hs hl hn, lockLossOp_spare hup hother hspare]
    rfl
  · rw [exec_laneLockLoss hs hl hn, lockLossOp_serves hup hother hserves]
    exact congrArg (fun m => Host.Outcome.next (State.mk m s.pending)) (if_pos hw)
  · rw [exec_laneLockLoss hs hl hn, lockLossOp_serves hup hother hserves]
    exact congrArg (fun m => Host.Outcome.next (State.mk m s.pending)) (if_neg hw)
  · rw [exec_linkFlush hs hl, linkFlushOp_idle hidle]
  · rw [exec_linkFlush hs hl, linkFlushOp_due hdown hprev hdue]
    rfl
  · rw [exec_linkTrainRetry hs hl, trainRetryOp_idle hidle]
  · simp only [htry] at hearly
    rw [exec_linkTrainRetry hs hl, trainRetryOp_again hen hdown failStep good htry, byTime_early (t := t + second) hearly]
  · have hjudged : failsAt l failStep (attempted l good (attemptTime l s.m)) = some st := hfails
    rw [exec_linkTrainRetry hs hl, trainRetryOp_due hen hdown failStep good hdue, attemptOp_eq, hjudged]
    rfl
  · have hjudged : failsAt l failStep (attempted l good (attemptTime l s.m)) = none := hfails
    rw [exec_linkTrainRetry hs hl, trainRetryOp_due hen hdown failStep good hdue, attemptOp_eq, hjudged]
    exact congrArg (fun m => Host.Outcome.next (State.mk m s.pending)) (if_pos hw)
  · have hjudged : failsAt l failStep (attempted l good (attemptTime l s.m)) = none := hfails
    rw [exec_linkTrainRetry hs hl, trainRetryOp_due hen hdown failStep good hdue, attemptOp_eq, hjudged]
    exact congrArg (fun m => Host.Outcome.next (State.mk m s.pending)) (if_neg hw)
  · rw [exec_linkHello hs hl, linkHelloOp_idle hidle]
  · rw [exec_linkHello hs hl, linkHelloOp_waits hstate htry]
    exact congrArg (fun m => Host.Outcome.next (State.mk m s.pending)) (if_pos hw)
  · rw [exec_linkHello hs hl, linkHelloOp_waits hstate htry]
    exact congrArg (fun m => Host.Outcome.next (State.mk m s.pending)) (if_neg hw)
  · rw [exec_linkUp hs hl, linkUpOp_idle hidle]
  · rw [exec_linkUp hs hl, linkUpOp_attempt hstate hen htry hlast]
    exact congrArg (fun m => Host.Outcome.next (State.mk (sendReport false m) s.pending)) (if_pos hlate)
  · rw [exec_linkUp hs hl, linkUpOp_attempt hstate hen htry hlast]
    exact congrArg (fun m => Host.Outcome.next (State.mk (sendReport false m) s.pending))
      ((if_neg (Nat.not_lt.2 hdue)).trans (if_pos hw))
  · rw [exec_linkUp hs hl, linkUpOp_attempt hstate hen htry hlast]
    exact congrArg (fun m => Host.Outcome.next (State.mk (sendReport false m) s.pending))
      ((if_neg (Nat.not_lt.2 hdue)).trans (if_neg hw))
  · rw [exec_laneFecThreshold hs hl hn, if_pos (by rwa [Bool.and_eq_true, decide_eq_true_eq])]
  · rw [exec_laneFecThreshold hs hl hn, if_neg (by rwa [Bool.and_eq_true, decide_eq_true_eq])]
  · rw [exec_laneRetrainDone hs hl hn, retrainDoneOp_other hother]
  · subst hok
    rw [exec_laneRetrainDone hs hl hn, retrainDoneOp_rises hlane hdue]
  · rw [exec_laneRetrainDone hs hl hn, retrainDoneOp_retires hlane hbad]
  · rw [exec_opticsRemoved hs hl]
    exact congrArg (fun m => Host.Outcome.next (State.mk m s.pending)) (if_pos hcarries)
  · rw [exec_opticsRemoved hs hl]
    exact congrArg (fun m => Host.Outcome.next (State.mk m s.pending)) (if_neg (ne_true_of_eq_false hcarries))

/-- Settles O47: commands by the state of the link, a retraining by the first lane that waits and can be retrained, RETIRE by the reserve
channels of the row. -/
theorem linkCommandsAct : Obligations.LinkCommandsAct := by
  intro s hs
  refine ⟨fun l hl => ⟨exec_clrCnt hs hl, exec_clrRetired hs hl, ⟨fun hdown => ?_, fun hup => ?_⟩,
      fun n hn => ⟨fun hidle => ?_, fun hup hother hrise hnew => ⟨fun hheld => ?_, fun hpause hfree hrises => ⟨fun before k after hq hbefore hk => ?_, fun hq => ?_⟩⟩⟩⟩,
    fun f c hf hc => ⟨fun hother => ?_, fun hlt hworks hnone => ?_, fun r hlt hworks hsome => ?_⟩⟩
  · rw [exec_retrainAll hs hl, retrainAllOp, downLink_idle]
    exact fun h => hdown ((linkOf_modLink_keeps s.m Link.state rfl).symm.trans h)
  · rw [exec_retrainAll hs hl, retrainAllOp, downLink_up (by rw [linkOf_modLink_up hup]; exact hup)]
    simp only [linkOf_modLink_up hup]
    rfl
  · rw [exec_retrainLane hs hl hn, retrainLaneOp_idle hidle]
  · rw [exec_retrainLane hs hl hn, retrainLaneOp_asks hup hother hrise hnew, settleLanes_held]
    · rfl
    · rw [laneAsked, linkOf_modLink_up hup]
      exact hheld
  · have hwait : waitingLanes s.m l n = before ++ k :: after := hq
    rw [exec_retrainLane hs hl hn, retrainLaneOp_begins hup hfree hrises hnew hpause, hwait,
      nextRetrain_append before (fun y hy => Bool.eq_false_of_not_eq_true fun h => hbefore y hy ((canRetrain_laneAsked hup).1 h))
        ((canRetrain_laneAsked hup).2 hk), laneAsked, linkOf_modLink_up hup]
    rfl
  · have hnone : ∀ y ∈ waitingLanes s.m l n, canRetrain (laneAsked l n s.m) l y = false := fun y hy =>
      Bool.eq_false_of_not_eq_true fun h => hq y hy ((canRetrain_laneAsked hup).1 h)
    rw [exec_retrainLane hs hl hn, retrainLaneOp_begins hup hfree hrises hnew hpause, nextRetrain_none _ hnone]
    rfl
  · rw [exec_retire hs hf hc, retireOp_other hother]
  · rw [exec_retire hs hf hc, retireOp_judged hlt hworks, hnone]
    rfl
  · rw [exec_retire hs hf hc, retireOp_judged hlt hworks, hsome]
    rfl

end Sys2Proof.Machine
end

section
/-!
CERTIFICATE. The ends of switches and holds, the rotation of a group, and the decode steps of a rollout (R410–R420).
-/
namespace Sys2Proof.Machine
-- As in the tests: theorems elaborated side by side would take a thread each.
set_option Elab.async false

section
variable {m : Mach}

/-! ### Switches and holds (R410–R413) -/

/-- The live regions of a facet that ends its switch: the outgoing ones spilled, then the incoming ones filled. -/
def regionsSwapped (f : Nat) (o i : List Nat) (m : Mach) : Mach :=
  modFacet (forAll i (fillJob f) (forAll o (spillJob f) m)) f fun x => { x with switching := none }

/-- The slots that start on a facet whose switch has ended. -/
def slotsStarted (f : Nat) (i : List Nat) (m : Mach) : Mach :=
  forAll (List.range 4) (fun m c =>
    match (scOf m f c).owner with
    | some (j, _) => if i.contains j then openHeld f c (startSlot m f c m) else m
    | none => m) m

/-- The incoming jobs that no facet keeps from running raise JOB_RESUMED. -/
def allResumed (i : List Nat) (m : Mach) : Mach :=
  forAll i (fun m j => if switchesOf m j then m else resumedEvent j m.tick.tickNo m) m

theorem spillFillDoneOp_none {f : Nat} (h : (facetOf m f).switching = none) : spillFillDoneOp f m = m := by
  simp only [spillFillDoneOp, h]

section
variable {f t : Nat} {o i : List Nat} (h : (facetOf m f).switching = some (o, i, t))
include h

theorem spillFillDoneOp_some : spillFillDoneOp f m =
    if o.any (inFlightOn m f) then m else allResumed i (slotsStarted f i (regionsSwapped f o i m)) := by
  simp only [spillFillDoneOp, h]; rfl

theorem spillFillDoneOp_inFlight (hbusy : ∃ j ∈ o, inFlightOn m f j = true) : spillFillDoneOp f m = m :=
  (spillFillDoneOp_some h).trans (if_pos (List.any_eq_true.2 hbusy))

theorem spillFillDoneOp_ends (hidle : ∀ j ∈ o, inFlightOn m f j = false) :
    spillFillDoneOp f m = allResumed i (slotsStarted f i (regionsSwapped f o i m)) :=
  (spillFillDoneOp_some h).trans (if_neg fun hbusy => by
    obtain ⟨j, hj, hin⟩ := List.any_eq_true.1 hbusy
    rw [hidle j hj] at hin
    exact Bool.false_ne_true hin)

end

/-- The hold of a job has ended: its debt is paid and its slots go on. -/
def holdEnded (j : Nat) (m : Mach) : Mach :=
  forAll (List.range 96) (fun m f => forAll (List.range 4) (fun m c => if scJob m f c = some j then poke f c m else m) m)
    (modJob m j fun x => { x with holdUntil := none, debt := 0 })

theorem debtHoldEndOp_none {j : Nat} (h : (jobOf m j).holdUntil = none) : debtHoldEndOp j m = m := by
  simp only [debtHoldEndOp, h]

theorem debtHoldEndOp_some {j t : Nat} (h : (jobOf m j).holdUntil = some t) : debtHoldEndOp j m = byTime t (holdEnded j) m := by
  simp only [debtHoldEndOp, h]; rfl

/-! ### Rotation (R414) -/

/-- The running members of a group have a turn where they have a slice, and none where they have not. -/
def turnsBegun (g : Nat) (m : Mach) : Mach :=
  forAll ((List.range 16).filter fun j => running m j && jobGroup m j == g) (fun m j =>
    if jobSlice m j = 0 then modJob m j fun x => { x with turnEnd := none }
    else if (jobOf m j).turnEnd.isNone then startTurn j m else m) m

/-- Has the turn of a running member of the group ended? -/
def turnOver (m : Mach) (g j : Nat) : Bool :=
  let due := match (jobOf m j).turnEnd with | some t => decide (t ≤ m.tick.tickNo) | none => false
  running m j && jobGroup m j == g && due

/-- A member hands over to the next one, or begins a new turn. -/
def handsOver (g : Nat) (m : Mach) (j : Nat) : Mach :=
  match nextMember m g j with
  | some k => switchJobs [j] [k] m
  | none => startTurn j m

theorem rotationOp_zero : rotationOp 0 m = m := if_pos rfl

theorem rotationOp_group {g : Nat} (h : g ≠ 0) : rotationOp g m =
    forAll (List.range 16) (fun m j => if turnOver m g j then handsOver g m j else m) (turnsBegun g m) := by
  have hmember : (fun (m : Mach) j => if turnOver m g j then handsOver g m j else m) =
      fun m j => if !turnOver m g j then m else handsOver g m j := by
    funext m j
    cases turnOver m g j <;> rfl
  rw [hmember]
  exact if_neg h

/-! ### Decode positions (R416) -/

section
variable {j p u st : Nat} {r : Rollout} {x : RollUser} (hroll : rollOf m j p = some r) (huser : userOf m j p u = some x)
include hroll huser

theorem decodePositionOp_user : decodePositionOp j p u st m =
    if stepDue m r x u st then byTime (positionStart m r u st) (tryStep j p u st) m else m := by
  simp only [decodePositionOp, hroll, huser]

/-- What WAVE_MISS does at the step's last start instant. -/
def lastStart (r : Rollout) (j p u st : Nat) (m : Mach) : Mach :=
  let m := tryStep j p u st m
  match userOf m j p u with
  | none => m
  | some y =>
    if stepDue m r y u st then
      raise (modUser j p u (fun y => some { y with late := y.late + 1 }) m) waveMissEv (srcJob j) (some j) [j, p, st, u]
    else m

theorem waveMissOp_user : waveMissOp j p u st m =
    if !stepDue m r x u st || (jobOf m j).suspended then m
    else byTime (positionStart m r u st + r.tau - r.d) (lastStart r j p u st) m := by
  simp only [waveMissOp, hroll, huser]; rfl

theorem decodePositionOp_notDue (h : stepDue m r x u st = false) : decodePositionOp j p u st m = m :=
  (decodePositionOp_user hroll huser).trans (if_neg (ne_true_of_eq_false h))

theorem decodePositionOp_due (h : stepDue m r x u st = true)
    (ht : positionStart m r u st ≤ (atTime m (positionStart m r u st)).now) :
    decodePositionOp j p u st m = tryStep j p u st (atTime m (positionStart m r u st)) :=
  ((decodePositionOp_user hroll huser).trans (if_pos h)).trans (byTime_reached ht _)

theorem waveMissOp_ignored (h : stepDue m r x u st = false ∨ (jobOf m j).suspended = true) : waveMissOp j p u st m = m := by
  refine (waveMissOp_user hroll huser).trans (if_pos ?_)
  obtain h | h := h
  · rw [h]; rfl
  · rw [h, Bool.or_true]

theorem waveMissOp_due (h : stepDue m r x u st = true) (hruns : (jobOf m j).suspended = false)
    (ht : positionStart m r u st + r.tau - r.d ≤ (atTime m (positionStart m r u st + r.tau - r.d)).now) :
    waveMissOp j p u st m = lastStart r j p u st (atTime m (positionStart m r u st + r.tau - r.d)) := by
  rw [waveMissOp_user hroll huser, h, hruns]
  exact (if_neg Bool.false_ne_true).trans (byTime_reached ht _)

end

section
variable {r : Rollout} {j p u st : Nat} {y : RollUser}

theorem lastStart_missed (h : userOf (tryStep j p u st m) j p u = some y) (hdue : stepDue (tryStep j p u st m) r y u st = true) :
    lastStart r j p u st m = raise (modUser j p u (fun y => some { y with late := y.late + 1 }) (tryStep j p u st m)) waveMissEv
      (srcJob j) (some j) [j, p, st, u] := by
  simp only [lastStart, h, hdue, if_true]

theorem lastStart_started (h : userOf (tryStep j p u st m) j p u = some y)
    (hdue : stepDue (tryStep j p u st m) r y u st = false) : lastStart r j p u st m = tryStep j p u st m := by
  simp only [lastStart, h, hdue, if_neg Bool.false_ne_true]

theorem lastStart_gone (h : userOf (tryStep j p u st m) j p u = none) : lastStart r j p u st m = tryStep j p u st m := by
  simp only [lastStart, h]

end

/-! ### Sampled tokens (R419, R420) -/

/-- The token word of a user slot. -/
abbrev tokenWord (m : Mach) (e : MapSc) (r : Rollout) (u : Nat) : List Byte × Bool × Mach :=
  readChecked m e.facet 0 (r.tokenOfs + 8 * u) 8

/-- The token word is marked read, and its token counts and joins the output group, which is written at its sixteenth. -/
def tokenTaken (j p u : Nat) (e : MapSc) (r : Rollout) (x : RollUser) (m : Mach) : Mach :=
  let v := leNat (tokenWord m e r u).1
  let m1 := modUser j p u (fun y => some { y with
    tokens := y.tokens + 1, buf := y.buf ++ [BitVec.ofNat 32 (v % 2 ^ 32)], begun := [] })
    (writeChecked (tokenWord m e r u).2.2 e.facet 0 (r.tokenOfs + 8 * u) (leBytes 8 (v % 2 ^ 63)))
  if x.buf.length = 15 then flushTokens j p u m1 else m1

/-- The sequence ends with its last decode step. -/
def sequenceEnded (j p u why : Nat) (e : MapSc) (w : WorkUnit) (m : Mach) : Mach :=
  poke e.facet e.sc (endUnitOn [] e.facet e.sc j e w (endSequence j p u why m))

/-- Why a sequence ends with the token just sampled: the target length (1) or the stop token (2). -/
def endReason (m : Mach) (e : MapSc) (r : Rollout) (x : RollUser) (u : Nat) : Option Nat :=
  if x.tokens + 1 = x.targetLen / 4 then some 1
  else if r.stopEn && leNat (tokenWord m e r u).1 % 2 ^ 32 == r.stop.toNat then some 2 else none

/-- What a completed decode step of the last stage does. -/
def stepSampled (j p u : Nat) (e : MapSc) (r : Rollout) (x : RollUser) (w : WorkUnit) (m : Mach) : Mach :=
  if !tb (leNat (tokenWord m e r u).1) 63 then
    sequenceEnded j p u 4 e w (abandonMb j p [x.mb.mbId] (tokenWord m e r u).2.2)
  else
    match endReason m e r x u with
    | some why => sequenceEnded j p u why e w (lastUnit j p x.mb.vtag x.mb.mbId (tokenTaken j p u e r x m))
    | none => poke e.facet e.sc (endUnit e.facet e.sc j e w (tokenTaken j p u e r x m))

theorem decodeStepOp_completed {j p u : Nat} {r : Rollout} {x : RollUser} {e : MapSc} {run : SlotRun} {w : WorkUnit}
    (hroll : rollOf m j p = some r) (huser : userOf m j p u = some x)
    (hentry : stageEntry m j p (pipeStages m j p - 1) = some e) (hrun : (scOf m e.facet e.sc).run = some run)
    (hunit : run.units[run.unitIdx]? = some w) (hdir : w.dir = 3) (hid : w.mb.mbId = x.mb.mbId)
    (hdone : unitDone m (scOf m e.facet e.sc) run = true) : decodeStepOp j p u m = stepSampled j p u e r x w m := by
  have hits : (w.dir == 3 && w.mb.mbId == x.mb.mbId && unitDone m (scOf m e.facet e.sc) run) = true := by
    rw [hdir, hid, hdone, beq_self_eq_true, beq_self_eq_true]; rfl
  simp only [decodeStepOp, hroll, huser, hentry, hrun, hunit, hits]
  rfl

section
variable {j p u : Nat} {e : MapSc} {r : Rollout} {x : RollUser} {w : WorkUnit}

theorem stepSampled_invalid (h : (leNat (tokenWord m e r u).1).testBit 63 = false) : stepSampled j p u e r x w m =
    sequenceEnded j p u 4 e w (abandonMb j p [x.mb.mbId] (tokenWord m e r u).2.2) :=
  if_pos (by rw [tb, h]; rfl)

variable (h : (leNat (tokenWord m e r u).1).testBit 63 = true)
include h

theorem stepSampled_ends {why : Nat} (hwhy : endReason m e r x u = some why) : stepSampled j p u e r x w m =
    sequenceEnded j p u why e w (lastUnit j p x.mb.vtag x.mb.mbId (tokenTaken j p u e r x m)) := by
  simp only [stepSampled, tb, h, hwhy]; rfl

theorem stepSampled_goesOn (hwhy : endReason m e r x u = none) :
    stepSampled j p u e r x w m = poke e.facet e.sc (endUnit e.facet e.sc j e w (tokenTaken j p u e r x m)) := by
  simp only [stepSampled, tb, h, hwhy]; rfl

end
end

/-! ### The commands -/

section
variable {s : State} (hs : Ready s)
include hs

theorem exec_spillFillDone {f : Nat} (hf : f < 96) : exec (.spillFillDone f) s = .next ⟨spillFillDoneOp f s.m, s.pending⟩ :=
  row_runs hs (decide_eq_true hf) rfl

theorem exec_debtHoldEnd {j : Nat} (hj : j < 16) : exec (.debtHoldEnd j) s = .next ⟨debtHoldEndOp j s.m, s.pending⟩ :=
  row_runs hs (decide_eq_true hj) rfl

theorem exec_rotationHandover {g : Nat} (hg : g < 16) : exec (.rotationHandover g) s = .next ⟨rotationOp g s.m, s.pending⟩ :=
  row_runs hs (decide_eq_true hg) rfl

variable {j p u : Nat} (hj : j < 16) (hp : p < 4) (hu : u < 255)
include hj hp hu

theorem exec_decodePosition (st : Nat) : exec (.decodePosition j p u st) s = .next ⟨decodePositionOp j p u st s.m, s.pending⟩ :=
  row_runs hs (decide_eq_true ⟨hj, hp, hu⟩) rfl

theorem exec_waveMiss (st : Nat) : exec (.waveMiss j p u st) s = .next ⟨waveMissOp j p u st s.m, s.pending⟩ :=
  row_runs hs (decide_eq_true ⟨hj, hp, hu⟩) rfl

theorem exec_decodeStepComplete :
    exec (.decodeStepComplete j p u) s = .next ⟨sendReport false (decodeStepOp j p u s.m), s.pending⟩ :=
  reporting_runs hs (decide_eq_true ⟨hj, hp, hu⟩) rfl

end

/-- Settles O56: each command runs its function, whose branch the hypotheses decide. -/
theorem switchesRotateAndRolloutSteps : Obligations.SwitchesRotateAndRolloutSteps := by
  intro s hs
  refine ⟨fun f hf h => ?_, fun f o i t hf h => ⟨fun hbusy => ?_, fun hidle => ?_⟩, fun j hj h => ?_, fun j t hj h ht => ?_, ?_,
    fun g hg h0 => ?_, fun j p u st r x hj hp hu hroll huser => ⟨fun h => ?_, fun h => ?_, fun h => ⟨fun ht => ?_, fun hruns ht =>
      ⟨fun y hy hdue => ?_, fun y hy hdue => ?_, fun hgone => ?_⟩⟩⟩,
    fun j p u r x e run w hj hp hu hroll huser hentry hrun hunit hdir hid hdone => ?_⟩
  · rw [exec_spillFillDone hs hf, spillFillDoneOp_none h]
  · rw [exec_spillFillDone hs hf, spillFillDoneOp_inFlight h hbusy]
  · rw [exec_spillFillDone hs hf, spillFillDoneOp_ends h hidle]; rfl
  · rw [exec_debtHoldEnd hs hj, debtHoldEndOp_none h]
  · rw [exec_debtHoldEnd hs hj, debtHoldEndOp_some h, byTime_reached ht]; rfl
  · rw [exec_rotationHandover hs (by decide), rotationOp_zero]
  · rw [exec_rotationHandover hs hg, rotationOp_group h0]; rfl
  · rw [exec_decodePosition hs hj hp hu, decodePositionOp_notDue hroll huser h]
  · rw [exec_waveMiss hs hj hp hu, waveMissOp_ignored hroll huser h]
  · rw [exec_decodePosition hs hj hp hu, decodePositionOp_due hroll huser h ht]
  · rw [exec_waveMiss hs hj hp hu, waveMissOp_due hroll huser h hruns ht, lastStart_missed hy hdue]
  · rw [exec_waveMiss hs hj hp hu, waveMissOp_due hroll huser h hruns ht, lastStart_started hy hdue]
  · rw [exec_waveMiss hs hj hp hu, waveMissOp_due hroll huser h hruns ht, lastStart_gone hgone]
  · have hstep : exec (.decodeStepComplete j p u) s = .next ⟨sendReport false (stepSampled j p u e r x w s.m), s.pending⟩ := by
      rw [exec_decodeStepComplete hs hj hp hu, decodeStepOp_completed hroll huser hentry hrun hunit hdir hid hdone]
    refine ⟨fun h => ?_, fun h hlen => ?_, fun h hlen hstop => ?_, fun h hlen hstop => ?_⟩
    · rw [hstep, stepSampled_invalid h]; rfl
    · rw [hstep, stepSampled_ends h (if_pos hlen)]; rfl
    · rw [hstep, stepSampled_ends h ((if_neg hlen).trans (if_pos hstop))]; rfl
    · rw [hstep, stepSampled_goesOn h ((if_neg hlen).trans (if_neg (ne_true_of_eq_false hstop)))]; rfl

end Sys2Proof.Machine
end

section
/-!
CERTIFICATE. Job contexts at their edges: JOB_ADMIT, JOB_RELEASE, SWITCH_IN, YIELD and ROLLOUT_CFG (R402–R405, R409–R415).
-/
namespace Sys2Proof.Machine
-- As in the tests: theorems elaborated side by side would take a thread each.
set_option Elab.async false

/-! ### JOB_ADMIT (R402, R403) -/

section
variable {d : DescIn} {m : Mach}

/-- The claims of an admission's image. -/
abbrev claimsOf (d : DescIn) : List Claim := readClaims ((imageBytes d).getD [])

/-- Would the admission leave a job that can be switched out with a live region that it cannot spill? -/
def unspillable (d : DescIn) (m : Mach) : Bool :=
  (jobPreempt m (dJob m d) || jobGroup m (dJob m d) != 0) && (claimsOf d).any fun c => c.liveSize != 0 && !c.spillEn

/-- The admitted jobs whose claims meet those of the admission. -/
def jobsMet (d : DescIn) (m : Mach) : List Nat :=
  (List.range 16).filter fun k => k != dJob m d && (jobOf m k).admitted && claimsMeet (claimsOf d) (jobOf m k).claims

/-- The context admitted with its claims and its written key, which is used up. -/
def contextAdmitted (d : DescIn) (m : Mach) : Mach :=
  let j := dJob m d
  let key := writtenKey m j
  let m1 := modJob m j fun x => { x with
    admitted := true, suspended := (jobsMet d m).any (running m), claims := claimsOf d, key := key, srKey := key, debt := 0
    suspTicks := 0 }
  regSet (regSet m1 (offJob j + 0x20) 0) (offJob j + 0x28) 0

theorem effJobAdmit_inUse (h : (jobOf m (dJob m d)).admitted = true ∨ (jobOf m (dJob m d)).releasing = true) :
    effJobAdmit d m = (some (0x78, 0), m) :=
  if_pos (Bool.or_eq_true_iff.2 h)

section
variable (hadm : (jobOf m (dJob m d)).admitted = false) (hrel : (jobOf m (dJob m d)).releasing = false)
include hadm hrel

theorem effJobAdmit_claimFault {i : Nat} (h : claimFault m (jaLen d) ((imageBytes d).getD []) = some i) :
    effJobAdmit d m = (some (0x79, i), m) := by
  simp only [effJobAdmit, hadm, hrel, h]; rfl

variable (hclaims : claimFault m (jaLen d) ((imageBytes d).getD []) = none)
include hclaims

theorem effJobAdmit_sound : effJobAdmit d m =
    if unspillable d m then (some (0x7A, 0), m)
    else match (jobsMet d m).find? fun k => !mayOverlap m (dJob m d) k with
      | some k => (some (0x7B, k), m)
      | none => (some (0, 0), if (jobsMet d m).any (running m) then contextAdmitted d m
          else startTurn (dJob m d) (contextAdmitted d m)) := by
  simp only [effJobAdmit, hadm, hrel, hclaims]; rfl

theorem effJobAdmit_unspillable (h : unspillable d m = true) : effJobAdmit d m = (some (0x7A, 0), m) :=
  (effJobAdmit_sound hadm hrel hclaims).trans (if_pos h)

variable (hspill : unspillable d m = false)
include hspill

theorem effJobAdmit_overlap {k : Nat} (h : ((jobsMet d m).find? fun k => !mayOverlap m (dJob m d) k) = some k) :
    effJobAdmit d m = (some (0x7B, k), m) := by
  rw [effJobAdmit_sound hadm hrel hclaims, hspill, h]; rfl

theorem effJobAdmit_admits (h : ∀ k ∈ jobsMet d m, mayOverlap m (dJob m d) k = true) : effJobAdmit d m =
    (some (0, 0), if (jobsMet d m).any (running m) then contextAdmitted d m
      else startTurn (dJob m d) (contextAdmitted d m)) := by
  have hnone : ((jobsMet d m).find? fun k => !mayOverlap m (dJob m d) k) = none :=
    List.find?_eq_none.2 fun k hk => by rw [h k hk]; decide
  rw [effJobAdmit_sound hadm hrel hclaims, hspill, hnone]; rfl

end
end

/-! ### What a release leaves of the context table

Every part of a release leaves the table of job contexts its length. -/

/-- How many job contexts the module has. -/
abbrev contextCount (m : Mach) : Nat := m.jobs.length

theorem contextCount_modJob (m : Mach) (j : Nat) (g : Job → Job) : contextCount (modJob m j g) = contextCount m :=
  List.length_modify ..

theorem contextCount_raise (m : Mach) (code src : Nat) (job : Option Nat) (d : List Nat) :
    contextCount (raise m code src job d) = contextCount m := by
  have hframe := congrArg contextCount (raise_frame m code src job d)
  exact hframe

theorem contextCount_completeAt (m : Mach) (quiet : Bool) (c : CplRec) : contextCount (completeAt m quiet c) = contextCount m := by
  have hhost := congrArg contextCount (hostOnly_completeAt m quiet c)
  exact hhost

theorem contextCount_dropPend (m : Mach) (d : DescIn) : contextCount (dropPend m d) = contextCount m := by
  unfold dropPend
  dsimp only
  split
  · exact contextCount_modJob ..
  · rfl

theorem contextCount_cancelDesc (m : Mach) (d : DescIn) : contextCount (cancelDesc m d) = contextCount m :=
  (contextCount_dropPend ..).trans (contextCount_completeAt ..)

theorem contextCount_sendTx (l vc key flits : Nat) (head : BitVec 2048) (o : Option Output) (m : Mach) :
    contextCount (sendTx l vc key flits head o m) = contextCount m := by
  have hframe := congrArg contextCount (pumpLink_frame l (modLink m l fun x => { x with
    txQ := x.txQ ++ [⟨vc, key, flits, false, head, o⟩], shares := joinShare vc key x.shares }))
  exact hframe

theorem contextCount_sendMsg (m : Mach) (dst : Nat) (c : Instr) : contextCount (sendMsg m dst c) = contextCount m := by
  unfold sendMsg
  split
  · exact foldl_keeps contextCount (fun _ _ => contextCount_sendTx ..) _ m
  · rfl

theorem contextCount_resumeDeferred (j : Nat) (m : Mach) : contextCount (resumeDeferred j m) = contextCount m := by
  unfold resumeDeferred
  split
  · exact (forAll_keeps contextCount (fun m d => contextCount_sendMsg m d _) _ _).trans (contextCount_modJob ..)
  · rfl

theorem contextCount_finishEntries (gen : Nat) (l : List SnapUse) (m : Mach) :
    contextCount (finishEntries gen l m) = contextCount m :=
  forAll_keeps contextCount (g := fun m (e : SnapUse) => emit m (.snapEntryWrite (portOf m 34) e.place e.used gen true e.failed))
    (fun _ _ => rfl) l m

theorem contextCount_abortCut (j cause : Nat) (m : Mach) : contextCount (abortCut j cause m) = contextCount m := by
  unfold abortCut
  dsimp only
  split
  · rfl
  · rw [contextCount_resumeDeferred]
    split
    · rw [contextCount_raise, modSnap, contextCount_modJob]
      split
      · rfl
      · exact contextCount_finishEntries ..
    · rw [modSnap, contextCount_modJob]
      split
      · rfl
      · exact contextCount_finishEntries ..

theorem contextCount_releaseGen (j : Nat) (m : Mach) (g : Gen) : contextCount (releaseGen j m g) = contextCount m := by
  unfold releaseGen
  split
  · exact contextCount_raise ..
  · exact forAll_keeps contextCount (fun _ _ => contextCount_raise ..) _ m

theorem contextCount_disarm (j : Nat) (m : Mach) : contextCount (disarm j m) = contextCount m :=
  calc contextCount (disarm j m)
    _ = contextCount (forAll (snapOf (abortCut j 3 m) j).gens (releaseGen j) (abortCut j 3 m)) := contextCount_modJob ..
    _ = contextCount (abortCut j 3 m) := forAll_keeps contextCount (contextCount_releaseGen j) _ _
    _ = contextCount m := contextCount_abortCut ..

/-! ### Freed locus entries -/

section
variable {β : Type} {P : Mach → β} (hP : ∀ (m : Mach) (l : List Facet), P { m with facets := l } = P m)
include hP

theorem freeEntry_keeps (f c i : Nat) (m : Mach) : P (freeEntry f c i m) = P m := by
  have hlocus (m : Mach) (c : Nat) (g : Locus → Locus) : P (modLocus m f c g) = P m := hP m _
  unfold freeEntry
  split
  · rfl
  · dsimp only
    split
    · rw [hlocus, hlocus]
    · exact hlocus ..

/-- Freeing the entries of a job changes the facets alone. -/
theorem freeEntries_keeps (j : Nat) (m : Mach) : P (freeEntries j m) = P m :=
  forAll_keeps P (fun m f => forAll_keeps P (fun m c => forAll_keeps P (fun m i => by
    split
    · split
      · exact freeEntry_keeps hP ..
      · rfl
    · rfl) _ m) _ m) _ m

end

/-! ### JOB_RELEASE (R405) -/

/-- Is `y` the release itself, or a JOB_RELEASE of the same edge, which keeps its place? -/
def keepsPlace (d : DescIn) (m : Mach) (y : DescIn) : Bool :=
  (y.ring == d.ring && y.index == d.index) || (dOpcode y == 0x49 && decide (dEdge y ≤ m.tick.sweepNo))

/-- The open descriptors and the waiting admissions of the job are cancelled. -/
def descsCancelled (d : DescIn) (m : Mach) : Mach :=
  let j := dJob m d
  forAll ((List.range 4).flatMap fun p => (pipeOf m j p).queue) (fun m a => completeAdmit j a 0x0D 0 m)
    (forAll ((openDescs m j).filter fun y => !keepsPlace d m y) cancelDesc m)

/-- The fold channels of the job are closed. -/
def channelsClosed (j : Nat) (m : Mach) : Mach :=
  forAll (List.range 32) (fun m n =>
    if (chanOf m n).en && (chanOf m n).job == j then modChan m n fun c => { Channel.init with widened := c.widened } else m) m

/-- The programs of the job leave the store. -/
def progsDropped (j : Nat) (m : Mach) : Mach := { m with progs := m.progs.filter fun p => p.job != j }

/-- What the job held on this module is given back. -/
def holdingsFreed (d : DescIn) (m : Mach) : Mach :=
  let j := dJob m d
  freeEntries j (progsDropped j (disarm j (channelsClosed j (descsCancelled d m))))

/-- The context while it is releasing, from the present tick on. -/
def contextReleasing (j : Nat) (m : Mach) : Mach :=
  modJob m j fun x => { x with
    releasing := true, releaseTick := m.tick.tickNo, turnEnd := none, holdUntil := none
    pipes := x.pipes.map fun p => { p with queue := [] } }

section
variable {d : DescIn} {m : Mach}

theorem effRelease_refused (h : (jobOf m (dJob m d)).admitted = false ∨ (jobOf m (dJob m d)).releasing = true) :
    effRelease d m = (some (0x7C, 0), m) := by
  refine if_pos ?_
  obtain h | h := h
  · rw [h]; rfl
  · rw [h, Bool.or_true]

theorem effRelease_releases (hadm : (jobOf m (dJob m d)).admitted = true) (hrel : (jobOf m (dJob m d)).releasing = false) :
    effRelease d m = (some (0, 0), contextReleasing (dJob m d) (holdingsFreed d m)) := by
  simp only [effRelease, hadm, hrel, contextReleasing, holdingsFreed, progsDropped, channelsClosed, descsCancelled, keepsPlace,
    Bool.not_true, Bool.or_self, Bool.false_eq_true, if_false]

theorem contextCount_descsCancelled : contextCount (descsCancelled d m) = contextCount m :=
  (forAll_keeps contextCount (fun _ _ => contextCount_completeAt ..) _ _).trans
    (forAll_keeps contextCount contextCount_cancelDesc _ m)

theorem contextCount_channelsClosed (j : Nat) : contextCount (channelsClosed j m) = contextCount m :=
  forAll_keeps contextCount (fun _ _ => by split <;> rfl) _ m

theorem contextCount_progsDropped (j : Nat) (m : Mach) : contextCount (progsDropped j m) = contextCount m := rfl

theorem progsDropped_progs (j : Nat) (m : Mach) : (progsDropped j m).progs = m.progs.filter fun p => p.job != j := rfl

theorem contextCount_holdingsFreed : contextCount (holdingsFreed d m) = contextCount m :=
  let x := channelsClosed (dJob m d) (descsCancelled d m)
  calc contextCount (holdingsFreed d m)
    _ = contextCount (progsDropped (dJob m d) (disarm (dJob m d) x)) :=
      freeEntries_keeps (P := contextCount) (fun _ _ => rfl) ..
    _ = contextCount (disarm (dJob m d) x) := contextCount_progsDropped ..
    _ = contextCount x := contextCount_disarm ..
    _ = contextCount (descsCancelled d m) := contextCount_channelsClosed _
    _ = contextCount m := contextCount_descsCancelled

/-- No program of a released job stays in the store. -/
theorem holdingsFreed_progs : ∀ p ∈ (contextReleasing (dJob m d) (holdingsFreed d m)).progs, p.job ≠ dJob m d := by
  intro p hp
  rw [contextReleasing, modJob_progs, holdingsFreed, freeEntries_keeps (P := Mach.progs) fun _ _ => rfl,
    progsDropped_progs] at hp
  exact bne_iff_ne.1 (List.mem_filter.1 hp).2

theorem jobOf_contextReleasing {j : Nat} (h : j < m.jobs.length) : jobOf (contextReleasing j m) j = { jobOf m j with
    releasing := true, releaseTick := m.tick.tickNo, turnEnd := none, holdUntil := none
    pipes := (jobOf m j).pipes.map fun p => { p with queue := [] } } :=
  (getD_modify_same m.jobs j _ Job.init).trans (if_pos h)

/-- A releasing context has no turn, no hold and no admission waiting. -/
theorem contextReleasing_idle {j : Nat} (h : j < m.jobs.length) :
    let x := jobOf (contextReleasing j m) j
    x.releasing = true ∧ x.turnEnd = none ∧ x.holdUntil = none ∧ ∀ p ∈ x.pipes, p.queue = [] := by
  rw [jobOf_contextReleasing h]
  exact ⟨rfl, rfl, rfl, List.forall_mem_map.2 fun _ _ => rfl⟩

end

/-! ### SWITCH_IN and YIELD (R409) -/

section
variable {d : DescIn} {m : Mach}

/-- The running jobs that the job to come in overlaps. -/
def switchVictims (m : Mach) (h : Nat) : List Nat :=
  (List.range 16).filter fun k => k != h && running m k && jobsMeet m k h

theorem effSwitchIn_idle (h : waitsSwitch m (dJob m d) = false) : effSwitchIn d m = (some (0x7C, 0), m) :=
  if_pos (by rw [h]; rfl)

section
variable (h : waitsSwitch m (dJob m d) = true)
include h

theorem effSwitchIn_barred {k : Nat} (hbar : ((switchVictims m (dJob m d)).find? fun k =>
    !preemptible m k || decide (jobPrio m (dJob m d) ≤ jobPrio m k)) = some k) : effSwitchIn d m = (some (0x7D, k), m) := by
  rw [switchVictims] at hbar
  simp only [effSwitchIn, h, hbar]; rfl

theorem effSwitchIn_switches
    (hmay : ∀ k ∈ switchVictims m (dJob m d), preemptible m k = true ∧ jobPrio m k < jobPrio m (dJob m d)) :
    effSwitchIn d m = (some (0, 0), switchJobs (switchVictims m (dJob m d)) [dJob m d]
      (forAll (switchVictims m (dJob m d)) (fun n k => modJob n k fun x => { x with
        missesTurns := x.missesTurns || (jobGroup n k != 0 && jobGroup n k != jobGroup n (dJob m d)) }) m)) := by
  have hnone : ((switchVictims m (dJob m d)).find? fun k =>
      !preemptible m k || decide (jobPrio m (dJob m d) ≤ jobPrio m k)) = none :=
    List.find?_eq_none.2 fun k hk => by
      obtain ⟨hpre, hprio⟩ := hmay k hk
      rw [hpre, decide_eq_false (Nat.not_le.2 hprio)]; decide
  rw [switchVictims] at hnone
  simp only [effSwitchIn, h, hnone]; rfl

end

theorem effYield_runs (h : running m (dJob m d) = true) : effYield d m = (some (0, 0),
    modJob (switchJobs [dJob m d] (comeIn m [dJob m d]) m) (dJob m d) fun x => { x with yielded := true }) :=
  if_neg (by rw [h]; decide)

theorem effYield_idle (h : running m (dJob m d) = false) : effYield d m = (some (0x7C, 0), m) :=
  if_pos (by rw [h]; rfl)

/-! ### ROLLOUT_CFG (R415) -/

/-- Has the pipeline's rollout a user? -/
def rolloutLive (d : DescIn) (m : Mach) : Bool :=
  match (pipeOf m (dJob m d) (rcPipe d)).rollout with | some r => r.slots.any (·.isSome) | none => false

theorem effRollout_fault {c : Nat} (h : rolloutFault m d = some c) : effRollout d m = (some (0x7E, c), m) := by
  simp only [effRollout, h]

section
variable (h : rolloutFault m d = none)
include h

theorem effRollout_sound : effRollout d m =
    if rolloutLive d m then (some (0x7F, 0), m)
    else (some (0, 0), modPipe m (dJob m d) (rcPipe d) fun x => { x with
      rollout := if rcEn d then some (readRollout m d) else none }) := by
  simp only [effRollout, h]; rfl

theorem effRollout_live (hlive : rolloutLive d m = true) : effRollout d m = (some (0x7F, 0), m) :=
  (effRollout_sound h).trans (if_pos hlive)

theorem effRollout_sets (hlive : rolloutLive d m = false) : effRollout d m =
    (some (0, 0), modPipe m (dJob m d) (rcPipe d) fun x => { x with
      rollout := if rcEn d then some (readRollout m d) else none }) :=
  (effRollout_sound h).trans (if_neg (ne_true_of_eq_false hlive))

end
end

/-! ### The obligation -/

section
variable {s : State} {d : DescIn} (hs : Ready s) (hd : d.ring < 32)
include hs hd

/-- A release of a context in use completes OK, and leaves it releasing with nothing of its own. -/
theorem exec_jobRelease_releases (hop : dOpcode d = 0x49) (hst : earlyStatus s.m specRelease d = 0)
    (hadm : (jobOf s.m (dJob s.m d)).admitted = true) (hrel : (jobOf s.m (dJob s.m d)).releasing = false)
    (hj : dJob s.m d < s.m.jobs.length) :
    ∃ m', exec (.jobRelease d) s = .next ⟨finishDesc d false 0 0 m', s.pending⟩ ∧
      (jobOf m' (dJob s.m d)).releasing = true ∧ (jobOf m' (dJob s.m d)).turnEnd = none ∧
      (jobOf m' (dJob s.m d)).holdUntil = none ∧ (∀ p ∈ (jobOf m' (dJob s.m d)).pipes, p.queue = []) ∧
      ∀ p ∈ m'.progs, p.job ≠ dJob s.m d := by
  have hstays : dJob s.m d < (holdingsFreed d s.m).jobs.length := hj.trans_eq contextCount_holdingsFreed.symm
  obtain ⟨hreleasing, hturn, hhold, hqueues⟩ := contextReleasing_idle hstays
  exact ⟨_, exec_descRow_done hs hd rfl hop hst rfl (effRelease_releases hadm hrel), hreleasing, hturn, hhold, hqueues,
    holdingsFreed_progs⟩

end

/-- Settles O28: each descriptor passes its checks, and its effect is the branch that the hypotheses decide. -/
theorem jobDescriptorsActAtTheirEdge : Obligations.JobDescriptorsActAtTheirEdge := by
  intro s d hs hd
  refine ⟨fun hop hst hb => ⟨fun h => ?_, fun i hadm hrel h => ?_, fun hadm hrel hclaims h => ?_, fun k hadm hrel hclaims hspill h => ?_,
      fun hadm hrel hclaims hspill h => ⟨fun hsusp => ?_, fun hsusp => ?_⟩⟩,
    fun hop hst => ⟨fun h => ?_, fun hadm hrel hj => ?_⟩,
    fun hop hst => ⟨fun hin => ⟨fun h => ?_, fun k h hbar => ?_, fun h hmay => ?_⟩, fun hout h => ?_, fun hout h => ?_⟩,
    fun hop hst => ⟨fun c h => ?_, fun h hlive => ?_, fun h hlive hen => ?_, fun h hlive hen => ?_⟩⟩
  · exact exec_descRow_fetched hs hd rfl hop hst hb (effJobAdmit_inUse h)
  · exact exec_descRow_fetched hs hd rfl hop hst hb (effJobAdmit_claimFault hadm hrel h)
  · exact exec_descRow_fetched hs hd rfl hop hst hb (effJobAdmit_unspillable hadm hrel hclaims h)
  · exact exec_descRow_fetched hs hd rfl hop hst hb (effJobAdmit_overlap hadm hrel hclaims hspill h)
  · exact exec_descRow_fetched hs hd rfl hop hst hb
      ((effJobAdmit_admits hadm hrel hclaims hspill h).trans (congrArg (Prod.mk _) (if_pos hsusp)))
  · exact exec_descRow_fetched hs hd rfl hop hst hb
      ((effJobAdmit_admits hadm hrel hclaims hspill h).trans (congrArg (Prod.mk _) (if_neg (ne_true_of_eq_false hsusp))))
  · exact exec_descRow_done hs hd rfl hop hst rfl (effRelease_refused h)
  · exact exec_jobRelease_releases hs hd hop hst hadm hrel hj
  · exact exec_kindRow_done hs hd rfl (beq_iff_eq.2 hin) hop hst rfl (effSwitchIn_idle h)
  · exact exec_kindRow_done hs hd rfl (beq_iff_eq.2 hin) hop hst rfl (effSwitchIn_barred h hbar)
  · exact exec_kindRow_done hs hd rfl (beq_iff_eq.2 hin) hop hst rfl (effSwitchIn_switches h hmay)
  · exact exec_kindRow_done hs hd rfl (beq_iff_eq.2 hout) hop hst rfl (effYield_runs h)
  · exact exec_kindRow_done hs hd rfl (beq_iff_eq.2 hout) hop hst rfl (effYield_idle h)
  · exact exec_descRow_done hs hd rfl hop hst rfl (effRollout_fault h)
  · exact exec_descRow_done hs hd rfl hop hst rfl (effRollout_live h hlive)
  · exact exec_descRow_done hs hd rfl hop hst rfl ((effRollout_sets h hlive).trans (by rw [hen]; rfl))
  · exact exec_descRow_done hs hd rfl hop hst rfl ((effRollout_sets h hlive).trans (by rw [hen]; rfl))

end Sys2Proof.Machine
end
